-- ==== Sys2Proof/Word.lean ====
section
/-!
DEFINITION. The words the hub's interfaces carry and the plainest arithmetic on them: field extraction, joining
and splitting halves, saturating counters and signed reading (00 R7, R9).
-/
namespace Sys2Proof

/-- One 32-bit word of a register, parameter block, packet or record (00, "Byte and bit order"). -/
abbrev Word := BitVec 32

/-- One byte. -/
abbrev Byte := BitVec 8

/-- Field `[hi:lo]` of a word, as a number. -/
def Word.field (w : Word) (hi lo : Nat) : Nat := (w.toNat / 2 ^ lo) % 2 ^ (hi + 1 - lo)

/-- Bit `i` of a word. -/
def Word.bit (w : Word) (i : Nat) : Bool := w.toNat.testBit i

/-- A number as a word (its low 32 bits). -/
def wd (n : Nat) : Word := BitVec.ofNat 32 n

/-- Low half first: the 64-bit number in two words (00 R7). -/
def join64 (lo hi : Word) : Nat := 4294967296 * hi.toNat + lo.toNat

/-- The two words, low half first, of a 64-bit number (00 R7). -/
def split64 (n : Nat) : List Word := [wd n, wd (n / 4294967296)]

/-- A Boolean as one bit. -/
def b01 (b : Bool) : Nat := if b then 1 else 0

/-- The number `n` of a `w`-bit field read as two's complement. -/
def signedField (w n : Nat) : Int :=
  if n % 2 ^ w < 2 ^ (w - 1) then ((n % 2 ^ w : Nat) : Int) else ((n % 2 ^ w : Nat) : Int) - ((2 ^ w : Nat) : Int)

/-- A signed number as the `w`-bit field that holds it. -/
def toField (w : Nat) (z : Int) : Nat := (z % ((2 ^ w : Nat) : Int)).toNat

/-- A saturating increment of an unsigned counter of any width (15 Table 15.17, "The counters saturate"). -/
def satAdd {w : Nat} (c : BitVec w) (n : Nat) : BitVec w :=
  if c.toNat + n < 2 ^ w then BitVec.ofNat w (c.toNat + n) else BitVec.allOnes w

/-- One saturating count. -/
def satInc {w : Nat} (c : BitVec w) : BitVec w := satAdd c 1

/-- Word `i` of a block; words beyond the block read 0. -/
def wordAt (ws : List Word) (i : Nat) : Word := (ws[i]?).getD 0

/-- A 16-bit half pair, high half first. -/
def halves (hi lo : Nat) : Word := wd ((hi % 65536) * 65536 + lo % 65536)

/-- The ceiling of a quotient of naturals. -/
def ceilDiv (a b : Nat) : Nat := (a + b - 1) / b

end Sys2Proof
end

