-- ==== Sys2Proof/Syntax.lean ====
section
/-!
DEFINITION. The commands of the hub: `Instr` has one constructor per row of the table of operations and events.
Rows 1 to 113 are host commands and carry the command packet as Fountainhead holds it (15 R576); the other rows are
register accesses, messages and events, and carry what the hub observes at them (a register's offset and value, a
message's words, a measured reading).
-/
namespace Sys2Proof

/-- A function slot: 0 PF0, 1 to 8 VF1 to VF8, 9 AF (15 "Authentication", 14 Table 14.4). -/
abbrev Fn := Fin 10

/-- A hub ID (01 Table 1.2). -/
abbrev HubId := BitVec 5

/-- The two ring sides of a hub (07). -/
inductive Side where
  | east
  | west
  deriving DecidableEq, Repr

/-- Where Fountainhead takes a packet from (15 "Sources and order"; 18 R719 for the boot script). The last two are no
sources of Fountainhead: a mirrored packet (08 R336) and a packet of a mode change (07 R286) are brought into
force by their own chapters, each at the boundary it names. -/
inductive Source where
  /-- The command queue of a function. -/
  | cq (f : Fn)
  /-- The SPI command buffer. -/
  | spi
  /-- A relayed command: issuing hub, RELAY_ID, and whether it passed step 4 with AUTH = 1 (15 Table 15.4). -/
  | relay (issuer : HubId) (relayId : BitVec 16) (authd : Bool)
  /-- The boot script (18 R719). -/
  | script
  /-- A mirrored packet of the pair peer (08 R336). -/
  | mirror (f : Nat)
  /-- A packet staged for a mode change (07 R286). -/
  | staged (c : Nat)
  deriving DecidableEq, Repr

/-- The encoding a packet arrived in, which its reply follows (15 R607, R608, R612). -/
inductive Encoding where
  | native
  | v1 (op8 tag8 : Byte)
  | escape (tag8 : Byte)
  deriving DecidableEq, Repr

/-- A command packet after its header has been read (15 Table 15.1); the opcode is the row's. -/
structure Packet where
  source : Source
  encoding : Encoding := .native
  tag : BitVec 16 := 0
  func : BitVec 4 := 0
  bcast : Bool := false
  target : HubId := 0
  auth : Bool := false
  fence : Bool := false
  quiet : Bool := false
  seq : Word := 0
  params : List Word := []
  trailer : BitVec 64 := 0
  deriving DecidableEq, Repr

/-- The host commands, by name (15 Table 15.10). -/
inductive Op where
  | devNop
  | devReadInfo
  | devSetKey
  | devSetPolicy
  | devPatchLoad
  | devPatchCommit
  | devReadStats
  | feSetConnections
  | feSetExcitation
  | feSetBiasGuard
  | feSetOvervoltage
  | feRunDiagnostic
  | feReadStatus
  | feReleaseIsolation
  | feReadConnections
  | cvSetChannels
  | cvReadMap
  | cvRetireModulator
  | svSetSequence
  | svStart
  | svReadAccum
  | tmrSet
  | tmrRead
  | flSetBranch
  | flSetFir
  | flSetDetectors
  | flSetComparator
  | flReadChannel
  | flRelease
  | flReadFir
  | calSetPolicy
  | calForeground
  | calReadBasin
  | calReadTrims
  | calWriteTrim
  | calSetRefcheck
  | tbSetSources
  | tbSetTime
  | tbReadStatus
  | tbSetHoldover
  | tbSetMains
  | tbReadMains
  | bcnSet
  | bcnRead
  | ringSetPolicy
  | ringSetHop
  | ringSetIdentity
  | ringReadStatus
  | ringReadHop
  | ringMcStage
  | ringMcPrepare
  | ringMcRead
  | ringAsymMeasure
  | pairSetPolicy
  | pairSetLink
  | pairReadStatus
  | pairHandover
  | pairForceAuthority
  | pairMirrorRead
  | pairMirrorApply
  | capSetConfig
  | capSetTrigger
  | capArm
  | capTrigger
  | capRelease
  | capDelete
  | capReadStatus
  | capSetPins
  | memInit
  | memSetPolicy
  | memReadStatus
  | memReadErrlog
  | memInjectError
  | cmpSetMap
  | cmpReadMap
  | cmpSubmit
  | cmpReadJob
  | cmpCancel
  | cmpReadStatus
  | stSetStream
  | stFlush
  | stDelete
  | stReadStatus
  | lnSetGroup
  | lnSetAux
  | lnReadLane
  | lnTest
  | lnReadTest
  | lnRetrain
  | fnSetView
  | fnReadView
  | fnSetQos
  | fnReadQos
  | fnSetBudget
  | fnReset
  | fnReadFunctions
  | hlReadMonitors
  | hlSetThresholds
  | hlReadLedger
  | hlReadEventLog
  | hlClearEventLog
  | hlSetPeak
  | hlReadPeak
  | hlReadLastWords
  | hlSetCalendar
  | hlReadCalendar
  | hlSetWatchdog
  | hlZeroiseKeys
  | tsRun
  | tsReadResult
  | tsAbort
  | tsSetSchedule
  | tsScanEnable
  deriving DecidableEq, Repr

/-- The opcode of a command (15 Table 15.10). -/
def Op.code : Op → Nat
  | .devNop => 0x0101
  | .devReadInfo => 0x0102
  | .devSetKey => 0x0103
  | .devSetPolicy => 0x0104
  | .devPatchLoad => 0x0105
  | .devPatchCommit => 0x0106
  | .devReadStats => 0x0107
  | .feSetConnections => 0x0201
  | .feSetExcitation => 0x0202
  | .feSetBiasGuard => 0x0203
  | .feSetOvervoltage => 0x0204
  | .feRunDiagnostic => 0x0205
  | .feReadStatus => 0x0206
  | .feReleaseIsolation => 0x0207
  | .feReadConnections => 0x0208
  | .cvSetChannels => 0x0301
  | .cvReadMap => 0x0302
  | .cvRetireModulator => 0x0303
  | .svSetSequence => 0x0304
  | .svStart => 0x0305
  | .svReadAccum => 0x0306
  | .tmrSet => 0x0307
  | .tmrRead => 0x0308
  | .flSetBranch => 0x0401
  | .flSetFir => 0x0402
  | .flSetDetectors => 0x0403
  | .flSetComparator => 0x0404
  | .flReadChannel => 0x0405
  | .flRelease => 0x0406
  | .flReadFir => 0x0407
  | .calSetPolicy => 0x0501
  | .calForeground => 0x0502
  | .calReadBasin => 0x0503
  | .calReadTrims => 0x0504
  | .calWriteTrim => 0x0505
  | .calSetRefcheck => 0x0506
  | .tbSetSources => 0x0601
  | .tbSetTime => 0x0602
  | .tbReadStatus => 0x0603
  | .tbSetHoldover => 0x0604
  | .tbSetMains => 0x0605
  | .tbReadMains => 0x0606
  | .bcnSet => 0x0607
  | .bcnRead => 0x0608
  | .ringSetPolicy => 0x0701
  | .ringSetHop => 0x0702
  | .ringSetIdentity => 0x0703
  | .ringReadStatus => 0x0704
  | .ringReadHop => 0x0705
  | .ringMcStage => 0x0706
  | .ringMcPrepare => 0x0707
  | .ringMcRead => 0x0708
  | .ringAsymMeasure => 0x0709
  | .pairSetPolicy => 0x0801
  | .pairSetLink => 0x0802
  | .pairReadStatus => 0x0803
  | .pairHandover => 0x0804
  | .pairForceAuthority => 0x0805
  | .pairMirrorRead => 0x0806
  | .pairMirrorApply => 0x0807
  | .capSetConfig => 0x0901
  | .capSetTrigger => 0x0902
  | .capArm => 0x0903
  | .capTrigger => 0x0904
  | .capRelease => 0x0905
  | .capDelete => 0x0906
  | .capReadStatus => 0x0907
  | .capSetPins => 0x0908
  | .memInit => 0x0A01
  | .memSetPolicy => 0x0A02
  | .memReadStatus => 0x0A03
  | .memReadErrlog => 0x0A04
  | .memInjectError => 0x0A05
  | .cmpSetMap => 0x0B01
  | .cmpReadMap => 0x0B02
  | .cmpSubmit => 0x0B03
  | .cmpReadJob => 0x0B04
  | .cmpCancel => 0x0B05
  | .cmpReadStatus => 0x0B06
  | .stSetStream => 0x0C01
  | .stFlush => 0x0C02
  | .stDelete => 0x0C03
  | .stReadStatus => 0x0C04
  | .lnSetGroup => 0x0D01
  | .lnSetAux => 0x0D02
  | .lnReadLane => 0x0D03
  | .lnTest => 0x0D04
  | .lnReadTest => 0x0D05
  | .lnRetrain => 0x0D06
  | .fnSetView => 0x0E01
  | .fnReadView => 0x0E02
  | .fnSetQos => 0x0E03
  | .fnReadQos => 0x0E04
  | .fnSetBudget => 0x0E05
  | .fnReset => 0x0E06
  | .fnReadFunctions => 0x0E07
  | .hlReadMonitors => 0x0F01
  | .hlSetThresholds => 0x0F02
  | .hlReadLedger => 0x0F03
  | .hlReadEventLog => 0x0F04
  | .hlClearEventLog => 0x0F05
  | .hlSetPeak => 0x0F06
  | .hlReadPeak => 0x0F07
  | .hlReadLastWords => 0x0F08
  | .hlSetCalendar => 0x0F09
  | .hlReadCalendar => 0x0F0A
  | .hlSetWatchdog => 0x0F0B
  | .hlZeroiseKeys => 0x0F0C
  | .tsRun => 0x1001
  | .tsReadResult => 0x1002
  | .tsAbort => 0x1003
  | .tsSetSchedule => 0x1004
  | .tsScanEnable => 0x1005

/-- Commands 1 to 20 of 15 Table 15.10. -/
def Op.part1 : List Op :=
  [.devNop, .devReadInfo, .devSetKey, .devSetPolicy, .devPatchLoad, .devPatchCommit, .devReadStats,
   .feSetConnections, .feSetExcitation, .feSetBiasGuard, .feSetOvervoltage, .feRunDiagnostic, .feReadStatus,
   .feReleaseIsolation, .feReadConnections, .cvSetChannels, .cvReadMap, .cvRetireModulator, .svSetSequence,
   .svStart]

/-- Commands 21 to 40 of 15 Table 15.10. -/
def Op.part2 : List Op :=
  [.svReadAccum, .tmrSet, .tmrRead, .flSetBranch, .flSetFir, .flSetDetectors, .flSetComparator, .flReadChannel,
   .flRelease, .flReadFir, .calSetPolicy, .calForeground, .calReadBasin, .calReadTrims, .calWriteTrim,
   .calSetRefcheck, .tbSetSources, .tbSetTime, .tbReadStatus, .tbSetHoldover]

/-- Commands 41 to 60 of 15 Table 15.10. -/
def Op.part3 : List Op :=
  [.tbSetMains, .tbReadMains, .bcnSet, .bcnRead, .ringSetPolicy, .ringSetHop, .ringSetIdentity, .ringReadStatus,
   .ringReadHop, .ringMcStage, .ringMcPrepare, .ringMcRead, .ringAsymMeasure, .pairSetPolicy, .pairSetLink,
   .pairReadStatus, .pairHandover, .pairForceAuthority, .pairMirrorRead, .pairMirrorApply]

/-- Commands 61 to 80 of 15 Table 15.10. -/
def Op.part4 : List Op :=
  [.capSetConfig, .capSetTrigger, .capArm, .capTrigger, .capRelease, .capDelete, .capReadStatus, .capSetPins,
   .memInit, .memSetPolicy, .memReadStatus, .memReadErrlog, .memInjectError, .cmpSetMap, .cmpReadMap, .cmpSubmit,
   .cmpReadJob, .cmpCancel, .cmpReadStatus, .stSetStream]

/-- Commands 81 to 100 of 15 Table 15.10. -/
def Op.part5 : List Op :=
  [.stFlush, .stDelete, .stReadStatus, .lnSetGroup, .lnSetAux, .lnReadLane, .lnTest, .lnReadTest, .lnRetrain,
   .fnSetView, .fnReadView, .fnSetQos, .fnReadQos, .fnSetBudget, .fnReset, .fnReadFunctions, .hlReadMonitors,
   .hlSetThresholds, .hlReadLedger, .hlReadEventLog]

/-- Commands 101 to 113 of 15 Table 15.10. -/
def Op.part6 : List Op :=
  [.hlClearEventLog, .hlSetPeak, .hlReadPeak, .hlReadLastWords, .hlSetCalendar, .hlReadCalendar, .hlSetWatchdog,
   .hlZeroiseKeys, .tsRun, .tsReadResult, .tsAbort, .tsSetSchedule, .tsScanEnable]

/-- Every command, in the order of 15 Table 15.10. -/
def Op.all : List Op := Op.part1 ++ Op.part2 ++ Op.part3 ++ Op.part4 ++ Op.part5 ++ Op.part6

/-- The command an opcode names; any opcode not listed is unknown (15 R606). -/
def Op.ofCode (n : Nat) : Option Op := Op.all.find? (fun o => o.code == n)

/-- Commands marked as authenticated in 15 Table 15.10. -/
def Op.authenticated (o : Op) : Bool :=
  o.code ∈ [0x0103, 0x0104, 0x0106, 0x0805, 0x0F0C, 0x1005]

/-- Commands marked as not relayable in 15 Table 15.10. -/
def Op.notRelayable (o : Op) : Bool :=
  o.code ∈ [0x0103, 0x0104, 0x0105, 0x0106, 0x0805, 0x0901, 0x0B03, 0x0B04, 0x0B05, 0x0C01, 0x0C02, 0x0C03, 0x0C04, 0x0E01, 0x0E02, 0x0E03, 0x0E04, 0x0E05, 0x0E06, 0x0E07, 0x0F0C, 0x1005]
/-- What the front end observes over the frame that ends at a boundary (02 R56, R63, R69): sources out of compliance at
any time in it with the delivered current in nA, basins whose BIAS or GUARD driver was in its limit, ports with a
terminal outside the reclose range, and whether calibration or self-test holds TB2 or TB3 (02 R767). -/
structure FrontEndObs where
  outOfCompliance : List (Fin 128 × Word) := []
  biasLimit : List (Fin 32) := []
  guardLimit : List (Fin 32) := []
  outOfRange : List (Fin 128) := []
  busHeld : Bool := false
  deriving DecidableEq, Repr

/-- A reading of a survey converter before clipping: the rounded value (03 R115), or in mode 1 the interval in SCLK
periods with the time of the ending crossing in SCLK periods (03 R122). -/
structure SurveyReading where
  value : Int
  crossing : Nat := 0
  deriving DecidableEq, Repr

/-- The five integrators I1 to I5 of a channel at a tick (04, "CIC arithmetic"). -/
abbrev Cascade := Vector (BitVec 72) 5

/-- What the sample domain holds of a channel over one output window (04 R136): the integrators at the end tick of each
of its sub-windows in order and at the tick before the window, I2 at the end tick of each coarse sub-window that ends in it in order (04, "The coarse
path"), whether an input terminal left its linear range during it (02 R43), and whether the clamp of a modulator that
served the channel was active in it (03 R88). -/
structure WindowObs where
  before : Cascade := Vector.replicate 5 0
  fine : List Cascade := []
  coarse : List (BitVec 72) := []
  leftRange : Bool := false
  clamped : Bool := false
  deriving DecidableEq, Repr

/-- What the engine's accumulators hold of one calibration run (05 R174): the sums of decisions of each chopped pair
(direct, reversed), the sums of each dither chip, and the modulator cycles in which the clamp was active. -/
structure RunObs where
  pairs : List (Int × Int)
  chips : List Int
  clamped : Nat := 0
  deriving DecidableEq, Repr

/-- How a timebase start comes about (06 R203): the four cases in order. An adopted reference gives its tick count. -/
inductive StartCase where
  | refclkLocked
  | rootTimeout
  | adoptRing (tick : Nat)
  | adoptPeer (tick : Nat)
  | followerTimeout
  deriving DecidableEq, Repr

/-- A beacon frame as the receiver delivers it (06 Table 6.8, R229 to R232): its bytes from TYPE to CHECK, the epoch
edge's tick and EDGE_SUB, whether a Manchester violation occurred, whether the front end stayed in its linear range,
and the background photocurrent and notch frequencies found. -/
structure BeaconFrame where
  bytes : List Byte
  edgeTick : Nat
  edgeSub : BitVec 6
  manchester : Bool
  linear : Bool
  bgUa : BitVec 16 := 0
  notch0 : BitVec 10 := 0
  notch1 : BitVec 10 := 0
  deriving DecidableEq, Repr

/-- What the beacon receiver finds in an idle gap (06 R230): the background photocurrent and the notch frequencies. -/
structure BeaconGap where
  bgUa : BitVec 16
  notch0 : BitVec 10
  notch1 : BitVec 10
  deriving DecidableEq, Repr

/-- What the timebase observes over the frame that ends at a boundary (06 R213 to R217): REFCLK's offset from its detected
nominal in 10^-12, measured against XTAL32, if it has edges; for REFCLK and BEACON the phase error in ps, the loop correction
in 10^-12, and the offset at which a newly selected reference is measured, in ps; and what the notches have found, while no
frame was being received. -/
structure TimebaseObs where
  refclk : Option Int := none
  refclk25 : Bool := false
  phaseErr : Int := 0
  freq : Int := 0
  newOffset : Int := 0
  idleGap : Option BeaconGap := none
  deriving DecidableEq, Repr

/-- Content of an ANNOUNCE (07 Table 7.6). `prepared` is the PREPARED generation and its commit tick; `tbState` is the
code of 06 Table 6.3; `transitNs` the transit time so far, from which LATENCY_NS is taken. -/
structure Announce where
  id : HubId
  uid : BitVec 64
  incarnation : BitVec 16
  masterPref : Bool
  eligible : Bool
  rootLed : Bool
  isMaster : Bool := false
  compat : Bool := false
  refused : Bool := false
  tbState : BitVec 4 := 0
  generation : Word := 0
  prepared : Option (Word × Nat) := none
  stable : Word := 0
  hops : Nat := 0
  transitNs : Word := 0
  deriving DecidableEq, Repr

/-- Content of PREPARE (07 Table 7.10). `sets` gives COUNT_h and CRC_h of each hub ID in order. -/
structure Prepare where
  g : Word
  c : Nat
  expect : Word
  sets : List (Nat × Word)
  deriving DecidableEq, Repr

/-- Bits of the DRAM device that have flipped of themselves: the 8-byte word's number and the codeword bits inverted
(10 R402). -/
abbrev SoftErrors := List (Nat × BitVec 72)

/-- What test 3 measures of a modulator at one gain code (17 R677): the chopped mean in nV, the mean at HALF in millionths, and
the cycles in which the clamp engages and releases. -/
structure ModReading where
  offsetNv : Int
  halfPpm : Int
  engage : Nat
  release : Nat
  deriving DecidableEq, Repr

/-- What test 7 measures of a terminal at one polarity (17 R685): ns to the latching of the trip and to the switches' reading open. -/
structure TripReading where
  trip : Nat
  opened : Nat
  deriving DecidableEq, Repr

/-- What a message of a resync image says beside its packet: the generation and the RSEQ of the last record that the image
includes, which count in its last fragment, and the boundary R where it announces one (08 R328). -/
structure ImageNote where
  generation : Word := 0
  rseq : BitVec 16 := 0
  boundary : Option Nat := none
  deriving DecidableEq, Repr

/-- What a home hub asks of an origin (12 R450 to R454, R464; 14 R568). -/
inductive SegmentAction where
  | setup
  | withdraw
  | contract
  | flush
  deriving DecidableEq, Repr

/-- Content of a segment set-up or contract update (12 R450; 15 Table 15.5): the stream it serves, its configuration
number, words 0, 1 and 4 of Table 12.9, the channel ranges of the segment, the boundary F, and for a contract its ring
share, weight and class (14 R568). -/
structure SegmentSetup where
  action : SegmentAction
  fn : BitVec 4
  stream : BitVec 2
  cfgSeq : Byte := 0
  word0 : Word := 0
  word1 : Word := 0
  ranges : List Word := []
  f : Nat := 0
  share : Nat := 0
  weight : Nat := 0
  cls : Nat := 0
  deriving DecidableEq, Repr

/-- A message as a lane receives it (13 Tables 13.5, 13.6): the SOM payload, the words of its data blocks, the EOM
payload, and the number of blocks between that had an invalid sync header. -/
structure WireMessage where
  som : BitVec 56
  words : List Word
  eom : BitVec 56
  badHeaders : Nat := 0
  deriving DecidableEq, Repr

/-- A block of a message on a lane: SOM, a data block with whether its sync header is valid, EOM (13 Tables 13.3, 13.5, 13.6). -/
inductive WireBlock where
  | som (x : BitVec 56)
  | data (w0 w1 : Word) (valid : Bool)
  | eom (x : BitVec 56)
  deriving DecidableEq, Repr

/-- What the lane monitors show of a lane at a frame boundary: amplitude in mV, eye margin in 0.001 UI, and for a lane
under test the checker's lock, bits checked and errors counted so far (13 Tables 13.15, 13.16). -/
structure LaneObs where
  lane : Fin 16
  ampMv : BitVec 16 := 0
  eye : BitVec 16 := 0
  chkLock : Bool := false
  bits : Nat := 0
  errors : Word := 0
  deriving DecidableEq, Repr

/-- A PCIe port of the hub (14). -/
inductive PciePort where
  | host
  | aux
  deriving DecidableEq, Repr

/-- The mask or cause register an access names (14 Tables 14.3, 14.9). -/
inductive IntReg where
  | main
  | afSq0
  | afSq1
  deriving DecidableEq, Repr

/-- What a configuration write leaves in a function: Bus Master Enable and MSI-X Enable (14 R533, R552) and, for PF0, the
NumVFs with which it sets VF Enable, if it does (14 Table 14.1; the table of operations has no row of its own for that). -/
structure BusState where
  bme : Bool
  msixEn : Bool
  numVfs : Option (Fin 9) := none
  deriving DecidableEq, Repr

/-- What the boot SPI NOR device holds (18 Tables 18.6, 18.7): the header's eight words, the patch image and the script;
an absent device reads as all ones. -/
structure NorImage where
  header : List Word
  patch : List Word
  script : List Word
  deriving DecidableEq, Repr

/-- What the hub observes at a frame boundary: the front end, the timebase, the monitors' readings (16 R642: temperature
sensors in 1/64 °C, rails in mV, ring-oscillator counts), the lanes, and for each source of a pair the mean of its terminal's
voltage against BIAS over the frame that ends, in µV (08, "Split excitation and the witness"). -/
structure FrameObs where
  fe : FrontEndObs := {}
  tb : TimebaseObs := {}
  temps : List (BitVec 16) := []
  rails : List (BitVec 16) := []
  ro : List (BitVec 16) := []
  lanes : List LaneObs := []
  lateSet : Bool := false
  witness : List (Fin 128 × Int) := []
  deriving DecidableEq, Repr

/-- The commands of the hub, one per row of the table of operations and events. -/
inductive Instr where
  /-- DEV_NOP (R585). -/
  | devNop (p : Packet)
  /-- DEV_READ_INFO (R621). -/
  | devReadInfo (p : Packet)
  /-- DEV_SET_KEY (R622). -/
  | devSetKey (p : Packet)
  /-- DEV_SET_POLICY (R594). -/
  | devSetPolicy (p : Packet)
  /-- DEV_PATCH_LOAD (R616). -/
  | devPatchLoad (p : Packet)
  /-- DEV_PATCH_COMMIT (R617). -/
  | devPatchCommit (p : Packet)
  /-- DEV_READ_STATS (R621). -/
  | devReadStats (p : Packet)
  /-- FE_SET_CONNECTIONS (R46). -/
  | feSetConnections (p : Packet)
  /-- FE_SET_EXCITATION (R46). -/
  | feSetExcitation (p : Packet)
  /-- FE_SET_BIAS_GUARD (R46). -/
  | feSetBiasGuard (p : Packet)
  /-- FE_SET_OVERVOLTAGE (R70). -/
  | feSetOvervoltage (p : Packet)
  /-- FE_RUN_DIAGNOSTIC (R768). -/
  | feRunDiagnostic (p : Packet)
  /-- FE_READ_STATUS (R85). -/
  | feReadStatus (p : Packet)
  /-- FE_RELEASE_ISOLATION (R71). -/
  | feReleaseIsolation (p : Packet)
  /-- FE_READ_CONNECTIONS (R73). -/
  | feReadConnections (p : Packet)
  /-- CV_SET_CHANNELS (R105). -/
  | cvSetChannels (p : Packet)
  /-- CV_READ_MAP (R94). -/
  | cvReadMap (p : Packet)
  /-- CV_RETIRE_MODULATOR (R98). -/
  | cvRetireModulator (p : Packet)
  /-- SV_SET_SEQUENCE (R121). -/
  | svSetSequence (p : Packet)
  /-- SV_START (R126). -/
  | svStart (p : Packet)
  /-- SV_READ_ACCUM (R119). -/
  | svReadAccum (p : Packet)
  /-- TMR_SET (R109). -/
  | tmrSet (p : Packet)
  /-- TMR_READ (R108). -/
  | tmrRead (p : Packet)
  /-- FL_SET_BRANCH (R141). -/
  | flSetBranch (p : Packet)
  /-- FL_SET_FIR (R154). -/
  | flSetFir (p : Packet)
  /-- FL_SET_DETECTORS (R131). -/
  | flSetDetectors (p : Packet)
  /-- FL_SET_COMPARATOR (R160). -/
  | flSetComparator (p : Packet)
  /-- FL_READ_CHANNEL (R773). -/
  | flReadChannel (p : Packet)
  /-- FL_RELEASE (R130). -/
  | flRelease (p : Packet)
  /-- FL_READ_FIR (R153). -/
  | flReadFir (p : Packet)
  /-- CAL_SET_POLICY (R185). -/
  | calSetPolicy (p : Packet)
  /-- CAL_FOREGROUND (R191). -/
  | calForeground (p : Packet)
  /-- CAL_READ_BASIN (R181). -/
  | calReadBasin (p : Packet)
  /-- CAL_READ_TRIMS (R170). -/
  | calReadTrims (p : Packet)
  /-- CAL_WRITE_TRIM (R171). -/
  | calWriteTrim (p : Packet)
  /-- CAL_SET_REFCHECK (R182). -/
  | calSetRefcheck (p : Packet)
  /-- TB_SET_SOURCES (R214). -/
  | tbSetSources (p : Packet)
  /-- TB_SET_TIME (R244). -/
  | tbSetTime (p : Packet)
  /-- TB_READ_STATUS (R214). -/
  | tbReadStatus (p : Packet)
  /-- TB_SET_HOLDOVER (R225). -/
  | tbSetHoldover (p : Packet)
  /-- TB_SET_MAINS (R242). -/
  | tbSetMains (p : Packet)
  /-- TB_READ_MAINS (R241). -/
  | tbReadMains (p : Packet)
  /-- BCN_SET (R234). -/
  | bcnSet (p : Packet)
  /-- BCN_READ (R238). -/
  | bcnRead (p : Packet)
  /-- RING_SET_POLICY (R277). -/
  | ringSetPolicy (p : Packet)
  /-- RING_SET_HOP (R260). -/
  | ringSetHop (p : Packet)
  /-- RING_SET_IDENTITY (R254). -/
  | ringSetIdentity (p : Packet)
  /-- RING_READ_STATUS (R270). -/
  | ringReadStatus (p : Packet)
  /-- RING_READ_HOP (R260). -/
  | ringReadHop (p : Packet)
  /-- RING_MC_STAGE (R283). -/
  | ringMcStage (p : Packet)
  /-- RING_MC_PREPARE (R284). -/
  | ringMcPrepare (p : Packet)
  /-- RING_MC_READ (R286). -/
  | ringMcRead (p : Packet)
  /-- RING_ASYM_MEASURE (R266). -/
  | ringAsymMeasure (p : Packet)
  /-- PAIR_SET_POLICY (R320). -/
  | pairSetPolicy (p : Packet)
  /-- PAIR_SET_LINK (R267). -/
  | pairSetLink (p : Packet)
  /-- PAIR_READ_STATUS (R296). -/
  | pairReadStatus (p : Packet)
  /-- PAIR_HANDOVER (R325). -/
  | pairHandover (p : Packet)
  /-- PAIR_FORCE_AUTHORITY (R346). -/
  | pairForceAuthority (p : Packet)
  /-- PAIR_MIRROR_READ (R337). -/
  | pairMirrorRead (p : Packet)
  /-- PAIR_MIRROR_APPLY (R337). -/
  | pairMirrorApply (p : Packet)
  /-- CAP_SET_CONFIG (R387). -/
  | capSetConfig (p : Packet)
  /-- CAP_SET_TRIGGER (R365). -/
  | capSetTrigger (p : Packet)
  /-- CAP_ARM (R355). -/
  | capArm (p : Packet)
  /-- CAP_TRIGGER (R368). -/
  | capTrigger (p : Packet)
  /-- CAP_RELEASE (R355). -/
  | capRelease (p : Packet)
  /-- CAP_DELETE (R380). -/
  | capDelete (p : Packet)
  /-- CAP_READ_STATUS (R358). -/
  | capReadStatus (p : Packet)
  /-- CAP_SET_PINS (R390). -/
  | capSetPins (p : Packet)
  /-- MEM_INIT (R396). -/
  | memInit (p : Packet)
  /-- MEM_SET_POLICY (R415). -/
  | memSetPolicy (p : Packet)
  /-- MEM_READ_STATUS (R423). -/
  | memReadStatus (p : Packet)
  /-- MEM_READ_ERRLOG (R420). -/
  | memReadErrlog (p : Packet)
  /-- MEM_INJECT_ERROR (R422). -/
  | memInjectError (p : Packet)
  /-- CMP_SET_MAP (R424). -/
  | cmpSetMap (p : Packet)
  /-- CMP_READ_MAP (R424). -/
  | cmpReadMap (p : Packet)
  /-- CMP_SUBMIT (R443). -/
  | cmpSubmit (p : Packet)
  /-- CMP_READ_JOB (R445). -/
  | cmpReadJob (p : Packet)
  /-- CMP_CANCEL (R442). -/
  | cmpCancel (p : Packet)
  /-- CMP_READ_STATUS (R447). -/
  | cmpReadStatus (p : Packet)
  /-- ST_SET_STREAM (R450). -/
  | stSetStream (p : Packet)
  /-- ST_FLUSH (R464). -/
  | stFlush (p : Packet)
  /-- ST_DELETE (R454). -/
  | stDelete (p : Packet)
  /-- ST_READ_STATUS (R482). -/
  | stReadStatus (p : Packet)
  /-- LN_SET_GROUP (R509). -/
  | lnSetGroup (p : Packet)
  /-- LN_SET_AUX (R485). -/
  | lnSetAux (p : Packet)
  /-- LN_READ_LANE (R511). -/
  | lnReadLane (p : Packet)
  /-- LN_TEST (R526). -/
  | lnTest (p : Packet)
  /-- LN_READ_TEST (R523). -/
  | lnReadTest (p : Packet)
  /-- LN_RETRAIN (R513). -/
  | lnRetrain (p : Packet)
  /-- FN_SET_VIEW (R536). -/
  | fnSetView (p : Packet)
  /-- FN_READ_VIEW (R572). -/
  | fnReadView (p : Packet)
  /-- FN_SET_QOS (R569). -/
  | fnSetQos (p : Packet)
  /-- FN_READ_QOS (R572). -/
  | fnReadQos (p : Packet)
  /-- FN_SET_BUDGET (R569). -/
  | fnSetBudget (p : Packet)
  /-- FN_RESET (R560). -/
  | fnReset (p : Packet)
  /-- FN_READ_FUNCTIONS (R572). -/
  | fnReadFunctions (p : Packet)
  /-- HL_READ_MONITORS (R642). -/
  | hlReadMonitors (p : Packet)
  /-- HL_SET_THRESHOLDS (R644). -/
  | hlSetThresholds (p : Packet)
  /-- HL_READ_LEDGER (R639). -/
  | hlReadLedger (p : Packet)
  /-- HL_READ_EVENT_LOG (R657). -/
  | hlReadEventLog (p : Packet)
  /-- HL_CLEAR_EVENT_LOG (R658). -/
  | hlClearEventLog (p : Packet)
  /-- HL_SET_PEAK (R650). -/
  | hlSetPeak (p : Packet)
  /-- HL_READ_PEAK (R648). -/
  | hlReadPeak (p : Packet)
  /-- HL_READ_LAST_WORDS (R661). -/
  | hlReadLastWords (p : Packet)
  /-- HL_SET_CALENDAR (R665). -/
  | hlSetCalendar (p : Packet)
  /-- HL_READ_CALENDAR (R626). -/
  | hlReadCalendar (p : Packet)
  /-- HL_SET_WATCHDOG (R663). -/
  | hlSetWatchdog (p : Packet)
  /-- HL_ZEROISE_KEYS (R632). -/
  | hlZeroiseKeys (p : Packet)
  /-- TS_RUN (R669). -/
  | tsRun (p : Packet)
  /-- TS_READ_RESULT (R670). -/
  | tsReadResult (p : Packet)
  /-- TS_ABORT (R698). -/
  | tsAbort (p : Packet)
  /-- TS_SET_SCHEDULE (R699). -/
  | tsSetSchedule (p : Packet)
  /-- TS_SCAN_ENABLE (R693). -/
  | tsScanEnable (p : Packet)
  /-- COMMAND_HEADER_ERROR (R586). -/
  | commandHeaderError (source : Source) (words : List Word)
  /-- AUTH_LOCKOUT_END (R595). -/
  | authLockoutEnd (slot : Fn)
  /-- RELAY_CMD (R600). -/
  | relayCmd (words : List Word)
  /-- RELAY_REPLY (R598). -/
  | relayReply (words : List Word)
  /-- RELAY_TIMEOUT (R599). -/
  | relayTimeout (id : BitVec 16)
  /-- REPLY_WRITE (R543). -/
  | replyWrite (source : Source)
  /-- FW_RESTART_DONE (R620). -/
  | fwRestartDone
  /-- COMPAT_MODE_WRITE (R714). -/
  | compatModeWrite (value : Word)
  /-- CHIP_RESET_WRITE (R10). -/
  | chipResetWrite (value : Word)
  /-- REGISTER_WRITE (R9). -/
  | registerWrite (fn : Fn) (offset : BitVec 16) (byteEnable : BitVec 4) (value : Word)
  /-- QUEUE_ENABLE_WRITE (R546). -/
  | queueEnableWrite (fn : Fn) (q : Nat) (value : Word)
  /-- DOORBELL_WRITE (R542). -/
  | doorbellWrite (fn : Fn) (q : Nat) (value : Word)
  /-- INT_CAUSE_WRITE (R549). -/
  | intCauseWrite (fn : Fn) (reg : IntReg) (value : Word)
  /-- INT_MASK_WRITE (R551). -/
  | intMaskWrite (fn : Fn) (reg : IntReg) (value : Word)
  /-- INT_VEC_WRITE (R550). -/
  | intVecWrite (fn : Fn) (n : Fin 4) (value : Word)
  /-- QUEUE_ITEM_WRITE (R541). -/
  | queueItemWrite (fn : Fn) (q : Nat) (transferError : Bool)
  /-- COMMAND_TAKE (R583). -/
  | commandTake (source : Source) (words : List Word) (decideUs : Nat)
  /-- INTERRUPT_MODERATION_END (R554). Causes 0 to 5 are those of queues 1 to 6; 32 + n is SQ n of AF. -/
  | interruptModerationEnd (fn : Fn) (cause : Nat)
  /-- CAPTURE_WINDOW_ACCESS (R555). -/
  | captureWindowAccess (fn : Fn) (write : Bool) (offset : Nat) (len : Nat) (data : List Byte)
  /-- FLR (R560). -/
  | flr (fn : Fn)
  /-- LINK_RESET (R533). -/
  | linkReset (linkDown : Bool)
  /-- AUX_LINK_RESET (R562). -/
  | auxLinkReset (linkDown : Bool)
  /-- LINK_TRAINED (R722). -/
  | linkTrained (port : PciePort) (rate width : Nat)
  /-- VF_ENABLE_CLEARED (R575). -/
  | vfEnableCleared
  /-- POWER_STATE_CHANGE (R533). -/
  | powerStateChange (fn : Fn) (d3hot : Bool)
  /-- BUS_MASTER_ENABLE_CHANGE (R552). -/
  | busMasterEnableChange (fn : Fn) (bus : BusState)
  /-- WRITE_REG (R558). -/
  | writeReg (offset : BitVec 16) (words : List Word)
  /-- READ_REG (R558). -/
  | readReg (offset : BitVec 16) (count : Nat)
  /-- READ_STATUS (R557). -/
  | readStatus
  /-- PUSH_CMD (R558). -/
  | pushCmd (words : List Word) (complete : Bool)
  /-- PULL_REPLY (R557). -/
  | pullReply (whole : Bool)
  /-- PULL_EVENT (R557). -/
  | pullEvent (whole : Bool)
  /-- FRAME_BOUNDARY (R214). -/
  | frameBoundary (obs : FrameObs)
  /-- OV_TRIP (R67). -/
  | ovTrip (port : Fin 128) (mask : BitVec 4) (polarity : Bool)
  /-- RECLOSE_HOLD_EXPIRY (R69). -/
  | recloseHoldExpiry (port : Fin 128)
  /-- DIAGNOSTIC_RUN_END (R83). -/
  | diagnosticRunEnd (overRange : Bool) (value : BitVec 24)
  /-- DIAGNOSTIC_REPEAT_DUE (R83). -/
  | diagnosticRepeatDue (slot : Fin 8)
  /-- CLAMP_FAILURE_DETECT (R98). -/
  | clampFailureDetect (m : Fin 288)
  /-- TIMER_TICK (R108). -/
  | timerTick (t : Fin 8)
  /-- PWM_EDGE (R110). -/
  | pwmEdge (t : Fin 8)
  /-- SURVEY_START_EVENT (R114). -/
  | surveyStartEvent (sv : Fin 4)
  /-- SURVEY_SLOT_END (R117); `outside` says that a terminal input lay outside the linear range during integration (R115). -/
  | surveySlotEnd (sv : Fin 4) (readings : List SurveyReading) (outside : Bool)
  /-- MAINS_TRACKER_LOSS (R241). -/
  | mainsTrackerLoss
  /-- WINDOW_END (R136). -/
  | windowEnd (c : Fin 256) (branch : Fin 2) (obs : WindowObs)
  /-- LC_BOUNDARY_MISSED (R151). -/
  | lcBoundaryMissed (c : Fin 256) (branch : Fin 2)
  /-- CALIBRATION_CYCLE_START (R184). -/
  | calibrationCycleStart (b : Fin 32)
  /-- CALIBRATION_DECISION (R175). -/
  | calibrationDecision (m : Fin 288) (a b : RunObs)
  /-- FOREGROUND_START (R191). -/
  | foregroundStart (b : Fin 32)
  /-- FOREGROUND_END (R194). -/
  | foregroundEnd (b : Fin 32)
  /-- TIMEBASE_START (R203). -/
  | timebaseStart (c : StartCase)
  /-- REFCLK_LOSS (R213). -/
  | refclkLoss
  /-- DRIFT_MODEL_LEARN (R223). -/
  | driftModelLearn (ybar : Int) (tdie : Int)
  /-- LEAP_SECOND (R211). -/
  | leapSecond
  /-- BEACON_TIME_FRAME (R235). -/
  | beaconTimeFrame (f : BeaconFrame)
  /-- BEACON_COMMAND_FRAME (R234). -/
  | beaconCommandFrame (f : BeaconFrame)
  /-- BEACON_SLOT_CLOSE (R236). -/
  | beaconSlotClose
  /-- SYNC_RECEIVE (R258). -/
  | syncReceive (side : Fin 3) (seq : BitVec 4) (stamp departure : Nat)
  /-- FOLLOW_RECEIVE (R257). -/
  | followReceive (side : Fin 3) (seq : BitVec 4) (t1 : Nat)
  /-- DREQ_RECEIVE (R258). -/
  | dreqReceive (side : Fin 3) (seq : BitVec 4) (stamp : Nat)
  /-- DRESP_RECEIVE (R260). -/
  | drespReceive (side : Fin 3) (seq : BitVec 4) (t4 : Nat)
  /-- STATE_RECEIVE (R261). -/
  | stateReceive (side : Fin 3) (index : Fin 8) (data : BitVec 48)
  /-- ANNOUNCE_PERIOD (R273). -/
  | announcePeriod
  /-- ANNOUNCE (R270). -/
  | announce (side : Side) (a : Announce)
  /-- MASTER_LOST (R273). -/
  | masterLost
  /-- FORMING_TIMEOUT (R275). -/
  | formingTimeout
  /-- HANDOVER (R271). -/
  | handover (newMaster : HubId) (h : Nat)
  /-- RING_HANDOVER_BOUNDARY (R271). -/
  | ringHandoverBoundary
  /-- WRAP (R278). -/
  | wrap (reporter : HubId) (side : Side)
  /-- SIDE_STABLE (R281). -/
  | sideStable (side : Side)
  /-- UNWRAP (R281). -/
  | unwrap (reporter : HubId) (side : Side) (u : Nat)
  /-- UNWRAP_BOUNDARY (R281). -/
  | unwrapBoundary (side : Side)
  /-- MISMATCH_RESET (R277). -/
  | mismatchReset
  /-- STAGE (R283). -/
  | stageMsg (g : Word) (words : List Word)
  /-- PREPARE (R285). -/
  | prepare (p : Prepare)
  /-- ACK (R287). -/
  | ack (hub : HubId) (g : Word) (nak : Option (Fin 6))
  /-- MODE_CHANGE_DEADLINE (R287). -/
  | modeChangeDeadline
  /-- COMMIT (R286). -/
  | commit (g : Word) (c : Nat)
  /-- ABORT (R288). -/
  | abort (g : Word)
  /-- COMMIT_TICK (R286): C comes, the handover handshake of the set being complete (R27; a late one is FrameObs's to say). -/
  | commitTick
  /-- EDGE_REPORT (R266). -/
  | edgeReport (side : Side) (srcId : Word) (edgeTime edge64 : Nat)
  /-- TRIG_SHARE (R369). -/
  | trigShare (group : Nat) (tick : Nat) (origin : HubId)
  /-- HEARTBEAT_PERIOD (R304). -/
  | heartbeatPeriod
  /-- HBX_BEAT_RECEIVE (R307). -/
  | hbxBeatReceive (beat : BitVec 48) (manchester : Bool)
  /-- PAIR_HEARTBEAT_RECEIVE (R307). -/
  | pairHeartbeatReceive (beat : BitVec 56) (checked : Bool)
  /-- PATH_ALIVE_EXPIRY (R310). -/
  | pathAliveExpiry (hbx : Bool)
  /-- PEER_FAILURE (R309). -/
  | peerFailure
  /-- WITNESS_FIRE (R312). -/
  | witnessFire (source : Fin 128)
  /-- WITNESS_RETURN (R315). -/
  | witnessReturn (source : Fin 128)
  /-- FOLLOWER_ENGAGEMENT (R319). -/
  | followerEngagement (basin : Fin 32)
  /-- JOIN_TIMEOUT (R321). -/
  | joinTimeout
  /-- PAIR_HANDOVER_BOUNDARY (R321). -/
  | pairHandoverBoundary
  /-- RESYNC_IMAGE (R328): a fragment of the image, the last or not, with the rest of its message. -/
  | resyncImage (packets : List (List Word)) (last : Bool) (note : ImageNote)
  /-- RESYNC_BOUNDARY (R328). -/
  | resyncBoundary
  /-- SPLIT_RESTORE (R317). -/
  | splitRestore
  /-- MIRROR_RECORD (R336). -/
  | mirrorRecord (words : List Word)
  /-- TRAIN_BLOCK_RECEIVE (R504). -/
  | trainBlockReceive (lane : Fin 16) (payload : BitVec 56) (inverted : Bool)
  /-- BRINGUP_TIMEOUT (R504). -/
  | bringupTimeout (lane : Fin 16)
  /-- ELECTRICAL_IDLE_END (R508). -/
  | electricalIdleEnd (lane : Fin 16)
  /-- LANE_LOSS_OF_SIGNAL (R520). -/
  | laneLossOfSignal (lane : Fin 16)
  /-- LANE_LOSS_OF_LOCK (R521). -/
  | laneLossOfLock (lane : Fin 16)
  /-- LOS_CLEAR (R520). -/
  | losClear (lane : Fin 16)
  /-- MESSAGE_RECEIVE (R493). -/
  | messageReceive (lane : Fin 16) (blocks : List WireBlock)
  /-- FLOW (R499). -/
  | flow (lane : Fin 16) (payload : BitVec 56)
  /-- MISSING_LSEQ_TIMEOUT (R498). -/
  | missingLseqTimeout (side : Fin 3) (cls : Fin 4)
  /-- REPLAY_TIMEOUT (R499). -/
  | replayTimeout (side : Fin 3) (cls : Fin 4)
  /-- SILENCE_END (R513). -/
  | silenceEnd (lane : Fin 16)
  /-- LANE_IDLE_TIMEOUT (R517). -/
  | laneIdleTimeout (lane : Fin 16)
  /-- IDLE_ENTRY (R518). -/
  | idleEntry (lane : Fin 16)
  /-- LANE_WAKE (R519). -/
  | laneWake (lane : Fin 16)
  /-- PARTIAL_ENTRY_COMMIT (R461). -/
  | partialEntryCommit (home : HubId) (fn : BitVec 4) (stream : BitVec 2)
  /-- PACKET_STALL_TIMEOUT (R463). -/
  | packetStallTimeout (home : HubId) (fn : BitVec 4) (stream : BitVec 2)
  /-- SEGMENT_SETUP (R451). -/
  | segmentSetup (home : HubId) (setup : SegmentSetup)
  /-- SEGMENT_REPLY (R450). -/
  | segmentReply (origin : HubId) (fn : BitVec 4) (stream : BitVec 2) (status : Nat)
  /-- SEGMENT_ORIGIN_LOST (R455). -/
  | segmentOriginLost (origin : HubId) (cause : Fin 4)
  /-- STREAM_PACKET_DELIVER (R545). -/
  | streamPacketDeliver (fn : Fin 9) (stream : Fin 4)
  /-- TRIGGER_PIN_EDGE (R366). -/
  | triggerPinEdge (n : Fin 4) (rising : Bool) (tick persist : Nat)
  /-- COMMAND_TRIGGER_DUE (R368). -/
  | commandTriggerDue (set : Fin 16)
  /-- RECORD_CLOSE (R361). -/
  | recordClose (set : Fin 16)
  /-- MEM_INIT_COMPLETE (R396). -/
  | memInitComplete (rank2 : Bool) (density : Fin 4)
  /-- MEM_TRAIN_FAIL (R397). -/
  | memTrainFail (step : Fin 7) (ch rank : Fin 2)
  /-- MEM_WRITE_DRAIN (R408). -/
  | memWriteDrain (requester : Fin 6) (soft : SoftErrors)
  /-- MEM_READ_RETURN (R417). -/
  | memReadReturn (requester : Fin 6) (soft : SoftErrors)
  /-- REFRESH_INTERVAL (R412). -/
  | refreshInterval (ch rank : Fin 2) (perBank : Nat)
  /-- MR4_POLL (R411). -/
  | mr4Poll (ch : Fin 2) (code : Fin 8)
  /-- ZQ_CALIBRATION (R399). -/
  | zqCalibration (ch : Fin 2)
  /-- DQS_OSCILLATOR_READ (R399). -/
  | dqsOscillatorRead (ch : Fin 2) (count : Nat)
  /-- REFRESH_WINDOW_RESTART (R415). -/
  | refreshWindowRestart
  /-- CAPTURE_GROUP_FLUSH (R407). -/
  | captureGroupFlush (group : Nat)
  /-- SCRUB_READ (R419). -/
  | scrubRead (soft : SoftErrors)
  /-- JOB_START (R425). -/
  | jobStart (fn : Fin 9)
  /-- TIER_END (R442). -/
  | tierEnd (fn : Fin 9) (faults : List Nat)
  /-- JOB_END (R435). -/
  | jobEnd (fn : Fin 9)
  /-- FAULT_NOTE (R660). -/
  | faultNote (entry : List Word)
  /-- EVENT_COALESCE_INTERVAL (R659). -/
  | eventCoalesceInterval (fn : Fn) (hub : HubId) (code : BitVec 16) (func : BitVec 4) (inst : BitVec 12)
  /-- WATCHDOG_RESTART (R663). -/
  | watchdogRestart
  /-- WATCHDOG_EXPIRY (R663). -/
  | watchdogExpiry
  /-- THERMAL_TRIP (R655). -/
  | thermalTrip (sensor : Fin 12) (reading : BitVec 16)
  /-- THERMAL_RESTART (R655). -/
  | thermalRestart
  /-- SHED_LEVEL_TIMER (R652). -/
  | shedLevelTimer
  /-- PEAK_BUCKET_END (R649). -/
  | peakBucketEnd
  /-- DROOP_DETECT (R645). -/
  | droopDetect
  /-- HL_DROOP_SUSTAINED (R645). -/
  | hlDroopSustained
  /-- CORE_PLL_RETURN (R645). -/
  | corePllReturn
  /-- LEDGER_COMMIT (R639). -/
  | ledgerCommit (remaps : List Nat) (interrupted : Option (Fin 30 × Nat))
  /-- LEDGER_REFRESH (R640). -/
  | ledgerRefresh
  /-- CALENDAR_SECOND (R627). -/
  | calendarSecond (xtalError : Int)
  /-- SRAM_BLOCK_TEST (R672). -/
  | sramBlockTest (memory : Fin 7) (block : Nat) (code : Fin 3) (value : Word)
  /-- DRAM_GROUP_TEST (R674). -/
  | dramGroupTest (code : Fin 3) (value : Word) (soft : SoftErrors)
  /-- MODULATOR_TEST_END (R677). -/
  | modulatorTestEnd (m : Fin 288) (first second : ModReading)
  /-- SOURCE_TEST_STEP (R681). -/
  | sourceTestStep (source : Fin 128) (step : Fin 3) (readingNa : Int)
  /-- REFERENCE_TEST_END (R683). -/
  | referenceTestEnd (mainUv checkUv : Int)
  /-- TEST_BUS_TEST_END (R683). -/
  | testBusTestEnd (resistance leakagePa drivenUv : Vector Int 2)
  /-- ISOLATION_TEST_PORT (R685). -/
  | isolationTestPort (port : Fin 128) (above below : Vector TripReading 4)
  /-- SCHEDULED_TEST_DUE (R699). -/
  | scheduledTestDue (test : Fin 8)
  /-- TAP_INSTRUCTION_UPDATE (R691). -/
  | tapInstructionUpdate (opcode : Byte)
  /-- TAP_TEST_LOGIC_RESET (R692). -/
  | tapTestLogicReset
  /-- PORST_ASSERT (R35). -/
  | porstAssert
  /-- PORST_RELEASE (R708). -/
  | porstRelease
  /-- RAIL_BROWNOUT (R707). -/
  | railBrownout (rail : Fin 12) (breach : Bool)
  /-- RAIL_VALID (R709). -/
  | railValid (rail : Fin 12) (breach : Bool)
  /-- VBAT_LOSS (R701). -/
  | vbatLoss
  /-- INTERNAL_RESET_RELEASE (R708). -/
  | internalResetRelease (straps : Word)
  /-- STARTUP_BIST_END (R689). -/
  | startupBistEnd (code : Fin 3) (unit value : Word)
  /-- BOOT_START (R716). -/
  | bootStart (nor : NorImage)
  /-- BOOT_SCRIPT_END (R719). -/
  | bootScriptEnd
  /-- STANDBY_ENTRY (R724). -/
  | standbyEntry
  /-- STANDBY_WAKE (R726). -/
  | standbyWake
  /-- RATE_SEL_RESUME (R504). -/
  | rateSelResume (lane : Fin 16)
  /-- FAST_EXIT_TIMEOUT (R519). -/
  | fastExitTimeout (lane : Fin 16)
  /-- SEGMENT_HOME_LOST (R455). -/
  | segmentHomeLost (home : HubId) (cause : Fin 4)
  /-- PERST_RELEASE (R722). -/
  | perstRelease (port : PciePort)
  /-- OUTPUT_PULSE_END (R370). -/
  | outputPulseEnd (n : Fin 4)
  /-- DROOP_CLEAR (R645). -/
  | droopClear (runNs : Nat)
  deriving DecidableEq, Repr

end Sys2Proof
end

