-- ==== Sys2Proof/Decode.lean ====
section
/-!
DEFINITION. The command a word of the table of operations and events spells. The table gives no row any bits, so no word
spells a command.
-/
namespace Sys2Proof

/-- The command that `nbits` bits `w` spell by the table: none, since no row of the table has bits. -/
def decodeTableWord (_nbits _w : Nat) : Option Instr := none

end Sys2Proof
end

