-- ==== Sys2Proof/Machine/Crypto.lean ====
section
/-!
DEFINITION. Check values and keyed hashes of the manual: the CRC-16 of packet headers (15 R577), the CRC-8 of HBX beats
(08 Table 8.1), CRC-32C (06 Table 6.8), SHA-256 and HMAC (15 R592, 06 Table 6.9), and words as bytes (00 R7).
-/
namespace Sys2Proof.Machine
open Sys2Proof

/-- The four bytes of a word, little-endian (00 R7). -/
def wordBytes (w : Word) : List Byte :=
  [w.extractLsb' 0 8, w.extractLsb' 8 8, w.extractLsb' 16 8, w.extractLsb' 24 8]

/-- The bytes of a run of words. -/
def bytesOf (ws : List Word) : List Byte := ws.flatMap wordBytes

/-- A little-endian number from bytes (00 R7). -/
def leNat : List Byte → Nat
  | [] => 0
  | b :: bs => b.toNat + 256 * leNat bs

/-- The words of a run of bytes, the last one filled with zeros. -/
def wordsOf : List Byte → List Word
  | [] => []
  | a :: b :: c :: d :: rest => wd (leNat [a, b, c, d]) :: wordsOf rest
  | rest => [wd (leNat rest)]

/-- One bit of a non-reflected CRC of width `w`. -/
def crcStep {w : Nat} (poly : BitVec w) (c : BitVec w) : BitVec w := if c.msb then (c <<< 1) ^^^ poly else c <<< 1

/-- Eight bits of a non-reflected CRC. -/
def crcStep8 {w : Nat} (poly c : BitVec w) : BitVec w :=
  crcStep poly (crcStep poly (crcStep poly (crcStep poly (crcStep poly (crcStep poly (crcStep poly (crcStep poly c)))))))

/-- CRC-16 with polynomial x^16 + x^12 + x^5 + 1, initial value 0xFFFF, no reflection, no final XOR (15 R577). -/
def crc16 (bs : List Byte) : BitVec 16 :=
  bs.foldl (fun c b => crcStep8 0x1021 (c ^^^ (b ++ (0 : BitVec 8)))) 0xFFFF

/-- CRC-8 with polynomial x^8 + x^2 + x + 1, initial value 0, no reflection, no final XOR (08 Table 8.1). -/
def crc8 (bs : List Byte) : BitVec 8 := bs.foldl (fun c b => crcStep8 0x07 (c ^^^ b)) 0

/-- One bit of the reflected CRC-32C. -/
def crc32cStep (c : BitVec 32) : BitVec 32 := if c.getLsbD 0 then (c >>> 1) ^^^ 0x82F63B78 else c >>> 1

/-- The CRC-32C register after some bytes. -/
def crc32cFeed (c : BitVec 32) (bs : List Byte) : BitVec 32 :=
  bs.foldl (fun c b => (List.range 8).foldl (fun c _ => crc32cStep c) (c ^^^ b.zeroExtend 32)) c

/-- CRC-32C (Castagnoli): initial value all ones, reflected, final XOR all ones (06 Table 6.8). -/
def crc32c (bs : List Byte) : Word := ~~~ (crc32cFeed 0xFFFFFFFF bs)

/-- CRC-32C of a run of words (06 Table 6.8). -/
def crc32cWords (ws : List Word) : Word := crc32c (bytesOf ws)

/-- The round constants of SHA-256. -/
def shaK : List Word :=
  [0x428a2f98, 0x71374491, 0xb5c0fbcf, 0xe9b5dba5, 0x3956c25b, 0x59f111f1, 0x923f82a4, 0xab1c5ed5] ++
  [0xd807aa98, 0x12835b01, 0x243185be, 0x550c7dc3, 0x72be5d74, 0x80deb1fe, 0x9bdc06a7, 0xc19bf174] ++
  [0xe49b69c1, 0xefbe4786, 0x0fc19dc6, 0x240ca1cc, 0x2de92c6f, 0x4a7484aa, 0x5cb0a9dc, 0x76f988da] ++
  [0x983e5152, 0xa831c66d, 0xb00327c8, 0xbf597fc7, 0xc6e00bf3, 0xd5a79147, 0x06ca6351, 0x14292967] ++
  [0x27b70a85, 0x2e1b2138, 0x4d2c6dfc, 0x53380d13, 0x650a7354, 0x766a0abb, 0x81c2c92e, 0x92722c85] ++
  [0xa2bfe8a1, 0xa81a664b, 0xc24b8b70, 0xc76c51a3, 0xd192e819, 0xd6990624, 0xf40e3585, 0x106aa070] ++
  [0x19a4c116, 0x1e376c08, 0x2748774c, 0x34b0bcb5, 0x391c0cb3, 0x4ed8aa4a, 0x5b9cca4f, 0x682e6ff3] ++
  [0x748f82ee, 0x78a5636f, 0x84c87814, 0x8cc70208, 0x90befffa, 0xa4506ceb, 0xbef9a3f7, 0xc67178f2]

/-- The eight working words of SHA-256. -/
structure Sha where
  a : Word
  b : Word
  c : Word
  d : Word
  e : Word
  f : Word
  g : Word
  h : Word
  deriving DecidableEq, Repr

/-- The initial hash value of SHA-256. -/
def Sha.init : Sha :=
  ⟨0x6a09e667, 0xbb67ae85, 0x3c6ef372, 0xa54ff53a, 0x510e527f, 0x9b05688c, 0x1f83d9ab, 0x5be0cd19⟩

/-- One round of SHA-256 with schedule word `w` and constant `k`. -/
def Sha.round (s : Sha) (k w : Word) : Sha :=
  let s1 := s.e.rotateRight 6 ^^^ s.e.rotateRight 11 ^^^ s.e.rotateRight 25
  let ch := (s.e &&& s.f) ^^^ (~~~ s.e &&& s.g)
  let t1 := s.h + s1 + ch + k + w
  let s0 := s.a.rotateRight 2 ^^^ s.a.rotateRight 13 ^^^ s.a.rotateRight 22
  let maj := (s.a &&& s.b) ^^^ (s.a &&& s.c) ^^^ (s.b &&& s.c)
  ⟨t1 + s0 + maj, s.a, s.b, s.c, s.d + t1, s.e, s.f, s.g⟩

/-- The schedule of a block of sixteen words, newest word first, extended by `n` words. -/
def shaExtend : Nat → List Word → List Word
  | 0, ws => ws
  | n + 1, ws =>
    let w2 := wordAt ws 1
    let w7 := wordAt ws 6
    let w15 := wordAt ws 14
    let w16 := wordAt ws 15
    let s0 := w15.rotateRight 7 ^^^ w15.rotateRight 18 ^^^ (w15 >>> 3)
    let s1 := w2.rotateRight 17 ^^^ w2.rotateRight 19 ^^^ (w2 >>> 10)
    shaExtend n ((w16 + s0 + w7 + s1) :: ws)

/-- One block of SHA-256. -/
def Sha.block (s : Sha) (ws : List Word) : Sha :=
  let sched := (shaExtend 48 ws.reverse).reverse
  let t := (shaK.zip sched).foldl (fun x kw => x.round kw.1 kw.2) s
  ⟨s.a + t.a, s.b + t.b, s.c + t.c, s.d + t.d, s.e + t.e, s.f + t.f, s.g + t.g, s.h + t.h⟩

/-- A big-endian word of four bytes. -/
def beWord (bs : List Byte) : Word := wd (leNat (bs.take 4).reverse)

/-- The blocks of a padded message, `n` of them. -/
def shaBlocks : Nat → Sha → List Byte → Sha
  | 0, s, _ => s
  | n + 1, s, bs =>
    let blk := bs.take 64
    shaBlocks n (s.block ((List.range 16).map (fun i => beWord (blk.drop (4 * i))))) (bs.drop 64)

/-- The bytes of a word, most significant first. -/
def beBytes (w : Word) : List Byte := (wordBytes w).reverse

/-- SHA-256. -/
def sha256 (m : List Byte) : List Byte :=
  let len := m.length
  let pad := (119 - len % 64) % 64
  let bits := len * 8
  let msg := m ++ [0x80] ++ List.replicate pad 0 ++ beBytes (wd (bits / 4294967296)) ++ beBytes (wd bits)
  let s := shaBlocks (msg.length / 64) Sha.init msg
  [s.a, s.b, s.c, s.d, s.e, s.f, s.g, s.h].flatMap beBytes

/-- HMAC-SHA-256 under a key of 32 bytes (15 R592). -/
def hmac (key m : List Byte) : List Byte :=
  let k := key ++ List.replicate (64 - key.length) 0
  sha256 (k.map (· ^^^ 0x5c) ++ sha256 (k.map (· ^^^ 0x36) ++ m))

/-- The first 8 bytes of an HMAC as the trailer's 64 bits, byte 0 lowest (15 R592). -/
def mac64 (key m : List Byte) : BitVec 64 := BitVec.ofNat 64 (leNat ((hmac key m).take 8))

/-- The bytes of a key slot's key words, byte 0 first (15 "Device commands"). -/
def keyBytes (k : Vector Word 8) : List Byte := bytesOf k.toList

end Sys2Proof.Machine
end

