-- ==== Sys2Proof/Config.lean ====
section
/-!
DEFINITION. What a part fixes for good and the values the manual leaves open. A constant without a body is a free value
or a value of the one part: nothing in Lean can evaluate it, so what is proved holds whatever it is.
-/
namespace Sys2Proof.Config

/-- The part's unique identifier, fused (14 Table 14.4). -/
opaque uid : BitVec 64

/-- ROM_MAJOR and ROM_MINOR of Fountainhead (15 Table 15.16); the firmware version with no patch in force. -/
opaque romMajor : Byte
opaque romMinor : Byte

/-- The fused vendor patch key, 32 bytes, which cannot be read (15, "Firmware patches"). -/
opaque vendorPatchKey : Fin 32 → Byte

/-- Ring-oscillator base counts PM_BASE0 to PM_BASE7 of the production record (16 Table 16.2). -/
opaque pmBase : Fin 8 → BitVec 16

/-- The production trim entry of a modulator at a gain code (05 R170, R200). -/
opaque productionTrim : Fin 288 → Fin 8 → Word

/-- Free value: the covariance with which the drift model's recursive least squares begins (06 R223 gives none), row by row. -/
opaque driftCovariance : Vector Rat 16

/-- Free value: the ring servo's w = 2π · BW_RING · 333.333 µs of a RING_BW code (07 R260, in which π is real). -/
opaque servoW : Nat → Rat

/-- Free value: which low bits of the ring-oscillator counts, the argument, make the incarnation after a loss of VBAT (07
R253). -/
opaque incarnationAfterVbat : List (BitVec 16) → BitVec 16

/-- Free value: a value of the given index that the manual leaves open and that nothing else names. The state counts the
values drawn. -/
opaque freeWord : Nat → Word

/-- Free value: the syndrome of inverted codeword bits; the host never sees the check matrix (10 R402). -/
opaque syndrome : BitVec 72 → Byte

/-- Free value: by how many bytes the sample-to-core capture queue exceeds its least size (01 R26). -/
opaque captureQueueExtra : Nat

/-- Free value: by how many occurrences the sample-to-core event queue exceeds its least size (01 R26, 04 R163). -/
opaque eventQueueExtra : Nat

/-- Free value: by how many words a ring transmit queue exceeds its least size (07 R280). -/
opaque ringQueueExtra : Nat

/-- Free value: by how much the SEQ of the last row of a DETECTOR packet from another hub exceeds that of its first, which
the header does not say (12 Table 12.3). Arguments: header word 0, NROW. -/
opaque detectorSpan : Word → Nat → Nat

/-- Free value: by how many bytes a stream's delivery queue exceeds its least size (01 Table 1.3, 12). -/
opaque deliveryQueueExtra : Nat

/-- Free value: the event codes and severities of the lane events, which 13 names without a table (13 R504 to R521):
miswire, cautious, normal, silent, spillway, held, rate shed, rate restored. `true` is Critical. -/
opaque laneEventCode : Fin 8 → BitVec 16
opaque laneEventCritical : Fin 8 → Bool

end Sys2Proof.Config
end

