-- ==== Sys2Proof/Machine/State.lean ====
section
/-!
DEFINITION. The state of the hub: every register, queue, counter, mode and memory the manual gives it, as plain data,
one structure per subsystem, and `State.reset`, the hub right after a cold reset with no supply or strap asserting
anything. Ticks and times are natural numbers (the manual's 64-bit counts), reduced to their width where a word carries
them; configuration words that software writes and reads whole stay words. Field comments cite the rule or table that
names the state.
-/
namespace Sys2Proof.Machine
open Sys2Proof

/-- Read one of a fixed number of like things. -/
def vget {α : Type} {n : Nat} (v : Vector α n) (i : Fin n) : α := v[i]

/-- Write one of a fixed number of like things. -/
def vset {α : Type} {n : Nat} (v : Vector α n) (i : Fin n) (x : α) : Vector α n := v.set i.val x i.isLt

/-- Change one of a fixed number of like things. -/
def vmod {α : Type} {n : Nat} (v : Vector α n) (i : Fin n) (f : α → α) : Vector α n := vset v i (f (vget v i))

/-- All of a fixed number of like things at one value. -/
def vall {α : Type} (n : Nat) (x : α) : Vector α n := Vector.replicate n x

/-! ## Events, replies and what leaves the hub (15, 16) -/

/-- Severity classes (16, "Event log and event delivery"). -/
inductive Severity where
  | informational
  | critical
  | fatal
  deriving DecidableEq, Repr

/-- An event entry (16 Table 16.10). -/
structure EventEntry where
  code : BitVec 16
  severity : Severity
  remote : Bool
  hub : HubId
  func : BitVec 4
  repeated : BitVec 16
  inst : BitVec 12
  firstTick : Nat
  lastTick : Nat
  lastTime : Nat
  data : List Word
  deriving DecidableEq, Repr

/-- Status codes (15 Table 15.8). -/
inductive Status where
  | ok | busy | headerError | unknownOpcode | malformed | notPermitted | authFailed | noAuthority | holdAuthority
  | outsideView | outsideRange | heldByOther | precondition | tickExpired | feConflict | noPairPath | unreachable
  | noResponse | mixed | notRelayable | patchRejected
  deriving DecidableEq, Repr

/-- A status reply (15 Table 15.2), with the encoding it is written in (15 R611, R612). -/
structure Reply where
  encoding : Encoding
  opcode : BitVec 16
  tag : BitVec 16
  status : Status
  hub : HubId
  final : Bool
  summary : Bool
  completion : Nat
  data : List Word
  deriving DecidableEq, Repr

/-- A reply with no data beyond its detail words (15 R581). -/
structure Rejection where
  status : Status
  detail : List Word
  deriving DecidableEq, Repr

/-- Who holds a claim or a capture set: issuing hub and function (15 R596). -/
structure Owner where
  hub : HubId
  fn : BitVec 4
  deriving DecidableEq, Repr

/-- A message the hub hands to its lanes: kind and class of 15 Table 15.5, a target (none: broadcast) and side (none:
both), and its payload. The list of these is the model's own record of what left the hub. -/
structure Message where
  kind : Nat
  cls : Nat
  target : Option HubId
  side : Option Side
  payload : List Word
  deriving DecidableEq, Repr

/-- A message of a side and class that waits or has been sent and is not acknowledged (13 R497 to R503). -/
structure Sent where
  lseq : BitVec 12
  lane : Fin 16
  nblk : Nat
  again : Bool
  message : Message
  src : HubId
  hops : Nat
  spill : Bool
  /-- The tick at which it was last sent (13 R499). -/
  sentAt : Nat
  deriving DecidableEq, Repr

/-- How the hub completes a read of a host (14 Table 14.10). -/
inductive Completion where
  | success
  | unsupportedRequest
  | completerAbort
  deriving DecidableEq, Repr

/-- A posted write of the hub to host memory: function, queue, first slot and the item's words (14 R541), or a
write-back of an index. -/
inductive HostWrite where
  | item (f : Fn) (q : Nat) (slot : Nat) (words : List Word)
  | writeBack (f : Fn) (q : Nat) (index : BitVec 16)
  | msix (f : Fn) (vector : Nat)
  | completion (f : Fn) (status : Completion) (data : List Byte)
  deriving DecidableEq, Repr

/-! ## Host interface (14) -/

/-- A queue block with its indices (14 Table 14.8, R540 to R548) and, for a queue the hub produces, the items that wait
to be written. -/
structure Queue where
  baseLo : Word := 0
  baseHi : Word := 0
  en : Bool := false
  log2Slots : BitVec 4 := 4
  modUs : BitVec 16 := 0
  wbLo : Word := 0
  wbHi : Word := 0
  hubIndex : BitVec 16 := 0
  hostIndex : BitVec 16 := 0
  active : Bool := false
  error : Bool := false
  errCode : BitVec 2 := 0
  eqLost : BitVec 16 := 0
  waiting : List (List Word) := []
  deriving DecidableEq, Repr

/-- A function's guarantee credit as it stood at tick `at_`, in 1/12,288 byte (10, "Requesters and scheduling"; 14 R566). -/
structure Credit where
  units : Nat
  at_ : Nat
  deriving DecidableEq, Repr

/-- Whose turn it is in a weighted round robin, and how often more before the next. -/
structure Turn where
  fn : Nat
  left : Nat
  deriving DecidableEq, Repr

/-- A run of global channels of a channel view (14 Table 14.15). -/
structure ChanRange where
  first : Nat
  count : Nat
  deriving DecidableEq, Repr

/-- One key's coalescing interval at one event queue (16 R659). -/
structure EqHold where
  fn : Fn
  entry : EventEntry
  held : BitVec 16
  /-- The tick at which the interval began. -/
  since : Nat
  deriving DecidableEq, Repr

/-- One function of the hub: its queues, interrupts, rights and contract (14). -/
structure Func where
  queues : Vector Queue 7
  intCause : Word
  intMask : Word
  intVec : Vector Word 4
  /-- Causes whose moderation interval runs, with the tick at which each was last set (14 R554). -/
  moderated : List (Nat × Nat)
  /-- Causes with an occurrence held inside their interval (14 R554). -/
  heldCauses : List Nat
  msixEn : Bool
  msixTable : Vector Word 256
  msixPending : BitVec 64
  bme : Bool
  d3hot : Bool
  inReset : Bool
  view : List ChanRange
  rangePage : Nat
  rangePages : Nat
  /-- Contract words 0 to 3 (14 Table 14.16). -/
  contract : Vector Word 4
  hmeInfo : Word
  hmeAddr : Word
  deriving DecidableEq, Repr

/-- A PCIe port (14 R530, 18 R722). -/
structure Port where
  perst : Bool
  linkUp : Bool
  rate : Nat
  width : Nat
  deriving DecidableEq, Repr

/-- The SPI management port's buffers and status (14 R557, R558, Tables 14.11, 14.12). -/
structure Spi where
  commands : List (List Word)
  replies : List (List Word)
  events : List (List Word)
  pushErr : Bool
  evtLost : Bool
  /-- What the last transaction shifted out. -/
  output : List Word
  deriving DecidableEq, Repr

/-- The host interface: functions, ports, SPI, DEVCFG and DEVSTAT (14). -/
structure HostIf where
  funcs : Vector Func 10
  /-- Stream queues SQ(f, s) of AF, index 4f + s (14 Table 14.7). -/
  afSq : Vector Queue 36
  afSqCause0 : Word
  afSqCause1 : Word
  afSqMask0 : Word
  afSqMask1 : Word
  vfEnable : Bool
  numVfs : Nat
  ringBudget : BitVec 16
  /-- Parts over their limit (14 R571): 0 HOST, 1 AUX, 2 DRAM, 3 ring. -/
  overcommit : List Nat
  /-- COMPAT_MODE: the H064 personality is in force (14 Table 14.5, 00 R4). -/
  compat : Bool
  spiIrqEn : Bool
  spiEvtEn : Bool
  cfgLock : Bool
  lastReset : BitVec 3
  spi : Spi
  hostPort : Port
  auxPort : Port
  /-- Functions whose streams and capture sets a reset ends at the next frame boundary (14 R560), with the kind of
  reset. -/
  resets : List (Fn × Nat)
  /-- PCIe guarantee credit of functions 0 to 8, and on each port, HOST and AUX, the function served last in the round robin of
  RQ and EQ writes and the turn of SQ writes (14 R566). -/
  pcieCredit : Vector Credit 9
  pcieLast : Vector Nat 2
  pcieTurn : Vector Turn 2
  deriving DecidableEq, Repr

/-! ## Fountainhead (15) -/

/-- A relayed command the issuing hub holds (15 R597 to R599). -/
structure Relay where
  id : BitVec 16
  op : Op
  packet : Packet
  sent : Nat
  expected : Word
  succeeded : Word
  rejected : Word
  deriving DecidableEq, Repr

/-- A command an executing hub ran within the last second (15 R600). -/
structure Executed where
  issuer : HubId
  id : BitVec 16
  at_ : Nat
  reply : Reply
  deriving DecidableEq, Repr

/-- Why a taken packet's final reply is still owed. -/
inductive Owing where
  /-- A diagnostic, by slot or one-shot request number (02 R768). -/
  | diagnostic (request : Nat)
  /-- A relayed or broadcast command (15 R597). -/
  | relay (id : BitVec 16)
  /-- A stream set-up that waits for remote origins (12 R450). -/
  | streamSetup (fn : BitVec 4) (stream : Nat)
  /-- A stream deletion that waits for remote origins (12 R450). -/
  | streamDelete (fn : BitVec 4) (stream : Nat)
  /-- A stream flush (12 R464). -/
  | streamFlush (fn : BitVec 4) (stream : Nat)
  /-- A patch commit (15 R620). -/
  | patchCommit
  /-- FN_RESET of a function (14 R560, 15 Table 15.6). -/
  | fnReset (f : Fn)
  deriving DecidableEq, Repr

/-- A packet that has been taken and whose final reply is owed (15 R584, R585). -/
structure Owed where
  op : Op
  packet : Packet
  why : Owing
  deriving DecidableEq, Repr

/-- Fountainhead: its sources, replies, relays, counters, policy and patch (15). -/
structure Fountainhead where
  fwReady : Bool
  /-- Packets that reached Fountainhead and wait to be taken, oldest first (15 R583, R620). -/
  waiting : List (Op × Packet)
  owed : List Owed
  replies : List (Source × Reply)
  relays : List Relay
  /-- Relayed packets that wait for their target (15 R597). -/
  relayWaiting : List (Op × Packet)
  nextRelay : BitVec 16
  executed : List Executed
  relayMs : BitVec 8
  reqAuth : BitVec 10
  accepted : Word
  rejected : Word
  headerErrors : BitVec 16
  authFails : BitVec 16
  noResponses : BitVec 16
  lateReplies : BitVec 16
  maxDecideUs : BitVec 16
  lateApplies : BitVec 16
  restarts : BitVec 16
  /-- Ticks of the failures of step 4 of each slot within the last 10 s (15 R595). -/
  failTicks : Vector (List Nat) 10
  locked : BitVec 10
  /-- The ticks at which the slots were last locked out (15 R595). -/
  lockedAt : Vector Nat 10
  /-- The number of the source served last, in the round robin of R583. -/
  lastSource : Nat
  /-- The patch staging buffer: (word offset, word), offsets strictly rising, no zero word (15 R616). -/
  staging : List (Nat × Word)
  /-- FW_MAJOR and FW_MINOR of the patch in force (15 R617, R619). -/
  patch : Option (Byte × Byte)
  restarting : Bool
  /-- A patch that takes force with the restart in progress (15 R617, R620). -/
  patchNext : Option (Byte × Byte)
  /-- SEQ of the last translated version-1 packet of PF0's CQ and of the SPI path (15 R609). -/
  v1SeqCq : Word
  v1SeqSpi : Word
  deriving DecidableEq, Repr

/-! ## The always-on domain (16, 07 R254, 13 R485, 17, 18) -/

/-- A command-key slot of the key store (15 "Authentication", 16 "Key store"). -/
structure KeySlot where
  key : Option (Vector Word 8)
  lastSeq : Word
  seqRes : Word
  deriving DecidableEq, Repr

/-- A ledger cell under the three-level sense (16, "The ledger"). -/
inductive Cell where
  | set
  | reset
  | weak
  deriving DecidableEq, Repr

/-- A lifetime counter: four positions of a 32-cell strip and a high word (16 R635, R636). -/
structure LedgerCounter where
  strips : Vector (Vector Cell 32) 4
  highs : Vector (BitVec 26) 4
  deriving DecidableEq, Repr

/-- A carry-journal entry (16 Table 16.4); `valid` is whether its CHECK holds. -/
structure JournalEntry where
  counter : Nat
  highNew : BitVec 26
  valid : Bool
  deriving DecidableEq, Repr

/-- The ledger (16 R633 to R641). -/
structure Ledger where
  counters : Vector LedgerCounter 30
  journal : List JournalEntry
  /-- Increments that wait in the SRAM accumulators (16 R639). -/
  pending : Vector Word 30
  /-- Increments committed in the present hour (16 R639). -/
  hourly : Vector Nat 30
  /-- Fractions of a unit not yet an increment: accepted calibrations, rejections, stretched runs, seconds of peak mode
  and so on, by counter (16 Table 16.3). -/
  fraction : Vector Nat 30
  sparesUsed : BitVec 16
  anomalies : Word
  /-- How often the whole ledger has been rewritten (16 R640), for WEAR_PCT. -/
  refreshes : Nat
  deriving DecidableEq, Repr

/-- A last-words record (16 Table 16.9). -/
structure LastWords where
  ltype : BitVec 8
  cause : BitVec 8
  seq : BitVec 15
  read : Bool
  calSec : Word
  tick : Nat
  time : Nat
  generation : Word
  epoch : Word
  data : List Word
  deriving DecidableEq, Repr

/-- The calendar (16 R626 to R629). -/
structure Calendar where
  sec : Word
  sub : BitVec 15
  trim : BitVec 16
  auto : Bool
  synced : Bool
  repeated : Bool
  deriving DecidableEq, Repr

/-- Peak-mode accounting (16 R647 to R649). -/
structure Peak where
  buckets : Vector Nat 96
  bucket : Nat
  cont : Nat
  off : Word
  /-- Frames of the present peak second, and of the present second out of peak mode. -/
  frames : Nat
  offFrames : Nat
  inPeak : Bool
  spent : Bool
  stress : List (List Word)
  deriving DecidableEq, Repr

/-- A result record of a self-test (17 Table 17.8). -/
structure TestResult where
  rstate : Nat
  origin : Nat
  runId : BitVec 16
  tested : BitVec 16
  failed : BitVec 16
  skipped : BitVec 16
  failCode : BitVec 8
  schedSkips : BitVec 8
  failUnit : Word
  failValue : Word
  startTick : Nat
  endTick : Nat
  endCalSec : Word
  deriving DecidableEq, Repr

/-- What the always-on domain holds, which every reset keeps while VBAT is present (16; 18 "Supply rails"). -/
structure AlwaysOn where
  keys : Vector KeySlot 10
  bcnCounter : Word
  bcnRes : Word
  patchFloor : BitVec 16
  zeroPending : Bool
  calendar : Calendar
  ledger : Ledger
  peak : Peak
  lastWords : List LastWords
  lwSeq : BitVec 15
  /-- Class-0 messages held under 13 R516, oldest first. -/
  heldMessages : List Sent
  identity : Word
  auxMode : BitVec 2
  epoch : Word
  incarnation : BitVec 16
  scanArmed : Bool
  result0 : TestResult
  result8 : TestResult
  /-- Straps of the last T_R in this presence of VBAT (18 R713). -/
  lastStraps : Option Word
  /-- Masks of the rails of a recorded sequencing breach: power-up, power-down (18 R704). -/
  seqBreachUp : Word
  seqBreachDown : Word
  standbyEntrySec : Word
  deriving DecidableEq, Repr

/-! ## Health (16) and power (18) -/

/-- Monitors, thresholds, shedding, droop, watchdog and the event log (16). -/
structure Health where
  log : List EventEntry
  overflow : Word
  holds : List EqHold
  /-- Keys whose FAULT_NOTE of the present second has been sent, with its tick (16 R660). -/
  noted : List ((BitVec 16 × BitVec 4 × BitVec 12) × Nat)
  ts : Vector (BitVec 16) 12
  rails : Vector (BitVec 16) 12
  ro : Vector (BitVec 16) 8
  thresholds0 : Word
  thresholds1 : Word
  tempWarned : Bool
  /-- Consecutive readings with Tj 5 °C below TEMP_WARN, while warned (16 R644). -/
  coolRun : Nat
  railOutRun : Vector Nat 12
  railInRun : Vector Nat 12
  railWarned : Vector Bool 12
  wdMs : BitVec 16
  healthy : Bool
  watchdogTick : Nat
  peakWord : Word
  lThermal : Nat
  /-- The shedding level in force (16 R653). -/
  level : Nat
  /-- The last reading had Tj at or above 140 °C, or below 135 °C, and the tick from which the 2 s or 30 s to the next step of
  L_THERMAL run (16 R652). -/
  hot : Bool
  cool : Bool
  levelSince : Nat
  /-- A budget was spent at the last change of the level in force (16 R653). -/
  levelBudget : Bool
  /-- Consecutive readings at or above 150 °C (16 R655). -/
  tripRun : Nat
  /-- The chip is held in reset by the thermal trip (16 R655). -/
  thermalHold : Bool
  droop : Bool
  /-- Ticks of the ends of the stretched runs of the last second (16 Table 16.14). -/
  stretchTicks : List Nat
  longestNs : BitVec 16
  pll300 : Bool
  /-- LOCKED throughout the present hour of R627, and its whole seconds so far. -/
  lockedHour : Bool
  hourSeconds : Nat
  /-- The second of structure time of the last leap second (16 R628). -/
  leapSecond : Nat
  deriving DecidableEq, Repr

/-- Rails, resets, straps and boot (18). Rails in the order of 16 Table 16.6: VDDC VDDS VDDSH VDDQ VDDPHY VDDA VDDAH VDDIO0 to VDDIO3
VBAT. -/
structure Power where
  rails : Vector Bool 12
  porstN : Bool
  stbyN : Bool
  pwrEn : Bool
  /-- The internal reset is asserted (18 R708). -/
  held : Bool
  standby : Bool
  /-- Straps as DEVSTAT lays them out, bits 23 to 12 (14 Table 14.6). -/
  straps : Word
  /-- Boot is not finished: no source but the script is served (18 R719). -/
  booting : Bool
  /-- The words of the script's packets that have not been taken. -/
  scriptLeft : List (List Word)
  scriptIndex : Nat
  scriptOk : Nat
  deriving DecidableEq, Repr

/-- What has left the hub: messages on its lanes, writes to host memory and MSI-X messages, oldest first. The model's
own record; no rule reads it. -/
structure Outbox where
  /-- Control blocks sent, by lane group (0 EAST, 1 WEST, 2 PAIR): block type of 13 Table 13.3 and payload. -/
  control : List (Fin 3 × Byte × BitVec 56)
  /-- HBX beats sent (08 Table 8.1). -/
  hbx : List (BitVec 48)
  messages : List Message
  host : List HostWrite
  deriving DecidableEq, Repr

/-! ## Timebase, beacon and mains tracker (06) -/

/-- Roles (06 Table 6.1). -/
inductive Role where
  | root
  | ringFollower
  | pairFollower
  deriving DecidableEq, Repr

/-- Phase references (06 Table 6.2), none included. -/
inductive Ref where
  | none
  | refclk
  | beacon
  | ring
  | peer
  deriving DecidableEq, Repr

/-- Time sources (06 Table 6.18). -/
inductive TimeSrc where
  | none
  | host
  | beacon
  | ring
  | peer
  deriving DecidableEq, Repr

/-- Timebase states (06 Table 6.3). -/
inductive TbState where
  | stopped
  | freerun
  | acquiring
  | locked
  | holdover
  | mismatch
  deriving DecidableEq, Repr

/-- A time step (06 R206): the new anchor's time, and for a step ordered by TB_SET_TIME the leap and UTC fields. -/
structure TimeStep where
  /-- ANCHOR_TICK of a step that a time source announces (06 R210); otherwise the boundary is it. -/
  anchor : Option Nat
  time : Nat
  gen : Option (BitVec 16)
  valid : Bool
  src : TimeSrc
  leap : Option (Bool × Bool × BitVec 16)
  deriving DecidableEq, Repr

/-- The drift model (06 R223): coefficients c0 to c3 in 10^-12, the filtered temperature in 1/64 °C, the tick at which
learning began, the residuals of the last 86,400 learned seconds, newest first, rms24 in 10^-12 and the seconds
learned. -/
structure DriftModel where
  c : Vector Rat 4
  /-- Covariance of the recursive least squares, row by row; none before its first update. -/
  cov : Option (Vector Rat 16)
  tf : Rat
  began : Option Nat
  residuals : List Rat
  rms24 : Nat
  learned : Nat
  deriving DecidableEq, Repr

/-- The mains tracker (06 R240): P̂ and X̂ in 1/256 SCLK period. -/
structure Mains where
  phat : Nat
  xhat : Nat
  run : Nat
  lastGood : Nat
  tracking : Bool
  started : Bool
  accepted : BitVec 16
  rejected : BitVec 16
  deriving DecidableEq, Repr

/-- Beacon states (06 Table 6.20). -/
inductive BState where
  | off
  | search
  | acquired
  deriving DecidableEq, Repr

/-- The beacon receiver (06 R229 to R238, Table 6.20). -/
structure Beacon where
  state : BState
  badRun : Nat
  notch0 : BitVec 10
  notch1 : BitVec 10
  validTime : BitVec 16
  validCmd : BitVec 16
  crcErr : BitVec 16
  manchErr : BitVec 16
  satAbort : BitVec 16
  authFail : BitVec 16
  badSlots : BitVec 16
  unknown : BitVec 16
  /-- Frames whose LEN does not suit TYPE, and those with a reserved field set, which no word of BCN_READ shows (06 R232). -/
  lenErr : BitVec 16
  rsvErr : BitVec 16
  edgeTick : Nat
  edgeSub : BitVec 6
  edgeTime : Nat
  offsetNs : Int
  srcId : Word
  bgUa : BitVec 16
  /-- SRC_ID and E (ns) of the run of consecutive valid time frames in SEARCH (06 R235). -/
  run : List (Word × Int)
  /-- SRC_ID of the acquired transmitter. -/
  acquiredId : Word
  /-- A valid time frame of the acquired transmitter arrived in the present slot (06 R236). -/
  slotGood : Bool
  /-- Closing of the present slot in 1/64 cycle (06 R236). -/
  slotEnd : Nat
  /-- Valid time frames since the steering ended whose |E| is at most 2 µs, and those above 8 µs (06 R217). -/
  within2us : Nat
  beyond8us : Nat
  deriving DecidableEq, Repr

/-- The timebase (06). -/
structure Timebase where
  /-- The sample domain has started its timebase (06 R203). -/
  started : Bool
  tick : Nat
  /-- Tick of the latest frame boundary the hub has passed. -/
  frameTick : Nat
  t0 : Nat
  role : Role
  state : TbState
  ref : Ref
  timeSrc : TimeSrc
  anchorTick : Nat
  anchorTime : Nat
  timeGen : BitVec 16
  timeValid : Bool
  utcOffset : BitVec 16
  leapIns : Bool
  leapDel : Bool
  /-- TB_SET_SOURCES words (06 Table 6.13). -/
  sources0 : Word
  sources1 : Word
  /-- TB_SET_HOLDOVER words (06 Table 6.15), MODEL_CLEAR reading 0. -/
  holdover0 : Word
  holdover1 : Word
  holdover2 : Word
  /-- TB_SET_MAINS words (06 Table 6.16). -/
  mains0 : Word
  mains1 : Word
  /-- BCN_SET word (06 Table 6.17). -/
  bcnWord : Word
  refclkOk : Bool
  refclk25 : Bool
  refclkInRun : Nat
  refclkOutRun : Nat
  /-- REFCLK's offset from its detected nominal as last measured in range against XTAL32, 10^-12 (06 Table 6.2, R224). -/
  refclkOfs : Int
  /-- The flywheel in use while the hub was last LOCKED was REFCLK (06 R224). -/
  flyRef : Bool
  /-- What the oscillator is set to, relative to the flywheel in use, 10^-12 (06 R224). -/
  osc : Int
  ringOk : Bool
  peerOk : Bool
  /-- Frames without a time-transfer measurement of RING and of PEER (06 Table 6.2). -/
  ringMissing : Nat
  peerMissing : Nat
  /-- Phase error to the reference, ps, and frequency correction y, 10^-12 (06 Table 6.18). -/
  phaseErr : Int
  freq : Int
  lockRun : Nat
  exceedRun : Nat
  hoTick : Nat
  ph0 : Nat
  hoBound : Nat
  degraded : Bool
  holdoverFrame : Bool
  /-- Frequency corrections of the frames of the last 60 s of lock, newest first (06 R224). -/
  lockedFreqs : List Int
  lockedSince : Nat
  /-- The boundary of the latest step that TB_SET_TIME ordered (06 R245). -/
  hostStep : Option Nat
  model : DriftModel
  mains : Mains
  beacon : Beacon
  deriving DecidableEq, Repr

/-! ## Cascade ring (07) -/

/-- Ring states (07 Table 7.5). -/
inductive RState where
  | alone
  | forming
  | closed
  | wrapped
  | segmented
  deriving DecidableEq, Repr

/-- The hub's place in the ring (07 Table 7.14, MROLE). -/
inductive MRole where
  | member
  | master
  | segmentMaster
  | refused
  deriving DecidableEq, Repr

/-- A member as its latest ANNOUNCE gives it (07 Table 7.6), with the hops at which it arrives on each side (13 R494). -/
structure Member where
  announce : Announce
  /-- Tick at which an ANNOUNCE last arrived on each side. -/
  lastEast : Nat
  lastWest : Nat
  hopsEast : Option Nat
  hopsWest : Option Nat
  deriving DecidableEq, Repr

/-- Time transfer and state record of one side (07 R256 to R264). Time stamps are in 1/65,536 modulator cycle. -/
structure SideState where
  up : Bool
  upSince : Nat
  looping : Bool
  /-- UNWRAP has been announced for this boundary (07 R281). -/
  unwrapAt : Option Nat
  /-- The side has been unwrapped since it last came up, and the tick since which every exchange has completed (07 R281). -/
  unwrapped : Bool
  cleanSince : Nat
  /-- Exchange in which the hub is sender: its number and the departure t1 of SYNC. -/
  txSeq : BitVec 4
  txT1 : Nat
  /-- The exchange of number rxSeq has completed (07 R260). -/
  rxDone : Bool
  /-- Exchange in which the hub is responder: its number and stamps. -/
  rxSeq : Option (BitVec 4)
  t1 : Option Nat
  t2 : Nat
  t3 : Nat
  n : Nat
  rttSum : Rat
  thetaSum : Rat
  rttAvg : Rat
  thetaAvg : Rat
  integ : Rat
  ttLost : BitVec 16
  outliers : BitVec 16
  asym : Vector (BitVec 16) 5
  /-- The neighbour's state record, the indices that have arrived in this frame, and whether the last frame's record was
  complete (07 R261, R263). -/
  record : Vector (BitVec 48) 8
  incoming : Vector (BitVec 48) 8
  arrived : BitVec 8
  complete : Bool
  qualified : Bool
  /-- Frames in which this side has qualified with HOPS at least 2 lower than the reference side's (07 R264). -/
  lowerRun : Nat
  /-- An exchange completed in the present frame, and the frames that have ended without one (06 Table 6.2). -/
  measured : Bool
  missed : Nat
  deriving DecidableEq, Repr

/-- States of a mode change (07 Table 7.8). -/
inductive McState where
  | idle
  | staging
  | prepared
  deriving DecidableEq, Repr

/-- A staged command of a mode change: its words as delivered, and the command they spell (07 R283). -/
structure StagedPacket where
  words : List Word
  op : Op
  packet : Packet
  deriving DecidableEq, Repr

/-- A generation that the master has sent PREPARE for (07 R284, R287). -/
structure McPending where
  g : Word
  c : Nat
  expect : Word
  acked : Word
  naked : Word
  deadline : Nat
  /-- COMMIT or ABORT has been decided; an ABORT is repeated in every frame until C. -/
  decided : Bool
  aborting : Bool
  deriving DecidableEq, Repr

/-- The hub's part in a mode change (07 R282 to R289). -/
structure ModeChange where
  state : McState
  g : Word
  c : Nat
  staged : List StagedPacket
  /-- What the set of a PREPARED hub configures: classes and instances (07 R286). -/
  units : List (Nat × Nat)
  pending : Option McPending
  deriving DecidableEq, Repr

/-- A beacon frame held for the asymmetry measurement (07 R266): source, edge time, edge in 1/64 cycle. -/
structure Flash where
  srcId : Word
  edgeTime : Nat
  edge64 : Nat
  deriving DecidableEq, Repr

/-- A frame that the neighbour of a side asks about, and whether this hub has reported its own (07 R266). -/
structure EdgeAsk where
  flash : Flash
  answered : Bool
  deriving DecidableEq, Repr

/-- A running asymmetry measurement of one side (07 R266): sums in ps of the estimates so far. -/
structure AsymMeasure where
  apply : Bool
  n : Nat
  pathPs : Int
  count : Nat
  sum : Rat
  sumSq : Rat
  own : List Flash
  neighbour : List Flash
  deriving DecidableEq, Repr

/-- The cascade ring (07). -/
structure Ring where
  hubId : HubId
  rstate : RState
  mrole : MRole
  refuse : BitVec 2
  master : Option HubId
  masterUid : BitVec 64
  hops : BitVec 5
  /-- The reference side (07 R264). -/
  refSide : Option Side
  members : List Member
  stable : Word
  /-- The membership, and the tick since which it has held unchanged (07, "Membership and mastership"). -/
  memberMask : Word
  heldSince : Nat
  wraps : BitVec 16
  elections : BitVec 16
  latencyNs : Word
  generation : Word
  policy0 : Word
  policy1 : Word
  east : SideState
  west : SideState
  mismatchSince : Nat
  /-- The handover announced: new master and boundary H (07 R271). -/
  handover : Option (HubId × Nat)
  mc : ModeChange
  /-- The members last seen announcing another generation (07 R290). -/
  genMixed : Word
  /-- The commit tick of the generation in force, since which the members' ANNOUNCEs are compared (07 R290). -/
  genSince : Nat
  /-- Hop count with which the hub's own ANNOUNCE last came back (07 Table 7.5). -/
  ownHops : Option Nat
  /-- Hubs that have left the membership, with the tick, and hubs whose ANNOUNCE has shown them refused (12 R455). -/
  absent : List (HubId × Nat)
  refusedIds : List HubId
  askedEast : Option EdgeAsk
  askedWest : Option EdgeAsk
  asymEast : Option AsymMeasure
  asymWest : Option AsymMeasure
  /-- The master is lost: the next frame boundary elects (07 R273). -/
  electDue : Bool
  /-- Hubs that have reported their EAST side down by WRAP and not yet restored: one per hop down (07 Table 7.6). -/
  downHops : List HubId
  deriving DecidableEq, Repr

/-! ## Redundant pair (08) -/

/-- Pair states (08 Table 8.4). -/
inductive PState where
  | joining
  | resync
  | standby
  | active
  | activeAlone
  | hold
  | solo
  deriving DecidableEq, Repr

/-- What a split source delivers (08 R311 to R318): nothing, I_SET/2 or I_SET. -/
inductive Half where
  | off
  | half
  | full
  deriving DecidableEq, Repr

/-- What the peer's latest valid beats report (08 Tables 8.1, 8.2). -/
structure PeerView where
  pstate : BitVec 3
  auth : Bool
  healthy : Bool
  srcOff : Bool
  rmaster : Bool
  ready : Bool
  mirrorSeq : BitVec 8
  deriving DecidableEq, Repr

/-- A mirror record (08 Table 8.9) and the frame boundary it was accepted before. -/
structure MirrorRec where
  rseq : BitVec 16
  f : Nat
  epoch : Word
  packet : List Word
  accepted : Nat
  deriving DecidableEq, Repr

/-- One heartbeat path (08 R307, R310, R297). -/
structure BeatPath where
  alive : Bool
  last : Nat
  /-- A loss has been raised and not yet restored. -/
  lost : Bool
  run : Nat
  /-- Consecutive beat periods with a beat that carries the unit's own UNIT, and the last such beat (08 R297). -/
  conflictRun : Nat
  conflictLast : Nat
  deriving DecidableEq, Repr

/-- The redundant pair (08). -/
structure Pair where
  en : Bool
  unitB : Bool
  pstate : PState
  peerEpoch : Word
  transfers : BitVec 16
  lastTransfer : Nat
  policy0 : Word
  policy1 : Word
  asym : Word
  link : BeatPath
  hbx : BeatPath
  /-- The pair lanes are up (13). -/
  lanesUp : Bool
  peer : PeerView
  unhealthyRun : Nat
  beatSeq : BitVec 4
  /-- Start of the unit's own latest beat (08 R304). -/
  lastBeat : Option Nat
  /-- Start of the last valid HBX beat of unit A (08 R304). -/
  peerBeat : Option Nat
  srcOff : Bool
  split : Vector Half 128
  /-- Sources that have stopped delivering: they stay off until a split restore (08 R316). -/
  stopped : BitVec 128
  /-- The witness's reference of each source, in µV (08 R311). -/
  refs : Vector (Option Int) 128
  /-- The reference that a source at I_SET under R312 or R314 had before its ramp; 0 where it had none (08 R315). -/
  preRamp : Vector (Option Int) 128
  /-- The frame in which a change of a source, its terminal or its basin's BIAS last took effect (08 R311). -/
  disturbed : Vector (Option Nat) 128
  lastWitness : Option Nat
  /-- Follower engagements that a declaration may still count: tick, basin, and whether the peer held authority (08 R319). -/
  engagements : List (Nat × Fin 32 × Bool)
  /-- The declaration tick of the latest peer failure (08 R309). -/
  failedAt : Option Nat
  followMode : Bool
  conflict : Bool
  handoverAt : Option Nat
  image : List (List Word)
  imageComplete : Bool
  imageGeneration : Word
  /-- The authority holder has sent its image to the present RESYNC (08 R328). -/
  imageSent : Bool
  resyncAt : Option Nat
  splitRestoreAt : Option Nat
  /-- The winner of a merge increments its epoch at the next frame boundary (08 R326). -/
  mergeBump : Bool
  /-- The unit lost a merge on the HBX path alone, and has not resynchronised since (08 R327). -/
  mergeLost : Bool
  /-- A transition that takes effect at the next frame boundary (08 R321). -/
  nextState : Option PState
  /-- That transition is forced by PAIR_FORCE_AUTHORITY (08 R346). -/
  forced : Bool
  rseqSent : BitVec 16
  rseqApplied : BitVec 16
  records : List MirrorRec
  /-- The last record taken in RSEQ order, if one has been since the unit entered its state (08 R336). -/
  rseqTaken : Option (BitVec 16)
  /-- Records that wait for one of an earlier RSEQ (08 R336). -/
  recordsAhead : List MirrorRec
  mirrorLate : BitVec 16
  witnessRamps : BitVec 16
  witnessReturns : BitVec 16
  diverged : Bool
  divergeRun : Nat
  /-- Time transfer and state record over the pair timing lane (08, "The timebase in a pair"). -/
  side : SideState
  deriving DecidableEq, Repr

/-! ## Front end (02) -/

/-- A diagnostic request (02 Table 2.15): `request` numbers it for its owed reply; `slot` is its repeat slot. -/
structure DiagReq where
  request : Nat
  kind : Nat
  p : Nat
  q : Nat
  level : Nat
  limit : Nat
  slot : Option (Fin 8)
  every : Nat
  /-- The reply to the request is still owed: this is its first run (02 R768). -/
  first : Bool
  deriving DecidableEq, Repr

/-- A running diagnostic and the tick at which its run began. -/
structure DiagRun where
  req : DiagReq
  began : Nat
  deriving DecidableEq, Repr

/-- A repeat slot in use: its request and the frame boundary at which it runs again. -/
structure DiagSlot where
  req : DiagReq
  due : Nat
  deriving DecidableEq, Repr

/-- A trip that waits for its frame boundary: port, terminals in overvoltage and polarity (02 Table 2.8). -/
structure Trip where
  port : Fin 128
  mask : BitVec 4
  polarity : Bool
  deriving DecidableEq, Repr

/-- What the GUARD driver of a basin follows (02 R64, Table 2.13): nothing while GEN is 0, an input of a local channel, or
BIAS where that input is joined to no terminal. -/
inductive GuardNode where
  | off
  | input (k : Fin 8) (negative : Bool)
  | bias
  deriving DecidableEq, Repr

/-- The front end (02). Bit p of a port mask is port p; bit 4b + k of a source mask is source Xk of basin b. -/
structure FrontEnd where
  conn : Vector Word 512
  src : Vector Word 128
  bias : Vector Word 32
  ovWord : Word
  configTick : Vector Nat 32
  /-- Ports isolated, from the trip on (02 R67). -/
  isolated : BitVec 128
  /-- The connection words that the switches of an isolated port held when it isolated (02 R72, R73). -/
  heldConn : Vector Word 512
  /-- What each basin's GUARD driver follows (02 R64). -/
  guard : Vector GuardNode 32
  /-- TB2 or TB3 is held by calibration or self-test, as observed at the latest boundary (02 R767). -/
  busHeld : Bool
  /-- The OV_ISOLATED status bits, which follow at the next frame boundary (02 Table 2.8). -/
  ovBits : BitVec 128
  latched : BitVec 128
  trips : List Trip
  /-- Isolations of the last 10 s: port and tick (02 R70). -/
  isolations : List (Fin 128 × Nat)
  /-- Ports whose hold has expired and that reclose at the next frame boundary (02 R69). -/
  recloseDue : BitVec 128
  /-- Ports with a terminal outside the reclose range when last observed (02 R69, R71). -/
  outOfRange : BitVec 128
  /-- Sources an isolation has diverted to their dummy loads (02 R68). -/
  diverted : BitVec 128
  compliance : BitVec 128
  biasFault : BitVec 32
  guardFault : BitVec 32
  diagRunning : Option DiagRun
  diagQueue : List DiagReq
  diagSlots : Vector (Option DiagSlot) 8
  diagNext : Nat
  deriving DecidableEq, Repr

/-! ## Converter array, timers and survey converters (03) -/

/-- Modulator states (03 Table 3.4). -/
inductive ModState where
  | serving
  | shadow
  | spare
  | calibrating
  | retired
  | failedServing
  deriving DecidableEq, Repr

/-- An overlap (03 R95 to R97): the visited local channel, the shadow's index and the swap boundary. -/
structure Overlap where
  chan : Fin 8
  shadow : Fin 9
  swapAt : Nat
  deriving DecidableEq, Repr

/-- A substitution under way (03 R99, R100, R102, R769): the channel, the failed and chosen indices, and the boundaries
F1 (none once the chosen modulator is in SHADOW) and F2. -/
structure Substitution where
  chan : Fin 256
  failed : Fin 9
  chosen : Fin 9
  f1 : Option Nat
  f2 : Nat
  deriving DecidableEq, Repr

/-- An event timer (03 Table 3.14, R108 to R111). -/
structure Timer where
  word : Word
  start : Nat
  period : Word
  duty : Word
  effect : Nat
  /-- NEXT_TICK (R108). -/
  next : Nat
  ticks : Word
  level : Bool
  deriving DecidableEq, Repr

/-- The results of a survey entry (03 Table 3.13, R118 to R120) with its block in progress. -/
structure SurveyResult where
  sum : Int
  full : Bool
  cmpOut : Bool
  cmpHigh : Bool
  count : Nat
  min : Int
  max : Int
  ovr : BitVec 16
  skip : BitVec 16
  blockSum : Int
  blockCount : Nat
  deriving DecidableEq, Repr

/-- A survey converter (03, "Survey converters"): the sequence in force, the one that waits for its start event, the
entry whose slot runs, and the results. -/
structure Survey where
  seqWord : Word
  entries : Vector (Vector Word 5) 16
  /-- A new sequence takes effect at the first start event after its boundary (03 R121). -/
  next : Option (Word × Vector (Vector Word 5) 16)
  running : Option (Fin 16)
  /-- When the running entry's slot begins or began, in SCLK periods from tick 0 (R113). -/
  slotAt : Nat
  /-- Whether a port of the running entry was isolated when its slot began; none until that is settled (R116). -/
  skip : Option Bool
  results : Vector SurveyResult 16
  firstTick : Nat
  lastTick : Nat
  sequences : BitVec 16
  missed : BitVec 16
  /-- Start events counted for the fourth that shedding level 3 lets through (16 Table 16.8). -/
  shedCount : Nat
  deriving DecidableEq, Repr

/-- The converter array (03). -/
structure Converters where
  mods : Vector ModState 288
  /-- Modulator index serving each channel, 0xF if parked (03 Table 3.10). -/
  assign : Vector (BitVec 4) 256
  swaps : Vector (BitVec 16) 32
  /-- Modulators that stay RETIRED until a cold reset (03 R104). -/
  retired : BitVec 288
  chanWord : Vector Word 32
  overlaps : Vector (Option Overlap) 32
  subs : List Substitution
  /-- Shadows of aborted overlaps: basin, index, and the frame boundary at which each returns to SPARE (03 R97). -/
  returning : List (Fin 32 × Fin 9 × Nat)
  timers : Vector Timer 8
  /-- The level that timer n drives on ball GP(24 + n); none while the ball has its GPIO function (03 R111). -/
  balls : Vector (Option Bool) 8
  surveys : Vector Survey 4
  deriving DecidableEq, Repr

/-! ## Filters and detectors (04) -/

/-- Marks that rules set on windows of channels (01 Table 1.6, 04 Table 4.3). -/
inductive MarkKind where
  | settle
  /-- SETTLE on the windows that overlap an insulation measurement (02 Table 2.9). -/
  | settleSpan
  /-- A change of the basin's FIR coefficients (04 Table 4.3). -/
  | firChange
  | subst
  | xstep
  | caladj
  | ovr
  | stale
  /-- A holdover frame (06 R222). -/
  | holdover
  deriving DecidableEq, Repr

/-- A mark on the windows of some channels that overlap the ticks `first` to `last`; an exclusive one leaves out the
window that contains `last` (03 R769). -/
structure Mark where
  kind : MarkKind
  channels : BitVec 256
  first : Nat
  last : Nat
  exclusive : Bool
  /-- 0, or one more than the port whose isolation sets the mark (02 R68). -/
  tag : Nat
  deriving DecidableEq, Repr

/-- A branch of a channel (04). `words` are words 3 to 5 of FL_SET_BRANCH in force, `accepted` those that every accepted
command leaves, `waiting` a regime change and its T (R141, R143). -/
structure Branch where
  words : Vector Word 3
  accepted : Vector Word 3
  waiting : Option (Nat × Vector Word 3)
  /-- T at which the present regime began. -/
  regime : Nat
  /-- Sub-windows of the regime formed so far, and the tick at which the next begins. -/
  subs : Nat
  subStart : Nat
  /-- I1 at the end of the last sub-window. -/
  i1 : BitVec 72
  /-- In at the ends of the last sub-windows, newest first. -/
  combs : List (BitVec 72)
  /-- Corrected values of the last sub-windows of the regime, newest first (R136). -/
  corrected : List Int
  /-- I2 at the ends of the last coarse sub-windows, newest first. -/
  coarse : List (BitVec 72)
  winStart : Nat
  /-- First tick after the present window in line-cycle mode (R149). -/
  winEnd : Nat
  /-- That tick as R149 gives it at the window's start, and whether it is the one in force (R151). -/
  winLocal : Nat
  byLocal : Bool
  /-- Windows of the regime closed so far. -/
  windows : Nat
  /-- Sub-windows that R144 still marks, and the tick of the latest disturbance (R146). -/
  settleLeft : Nat
  disturbed : Nat
  /-- VALUE of the latest window that overlapped no foreground calibration (05 R192). -/
  held : Int
  deriving DecidableEq, Repr

/-- The digital trim of a modulator (04 R139). -/
structure Digital where
  dofs : BitVec 24
  dgain : BitVec 24
  engaged : Bool
  deriving DecidableEq, Repr

/-- The digital trim that corrected a channel's sub-windows up to a tick (04 R136). -/
structure PastTrim where
  chan : Fin 256
  before : Nat
  digital : Digital
  deriving DecidableEq, Repr

/-- The coefficients of a basin's channels up to a tick (04 R136, R154). -/
structure PastFir where
  basin : Fin 32
  before : Nat
  fir : Vector Word 8
  deriving DecidableEq, Repr

/-- The detector and comparator unit of a channel (04). -/
structure Detector where
  word : Word
  /-- Tick at which the block in progress began, its samples so far, their sums, extremes and flags. -/
  began : Nat
  count : Nat
  sum : Int
  sumSq : Nat
  max : Int
  min : Int
  flags : BitVec 8
  /-- The envelope state, with 8 fraction bits (R155). -/
  env : BitVec 32
  /-- RMS and envelope words are withheld until the first whole block after shedding (R158). -/
  withheld : Bool
  cmp : Vector Word 4
  out : Bool
  high : Bool
  deriving DecidableEq, Repr

/-- Filters and detectors (04): branch 2c + b is FBb of channel c. -/
structure Filters where
  branches : Vector Branch 512
  /-- The integrators of each channel as last presented; they wrap and are never cleared (R136). -/
  integ : Vector Cascade 256
  detectors : Vector Detector 256
  /-- Detector words as every accepted command leaves them (R131, R167). -/
  detAccepted : Vector Word 256
  cmpAccepted : Vector (Vector Word 4) 256
  /-- Claimants of FB0, FB1 and the detector and comparator unit (R129). -/
  owners : Vector (Vector (Option Owner) 3) 256
  /-- Coefficients C0 to C7 of each basin (Table 4.8). -/
  fir : Vector (Vector Word 8) 32
  marks : List Mark
  /-- LC_TRACK_LOST has been raised and not yet restored (R150). -/
  lcLost : Bool
  /-- The boundary that LC_BOUNDARY_MISSED last named; 0 before the first (R151). -/
  lcMissed : Nat
  /-- DET_SHED has been raised in this shedding interval, and the last block end withheld (R157). -/
  shedRaised : Bool
  lastWithheld : Nat
  /-- The last tick of the latest complete window of the timebase; none before the first (01 R35). -/
  lastWindow : Option Nat
  /-- Trims and coefficients that sub-windows of a window in progress still take (R136, R154). -/
  past : List PastTrim
  firPast : List PastFir
  /-- Windows whose row came before that of the comparator's source branch at the same tick (R161). -/
  deferred : List (Fin 256 × Fin 2 × WindowObs)
  /-- Band exits in the sample-to-core event queue while the core is stretched (R163). -/
  exits : List EventEntry
  deriving DecidableEq, Repr

/-! ## Calibration (05) -/

/-- A background calibration in progress: the index and gain code, and the boundary at which it began (05 Table 5.2). -/
structure Visit where
  index : Fin 9
  gain : Fin 8
  began : Nat
  deriving DecidableEq, Repr

/-- An accepted calibration whose trims wait for their boundary (05 Table 5.2, R193). -/
structure TrimLoad where
  m : Fin 288
  gain : Fin 8
  at_ : Nat
  word : Word
  digital : Digital
  /-- The p value that enters the node history, if the main reference is not suspect (05 R182). -/
  p : Option Rat
  foreground : Bool
  deriving DecidableEq, Repr

/-- What a modulator held at a gain code before its foreground trims were loaded, and the p value that entered the node
history with them (05 R775). -/
structure TrimUndo where
  word : Word
  digital : Digital
  tick : Option Nat
  p : Option Rat
  deriving DecidableEq, Repr

/-- What calibration or a self-test operates at a modulator (05 R173, R174): its switches to REFN_b, whether the node
stands at HALF for it, its chopper and its dither injector. -/
structure Stimulus where
  node : Bool
  half : Bool
  chopper : Bool
  dither : Bool
  deriving DecidableEq, Repr

/-- A foreground calibration, staged or running (05 R191 to R196, R775). -/
structure Foreground where
  start : Nat
  running : Bool
  /-- The state at S of each index taken; none of one not taken. -/
  taken : Vector (Option ModState) 9
  /-- The gain code each is calibrated at. -/
  gains : Vector (Fin 8) 9
  /-- Failures declared between S and E: their reason of 03 R98. -/
  failed : Vector (Option Nat) 9
  accepted : BitVec 9
  undo : Vector (Option TrimUndo) 9
  deriving DecidableEq, Repr

/-- A trim ramp of the H064 personality (05 R197, R198): the target word and the digital trim that completes it. -/
structure Ramp where
  m : Fin 288
  gain : Fin 8
  target : Word
  digital : Option Digital
  deriving DecidableEq, Repr

/-- What each basin's calibration holds (05 Tables 5.5 to 5.7, R174, R184 to R190). -/
structure CalBasin where
  policy : Word
  tolerance : Word
  /-- The boundary from which cycles are counted (05, "Background calibration"); none while BG_EN is 0. -/
  base : Option Nat
  /-- The next cycle must recalibrate the spare (R185). -/
  first : Bool
  lastVisited : Option (Fin 8)
  calCount : Word
  rejCount : BitVec 16
  fgCount : BitVec 16
  lastTime : Nat
  lastTick : Nat
  /-- The p values of the last eight accepted calibrations at each gain code, oldest first. -/
  history : Vector (List Rat) 8
  /-- The dither generator's register at the latest frame boundary (R774). -/
  dither : BitVec 7
  foreground : Option Foreground
  /-- The tick at which each local channel's gain code last changed (R184). -/
  gainTick : Vector Nat 8
  deriving DecidableEq, Repr

/-- The calibration engine (05). -/
structure Calibration where
  basins : Vector CalBasin 32
  /-- Background calibrations in progress. -/
  visits : Vector (Option Visit) 32
  /-- Trim words of each modulator at each gain code (Table 5.8). -/
  trims : Vector (Vector Word 8) 288
  digital : Vector Digital 288
  /-- The gain code of each modulator's last calibration (R185). -/
  lastGain : Vector (Fin 8) 288
  stimuli : Vector Stimulus 288
  /-- The tick of the last accepted calibration of each modulator at each gain code since chip reset (R184). -/
  calTick : Vector (Vector (Option Nat) 8) 288
  /-- Successive rejections of each modulator at each gain code (R177). -/
  rejRun : Vector (Vector Nat 8) 288
  loads : List TrimLoad
  ramps : List Ramp
  refcheck : Word
  suspect : Bool
  deriving DecidableEq, Repr

/-! ## Acquisition (09) -/

/-- Capture set states (09 Table 9.2). -/
inductive SetState where
  | free
  | idle
  | arming
  | armed
  | post
  | closing
  | full
  | done
  deriving DecidableEq, Repr

/-- What a capture set keeps of one of its channels in the open slot: windows computed since the slot opened, the block
in progress and its number, and whether that block overlaps a shed interval (09 R352 to R356, R377). -/
structure CapChan where
  chan : Fin 256
  n : Nat
  /-- Start tick of window 0, once it has begun. -/
  first : Nat
  started : Bool
  block : Nat
  count : Nat
  sum : Int
  sumSq : Nat
  max : Int
  min : Int
  flags : BitVec 8
  shed : Bool
  deriving DecidableEq, Repr

/-- A gap record in formation or formed (09 Table 9.6), by window numbers of the slot. -/
structure CapGap where
  cause : BitVec 4
  sect : BitVec 4
  firstN : Nat
  lastN : Nat
  deriving DecidableEq, Repr

/-- A capture set (09 Tables 9.9 to 9.12). -/
structure CapSet where
  state : SetState
  owner : Option Owner
  config : Vector Word 15
  trigger : Vector Word 6
  ridx : Word
  /-- Closed, unreleased records: their indices, oldest first. -/
  ready : List Word
  /-- Records closed since the set was armed (R363). -/
  closedRun : Nat
  ignPre : BitVec 16
  ignLate : BitVec 16
  ignBusy : BitVec 16
  forced : BitVec 16
  gapCount : BitVec 16
  truncs : BitVec 16
  /-- The tick at or after which the next slot's first window begins (R355). -/
  openAt : Option Nat
  openTick : Nat
  chans : List CapChan
  /-- Window starts of the set's lowest channel in line-cycle mode, newest first (R357). -/
  starts : List Nat
  trigK : Nat
  trigTick : Nat
  trigCause : BitVec 9
  decidedAt : Nat
  lastTrig : Word
  /-- Windows of the span as it will close, and the cause of Table 9.7 that ends it early. -/
  nwin : Nat
  truncCause : Nat
  /-- Where the set goes after a truncated record closes. -/
  after : SetState
  gaps : List CapGap
  /-- Gap records in formation, one for each cause and set of sections (R376). -/
  openGaps : List CapGap
  pendingTick : Nat
  patternPrev : Bool
  /-- One past the latest window of a row that carries a holdover mark (R378). -/
  holdover : Nat
  /-- The generation number in force since the slot opened (R381). -/
  generation : Word
  /-- Window length of the slot's regime in ticks, 0 in line-cycle mode. -/
  wlen : Nat
  deriving DecidableEq, Repr

/-- A TRIG pin: its word in force, and the pulse it drives, by its first tick and the tick after it (09 Table 9.11, R370). -/
structure TrigPin where
  word : Word
  pulseFrom : Nat
  pulseEnd : Option Nat
  deriving DecidableEq, Repr

/-- What held from a tick on: anchor, TIME_VALID, TIME_GEN, authority and epoch (09 Table 9.5, 12 R453). -/
structure Moment where
  tick : Nat
  anchorTick : Nat
  anchorTime : Nat
  valid : Bool
  gen : BitVec 16
  auth : Bool
  epoch : Word
  /-- The ring's generation number (07 R283, 12 R473). -/
  generation : Word
  deriving DecidableEq, Repr

/-- The acquisition and trigger engine (09). -/
structure Acquisition where
  sets : Vector CapSet 16
  pins : Vector TrigPin 4
  /-- Anchors and authority over time, newest first: what headers cite at a past tick (Table 9.5). -/
  moments : List Moment
  /-- The tick whose pattern-bit updates are being applied (R365). -/
  patternTick : Option Nat
  deriving DecidableEq, Repr

/-! ## Capture memory controller (10) -/

/-- Controller states (10 Table 10.11). -/
inductive MState where
  | uninit
  | training
  | filling
  | ready
  | failed
  | selfRefresh
  deriving DecidableEq, Repr

/-- What a memory request is for. -/
inductive MemUse where
  /-- A row of a capture set: kind section, first window and windows covered (09 R356). -/
  | capture (set : Fin 16) (sect : Fin 4) (firstN lastN : Nat)
  /-- A host access through BAR2 (14 R555). -/
  | host
  /-- The write back of MEM_INJECT_ERROR with codeword bits inverted (10, "Commands and parameter blocks"). -/
  | inject (mask : BitVec 72)
  /-- Self-test 2 (17). -/
  | test
  deriving DecidableEq, Repr

/-- A request accepted and not yet complete: requester code of Table 10.4, function charged, address, and the bytes of a
write or the length of a read. -/
structure MemReq where
  requester : Fin 6
  fn : BitVec 4
  write : Bool
  addr : Nat
  len : Nat
  data : List Byte
  use : MemUse
  deriving DecidableEq, Repr

/-- A row that the capture writer holds in its queue and buffer (10 R406, R407). -/
structure CapRow where
  set : Fin 16
  sect : Fin 4
  firstN : Nat
  lastN : Nat
  fn : BitVec 4
  addr : Nat
  data : List Byte
  deriving DecidableEq, Repr

/-- Activates of one row by one actor in the present refresh window (10, "Row-disturbance protection"). -/
structure RowCount where
  requester : Fin 6
  fn : BitVec 4
  ch : Nat
  rank : Nat
  bank : Nat
  row : Nat
  count : Nat
  deriving DecidableEq, Repr

/-- An activate by an actor and its tick, kept while it can still hold another back (10 R407, R415). -/
structure Activate where
  requester : Fin 6
  fn : BitVec 4
  ch : Nat
  rank : Nat
  bank : Nat
  row : Nat
  tick : Nat
  deriving DecidableEq, Repr

/-- An error-log entry (10 Table 10.12). -/
structure MemError where
  kind : BitVec 4
  req : Fin 8
  fn : BitVec 4
  addr : Nat
  syndrome : Byte
  tick : Nat
  deriving DecidableEq, Repr

/-- The capture memory controller and the device behind it (10). -/
structure Memory where
  mstate : MState
  initWord : Word
  initTick : Nat
  rank2 : Bool
  density : BitVec 2
  failStep : BitVec 4
  /-- CAP_SIZE in 4 KiB units; 0 before READY. -/
  capPages : Nat
  mr4 : Vector (BitVec 3) 2
  tempHigh : Bool
  dqsCount : Vector Nat 2
  policy0 : Word
  policy1 : Word
  /-- Bytes of the capture address space; an unlisted one reads 0 (R398). -/
  bytes : List Host.Cell
  /-- Inverted codeword bits by 8-byte word (R402); no entry is 0. -/
  flips : List (Nat × BitVec 72)
  requests : List MemReq
  /-- DRAM guarantee credit of functions 0 to 8, and on each channel the turn of level 5 and the consecutive hits of an open row
  that have passed older requests (10 R404, Table 10.5). -/
  credit : Vector Credit 9
  turns : Vector Turn 2
  hits : Vector Nat 2
  capture : List CapRow
  ceCh : Vector (BitVec 16) 2
  ueCount : BitVec 16
  wrRefused : BitVec 16
  preempts : BitVec 16
  throttleCount : BitVec 16
  scrubPasses : BitVec 16
  debtMax : Byte
  scrubPos : Nat
  passCe : Nat
  passUe : Nat
  /-- Refresh debt of rank r of channel c, index 2c + r, in eighths of tREFI (R412). -/
  debt : Vector Int 4
  /-- Where the present tREFI of each rank began, in millionths of a tick (10 R411, R412). -/
  refAt : Vector Nat 4
  /-- Where the present refresh window began, in millionths of a tick (10 R415). -/
  windowAt : Nat
  openRows : List ((Nat × Nat × Nat) × Nat)
  rowCounts : List RowCount
  activates : List Activate
  /-- Actors limited in a bank for the rest of the refresh window (R415): requester, function, channel, rank, bank. -/
  throttled : List (Fin 6 × BitVec 4 × Nat × Nat × Nat)
  errLog : List MemError
  errOverflow : Byte
  errTotal : BitVec 16
  deriving DecidableEq, Repr

/-! ## Compression (11) -/

/-- A column's state (11, "Prediction and coding"). -/
structure ColState where
  x1 : Int
  x2 : Int
  hist : Nat
  a : Nat
  n : Nat
  deriving DecidableEq, Repr

/-- A column of a job: its global channel and its resolved neighbours, column and weight (11 R425). -/
structure Column where
  gch : BitVec 13
  neighbours : List (Nat × Int)
  deriving DecidableEq, Repr

/-- A memory job, queued or running (11 R434 to R443, Table 11.9). -/
structure Job where
  id : BitVec 16
  fn : BitVec 4
  words : List Word
  running : Bool
  columns : List Column
  states : List ColState
  /-- CTX and CTX_CRC of the header, and SAMPLES of the chain so far. -/
  ctxCrc : Option Word
  samples : Nat
  nsamp : Nat
  done : Nat
  tiers : Nat
  effort : Nat
  effortMin : Nat
  /-- Words written (compression) or read (decompression) so far, and the payload words that a header announces. -/
  used : Nat
  payload : Nat
  /-- CRC-32C register over the original sample words. -/
  crc : Word
  listCrc : Word
  rawBlocks : BitVec 16
  verifyFail : BitVec 16
  cancelled : Bool
  /-- RESULT and RESP, once the job is to end (Table 11.6). -/
  result : Option (Nat × Nat)
  deriving DecidableEq, Repr

/-- The result words of an ended job (11 Table 11.10). -/
structure JobResult where
  id : BitVec 16
  fn : BitVec 4
  words : List Word
  deriving DecidableEq, Repr

/-- The compression engine (11). -/
structure Compression where
  map : Vector (Vector Word 4) 512
  nextId : BitVec 16
  jobs : List Job
  /-- Results of ended jobs, newest first; each function keeps its last 16 (R446). -/
  ended : List JobResult
  jobsDone : BitVec 16
  jobsFailed : BitVec 16
  verifyFail : BitVec 16
  streamTiers : BitVec 30
  /-- Effort is shed (R433). -/
  capped : Bool
  /-- Whose running job is served next, one tier each (R442). -/
  turn : Turn
  deriving DecidableEq, Repr

/-! ## Streams (12) -/

/-- A pending or travelling weir mark (12 Table 12.5). -/
structure WeirMark where
  point : Nat
  firstSeq : Nat
  lastSeq : Nat
  count : Nat
  /-- The header of the first item dropped, which the mark's own header follows, and SEQ of a compressed job whose later
  fragments are dropped too (12 R468). -/
  head : List Word
  job : Option Nat
  deriving DecidableEq, Repr

/-- A row of a segment (12 Table 12.1) with what its packet's header needs of it (12 R459, R473). -/
structure StreamRow where
  seq : Nat
  outTick : Nat
  words : List Word
  /-- T of the row's regime, and whether it is the first of the regime (12 R459). -/
  regime : Nat
  first : Bool
  holdover : Bool
  shed : Bool
  auth : Bool
  epoch : Word
  gen : Word
  /-- A weir mark stands before this row (12 R466). -/
  weir : Option WeirMark
  deriving DecidableEq, Repr

/-- The stream job that a compressed segment forms (12 R465, 11 R444): its rows so far, its columns, and the effort in
force when each of its tiers began (11 R433). -/
structure StreamJob where
  rows : List StreamRow
  columns : List Column
  efforts : List Nat
  deriving DecidableEq, Repr

/-- What a window or block of a channel gives a row of a segment (12 Table 12.1): its span, SEQ, regime and words. -/
structure PartWindow where
  chan : Fin 256
  start : Nat
  out : Nat
  seq : Nat
  regime : Nat
  first : Bool
  holdover : Bool
  shed : Bool
  words : List Word
  deriving DecidableEq, Repr

/-- A segment that this hub originates (12 R448 to R470). -/
structure Segment where
  home : HubId
  fn : BitVec 4
  stream : BitVec 2
  cfgSeq : Byte
  word0 : Word
  word1 : Word
  /-- Local channels, ascending. -/
  chans : List (Fin 256)
  start : Nat
  begun : Bool
  endAt : Option Nat
  /-- Depth of the queue in entries (12 R460). -/
  depth : Nat
  /-- Windows and blocks of its channels that have no row yet, oldest first. -/
  part : List PartWindow
  queue : List StreamRow
  /-- Words of the last queued rows that stand in the assembly register, and the tick of its last word (12 R461). -/
  assembly : Nat
  lastWord : Nat
  pend1 : Option WeirMark
  /-- Rows of the open packet, and the tick at which its last row arrived (12 R463). -/
  open_ : List StreamRow
  lastRow : Nat
  job : Option StreamJob
  lastSeq : Nat
  /-- Ring contract that the home hub carries (14 R568). -/
  share : Nat
  weight : Nat
  cls : Nat
  /-- An updated contract that waits for the next frame boundary, and the segment's guarantee credit (14 R568). -/
  newContract : Option (Nat × Nat × Nat)
  credit : Credit
  /-- Incarnation of the home hub when the segment was set up (12 R455). -/
  incarnation : BitVec 16
  deriving DecidableEq, Repr

/-- An origin of a stream as its home hub knows it (12 R450, R455). -/
structure Origin where
  hub : HubId
  cfgSeq : Byte
  ranges : List Word
  accepted : Bool
  /-- The segment belongs to an earlier configuration and goes with its END. -/
  ending : Bool
  lastSeq : Nat
  /-- Incarnation of the hub when its segment was set up (12 R455). -/
  incarnation : BitVec 16
  deriving DecidableEq, Repr

/-- A stream at its home hub (12 Tables 12.9, 12.10). -/
structure Stream where
  /-- Words 0, 1 and 4 of ST_SET_STREAM in force. -/
  word0 : Word
  word1 : Word
  word4 : Word
  cfgSeq : Byte
  origins : List Origin
  /-- F of a set-up, deletion or flush that waits for its origins' replies, and the origins still to reply. -/
  setupF : Nat
  awaits : List HubId
  packets : Word
  weirMarks : BitVec 16
  stallCloses : BitVec 16
  rowsDropped : Word
  duplicates : BitVec 16
  lateSegments : BitVec 16
  lastSeq : Nat
  /-- Packets that wait for their SQ, oldest first, each with the SEQ of its last row (14 R545). -/
  delivery : List (List Word × Nat)
  deriving DecidableEq, Repr

/-- Streams of functions 0 to 8, index 4f + s, the segments this hub originates, and the packets delivered within the
last 1 ms with their ticks (12 R472). -/
structure Streams where
  streams : Vector Stream 36
  segments : List Segment
  recent : List (List Word × Nat)
  /-- Pending weir marks of points 3 and 4: point, the ORIGIN, HOME, STREAM and FUNC fields, and the mark (12 R466). -/
  marks : List (Nat × Word × WeirMark)
  deriving DecidableEq, Repr

/-! ## Serial lanes and the Rill link (13) -/

/-- Lane states (13 Table 13.9). -/
inductive LState where
  | disabled
  | detect
  | train
  | up
  | sleep
  | silent
  | test
  | refused
  deriving DecidableEq, Repr

/-- What a lane sends in a block slot (13 R492). -/
inductive SlotBlock where
  | idle
  | control (type : Byte) (payload : BitVec 56)
  | message (b : WireBlock)
  deriving DecidableEq, Repr

/-- A message placed on a lane: the blocks that are still to be sent (13 R496). -/
structure TxMessage where
  message : Message
  blocks : List WireBlock
  deriving DecidableEq, Repr

/-- A message that a lane is receiving: its SOM, the words of the data blocks so far, and those with an invalid sync header
(13 R493, R496). -/
structure RxMessage where
  som : BitVec 56
  words : List Word
  bad : Nat
  deriving DecidableEq, Repr

/-- Why a lane left UP, in the order that settles which of them in one block time counts (13 R514). -/
inductive DownCause where
  | lossOfSignal
  | lossOfLock
  | silent
  deriving DecidableEq, Repr

/-- The place of a cause in the order of 13 R514. -/
def DownCause.rank : DownCause → Nat
  | .lossOfSignal => 0 | .lossOfLock => 1 | .silent => 2

/-- A lane (13 Tables 13.9, 13.15, 13.16). -/
structure Lane where
  lstate : LState
  /-- The lane drives the unannounced electrical idle of R508, or the idle of step 2 of R504. -/
  idle : Bool
  rateIdle : Bool
  /-- RATE_SEL as the latest TRAIN block of the peer leaves it (R504). -/
  rateSel : BitVec 3
  rate : BitVec 3
  rxInv : Bool
  /-- LINDEX of the peer lane heard. -/
  peerIndex : Option (BitVec 3)
  peerHub : HubId
  reversed : Bool
  logical : BitVec 3
  cautious : Bool
  latched : Bool
  tec : Nat
  rec_ : Nat
  crcErr : BitVec 16
  shErr : BitVec 16
  resent : BitVec 16
  spilled : BitVec 16
  losCount : BitVec 16
  lolCount : BitVec 16
  bringups : BitVec 16
  silences : BitVec 16
  ampMv : BitVec 16
  eye : BitVec 16
  upSince : Nat
  /-- Bring-up counters: TRAIN blocks with equal RATE_SEL in TSTATE 1, and consecutive ones in TSTATE 2 (R504). -/
  agreed : Nat
  ready : Nat
  /-- The receiver trains at the agreed rate: steps 3 and 4 of R504. -/
  resumed : Bool
  /-- TRAIN blocks of its own sent in TSTATE 1 with the present RATE_SEL, or in TSTATE 2 (R504). -/
  trainsSent : Nat
  /-- Ticks at which the lane entered TRAIN, began its electrical idle, and last carried a message block (R504, R508, R517). -/
  trainAt : Nat
  idleSince : Nat
  lastBlock : Nat
  /-- Ticks of the entries into SILENT within the last 10 s (R513). -/
  silentTicks : List Nat
  los : Bool
  /-- The word of LN_TEST in force. -/
  testWord : Word
  chkLock : Bool
  bits : Nat
  errors : Word
  /-- An injection of R525 into the next block or message waits. -/
  inject : BitVec 3
  /-- What is due in the lane's block slots (13 R492, R496): copies of TIME and HEART blocks, FLOW blocks, messages not yet
  begun, and the open ones, the most recently opened first. -/
  timing : List (Byte × BitVec 56)
  flows : List (BitVec 56)
  placed : List TxMessage
  opened : List TxMessage
  /-- What the lane sent in its latest block slot. -/
  slot : SlotBlock
  /-- The messages that the lane is receiving, the most recently opened first (13 R496). -/
  receiving : List RxMessage
  /-- The cause recorded for leaving UP, and the tick at which it was (13 R514). -/
  downCause : Option DownCause
  downAt : Nat
  deriving DecidableEq, Repr

/-- One class of one side's link (13 R497 to R500). -/
structure LinkClass where
  waiting : List Sent
  replay : List Sent
  nextLseq : BitVec 12
  sentCum : BitVec 24
  creditCum : BitVec 24
  /-- The next LSEQ to deliver, the messages held ahead of it, and the data blocks released. -/
  expected : BitVec 12
  anyReceived : Bool
  ahead : List (BitVec 12 × WireMessage)
  /-- The turns of the round robins of R568: of own (0) and forwarded (1) messages, and of the functions of its own, numbered as
  `flowNumber` numbers them. -/
  passTurn : Turn
  flowTurn : Turn
  /-- The tick from which the 2 µs run after which a missing LSEQ is asked for (R498). -/
  aheadAt : Nat
  released : BitVec 24
  deriving DecidableEq, Repr

/-- The lanes (13): groups EAST, WEST and PAIR, and the link of each side by class. -/
structure Lanes where
  lanes : Vector Lane 16
  /-- LN_SET_GROUP words of EAST, WEST and PAIR (Table 13.12), GROUP included. -/
  groups : Vector (Vector Word 2) 3
  links : Vector (Vector LinkClass 4) 3
  /-- AUX_MODE in force since the last chip reset (R485). -/
  auxMode : BitVec 2
  /-- Lane rate is shed (R510). -/
  rateShed : Bool
  /-- Groups whose rate change waits for its turn, in order (R509). -/
  rateTurns : List (Fin 3)
  deriving DecidableEq, Repr

/-! ## Self-test (17) -/

/-- A run of test 1 to 7, staged or running (17 Table 17.6). -/
structure TestRun where
  test : Nat
  runId : BitVec 16
  origin : Nat
  first : Nat
  count : Nat
  arg1 : Word
  arg2 : Word
  startAt : Nat
  started : Bool
  abort : Bool
  /-- Units that the run has not finished with, numbered as FAIL_UNIT numbers them (test 2 counts groups instead). -/
  left : List Nat
  /-- The next group of test 2. -/
  next : Nat
  /-- Calibration cycles that each basin has begun in the run, as one entry per cycle (17 R680). -/
  cycles : List Nat
  deriving DecidableEq, Repr

/-- A modulator under test 3 (17 R676): its number, the boundary at which the test began, and for a test given up by
TS_ABORT the boundary at which the modulator returns to SPARE (17 R698). -/
structure ModTest where
  m : Fin 288
  began : Nat
  back : Option Nat
  deriving DecidableEq, Repr

/-- Self-test and test access (17). -/
structure SelfTest where
  runs : List TestRun
  results : Vector TestResult 9
  nextRun : BitVec 16
  /-- WARM_BIST keeps its value over warm chip resets (17 Table 17.7). -/
  warmBist : Bool
  sched : BitVec 7
  periodH : BitVec 16
  /-- Withdrawn blocks of the segment queue pool (17 R673). -/
  withdrawn : List Nat
  /-- The tick at which test 1 last tested a block (17 R672), and those from which PERIOD_H of each test runs (17 Table 17.7). -/
  blockAt : Option Nat
  schedFrom : Vector Nat 8
  modTests : List ModTest
  /-- Tests that have fallen due by schedule and wait for shedding level 0 (17 R699). -/
  schedDue : List Nat
  /-- Next step of each source of test 4 that has passed a step, and the frames that its 10 mA step has waited (17 R681,
  R682). -/
  sourceSteps : List (Fin 128 × Nat × Nat)
  /-- Readings of test 4 at 1 mA, by source, for the matching check (17 R681). -/
  matched : List (Fin 128 × Int)
  tapInstruction : Byte
  /-- Pin control of the instruction in force has taken effect (17 R691). -/
  tapPinControl : Bool
  /-- SCAN_MODE has been in force since PORST_N was asserted (17 R695). -/
  scanUsed : Bool
  deriving DecidableEq, Repr

/-! ## Staged changes (02 R51) -/

/-- A change that an accepted command stages for a frame boundary, by unit. -/
inductive Change where
  /-- A time step at its boundary (06 R206). -/
  | timeStep (t : TimeStep)
  /-- TB_SET_SOURCES words (06 Table 6.13). -/
  | tbSources (w0 w1 : Word)
  /-- TB_SET_HOLDOVER words (06 Table 6.15). -/
  | tbHoldover (w0 w1 w2 : Word)
  /-- TB_SET_MAINS words (06 Table 6.16). -/
  | tbMains (w0 w1 : Word)
  /-- BCN_SET word (06 Table 6.17). -/
  | bcnSet (w : Word)
  /-- RING_SET_POLICY words (07 Table 7.12). -/
  | ringPolicy (w0 w1 : Word)
  /-- RING_SET_HOP: ASYM of a side (07 Table 7.15). -/
  | ringHop (side : Side) (asym : Vector (BitVec 16) 5)
  /-- PAIR_SET_POLICY words (08 Table 8.8). -/
  | pairPolicy (w0 w1 : Word)
  /-- PAIR_SET_LINK: ASYM of the pair lanes (08, "Commands and parameter blocks"). -/
  | pairLink (w : Word)
  /-- Connection words of a basin's 16 terminals (02 Table 2.3). -/
  | connections (b : Fin 32) (ws : List Word)
  /-- Source words of a basin (02 Table 2.12). -/
  | excitation (b : Fin 32) (ws : List Word)
  /-- Bias and guard word of a basin (02 Table 2.13). -/
  | biasGuard (b : Fin 32) (w : Word)
  /-- Overvoltage word (02 Table 2.14). -/
  | overvoltage (w : Word)
  /-- A mirrored diagnostic request at its mirror boundary (08 R334). -/
  | diagnostic (r : DiagReq)
  /-- A mirrored cancel of a diagnostic slot at its mirror boundary (08 R334). -/
  | diagCancel (slot : Fin 8)
  /-- A mirrored release of a latched port at its mirror boundary (08 R334). -/
  | releaseIsolation (p : Fin 128)
  /-- Channel word of a basin (03 Table 3.9). -/
  | channels (b : Fin 32) (w : Word)
  /-- A retirement by command before the timebase starts (03, 18 R721). -/
  | retire (m : Fin 288)
  /-- A survey sequence, in force at the first start event after its boundary (03 R121). -/
  | surveySequence (sv : Fin 4) (w : Word) (entries : Vector (Vector Word 5) 16)
  /-- A mirrored SV_START: its start event is at its boundary (08 R334). -/
  | surveyStart (sv : Fin 4)
  /-- A timer's five words (03 Table 3.14). -/
  | timer (t : Fin 8) (w : Word) (start : Nat) (period duty : Word)
  /-- Branch words 3 to 5 of a branch; `regime` if the command starts a new regime (04 R141, R143). -/
  | branch (i : Fin 512) (ws : Vector Word 3) (regime : Bool)
  /-- FIR coefficients of a basin (04 Table 4.8). -/
  | fir (b : Fin 32) (ws : Vector Word 8)
  /-- The detector word of a channel (04 Table 4.9). -/
  | detectors (c : Fin 256) (w : Word)
  /-- The comparator words of a channel (04 Table 4.10). -/
  | comparator (c : Fin 256) (ws : Vector Word 4)
  /-- A mirrored FL_RELEASE at its mirror boundary (08 R334): units by mask. -/
  | flRelease (c : Fin 256) (mask : BitVec 3)
  /-- The policy and tolerance words of a basin (05 Tables 5.5, 5.6). -/
  | calPolicy (b : Fin 32) (policy tolerance : Word)
  /-- A trim word written by CAL_WRITE_TRIM (05 Table 5.8). -/
  | trim (m : Fin 288) (g : Fin 8) (w : Word)
  /-- CAL_SET_REFCHECK (05 Table 5.9). -/
  | refcheck (w : Word)
  /-- CAP_ARM: arm or disarm a set (09, "Commands and parameter blocks"). -/
  | capArm (set : Fin 16) (arm : Bool)
  /-- CAP_DELETE of a set (09 Table 9.7 cause 1). -/
  | capDelete (set : Fin 16)
  /-- The trigger words of a set (09 Table 9.10). -/
  | capTrigger (set : Fin 16) (ws : Vector Word 6)
  /-- CAP_RELEASE has freed the slot that a FULL set waits for (09 R355). -/
  | capRelease (set : Fin 16)
  /-- The words of TRIG0 to TRIG3 (09 Table 9.11). -/
  | capPins (ws : Vector Word 4)
  /-- MEM_SET_POLICY words (10 Table 10.10). -/
  | memPolicy (w0 w1 : Word)
  /-- A stream's configuration words 0, 1 and 4 come into force at its home hub (12 R453, R454). -/
  | stream (fn : BitVec 4) (stream : BitVec 2) (w0 w1 w4 : Word)
  /-- Words of a lane group (13 Table 13.12). -/
  | laneGroup (g : Fin 3) (w0 w1 : Word)
  /-- FN_SET_VIEW: a function's view and capture range (14 R536). -/
  | fnView (f : Fn) (view : List ChanRange) (page pages : Nat)
  /-- FN_SET_QOS: contract words of a function (14 Table 14.16). -/
  | fnQos (f : Fn) (ws : Vector Word 4)
  /-- FN_SET_BUDGET (14). -/
  | fnBudget (budget : BitVec 16)
  /-- HL_SET_THRESHOLDS (16 Table 16.12). -/
  | thresholds (w0 w1 : Word)
  /-- HL_SET_PEAK (16 Table 16.14). -/
  | peak (w : Word)
  /-- TS_SET_SCHEDULE (17 Table 17.7). -/
  | schedule (w0 w1 : Word)
  /-- HL_SET_WATCHDOG (16). -/
  | watchdog (ms : BitVec 16)
  /-- HL_SET_CALENDAR: CAL_AUTO, and CAL_SEC if SET (16 R665). -/
  | calendar (auto : Bool) (set : Option Word)
  deriving DecidableEq, Repr

/-- A staged change: the boundary it is for, the tick at which it was accepted, and the change (02 R49, 01 R27). -/
structure Staged where
  at_ : Nat
  accepted : Nat
  change : Change
  deriving DecidableEq, Repr

/-- The state of the hub. -/
structure State where
  /-- The commands that wait, first in, first out. -/
  pending : List Instr
  /-- The timebase, the beacon and the mains tracker (06). -/
  tb : Timebase
  /-- The cascade ring (07). -/
  ring : Ring
  /-- The redundant pair (08). -/
  pair : Pair
  /-- The front end (02). -/
  fe : FrontEnd
  /-- Modulators, survey converters and event timers (03). -/
  cv : Converters
  /-- Filters and detectors (04). -/
  fl : Filters
  /-- The calibration engine (05). -/
  cal : Calibration
  /-- Capture sets, triggers and TRIG pins (09). -/
  cap : Acquisition
  /-- The capture memory controller (10). -/
  mem : Memory
  /-- The compression engine (11). -/
  cmp : Compression
  /-- Streams, segments and queues (12). -/
  st : Streams
  /-- Serial lanes and the Rill link (13). -/
  ln : Lanes
  /-- The host interface (14). -/
  host : HostIf
  /-- Fountainhead (15). -/
  fh : Fountainhead
  /-- Monitors, shedding and the event log (16). -/
  hl : Health
  /-- Self-test and test access (17). -/
  ts : SelfTest
  /-- Supplies, straps and boot (18). -/
  pwr : Power
  /-- The always-on domain (16). -/
  ao : AlwaysOn
  /-- Changes staged for frame boundaries, in acceptance order (02 R51). -/
  staged : List Staged
  /-- The model's own: free values drawn so far (`Config.freeWord`). -/
  freeCtr : Nat
  /-- The model's own: what has left the hub. -/
  out : Outbox
  deriving DecidableEq, Repr

/-- A queue block after a chip reset: disabled (14 R575, Table 14.8). -/
def Queue.reset : Queue := {}

/-- The MSI-X table after a reset: every vector masked, address and data 0 (PRESUMED, the PCI Express specification;
assumption 7). -/
def msixReset : Vector Word 256 := Vector.ofFn (fun i : Fin 256 => if i.val % 4 = 3 then 1 else 0)

/-- The interrupt and queue state of a function after a function reset (14 R560, Tables 14.8, 14.9). -/
def Func.reset : Func :=
  { queues := vall 7 Queue.reset, intCause := 0, intMask := 0x00001FFF,
    intVec := Vector.ofFn (fun n : Fin 4 => wd (4 * n.val + 256 * (4 * n.val + 1) + 65536 * (4 * n.val + 2)
      + 16777216 * (4 * n.val + 3))),
    moderated := [], heldCauses := [], msixEn := false, msixTable := msixReset, msixPending := 0, bme := false,
    d3hot := false, inReset := false, view := [], rangePage := 0, rangePages := 0,
    contract := vset (vset (vset (vset (vall 4 0) 0 0x00000200) 1 0x00001000) 2 0x00001000) 3 0x00001000,
    hmeInfo := 0, hmeAddr := 0 }

/-- The function slot `f` after a chip reset: PF0's and AF's view is total, PF0's range is the whole capture address
space, a VF's view and range are empty (14 R534, R575). -/
def Func.atReset (f : Fn) : Func :=
  if f.val = 0 then { Func.reset with view := [{ first := 0, count := 8192 }], rangePage := 0, rangePages := 1048576 }
  else if f.val = 9 then
    { Func.reset with view := [{ first := 0, count := 8192 }], contract := vset Func.reset.contract 0 0x0000020A }
  else { Func.reset with contract := vset Func.reset.contract 0 (wd (0x00000200 + f.val)) }

/-- The SPI port after a chip reset: empty buffers (14 Table 14.12). -/
def Spi.reset : Spi := { commands := [], replies := [], events := [], pushErr := false, evtLost := false, output := [] }

/-- A PCIe port with its link down and its PERST_N asserted. -/
def Port.reset : Port := { perst := true, linkUp := false, rate := 0, width := 0 }

/-- The host interface after a chip reset (14 R575). -/
def HostIf.reset : HostIf :=
  { funcs := Vector.ofFn Func.atReset, afSq := vall 36 Queue.reset, afSqCause0 := 0, afSqCause1 := 0,
    afSqMask0 := 0xFFFFFFFF, afSqMask1 := 0x0000000F, vfEnable := false, numVfs := 0, ringBudget := 0x0069,
    overcommit := [], compat := false, spiIrqEn := false, spiEvtEn := false, cfgLock := false, lastReset := 0,
    spi := Spi.reset, hostPort := Port.reset, auxPort := Port.reset, resets := [],
    pcieCredit := vall 9 { units := 0, at_ := 0 }, pcieLast := vall 2 0, pcieTurn := vall 2 { fn := 0, left := 0 } }

/-- Fountainhead after a chip reset: not ready, policy at its reset value, every counter 0 (15 R623). -/
def Fountainhead.reset : Fountainhead :=
  { fwReady := false, waiting := [], owed := [], replies := [], relays := [], relayWaiting := [], nextRelay := 0,
    executed := [], relayMs := 0x14, reqAuth := 0, accepted := 0, rejected := 0, headerErrors := 0, authFails := 0,
    noResponses := 0, lateReplies := 0, maxDecideUs := 0, lateApplies := 0, restarts := 0, failTicks := vall 10 [],
    locked := 0, lockedAt := vall 10 0, lastSource := 11, staging := [], patch := none, restarting := false, patchNext := none,
    v1SeqCq := 0, v1SeqSpi := 0 }

/-- An empty command-key slot of a fresh part (15, "Authentication"). -/
def KeySlot.empty : KeySlot := { key := none, lastSeq := 0, seqRes := 0 }

/-- A lifetime counter at 0 (16 Table 16.3): every strip all RESET, every high word 0 (16 R635). -/
def LedgerCounter.zero : LedgerCounter := { strips := vall 4 (vall 32 .reset), highs := vall 4 0 }

/-- The ledger as final test leaves it (16 Table 16.3). -/
def Ledger.reset : Ledger :=
  { counters := vall 30 LedgerCounter.zero, journal := [], pending := vall 30 0, hourly := vall 30 0,
    fraction := vall 30 0, sparesUsed := 0, anomalies := 0, refreshes := 0 }

/-- The calendar after a loss of VBAT: 2000-01-01 00:00:00 (16 Table 16.16). -/
def Calendar.reset : Calendar := { sec := 0, sub := 0, trim := 0, auto := true, synced := false, repeated := false }

/-- Peak accounting with nothing used (16 R647). -/
def Peak.reset : Peak :=
  { buckets := vall 96 0, bucket := 0, cont := 0, off := 0, frames := 0, offFrames := 0, inPeak := false, spent := false, stress := [] }

/-- A result record of a test never run (17 R700). -/
def TestResult.reset : TestResult :=
  { rstate := 0, origin := 0, runId := 0, tested := 0, failed := 0, skipped := 0, failCode := 0, schedSkips := 0,
    failUnit := 0, failValue := 0, startTick := 0, endTick := 0, endCalSec := 0 }

/-- The always-on domain of a fresh part: empty key store, no last-words record, ledger at 0. -/
def AlwaysOn.reset : AlwaysOn :=
  { keys := vall 10 KeySlot.empty, bcnCounter := 0, bcnRes := 0, patchFloor := 0, zeroPending := false,
    calendar := Calendar.reset, ledger := Ledger.reset, peak := Peak.reset, lastWords := [], lwSeq := 0,
    heldMessages := [], identity := 0, auxMode := 0, epoch := 0, incarnation := 0, scanArmed := false,
    result0 := TestResult.reset, result8 := TestResult.reset, lastStraps := none, seqBreachUp := 0,
    seqBreachDown := 0, standbyEntrySec := 0 }

/-- Health after a chip reset: thresholds, WD_MS and peak word at their reset values, an empty event log, HEALTHY 1
(16 R667, Tables 16.12 to 16.14). -/
def Health.reset : Health :=
  { log := [], overflow := 0, holds := [], noted := [], ts := vall 12 0, rails := vall 12 0, ro := vall 8 0,
    thresholds0 := 0x7D1E0000, thresholds1 := 0x0000002D, tempWarned := false, coolRun := 0, railOutRun := vall 12 0,
    railInRun := vall 12 0, railWarned := vall 12 false, wdMs := 1000, healthy := true, watchdogTick := 0,
    peakWord := 0x025821C0, lThermal := 0, level := 0, hot := false, cool := false, levelSince := 0, levelBudget := false, tripRun := 0,
    thermalHold := false, droop := false, stretchTicks := [], longestNs := 0, pll300 := false,
    lockedHour := true, hourSeconds := 0, leapSecond := 0 }

/-- Supplies and straps right after reset: every rail valid, PORST_N released, out of standby, every strap ball open and
so read 0 (18 R712). -/
def Power.reset : Power :=
  { rails := vall 12 true, porstN := true, stbyN := true, pwrEn := true, held := false, standby := false, straps := 0,
    booting := true, scriptLeft := [], scriptIndex := 0, scriptOk := 0 }

/-- The mains tracker after a chip reset: P̂ is the F_NOM value (06 R241, Table 6.19). -/
def Mains.reset : Mains :=
  { phat := 251658240, xhat := 0, run := 0, lastGood := 0, tracking := false, started := false, accepted := 0,
    rejected := 0 }

/-- The beacon after a chip reset: OFF, every counter 0 (06 R247, Table 6.20). -/
def Beacon.reset : Beacon :=
  { state := .off, badRun := 0, notch0 := 0, notch1 := 0, validTime := 0, validCmd := 0, crcErr := 0, manchErr := 0,
    satAbort := 0, authFail := 0, badSlots := 0, unknown := 0, lenErr := 0, rsvErr := 0, edgeTick := 0, edgeSub := 0,
    edgeTime := 0, offsetNs := 0, srcId := 0, bgUa := 0, run := [], acquiredId := 0, slotGood := false, slotEnd := 0,
    within2us := 0, beyond8us := 0 }

/-- The empty drift model (06 R225, R247). -/
def DriftModel.empty : DriftModel :=
  { c := vall 4 0, cov := none, tf := 1600, began := none, residuals := [], rms24 := 0, learned := 0 }

/-- The timebase after a chip reset: STOPPED, every command word at its reset value (06 R247). -/
def Timebase.reset : Timebase :=
  { started := false, tick := 0, frameTick := 0, t0 := 0, role := .root, state := .stopped, ref := .none,
    timeSrc := .none, anchorTick := 0, anchorTime := 0, timeGen := 0, timeValid := false, utcOffset := 0,
    leapIns := false, leapDel := false, sources0 := 0x02000010, sources1 := 0x0000000A, holdover0 := 0x8000012C,
    holdover1 := 0x000F4240, holdover2 := 0x000003E8, mains0 := 0x0F463242, mains1 := 0x00000BB8,
    bcnWord := 0x00010000, refclkOk := false, refclk25 := false, refclkInRun := 0, refclkOutRun := 0,
    refclkOfs := 0, flyRef := false, osc := 0, ringOk := false,
    peerOk := false, ringMissing := 0, peerMissing := 0, phaseErr := 0, freq := 0, lockRun := 0, exceedRun := 0,
    hoTick := 0, ph0 := 0, hoBound := 0, degraded := false, holdoverFrame := false, lockedFreqs := [], lockedSince := 0,
    hostStep := none, model := DriftModel.empty, mains := Mains.reset, beacon := Beacon.reset }

/-- A side after a chip reset: down, every word of 07 Table 7.15 at its reset value (07 R294). -/
def SideState.reset : SideState :=
  { up := false, upSince := 0, looping := false, unwrapAt := none, unwrapped := false, cleanSince := 0,
    txSeq := 0, txT1 := 0, rxDone := false, rxSeq := none, t1 := none,
    t2 := 0, t3 := 0, n := 0, rttSum := 0, thetaSum := 0, rttAvg := 0, thetaAvg := 0, integ := 0, ttLost := 0,
    outliers := 0, asym := vall 5 0, record := vall 8 0, incoming := vall 8 0, arrived := 0, complete := false,
    qualified := false, lowerRun := 0, measured := false, missed := 3 }

/-- The ring after a chip reset: FORMING, IDLE, generation 0, policy words at their reset values (07 R282, R294). -/
def Ring.reset : Ring :=
  { hubId := 0, rstate := .forming, mrole := .member, refuse := 0, master := none, masterUid := 0, hops := 0,
    refSide := none, members := [], stable := 0, memberMask := 0, heldSince := 0, wraps := 0, elections := 0,
    latencyNs := 0, generation := 0, policy0 := 0x000A4008, policy1 := 0x003C0000, east := SideState.reset,
    west := SideState.reset, mismatchSince := 0, handover := none,
    mc := { state := .idle, g := 0, c := 0, staged := [], units := [], pending := none }, genMixed := 0, genSince := 0,
    ownHops := none, absent := [], refusedIds := [], askedEast := none, askedWest := none, asymEast := none,
    asymWest := none, electDue := false, downHops := [] }

/-- A heartbeat path that has delivered nothing. -/
def BeatPath.reset : BeatPath := { alive := false, last := 0, lost := false, run := 0, conflictRun := 0, conflictLast := 0 }

/-- The pair after a chip reset with PAIR_EN low: SOLO, policy words at their reset values (08 R296, R348). -/
def Pair.reset : Pair :=
  { en := false, unitB := false, pstate := .solo, peerEpoch := 0, transfers := 0, lastTransfer := 0,
    policy0 := 0xE00A012C, policy1 := 0x00000005, asym := 0, link := BeatPath.reset, hbx := BeatPath.reset,
    lanesUp := false,
    peer := { pstate := 0, auth := false, healthy := false, srcOff := true, rmaster := false, ready := false,
              mirrorSeq := 0 },
    unhealthyRun := 0, beatSeq := 0, lastBeat := none, peerBeat := none, srcOff := true, split := vall 128 .off, stopped := 0,
    refs := vall 128 none, preRamp := vall 128 none, disturbed := vall 128 none, lastWitness := none,
    engagements := [], failedAt := none, followMode := false, conflict := false, handoverAt := none, image := [],
    imageComplete := false, imageGeneration := 0, imageSent := false, resyncAt := none, splitRestoreAt := none,
    mergeBump := false, mergeLost := false, nextState := none, forced := false, rseqSent := 0, rseqApplied := 0, records := [],
    rseqTaken := none, recordsAhead := [], mirrorLate := 0, witnessRamps := 0, witnessReturns := 0, diverged := false,
    divergeRun := 0, side := SideState.reset }

/-- The front end after a chip reset: no terminal joined to anything (02 R85). -/
def FrontEnd.reset : FrontEnd :=
  { conn := vall 512 0, src := vall 128 0, bias := vall 32 0, ovWord := 0x0000300A, configTick := vall 32 0,
    isolated := 0, heldConn := vall 512 0, guard := vall 32 .off, busHeld := false, ovBits := 0, latched := 0, trips := [],
    isolations := [], recloseDue := 0, outOfRange := 0,
    diverted := 0, compliance := 0, biasFault := 0, guardFault := 0, diagRunning := none, diagQueue := [],
    diagSlots := vall 8 none, diagNext := 0 }

/-- Index `i` of a basin after a cold reset: 0 to 7 serve, 8 is the spare (03 R127). -/
def ModState.atReset (i : Nat) : ModState := if i = 8 then .spare else .serving

/-- A timer at its reset values (03 R127). -/
def Timer.reset : Timer := { word := 0, start := 0, period := 0, duty := 0, effect := 0, next := 0, ticks := 0, level := false }

/-- A cleared survey result with its comparator IN (03 R119, Table 3.13). -/
def SurveyResult.reset : SurveyResult :=
  { sum := 0, full := false, cmpOut := false, cmpHigh := false, count := 0, min := 8388607, max := -8388608, ovr := 0,
    skip := 0, blockSum := 0, blockCount := 0 }

/-- A survey entry at its reset value (03 Table 3.12). -/
def surveyEntryReset : Vector Word 5 := vset (vall 5 0) 0 0x80800000

/-- A survey converter after a chip reset (03 R127). -/
def Survey.reset : Survey :=
  { seqWord := 0, entries := vall 16 surveyEntryReset, next := none, running := none, slotAt := 0, skip := none,
    results := vall 16 SurveyResult.reset, firstTick := 0, lastTick := 0, sequences := 0, missed := 0, shedCount := 0 }

/-- The converter array after a cold reset (03 R127). -/
def Converters.reset : Converters :=
  { mods := Vector.ofFn (fun m : Fin 288 => ModState.atReset (m.val % 9)),
    assign := Vector.ofFn (fun c : Fin 256 => BitVec.ofNat 4 (c.val % 8)), swaps := vall 32 0, retired := 0,
    chanWord := vall 32 0, overlaps := vall 32 none, subs := [], returning := [], timers := vall 8 Timer.reset,
    balls := vall 8 none,
    surveys := vall 4 Survey.reset }

/-- The words of FB0 and FB1 after a chip reset: order 3, DECIM 12,288, m = 1; FB0 alone enabled (04 R168). -/
def branchWordsReset (b : Nat) : Vector Word 3 :=
  vset (vset (vall 3 0) 0 (if b = 0 then 0x86000000 else 0x06000000)) 1 0x00003000

/-- A branch after a chip reset: the first regime of FB0 begins at tick 0 (04 R168). -/
def Branch.reset (b : Nat) : Branch :=
  { words := branchWordsReset b, accepted := branchWordsReset b, waiting := none, regime := 0, subs := 0, subStart := 0,
    i1 := 0, combs := [], corrected := [], coarse := [], winStart := 0, winEnd := 0, winLocal := 0, byLocal := false, windows := 0, settleLeft := 0,
    disturbed := 0, held := 0 }

/-- Detectors and comparator disabled, comparator IN (04 R168). -/
def Detector.reset : Detector :=
  { word := 0, began := 0, count := 0, sum := 0, sumSq := 0, max := 0, min := 0, flags := 0, env := 0, withheld := false,
    cmp := vall 4 0, out := false, high := false }

/-- The coefficient set of DC gain 1 that passes the centre tap alone (04 Table 4.8). -/
def firReset : Vector Word 8 := vset (vall 8 0) 7 0x00010000

/-- Filters and detectors after a chip reset (04 R168). -/
def Filters.reset : Filters :=
  { branches := Vector.ofFn (fun i : Fin 512 => Branch.reset (i.val % 2)), integ := vall 256 (vall 5 0),
    detectors := vall 256 Detector.reset, detAccepted := vall 256 0, cmpAccepted := vall 256 (vall 4 0),
    owners := vall 256 (vall 3 none), fir := vall 32 firReset, marks := [], lcLost := false, lcMissed := 0, shedRaised := false,
    lastWithheld := 0, lastWindow := none, past := [], firPast := [], deferred := [], exits := [] }

/-- The neutral digital trim (05 R200, 04 R168). -/
def Digital.neutral : Digital := { dofs := 0, dgain := 0x400000, engaged := false }

/-- No switch to the node closed, chopper and dither off. -/
def Stimulus.off : Stimulus := { node := false, half := false, chopper := false, dither := false }

/-- A basin's calibration after a chip reset (05 R200). -/
def CalBasin.reset : CalBasin :=
  { policy := 0x80040BB8, tolerance := 0x14143200, base := none, first := true, lastVisited := none,
    calCount := 0, rejCount := 0, fgCount := 0, lastTime := 0, lastTick := 0, history := vall 8 [], dither := 0x7F,
    foreground := none, gainTick := vall 8 0 }

/-- A production trim word: CALIBRATED 0, reserved bits 0 (05 Table 5.8). -/
def productionWord (m : Fin 288) (g : Fin 8) : Word := Config.productionTrim m g &&& 0x03FF0FFF

/-- The calibration engine after a chip reset: every trim entry holds its production trims (05 R200). -/
def Calibration.reset : Calibration :=
  { basins := vall 32 CalBasin.reset, visits := vall 32 none,
    trims := Vector.ofFn (fun m : Fin 288 => Vector.ofFn (fun g : Fin 8 => productionWord m g)),
    digital := vall 288 Digital.neutral, lastGain := vall 288 0, stimuli := vall 288 Stimulus.off,
    calTick := vall 288 (vall 8 none), rejRun := vall 288 (vall 8 0), loads := [],
    ramps := [], refcheck := 0, suspect := false }

/-- A capture set after a chip reset (09 R391). -/
def CapSet.reset : CapSet :=
  { state := .free, owner := none, config := vall 15 0, trigger := vall 6 0, ridx := 0, ready := [], closedRun := 0,
    ignPre := 0, ignLate := 0, ignBusy := 0, forced := 0, gapCount := 0, truncs := 0, openAt := none, openTick := 0,
    chans := [], starts := [], trigK := 0, trigTick := 0, trigCause := 0, decidedAt := 0, lastTrig := 0, nwin := 0,
    truncCause := 0, after := .idle, gaps := [], openGaps := [], pendingTick := 0, patternPrev := false, holdover := 0,
    generation := 0, wlen := 0 }

/-- The acquisition engine after a chip reset (09 R391). -/
def Acquisition.reset : Acquisition :=
  { sets := vall 16 CapSet.reset, pins := vall 4 { word := 4, pulseFrom := 0, pulseEnd := none }, moments := [], patternTick := none }

/-- The controller after a chip reset: UNINIT, policy words of Table 10.10, an empty error log (10 R395, R423). -/
def Memory.reset : Memory :=
  { mstate := .uninit, initWord := 0x00004466, initTick := 0, rank2 := false, density := 0, failStep := 0, capPages := 0,
    mr4 := vall 2 0, tempHigh := false, dqsCount := vall 2 0, policy0 := 0xC0184000, policy1 := 0x03E80000,
    bytes := [], flips := [], requests := [], credit := vall 9 { units := 0, at_ := 0 }, turns := vall 2 { fn := 0, left := 0 },
    hits := vall 2 0, capture := [], ceCh := vall 2 0, ueCount := 0, wrRefused := 0,
    preempts := 0, throttleCount := 0, scrubPasses := 0, debtMax := 0, scrubPos := 0, passCe := 0, passUe := 0,
    debt := vall 4 0, refAt := vall 4 0, windowAt := 0, openRows := [], rowCounts := [], activates := [], throttled := [], errLog := [], errOverflow := 0, errTotal := 0 }

/-- The compression engine after a chip reset (11 R447). -/
def Compression.reset : Compression :=
  { map := vall 512 (vall 4 0), nextId := 0, jobs := [], ended := [], jobsDone := 0, jobsFailed := 0, verifyFail := 0,
    streamTiers := 0, capped := false, turn := { fn := 8, left := 0 } }

/-- A stream after a chip reset: none exists, CFG_SEQ 0 (12 R481). -/
def Stream.reset : Stream :=
  { word0 := 0x00200000, word1 := 0x03E80040, word4 := 0, cfgSeq := 0, origins := [],
    setupF := 0, awaits := [], packets := 0, weirMarks := 0, stallCloses := 0, rowsDropped := 0, duplicates := 0,
    lateSegments := 0, lastSeq := 0, delivery := [] }

/-- The streams after a chip reset (12 R481). -/
def Streams.reset : Streams := { streams := vall 36 Stream.reset, segments := [], recent := [], marks := [] }

/-- Lane `i` after a chip reset with AUX_MODE `aux`: a Rill lane in DETECT, an AUX lane not in ring mode DISABLED (13
R529). The HOST lanes read as DETECT (DESIGN CHOICE, assumption 24). -/
def Lane.atReset (aux : BitVec 2) (i : Nat) : Lane :=
  { lstate := if 14 ≤ i ∧ aux ≠ 1 then .disabled else .detect, idle := false, rateIdle := false, rateSel := 0, rate := 0,
    rxInv := false, peerIndex := none, peerHub := 0, reversed := false, logical := 0, cautious := false,
    latched := false, tec := 0, rec_ := 0, crcErr := 0, shErr := 0, resent := 0, spilled := 0, losCount := 0,
    lolCount := 0, bringups := 0, silences := 0, ampMv := 0, eye := 0, upSince := 0, agreed := 0, ready := 0,
    resumed := false, trainsSent := 0, trainAt := 0, idleSince := 0, lastBlock := 0, silentTicks := [], los := false,
    testWord := 0, chkLock := false, bits := 0, errors := 0,
    inject := 0, timing := [], flows := [], placed := [], opened := [],
    slot := .idle, receiving := [], downCause := none, downAt := 0 }

/-- A class of a side that is down: LSEQ and credits at 0 (13, "Acknowledgement, credits and order"). -/
def LinkClass.reset : LinkClass :=
  { waiting := [], replay := [], nextLseq := 0, sentCum := 0, creditCum := 0, expected := 0, anyReceived := false,
    passTurn := { fn := 0, left := 0 }, flowTurn := { fn := 0, left := 0 }, ahead := [], aheadAt := 0, released := 0 }

/-- The words of group `g` after a chip reset: RATE 5, TX_SWING 4, TX_PRE 2, TX_POST 4, WAKE_BLOCKS 0x0100 (13
Table 13.12). -/
def groupReset (g : Nat) : Vector Word 2 :=
  vset (vset (vall 2 0) 0 (wd (g * 1073741824 + 0x2C240000))) 1 0x01000000

/-- The lanes after a chip reset with AUX_MODE `aux` (13 R529). -/
def Lanes.atReset (aux : BitVec 2) : Lanes :=
  { lanes := Vector.ofFn (fun i : Fin 16 => Lane.atReset aux i.val),
    groups := Vector.ofFn (fun g : Fin 3 => groupReset g.val), links := vall 3 (vall 4 LinkClass.reset), auxMode := aux,
    rateShed := false, rateTurns := [] }

/-- The lanes of a fresh part (13 R529, Table 13.13). -/
def Lanes.reset : Lanes := Lanes.atReset 0

/-- Self-test after a chip reset: no run, PERIOD_H 168, the TAP at IDCODE (17 R700, Table 17.7; IEEE 1149.1 for the
instruction of Test-Logic-Reset, PRESUMED, assumption 8). -/
def SelfTest.reset : SelfTest :=
  { runs := [], results := vall 9 TestResult.reset, nextRun := 0, warmBist := false, sched := 0, periodH := 168,
    withdrawn := [], blockAt := none, schedFrom := vall 8 0, modTests := [], schedDue := [], sourceSteps := [], matched := [], tapInstruction := 0x01,
    tapPinControl := false, scanUsed := false }

/-- The hub right after reset. -/
def State.reset : State :=
  { pending := [], tb := Timebase.reset, ring := Ring.reset, pair := Pair.reset, fe := FrontEnd.reset,
    cv := Converters.reset, fl := Filters.reset, cal := Calibration.reset, cap := Acquisition.reset, mem := Memory.reset,
    cmp := Compression.reset, st := Streams.reset, ln := Lanes.reset, host := HostIf.reset, fh := Fountainhead.reset,
    hl := Health.reset, ts := SelfTest.reset, pwr := Power.reset, ao := AlwaysOn.reset,
    staged := [], freeCtr := 0, out := { control := [], hbx := [], messages := [], host := [] } }

/-- Why a command can stop the machine. The manual gives every command an effect, so no meaning raises one; safe. -/
inductive Fault where
  /-- Raised by no meaning: the manual names no condition in which the hub stops without an effect; safe. -/
  | none
  deriving DecidableEq, Repr

/-- Why a command can be refused. -/
inductive Refusal where
  /-- The command has no meaning in this model yet, by its mnemonic; raised by the dispatch alone; safe. -/
  | notModelled (mnemonic : String)
  deriving DecidableEq, Repr

end Sys2Proof.Machine
end

