-- ==== Sys2Proof/Machine/Ledger.lean ====
section
/-!
DEFINITION. The cells of the lifetime ledger (16 R633 to R641): decoding a counter, one increment with its carry, the
commit of accumulated increments, the restore after an interruption, and the wear that the counts imply.
-/
namespace Sys2Proof.Machine
open Sys2Proof

/-- The position a high part lies at: (H >> 14) mod 4 (16, "Tear-safe counters"). -/
def ledgerPos (h : Nat) : Fin 4 := Fin.ofNat 4 (h / 16384)

/-- H of a counter: the highest of its high words, which never fall. -/
def LedgerCounter.high (c : LedgerCounter) : Nat := c.highs.toList.foldl (fun a h => max a h.toNat) 0

/-- The strip in use. -/
def LedgerCounter.strip (c : LedgerCounter) : Vector Cell 32 := vget c.strips (ledgerPos c.high)

/-- The length of the run of `x` that begins at S0. -/
def runFrom (x : Cell) : List Cell → Nat
  | [] => 0
  | c :: cs => if c = x then 1 + runFrom x cs else 0

/-- L of a strip (16 R635). -/
def decodeStrip (v : Vector Cell 32) : Nat :=
  match v.toList with
  | .set :: cs => 1 + runFrom .set cs
  | .reset :: cs => if cs.contains .set then 33 + runFrom .reset cs else 0
  | _ => 0

/-- The value of a counter: V = 64 × H + L (16, "Tear-safe counters"). -/
def LedgerCounter.value (c : LedgerCounter) : Nat := 64 * c.high + decodeStrip c.strip

/-- Change the strip in use. -/
def LedgerCounter.setCell (c : LedgerCounter) (i : Fin 32) (x : Cell) : LedgerCounter :=
  { c with strips := vmod c.strips (ledgerPos c.high) (fun v => vset v i x) }

/-- Write a high word at its position. -/
def LedgerCounter.setHigh (c : LedgerCounter) (h : Nat) : LedgerCounter :=
  { c with highs := vset c.highs (ledgerPos h) (BitVec.ofNat 26 h) }

/-- One increment of a counter, its journal entry written and cleared within it (16 R636); a counter at its largest value
stays there (16 Table 16.3). -/
def LedgerCounter.increment (c : LedgerCounter) : LedgerCounter :=
  let l := decodeStrip c.strip
  let h := c.high
  if 4294967295 ≤ c.value then c
  else if l < 32 then c.setCell (Fin.ofNat 32 l) .set
  else if l < 63 then c.setCell (Fin.ofNat 32 (l - 32)) .reset
  else (c.setCell 31 .reset).setHigh (h + 1)

/-- `n` increments. -/
def LedgerCounter.add (c : LedgerCounter) : Nat → LedgerCounter
  | 0 => c
  | n + 1 => c.increment.add n

/-- Counters that commit each increment when it occurs (16 Table 16.3). -/
def commitsAtOnce (id : Nat) : Bool := [2, 3, 4, 5, 6, 10, 12, 17, 19, 21, 22, 23, 24].contains id

/-- Commit what a counter has pending, at most 128 increments in an hour (16 R639). -/
def Ledger.commit (x : Ledger) (id : Fin 30) : Ledger :=
  let n := min (vget x.pending id).toNat (128 - vget x.hourly id)
  { x with
    counters := vmod x.counters id (fun c => c.add n)
    pending := vmod x.pending id (fun p => p - BitVec.ofNat 32 n), hourly := vmod x.hourly id (fun h => h + n) }

/-- Add `n` events to the accumulator of a counter, which saturates; one marked at once commits (16 R639). -/
def Ledger.count (x : Ledger) (id : Fin 30) (n : Nat) : Ledger :=
  let y := { x with pending := vmod x.pending id (fun c => satAdd c n) }
  if commitsAtOnce id.val then y.commit id else y

/-- The next increment of a counter interrupted at a step (16 Table 16.5): in a carry, step 0 leaves the journal entry
torn, 1 a whole entry, 2 S31 in writing, 3 the strip reset, 4 the high word written with the entry not yet cleared; any
other increment leaves its cell WEAK. -/
def Ledger.tear (x : Ledger) (id : Fin 30) (step : Nat) : Ledger :=
  let c := vget x.counters id
  let l := decodeStrip c.strip
  let entry : JournalEntry := { counter := id.val, highNew := BitVec.ofNat 26 (c.high + 1), valid := decide (step ≠ 0) }
  let put := fun (y : LedgerCounter) => { x with counters := vset x.counters id y }
  if l < 32 then put (c.setCell (Fin.ofNat 32 l) .weak)
  else if l < 63 then put (c.setCell (Fin.ofNat 32 (l - 32)) .weak)
  else
    let y := if step = 0 ∨ step = 1 then c else if step = 2 then c.setCell 31 .weak
      else if step = 3 then c.setCell 31 .reset else (c.setCell 31 .reset).setHigh (c.high + 1)
    { put y with journal := x.journal ++ [entry] }

/-- Complete WEAK cells in the state that the run's order requires: the state of the cell before, and for S0 the opposite of
S1's (16 R637). -/
def completeCells : Cell → List Cell → List Cell
  | _, [] => []
  | prev, c :: cs => if c = .weak then prev :: completeCells prev cs else c :: completeCells c cs

/-- A strip with its WEAK cells completed. -/
def completeStrip (v : Vector Cell 32) : Vector Cell 32 :=
  let first : Cell := if vget v 1 = .set then .reset else .set
  let cs := completeCells first v.toList
  Vector.ofFn (fun i : Fin 32 => (cs[i.val]?).getD .reset)

/-- A strip that holds L. -/
def stripOf (l : Nat) : Vector Cell 32 :=
  Vector.ofFn (fun i : Fin 32 => if l ≤ 32 then (if i.val < l then Cell.set else Cell.reset)
    else if i.val < l - 32 then Cell.reset else Cell.set)

/-- Carry out a journal entry (16 R637). -/
def replayEntry (x : Ledger) (e : JournalEntry) : Ledger :=
  let id : Fin 30 := Fin.ofNat 30 e.counter
  let c := vget x.counters id
  if e.valid ∧ c.strip.toList.all (fun y => y == .reset) ∧ c.high + 1 = e.highNew.toNat then
    { x with counters := vset x.counters id (c.setHigh e.highNew.toNat) }
  else x

/-- Restore the ledger after an interruption; answers the counters repaired, each with the value restored (16 R637). -/
def Ledger.restore (x : Ledger) : Ledger × List (Nat × Nat) :=
  let x1 : Ledger := { x with counters := x.counters.map (fun c => { c with strips := c.strips.map completeStrip }) }
  let x2 : Ledger := { (x1.journal.foldl replayEntry x1) with journal := [] }
  (List.finRange 30).foldl (fun acc id =>
    let c := vget acc.1.counters id
    let fixed := stripOf (decodeStrip c.strip)
    if fixed = c.strip then acc
    else
      let d := { c with strips := vset c.strips (ledgerPos c.high) fixed }
      ({ acc.1 with counters := vset acc.1.counters id d, anomalies := satInc acc.1.anomalies },
       acc.2 ++ [(id.val, d.value)])) (x2, [])

/-- Increments of a counter of value `v` that fell at position `p`. -/
def incrementsAt (v p : Nat) : Nat := v / 4194304 * 1048576 + min 1048576 (v % 4194304 - p * 1048576)

/-- WEAR_PCT: the highest cell write count as a percentage of 10^6 ("Commands and parameter blocks"); a strip cell is written
twice in each 64 increments, a journal cell once in 128 carries, and every cell once at each refresh. -/
def Ledger.wearPct (x : Ledger) : Nat :=
  let vs := x.counters.toList.map LedgerCounter.value
  let strip := (vs.flatMap (fun v => (List.range 4).map (fun p => ceilDiv (incrementsAt v p) 32))).foldl max 0
  let journal := ceilDiv ((vs.map (fun v => v / 64)).foldl (· + ·) 0) 128
  min 255 ((max strip journal + x.refreshes) * 100 / 1000000)

end Sys2Proof.Machine
end

