-- ==== Sys2Proof/Machine/Ops.lean ====
section
/-!
DEFINITION. The named operations the meanings share: ticks and structure time, events and their delivery (16 R656 to
R660), interrupts (14 R549 to R554), replies (15 R579 to R582), ledger counts (16 R639), staging of changes for a frame
boundary (02 R49 to R51, 08 R334, 15 R721), marks on windows, capture memory bytes, and channel views.
-/
namespace Sys2Proof.Machine
open Sys2Proof

/-! ## Access by number -/

/-- The `i`th of a fixed number of like things, or a default beyond them. -/
def vgetD {α : Type} {n : Nat} (v : Vector α n) (i : Nat) (d : α) : α := (v[i]?).getD d

/-- Write the `i`th of a fixed number of like things; beyond them, nothing. -/
def vsetD {α : Type} {n : Nat} (v : Vector α n) (i : Nat) (x : α) : Vector α n :=
  if h : i < n then v.set i x h else v

/-- A number as an index below `n`, by its remainder. -/
def fin (n : Nat) [NeZero n] (i : Nat) : Fin n := Fin.ofNat n i

/-- Set bit `i` of a mask. -/
def setBit {w : Nat} (m : BitVec w) (i : Nat) : BitVec w := m ||| BitVec.ofNat w (2 ^ i)

/-- Clear bit `i` of a mask. -/
def clearBit {w : Nat} (m : BitVec w) (i : Nat) : BitVec w := m &&& ~~~ (BitVec.ofNat w (2 ^ i))

/-- Bit `i` of a mask. -/
def hasBit {w : Nat} (m : BitVec w) (i : Nat) : Bool := m.getLsbD i

/-- The mask of the numbers below `n` that satisfy `f`. -/
def maskOf (n : Nat) (f : Nat → Bool) : Nat :=
  (List.range n).foldl (fun a i => if f i then a + 2 ^ i else a) 0

/-! ## Ticks and times -/

/-- Modulator cycles of a frame (06, "Ticks, frames and the timebase origin"). -/
def frameLen : Nat := 4096

/-- Modulator cycles of one nominal second (06). -/
def ticksPerSecond : Nat := 12288000

/-- The tick count (06 R202). -/
def now (s : State) : Nat := s.tb.tick

/-- The first frame boundary after the present tick; before the timebase starts there is none, and 0 stands for the
timebase start (18 R721). -/
def nextFrame (s : State) : Nat :=
  if s.tb.started then frameLen * (s.tb.tick / frameLen + 1) else 0

/-- Something due at tick `t` can happen before the next frame boundary does. -/
def dueSoon (t : Nat) (s : State) : Bool := !s.tb.started || decide (t ≤ s.tb.frameTick + frameLen)

/-- The ticks that `us` microseconds last, rounded up. -/
def usTicks (us : Nat) : Nat := ceilDiv (us * 12288) 1000

/-- The structure time of tick `t` under the anchor in force (06 R205). -/
def structTime (s : State) (t : Nat) : Nat :=
  let d : Int := (t : Int) - (s.tb.anchorTick : Int)
  let x : Int := (s.tb.anchorTime : Int) + (d * 4294967296).fdiv (ticksPerSecond : Int)
  (x % 18446744073709551616).toNat

/-! ## Pair and ring facts -/

/-- The code of a pair state (08 Table 8.4). -/
def PState.code : PState → Nat
  | .joining => 0 | .resync => 1 | .standby => 2 | .active => 3 | .activeAlone => 4 | .hold => 5 | .solo => 6

/-- The unit holds authority (08 R299); SOLO meets every authority check (15 R590). -/
def holdsAuthority (s : State) : Bool :=
  match s.pair.pstate with
  | .active | .activeAlone | .solo => true
  | _ => false

/-- The hub turns accepted mirrored commands into records: it holds authority in a pair and its peer is in STANDBY or
RESYNC (08 R331). -/
def mirroring (s : State) : Bool :=
  (s.pair.pstate == .active || s.pair.pstate == .activeAlone)
    && (s.pair.peer.pstate == 1 || s.pair.peer.pstate == 2)
    && (s.pair.link.alive || s.pair.hbx.alive)

/-- Configuration mirroring works (08 R333). -/
def mirrorWorks (s : State) : Bool :=
  s.pair.lanesUp ||
    (s.pair.policy0.bit 30 && s.pair.hbx.alive
      && s.pair.records.all (fun r => now s ≤ r.accepted + frameLen * s.pair.policy0.field 15 0))

/-- LEAD of the mirror boundary, in frames (08 R334). -/
def leadFrames (s : State) : Nat := if s.pair.lanesUp then 4 else s.pair.policy0.field 15 0

/-- The hub's ID as a number. -/
def hubNum (s : State) : Nat := s.ring.hubId.toNat

/-- The members' mask, bit h for hub ID h (07, "Membership and mastership"). -/
def memberMask (s : State) : Nat :=
  if s.ring.mrole == .refused then 0
  else s.ring.members.foldl (fun a m => a ||| 2 ^ m.announce.id.toNat) (2 ^ hubNum s)

/-- Tj in 1/64 °C: the highest reading of TS0 to TS11 (16 R642). -/
def tjReading (s : State) : Int := s.hl.ts.toList.foldl (fun a x => max a x.toInt) (vget s.hl.ts 0).toInt

/-- HEALTHY as the unit reports it (08 R308): no fatal event captured, the watchdog's expiry among them, and Tj below
140 °C. -/
def reportsHealthy (s : State) : Bool := s.hl.healthy && decide (tjReading s < 8960)

/-! ## Functions and queues -/

/-- FUNC code of a function slot: 0xA for AF (14 Table 14.4). -/
def fnCode (f : Fn) : BitVec 4 := if f.val = 9 then 0xA else BitVec.ofNat 4 f.val

/-- The function slot of a FUNC code, if it names one. -/
def fnOfCode (c : BitVec 4) : Option Fn :=
  if c.toNat = 10 then some 9 else if h : c.toNat < 9 then some ⟨c.toNat, by omega⟩ else none

/-- Function `f`. -/
def getFn (s : State) (f : Fn) : Func := vget s.host.funcs f

/-- Replace function `f`. -/
def setFn (s : State) (f : Fn) (x : Func) : State := { s with host := { s.host with funcs := vset s.host.funcs f x } }

/-- Change function `f`. -/
def modFn (s : State) (f : Fn) (g : Func → Func) : State := setFn s f (g (getFn s f))

/-- The function exists: PF0 always, a VF while VF Enable and NumVFs cover it outside the H064 personality, AF while
AUX_MODE 2 is in force (14, 00 Table 0.3). -/
def fnExists (s : State) (f : Fn) : Bool :=
  if f.val = 0 then true
  else if f.val = 9 then s.ln.auxMode == 2
  else s.host.vfEnable && !s.host.compat && decide (f.val ≤ s.host.numVfs)

/-- Queue `q` of function `f`: the seven of Table 14.7, or 3 + 4f + s of AF. -/
def getQueue (s : State) (f : Fn) (q : Nat) : Queue :=
  if f.val = 9 ∧ 3 ≤ q then vgetD s.host.afSq (q - 3) Queue.reset
  else vgetD (getFn s f).queues q Queue.reset

/-- Replace queue `q` of function `f`. -/
def setQueue (s : State) (f : Fn) (q : Nat) (x : Queue) : State :=
  if f.val = 9 ∧ 3 ≤ q then { s with host := { s.host with afSq := vsetD s.host.afSq (q - 3) x } }
  else modFn s f (fun fn => { fn with queues := vsetD fn.queues q x })

/-- Queue `q` exists in function `f` (14 Table 14.7). -/
def queueExists (f : Fn) (q : Nat) : Bool := if f.val = 9 then q < 39 else q < 7

/-! ## Interrupts (14 R549 to R554) -/

/-- The vectors of function `f` whose OR of set and unmasked causes is 1. -/
def raisedVectors (s : State) (f : Fn) : List Nat :=
  let fn := getFn s f
  let live := fn.intCause &&& ~~~ fn.intMask
  let base := ((List.range 13).filter (fun c => hasBit live c)).map
    (fun c => (vgetD fn.intVec (c / 4) 0).field (8 * (c % 4) + 7) (8 * (c % 4)))
  if f.val = 9 then
    let l0 := s.host.afSqCause0 &&& ~~~ s.host.afSqMask0
    let l1 := s.host.afSqCause1 &&& ~~~ s.host.afSqMask1
    base ++ ((List.range 32).filter (fun c => hasBit l0 c)).map (fun c => 16 + c)
      ++ ((List.range 4).filter (fun c => hasBit l1 c)).map (fun c => 48 + c)
  else base

/-- Function `f` may send interrupt messages (14 R552). -/
def mayInterrupt (s : State) (f : Fn) : Bool :=
  (getFn s f).msixEn && (getFn s f).bme && !(getFn s f).d3hot

/-- One MSI-X message of vector `v`: sent, or left pending while the vector's mask bit is set (14 R551). -/
def sendVector (f : Fn) (v : Nat) (s : State) : State :=
  if hasBit (vgetD (getFn s f).msixTable (4 * v + 3) 1) 0 then
    modFn s f (fun fn => { fn with msixPending := setBit fn.msixPending v })
  else { s with out := { s.out with host := s.out.host ++ [.msix f v] } }

/-- After a change of causes or masks: one message for each vector whose OR rises (14 R551, R552). -/
def deliverInterrupts (f : Fn) (before : List Nat) (s : State) : State :=
  if mayInterrupt s f then
    ((raisedVectors s f).eraseDups.filter (fun v => !before.contains v)).foldl (fun t v => sendVector f v t) s
  else s

/-- The cause bits of function `f` become `cause`. -/
def writeCause (f : Fn) (cause : Word) (s : State) : State :=
  let before := raisedVectors s f
  deliverInterrupts f before (modFn s f (fun fn => { fn with intCause := cause }))

/-- Set cause `c` of function `f` at once (14 R549). -/
def setCause (f : Fn) (c : Nat) (s : State) : State := writeCause f (setBit (getFn s f).intCause c) s

/-- The moderation interval of queue cause `c` of function `f`, in µs: MOD_US of its queue (14 R554). From 32 on they are the SQ(f, s)
causes of AF. -/
def moderationUs (s : State) (f : Fn) (c : Nat) : Nat :=
  let q := if c = 0 then 1 else if c = 1 then 2 else if c < 32 then c + 1 else c - 29
  (getQueue s f q).modUs.toNat

/-- The tick at which the moderation interval of cause `c` ends, if one was begun (14 R554). -/
def moderationEnd (s : State) (f : Fn) (c : Nat) : Option Nat :=
  ((getFn s f).moderated.find? (fun m => m.1 == c)).map (fun m => m.2 + usTicks (moderationUs s f c))

/-- Cause `c` of function `f` is set by `set_`, and its interval begins (14 R554). -/
def moderate (f : Fn) (c : Nat) (set_ : State → State) (s : State) : State :=
  modFn (set_ s) f (fun x =>
    { x with
      moderated := x.moderated.filter (fun m => m.1 != c) ++ [(c, now s)]
      heldCauses := x.heldCauses.filter (fun k => k != c) })

/-- An occurrence of cause `c`, which `set_` sets: set now, or held while the interval of the last one runs (14 R554). -/
def moderated (f : Fn) (c : Nat) (set_ : State → State) (s : State) : State :=
  if moderationUs s f c = 0 then set_ s
  else if (moderationEnd s f c).any (fun e => decide (now s < e)) then
    modFn s f (fun x => { x with heldCauses := if x.heldCauses.contains c then x.heldCauses else x.heldCauses ++ [c] })
  else moderate f c set_ s

/-- An occurrence of queue cause `c` (0 RQ, 1 EQ, 2 to 5 SQ); `urgent` ignores moderation (14 R553, R554). -/
def queueCause (f : Fn) (c : Nat) (urgent : Bool) (s : State) : State :=
  if urgent then setCause f c s else moderated f c (setCause f c) s

/-! ## Ledger counts (16 R639) -/

/-- Count `n` events of a lifetime counter (16 R639). -/
def countLedger (id : Fin 30) (n : Nat) (s : State) : State :=
  { s with ao := { s.ao with ledger := s.ao.ledger.count id n } }

/-- Count `n` parts of which `unit` make one increment of counter `id` (16 Table 16.3). -/
def countFraction (id : Fin 30) (n unit : Nat) (s : State) : State :=
  let t := vget s.ao.ledger.fraction id + n
  let s1 := { s with ao := { s.ao with ledger := { s.ao.ledger with fraction := vset s.ao.ledger.fraction id (t % unit) } } }
  if t / unit = 0 then s1 else countLedger id (t / unit) s1

/-! ## Guarantee credit and weighted round robin (10 R404, 14 R566) -/

/-- Credit at tick `t`, filled at `rate` units a cycle to a depth of 8 KiB (10, "Requesters and scheduling"). -/
def Credit.atTick (c : Credit) (rate t : Nat) : Nat := min (8192 * 12288) (c.units + rate * (t - c.at_))

/-- Credit after `n` bytes more. -/
def Credit.spend (c : Credit) (rate t n : Nat) : Credit := { units := c.atTick rate t - n * 12288, at_ := t }

/-- Who of `n` has the turn, of those for whom `want` holds: whoever has turns left, or the next in order (the unit of a turn is
one request or item, DESIGN CHOICE, assumption 170). -/
def Turn.pick (x : Turn) (n : Nat) (want : Nat → Bool) : Option Nat :=
  if 0 < x.left ∧ want x.fn then some x.fn else ((List.range n).map (fun i => (x.fn + 1 + i) % n)).find? want

/-- The turn after `f` of weight `w` has been served. -/
def Turn.served (x : Turn) (f w : Nat) : Turn :=
  if 0 < x.left ∧ x.fn = f then { x with left := x.left - 1 } else { fn := f, left := w - 1 }

/-- A word of the contract of function code `f`, which none has beyond 8 (14 Table 14.16). -/
def contractWord (s : State) (f i : Nat) : Word := if f < 9 then vgetD (getFn s (fin 10 f)).contract i 0 else 0

/-! ## Messages and the Rill link (13) -/

/-- The group of a Rill lane: 0 EAST, 1 WEST, 2 PAIR; none for a PCIe lane (13 Table 13.1). -/
def laneGroup (s : State) (l : Nat) : Option (Fin 3) :=
  if l < 4 then some 0 else if l < 8 then some 1 else if l < 10 then (if s.pair.en then some 2 else none)
  else if l = 14 ∧ s.ln.auxMode = 1 then some 0 else if l = 15 ∧ s.ln.auxMode = 1 then some 1 else none

/-- Lane `l`. -/
def getLane (s : State) (l : Fin 16) : Lane := vget s.ln.lanes l

/-- Change lane `l`. -/
def modLane (l : Fin 16) (f : Lane → Lane) (s : State) : State :=
  { s with ln := { s.ln with lanes := vmod s.ln.lanes l f } }

/-- The UP lanes of a group. -/
def upLanes (s : State) (g : Fin 3) : List (Fin 16) :=
  (List.finRange 16).filter (fun l => laneGroup s l.val == some g && (getLane s l).lstate == .up)

/-- Class `c` of the link of group `g`. -/
def getLink (s : State) (g : Fin 3) (c : Fin 4) : LinkClass := vget (vget s.ln.links g) c

/-- Change class `c` of the link of group `g`. -/
def modLink (g : Fin 3) (c : Fin 4) (f : LinkClass → LinkClass) (s : State) : State :=
  { s with ln := { s.ln with links := vmod s.ln.links g (fun v => vmod v c f) } }

/-- BUF of a class, in data blocks (13 Table 13.8). -/
def linkBuf (c : Fin 4) : Nat := if c.val = 0 then 512 else if c.val = 1 then 3584 else 30720

/-- Blocks that are due on a lane. -/
def Lane.due (x : Lane) : Nat :=
  x.timing.length + x.flows.length + ((x.placed ++ x.opened).map (fun m => m.blocks.length)).foldl (· + ·) 0

/-- The UP lane that takes the next message of class `c`: the one with the fewest blocks due, which leave the most free block
slots, and of equals the lowest-numbered (DESIGN CHOICE, assumption 25); for classes 0 and 1 a cautious one only while no normal
one is UP (13 R512). -/
def placeLane (s : State) (g : Fin 3) (c : Fin 4) : Option (Fin 16) :=
  let ups := upLanes s g
  let normal := ups.filter (fun l => !(getLane s l).cautious)
  let pool := if c.val < 2 ∧ !normal.isEmpty then normal else ups
  let load := fun (l : Fin 16) => (getLane s l).due
  pool.foldl (fun a l => match a with
    | none => some l
    | some b => if load l < load b then some l else some b) none

/-- Class-0 messages that the hub has originated and that are not yet acknowledged, of which there are at most 16 (13
R495). -/
def ownUnacknowledged (s : State) : Nat :=
  ((List.finRange 3).map (fun g =>
    ((getLink s g 0).replay.filter (fun x => x.src == s.ring.hubId && x.hops == 0)).length)).foldl (· + ·) 0

/-- The message may start on a lane of its side: the credit covers it, fewer than 2,048 of its class are unacknowledged, and
a class-0 message of the hub's own is one of at most 16 (13 R495, R500). -/
def mayStart (g : Fin 3) (c : Fin 4) (x : Sent) (s : State) : Bool :=
  let k := getLink s g c
  decide (x.nblk + (k.sentCum - k.creditCum).toNat ≤ linkBuf c) && decide (k.replay.length < 2048)
    && (c != 0 || x.hops != 0 || x.src != s.ring.hubId || decide (ownUnacknowledged s < 16))

/-- The 7 bytes of a control payload, in the order of the wire (13 R488). -/
def payloadBytes (x : BitVec 56) : List Byte := (List.range 7).map (fun i => BitVec.ofNat 8 (x.toNat / 2 ^ (8 * i)))

/-- The SOM payload of a message (13 Table 13.5). -/
def Sent.som (x : Sent) : BitVec 56 :=
  BitVec.ofNat 56 (x.message.cls % 4 * 2 ^ 54 + x.message.kind % 64 * 2 ^ 48 + x.src.toNat * 2 ^ 43
    + (x.message.target.getD 0).toNat * 2 ^ 38 + b01 x.message.target.isNone * 2 ^ 37 + b01 x.spill * 2 ^ 36
    + x.lseq.toNat * 2 ^ 24 + x.nblk % 4096 * 2 ^ 12 + x.hops % 64 * 2 ^ 6)

/-- The data blocks of words, two to a block, the second word of a last block that holds one being 0 (13 Table 13.6). -/
def dataBlocks : List Word → List WireBlock
  | [] => []
  | [w] => [.data w 0 true]
  | w :: v :: rest => .data w v true :: dataBlocks rest

/-- The blocks of a message under an injection code: SOM, data blocks and EOM; 3 inverts the sync header of the first data
block, and 4 corrupts the CRC (13 R496, R525, Table 13.6). -/
def Sent.blocks (x : Sent) (inject : BitVec 3) : List WireBlock :=
  let ws := x.message.payload
  let full := if ws.length % 2 = 1 then ws ++ [0] else ws
  let crc := crc32c (payloadBytes x.som ++ bytesOf full)
  let data := match dataBlocks ws with
    | .data w v _ :: rest => .data w v (inject != 3) :: rest
    | bs => bs
  .som x.som :: (data ++ [.eom (BitVec.ofNat 56 (ws.length % 2 * 2 ^ 55 + (if inject = 4 then ~~~crc else crc).toNat))])

/-- Put messages on a lane, before or behind those that wait on it; the first takes the lane's injected error (13 R515, R525). -/
def placeOn (l : Fin 16) (first : Bool) (xs : List Sent) (s : State) : State :=
  (if first then xs.reverse else xs).foldl (fun t x => modLane l (fun y =>
    let spent := y.inject = 4 ∨ (y.inject = 3 ∧ 0 < x.nblk)
    let m : TxMessage := { message := x.message, blocks := x.blocks (if spent then y.inject else 0) }
    { y with placed := if first then m :: y.placed else y.placed ++ [m], inject := if spent then 0 else y.inject }) t) s

/-- A message starts on lane `l` (13 R500). -/
def startMessage (g : Fin 3) (c : Fin 4) (l : Fin 16) (x : Sent) (s : State) : State :=
  let y := { x with lseq := (getLink s g c).nextLseq, lane := l, again := false, sentAt := now s }
  placeOn l false [y] (modLink g c (fun k =>
    { k with
      replay := k.replay ++ [y], nextLseq := k.nextLseq + 1, sentCum := k.sentCum + BitVec.ofNat 24 x.nblk }) s)

/-- What a group without an UP lane keeps until a side comes up: class-0 messages, which no rule drops (13 R495), and the
CONTROL, GAP and RECORD packets of streams (13 R503). -/
def keptWhileDown (c : Fin 4) (m : Message) : Bool :=
  c == 0 || (m.kind == 0x0E && decide (5 ≤ (wordAt m.payload 0).field 31 24))

/-- A message takes its place in a class of a group's transmit queue, from which the lanes' block slots take it (13 R502). -/
def enqueue (g : Fin 3) (c : Fin 4) (x : Sent) (s : State) : State :=
  if (upLanes s g).isEmpty && !keptWhileDown c x.message then s
  else modLink g c (fun k => { k with waiting := k.waiting ++ [x] }) s

/-- The side on which a unicast to hub `h` starts: the one on which its ANNOUNCE arrives with fewer hops, EAST on a tie
(13 R494). -/
def routeSide (s : State) (h : HubId) : Side :=
  match s.ring.members.find? (fun m => m.announce.id == h) with
  | none => .east
  | some m => match m.hopsEast, m.hopsWest with
    | some e, some w => if w < e then .west else .east
    | none, some _ => .west
    | _, none => .east

/-- The group of a side. -/
def sideGroup : Side → Fin 3
  | .east => 0
  | .west => 1

/-- Traffic for a looping side goes to the other side (07 Table 7.7, R281). -/
def loopedGroup (s : State) (g : Fin 3) : Fin 3 :=
  if g = 0 ∧ s.ring.east.looping then 1 else if g = 1 ∧ s.ring.west.looping then 0 else g

/-- The groups a message of the hub's own starts on: the pair lanes for mirror records and resync images, the side it
names, both sides for ANNOUNCE, PREPARE, COMMIT, ABORT and TRIG_SHARE (07 Table 7.6, R287; 09 R369), the routed side for a
unicast, and EAST for any other broadcast (13 R494). A refused hub places none of its own data, events or replies on the
ring (07 R255). -/
def messageGroups (s : State) (m : Message) : List (Fin 3) :=
  if m.kind = 0x0F ∨ m.kind = 0x10 then [2]
  else if s.ring.mrole == .refused && decide (0x0B ≤ m.kind) then []
  else match m.side with
    | some d => [sideGroup d]
    | none =>
      let gs : List (Fin 3) := match m.target with
        | some h => [sideGroup (routeSide s h)]
        | none => if [1, 5, 7, 8, 0x0B].contains m.kind then [0, 1] else [0]
      (gs.map (loopedGroup s)).eraseDups

/-- Hand a message of the hub's own to its lanes (13, "Messages"). -/
def send (m : Message) (s : State) : State :=
  let x : Sent := { lseq := 0, lane := 0, nblk := ceilDiv m.payload.length 2, again := false, message := m,
                    src := s.ring.hubId, hops := 0, spill := false, sentAt := 0 }
  (messageGroups s m).foldl (fun t g => enqueue g (fin 4 m.cls) x t) s

/-! ## Last words (16 R661) -/

/-- A last-words record takes the next place: the oldest read record, or the oldest of 64, gives way, and an unread one
so replaced is counted (16 R661). -/
def pushLastWords (r : LastWords) (s : State) : State :=
  let r := { r with seq := s.ao.lwSeq, read := false }
  let ao := { s.ao with lwSeq := s.ao.lwSeq + 1 }
  if s.ao.lastWords.length < 64 then { s with ao := { ao with lastWords := s.ao.lastWords ++ [r] } }
  else match s.ao.lastWords.find? (fun x => x.read) with
    | some v => { s with ao := { ao with lastWords := s.ao.lastWords.erase v ++ [r] } }
    | none => countLedger 29 1 { s with ao := { ao with lastWords := s.ao.lastWords.drop 1 ++ [r] } }

/-! ## Events (16 R656 to R660) -/

/-- The words of an event entry (16 Table 16.10). -/
def EventEntry.words (e : EventEntry) : List Word :=
  let sev := match e.severity with | .informational => 0 | .critical => 1 | .fatal => 2
  [wd (e.code.toNat * 65536 + sev * 16384 + b01 e.remote * 8192 + e.hub.toNat * 256 + e.func.toNat * 16),
   wd (e.repeated.toNat * 65536 + e.inst.toNat)]
  ++ split64 e.firstTick ++ split64 e.lastTick ++ split64 e.lastTime ++ (e.data ++ List.replicate 8 0).take 8

/-- Two entries have one key (16 R657). -/
def EventEntry.sameKey (a b : EventEntry) : Bool :=
  a.hub == b.hub && a.code == b.code && a.func == b.func && a.inst == b.inst

/-- An occurrence joins the entry of its key (16 R657). -/
def EventEntry.coalesce (old new : EventEntry) : EventEntry :=
  { old with repeated := satInc old.repeated, lastTick := new.lastTick, lastTime := new.lastTime, data := new.data }

/-- The Informational entry with the earliest LAST_TICK (16 R657). -/
def oldestInfo (log : List EventEntry) : Option EventEntry :=
  (log.filter (fun e => e.severity == .informational)).foldl
    (fun a e => match a with
      | none => some e
      | some b => if e.lastTick < b.lastTick then some e else a) none

/-- Enter an occurrence into the event log of 512 entries (16 R657, R658). -/
def logEvent (e : EventEntry) (s : State) : State :=
  if s.hl.log.any (fun x => x.sameKey e) then
    { s with hl := { s.hl with log := s.hl.log.map (fun x => if x.sameKey e then x.coalesce e else x) } }
  else if s.hl.log.length < 512 then { s with hl := { s.hl with log := s.hl.log ++ [e] } }
  else match oldestInfo s.hl.log with
    | some v => { s with hl := { s.hl with log := s.hl.log.filter (fun x => !x.sameKey v) ++ [e] } }
    | none => countLedger 26 1 { s with hl := { s.hl with overflow := satInc s.hl.overflow } }

/-- Slots of queue `q` of function `f` that neither hold an item nor are spoken for by one that waits. -/
def queueRoom (s : State) (f : Fn) (q : Nat) : Nat :=
  let x := getQueue s f q
  2 ^ x.log2Slots.toNat - (x.hubIndex - x.hostIndex).toNat % 2 ^ (x.log2Slots.toNat + 1)
    - (x.waiting.map (fun i => ceilDiv i.length 16)).foldl (· + ·) 0

/-- Queue the words of an entry for the EQ of function `f`. A full queue, and a disabled or stopped one, takes no entry:
EQ_LOST counts it and EQ_OVF is set (14 R544, R547, R548). -/
def pushEq (f : Fn) (e : EventEntry) (s : State) : State :=
  let q := getQueue s f 2
  if !fnExists s f then s
  else if q.en && !q.error && decide (0 < queueRoom s f 2) then setQueue s f 2 { q with waiting := q.waiting ++ [e.words] }
  else setCause f 11 (setQueue s f 2 { q with eqLost := satInc q.eqLost })

/-- Copy an entry of PF0 to the SPI event buffer of 64 entries (14 Table 14.5, Table 14.12). -/
def pushSpiEvent (e : EventEntry) (s : State) : State :=
  if s.host.spiEvtEn then
    if s.host.spi.events.length < 64 then
      { s with host := { s.host with spi := { s.host.spi with events := s.host.spi.events ++ [e.words] } } }
    else { s with host := { s.host with spi := { s.host.spi with evtLost := true } } }
  else s

/-- Offer an occurrence to the EQ of function `f`: written, or counted in the entry that its key's running interval of
1 ms holds (16 R659). -/
def offerEq (f : Fn) (e : EventEntry) (s : State) : State :=
  let mine := fun (h : EqHold) => h.fn == f && h.entry.sameKey e
  if s.hl.holds.any (fun h => mine h && decide (now s < h.since + usTicks 1000)) then
    { s with hl := { s.hl with holds := s.hl.holds.map (fun h =>
        if mine h then { h with entry := h.entry.coalesce e, held := satInc h.held } else h) } }
  else
    let e1 := match s.hl.holds.find? (fun h => mine h && h.held != 0) with
      | some h => h.entry.coalesce e
      | none => e
    let s1 := { s with hl := { s.hl with
      holds := s.hl.holds.filter (fun h => !mine h) ++ [{ fn := f, entry := { e1 with repeated := e.repeated }, held := 0, since := now s }] } }
    let s2 := pushEq f e1 s1
    if f.val = 0 then pushSpiEvent e1 s2 else s2

/-- The fatal-capture record of an event: CAUSE 1 watchdog expiry, 2 thermal trip, 3 any other (16 Table 16.9). -/
def fatalCapture (e : EventEntry) (s : State) : State :=
  let cause := if e.code = 0x0F07 then 1 else if e.code = 0x0F03 then 2 else 3
  let w := e.words
  pushLastWords
    { ltype := 2, cause := cause, seq := 0, read := false, calSec := s.ao.calendar.sec, tick := e.lastTick,
      time := e.lastTime, generation := s.ring.generation, epoch := s.ao.epoch,
      data := w.take 2 ++ (w.drop 8).take 6 } s

/-- The FAULT_NOTE of an occurrence: every Fatal one, and the first Critical one of each key in each second
(16 R660). -/
def faultNote (e : EventEntry) (s : State) : State :=
  let key := (e.code, e.func, e.inst)
  let fresh := s.hl.noted.filter (fun n => now s < n.2 + ticksPerSecond)
  let m : Message := { kind := 0x13, cls := 0, target := none, side := none, payload := e.words }
  match e.severity with
  | .fatal => send m s
  | .critical =>
    if fresh.any (fun n => n.1 == key) then { s with hl := { s.hl with noted := fresh } }
    else send m { s with hl := { s.hl with noted := fresh ++ [(key, now s)] } }
  | .informational => s

/-- Deliver an entry to the log and to the EQs of PF0, AF and the function it concerns (16 R657 to R659), and set the
FAULT causes (14 Table 14.9). -/
def deliverEvent (e : EventEntry) (s : State) : State :=
  let s1 := offerEq 9 e (offerEq 0 e (logEvent e s))
  match fnOfCode e.func with
  | some f => if f.val = 0 ∨ f.val = 9 then s1 else if e.remote then s1 else offerEq f e s1
  | none => s1

/-- The entry of an occurrence now: code, the function concerned (0xF none), the first object of its data, and its data
items as words (16 R656). -/
def eventEntry (sev : Severity) (code : Nat) (func : BitVec 4) (inst : Nat) (data : List Word) (s : State) : EventEntry :=
  { code := BitVec.ofNat 16 code, severity := sev, remote := false, hub := s.ring.hubId, func := func, repeated := 0,
    inst := BitVec.ofNat 12 inst, firstTick := now s, lastTick := now s, lastTime := structTime s (now s), data := data }

/-- An occurrence reaches the core: log, queues and FAULT_NOTE (16 R656 to R660). -/
def recordEvent (e : EventEntry) (s : State) : State := faultNote e (deliverEvent e s)

/-- Raise an event (16 R656). A Fatal one is captured into the last words and counted (16 Table 16.1), and HEALTHY falls (08
R308). -/
def raiseEvent (sev : Severity) (code : Nat) (func : BitVec 4) (inst : Nat) (data : List Word) (s : State) : State :=
  let e := eventEntry sev code func inst data s
  let s1 := recordEvent e s
  match sev with
  | .fatal => countLedger 21 1 (fatalCapture e { s1 with hl := { s1.hl with healthy := false } })
  | _ => s1

/-- An Informational event that concerns no function. -/
def info (code inst : Nat) (data : List Word) (s : State) : State := raiseEvent .informational code 0xF inst data s

/-- A Critical event that concerns no function. -/
def crit (code inst : Nat) (data : List Word) (s : State) : State := raiseEvent .critical code 0xF inst data s

/-! ## Staging for a frame boundary (02 R49 to R51, 01 R27, 08 R334) -/

/-- Stage a change for boundary `at_`, after every change staged before it (02 R51). -/
def stage (at_ : Nat) (c : Change) (s : State) : State :=
  { s with staged := s.staged ++ [{ at_ := at_, accepted := now s, change := c }] }

/-- A staged change takes its place among those of its boundary and earlier ones, after them. -/
def insertStaged (x : Staged) : List Staged → List Staged
  | [] => [x]
  | y :: ys => if x.at_ < y.at_ then x :: y :: ys else y :: insertStaged x ys

/-- Staged changes in the order in which they come into force: by boundary, those of one boundary as accepted (02 R46,
R51). -/
def inOrder (xs : List Staged) : List Staged := xs.foldl (fun a x => insertStaged x a) []

/-- The change is due at boundary `f`. -/
def Staged.due (f : Nat) (x : Staged) : Bool := decide (x.at_ ≤ f)

/-- The change's handshake is not complete 64 SCLK periods before boundary `f` (01 R27). Changes of a commit tick and of a
resync boundary have been handed over when they are acknowledged, and a time step crosses no handshake. -/
def Staged.late (f : Nat) (x : Staged) : Bool :=
  match x.change with
  | .timeStep _ => false
  | _ => decide (0 < x.accepted) && decide (f < x.accepted + 16)

/-- The boundary at which a change without APPLY_TICK takes effect: the first after acceptance; for a mirrored command
of an authority holder the mirror boundary F (08 R334); for a mirrored or ring-staged packet, its own. -/
def defaultBoundary (mirrored : Bool) (p : Packet) (s : State) : Nat :=
  match p.source with
  | .mirror f => f
  | .staged c => c
  | _ =>
    if mirrored && mirroring s && s.tb.started then frameLen * ceilDiv (now s + frameLen * leadFrames s) frameLen
    else nextFrame s

/-- The boundary of a change with APPLY_TICK `a`: 0 takes the default; otherwise the named boundary, refused before the
timebase starts (18 R721), when it has passed or lies within 64 SCLK periods (02 R50), or, for a mirrored command of an
authority holder, within LEAD frames (08 R335). A packet staged for a mode change names none (07, "Configuration and mode
changes"). -/
def applyBoundary (mirrored : Bool) (p : Packet) (a : Nat) (s : State) : Except Rejection Nat :=
  if a = 0 then .ok (defaultBoundary mirrored p s)
  else if !s.tb.started then .error ⟨.precondition, []⟩
  else match p.source with
    | .mirror f => .ok f
    | .staged _ => .error ⟨.precondition, []⟩
    | _ =>
      if a < now s + 16 then .error ⟨.tickExpired, []⟩
      else if mirrored && mirroring s && decide (a < now s + frameLen * leadFrames s) then .error ⟨.tickExpired, []⟩
      else .ok a

/-! ## Marks on windows (01 Table 1.6) -/

/-- Mark channels over the ticks `first` to `last`: a window that overlaps them carries the mark. -/
def mark (k : MarkKind) (channels : BitVec 256) (first last : Nat) (s : State) : State :=
  if channels = 0 then s
  else { s with fl := { s.fl with marks := s.fl.marks ++ [
    { kind := k, channels := channels, first := first, last := last, exclusive := false, tag := 0 }] } }

/-- The local channels `bits` of basin `b` as a channel mask. -/
def basinMask (b bits : Nat) : BitVec 256 := BitVec.ofNat 256 ((bits % 256) * 2 ^ (8 * b))

/-! ## Channel views and owners (14 R535, 15 R596) -/

/-- Global channel `g` lies in the view of the function with code `c` (14, "Function rights"). -/
def inView (s : State) (c : BitVec 4) (g : Nat) : Bool :=
  match fnOfCode c with
  | some f => if f.val = 9 then (getFn s 0).view.any (fun r => r.first ≤ g && g < r.first + r.count)
              else (getFn s f).view.any (fun r => r.first ≤ g && g < r.first + r.count)
  | none => false

/-- The pair of issuing hub and function a packet acts for (15 R596). -/
def ownerOf (p : Packet) (s : State) : Owner :=
  match p.source with
  | .relay issuer _ _ => { hub := issuer, fn := p.func }
  | _ => { hub := s.ring.hubId, fn := p.func }

/-! ## Capture memory bytes (10 R398) -/

/-- Keep the list canonical while byte `v` is put at `a`: addresses rising, no zero byte listed. -/
def putByte : List Host.Cell → Nat → Byte → List Host.Cell
  | [], a, v => if v = 0 then [] else [(a, v)]
  | (b, w) :: rest, a, v =>
    if a < b then (if v = 0 then (b, w) :: rest else (a, v) :: (b, w) :: rest)
    else if a = b then (if v = 0 then rest else (a, v) :: rest)
    else (b, w) :: putByte rest a v

/-- The byte at address `a`; an unlisted one reads 0 (10 R398). -/
def getByte (m : List Host.Cell) (a : Nat) : Byte :=
  match m.find? (fun c => c.1 = a) with
  | some c => c.2
  | none => 0

/-- Put bytes from address `a` upward. -/
def putBytes : List Host.Cell → Nat → List Byte → List Host.Cell
  | m, _, [] => m
  | m, a, v :: vs => putBytes (putByte m a v) (a + 1) vs

/-- `n` bytes from address `a` upward. -/
def getBytes (m : List Host.Cell) (a n : Nat) : List Byte := (List.range n).map (fun i => getByte m (a + i))

end Sys2Proof.Machine
end

