-- ==== Sys2Proof/Machine/Flags.lean ====
section
/-!
DEFINITION. Status codes and their version-1 categories (15 Tables 15.8, R613), reply and packet words (15 Tables 15.1,
15.2, 15.11, 15.12), header checks (15 R578), and the flags of the sample word (01 Table 1.5).
-/
namespace Sys2Proof.Machine
open Sys2Proof

/-- Status codes (15 Table 15.8). -/
def Status.code : Status → Nat
  | .ok => 0x00 | .busy => 0x01 | .headerError => 0x02 | .unknownOpcode => 0x03 | .malformed => 0x04
  | .notPermitted => 0x05 | .authFailed => 0x06 | .noAuthority => 0x07 | .holdAuthority => 0x08
  | .outsideView => 0x09 | .outsideRange => 0x0A | .heldByOther => 0x0B | .precondition => 0x0C
  | .tickExpired => 0x0D | .feConflict => 0x0E | .noPairPath => 0x0F | .unreachable => 0x10 | .noResponse => 0x11
  | .mixed => 0x12 | .notRelayable => 0x13 | .patchRejected => 0x14

/-- The status of a code; an unlisted code reads as MIXED, which no relayed reply carries. -/
def Status.ofCode (n : Nat) : Status :=
  (([.ok, .busy, .headerError, .unknownOpcode, .malformed, .notPermitted, .authFailed, .noAuthority, .holdAuthority,
     .outsideView, .outsideRange] ++
    [.heldByOther, .precondition, .tickExpired, .feConflict, .noPairPath, .unreachable, .noResponse, .mixed,
     .notRelayable, .patchRejected] : List Status)[n]?).getD .mixed

/-- Version-1 categories (15 Table 15.8). -/
def Status.category : Status → Nat
  | .ok => 0x00
  | .busy | .noAuthority | .holdAuthority | .heldByOther | .precondition | .tickExpired | .noPairPath => 0x03
  | .headerError | .unknownOpcode | .notPermitted | .authFailed | .notRelayable => 0x01
  | .malformed | .outsideView | .outsideRange | .feConflict | .patchRejected => 0x02
  | .unreachable | .noResponse | .mixed => 0x04

/-- STATUS16 of a version-1 reply (15 R613). -/
def Status.v1 (st : Status) : Nat := if st = .ok then 0 else st.category * 256 + st.code

/-- The native words of a reply (15 Table 15.2). -/
def Reply.nativeWords (r : Reply) : List Word :=
  [wd (r.opcode.toNat * 65536 + r.tag.toNat),
   wd (r.status.code * 16777216 + r.hub.toNat * 524288 + b01 r.final * 262144 + b01 r.summary * 131072
     + r.data.length)]
  ++ split64 r.completion ++ r.data

/-- A version-1 reply header and data (15 Table 15.12). -/
def v1ReplyWords (op8 tag8 : Byte) (status16 : Nat) (final : Bool) (hub : Nat) (data : List Word) : List Word :=
  [wd (op8.toNat * 16777216 + tag8.toNat * 65536 + status16),
   wd (b01 final * 32768 + (hub % 8) * 4096 + data.length)] ++ data

/-- The words a reply is written as, in the encoding of its packet (15 R579, R611, R612). -/
def Reply.words (r : Reply) : List Word :=
  match r.encoding with
  | .native => r.nativeWords
  | .v1 op8 tag8 => v1ReplyWords op8 tag8 r.status.v1 r.final r.hub.toNat r.data
  | .escape tag8 => v1ReplyWords 0xFF tag8 r.status.v1 r.final r.hub.toNat r.nativeWords

/-- Header words 0 to 2 of a native packet (15 Table 15.1). -/
def headerHead (opcode : Nat) (p : Packet) : List Word :=
  [wd (opcode * 65536 + p.tag.toNat),
   wd (p.func.toNat * 268435456 + b01 p.bcast * 134217728 + p.target.toNat * 4194304 + p.params.length * 256
     + b01 p.auth * 128 + b01 p.fence * 64 + b01 p.quiet * 32),
   p.seq]

/-- The four header words of a native packet: HCRC over header bytes 0 to 13, that is words 0 to 2 and the two low bytes
of word 3, with FORMAT 0x02 (15 R577). -/
def headerWords (opcode : Nat) (p : Packet) : List Word :=
  let h := headerHead opcode p
  let low : List Byte := [0x00, 0x02]
  h ++ [wd ((crc16 (bytesOf h ++ low)).toNat * 65536 + 0x0200)]

/-- The whole words of a native packet, without its trailer. -/
def packetWords (opcode : Nat) (p : Packet) : List Word := headerWords opcode p ++ p.params

/-- What a native packet's words spell, or that its header is malformed (15 R578). -/
inductive HeaderRead where
  | malformed
  | unknown (opcode : Nat) (p : Packet)
  | command (op : Op) (p : Packet)
  deriving DecidableEq, Repr

/-- Read a native packet's words under 15 R578. -/
def readNative (source : Source) (encoding : Encoding) (ws : List Word) : HeaderRead :=
  let w0 := wordAt ws 0
  let w1 := wordAt ws 1
  let w3 := wordAt ws 3
  let opcode := w0.field 31 16
  let len := w1.field 16 8
  let limit := if opcode = 0x0807 then 264 else 256
  let auth := w1.bit 7
  let p : Packet :=
    { source := source, encoding := encoding, tag := w0.extractLsb' 0 16, func := w1.extractLsb' 28 4,
      bcast := w1.bit 27, target := w1.extractLsb' 22 5, auth := auth, fence := w1.bit 6, quiet := w1.bit 5,
      seq := wordAt ws 2, params := (ws.drop 4).take len,
      trailer := if auth then BitVec.ofNat 64 (join64 (wordAt ws (4 + len)) (wordAt ws (5 + len))) else 0 }
  if ws.length < 4 ∨ w3.field 31 16 ≠ (crc16 ((bytesOf (ws.take 4)).take 14)).toNat ∨ w3.field 15 8 ≠ 2 ∨
     w1.field 21 17 ≠ 0 ∨ w1.field 4 0 ≠ 0 ∨ w3.field 7 0 ≠ 0 ∨ limit < len ∨ (w1.bit 27 ∧ w1.field 26 22 ≠ 0) ∨
     ws.length ≠ 4 + len + (if auth then 2 else 0) then .malformed
  else match Op.ofCode opcode with
    | some op => .command op p
    | none => .unknown opcode p

/-- The native opcode of a version-1 OP8 other than 0xFF (15 R608). -/
def v1Opcode (op8 : Nat) : Option Nat :=
  let g := op8 / 16
  let n := op8 % 16
  let c := if g ≤ 0xC then g + 1 else if g = 0xD then 0x0F else 0x10
  if g = 0xF then none else some (c * 256 + n + 1)

/-- Read a version-1 packet's words (15 R607 to R609); `seq` is the SEQ of this translated packet. -/
def readV1 (source : Source) (seq : Word) (ws : List Word) : HeaderRead :=
  let w0 := wordAt ws 0
  let w1 := wordAt ws 1
  let op8 := w0.field 31 24
  let tag8 : Byte := w0.extractLsb' 16 8
  let len := w0.field 8 0
  if ws.length < 2 ∨ w1.field 31 16 ≠ (crc16 ((bytesOf (ws.take 2)).take 6)).toNat ∨ w0.field 11 9 ≠ 0 ∨
     w1.field 15 0 ≠ 0 ∨ (op8 ≠ 0xFF ∧ 256 < len) ∨ ws.length ≠ 2 + len then .malformed
  else if op8 = 0xFF then readNative source (.escape tag8) (ws.drop 2)
  else
    let p : Packet :=
      { source := source, encoding := .v1 (BitVec.ofNat 8 op8) tag8, tag := tag8.zeroExtend 16, func := 0,
        bcast := w0.bit 15, target := BitVec.ofNat 5 (w0.field 14 12), seq := seq, params := ws.drop 2 }
    match v1Opcode op8 with
    | none => .unknown 0 p
    | some opcode => match Op.ofCode opcode with
      | some op => .command op p
      | none => .unknown opcode p

/-- The flag bits of a sample word (01 Table 1.5). -/
structure SampleFlags where
  ovr : Bool := false
  settle : Bool := false
  coarse : Bool := false
  subst : Bool := false
  xstep : Bool := false
  caladj : Bool := false
  wout : Bool := false
  stale : Bool := false
  deriving DecidableEq, Repr

/-- The flags as bits 7 to 0 of the sample word (01 Table 1.5). -/
def SampleFlags.bits (f : SampleFlags) : Nat :=
  b01 f.ovr * 128 + b01 f.settle * 64 + b01 f.coarse * 32 + b01 f.subst * 16 + b01 f.xstep * 8 + b01 f.caladj * 4
    + b01 f.wout * 2 + b01 f.stale

/-- A sample word of a signed 24-bit value and its flags (01 Table 1.5). -/
def sampleWord (v : Int) (f : SampleFlags) : Word := wd (toField 24 v * 256 + f.bits)

/-- The signed value of a sample word. -/
def sampleValue (w : Word) : Int := signedField 24 (w.field 31 8)

/-- A window is clean: none of OVR, SETTLE, SUBST, XSTEP, CALADJ and STALE (01 R32). -/
def cleanSample (w : Word) : Bool := w.field 7 0 &&& 0xDD == 0

end Sys2Proof.Machine
end

