-- ==== Sys2Proof/Machine/Operands.lean ====
section
/-!
DEFINITION. The operand forms of commands: parameter words and their reserved fields (00 R14), ranges (15 R589), apply
ticks (02 R50), and the checks of 15 Table 15.3 that every host command passes, `takeCommand`, with what follows a decision:
the reply (15 R579 to R582), the relay (15 R597), the mirror record (08 R331 to R335).
-/
namespace Sys2Proof

/-- Parameter word `i` of a packet. -/
def Packet.w (p : Packet) (i : Nat) : Word := wordAt p.params i

/-- A 64-bit parameter in words `i` and `i + 1`, low half first. -/
def Packet.w64 (p : Packet) (i : Nat) : Nat := join64 (p.w i) (p.w (i + 1))

end Sys2Proof

namespace Sys2Proof.Machine
open Sys2Proof

/-- The first parameter word whose check fails, of checks given in ascending word order (15 R589). -/
def firstBad : List (Nat × Bool) → Option Nat
  | [] => none
  | (i, ok) :: rest => if ok then firstBad rest else some i

/-- The reserved bits `mask` of a word are 0 (00 R14). -/
def rsv (w mask : Word) : Bool := w &&& mask == 0

/-- `lo ≤ n ≤ hi`. -/
def within (n lo hi : Nat) : Bool := decide (lo ≤ n) && decide (n ≤ hi)

/-- An APPLY_TICK in words `i`, `i + 1` has the form of a frame boundary (02 R50). -/
def tickForm (p : Packet) (i : Nat) : Nat × Bool := (i, p.w64 i % frameLen == 0)

/-- What a command's own rules decide at step 10 (15 Table 15.3). -/
inductive Result where
  /-- Rejected, nothing changed (15 R591). -/
  | reject (st : Status) (detail : List Word)
  /-- Accepted: the state with the change made or staged, the reply data and COMPLETION_TICK (15 R580, R581). -/
  | done (s : State) (data : List Word) (completion : Nat)
  /-- Accepted, the reply owed later (15 R584). -/
  | owe (s : State) (why : Owing)

/-- The rules of one command: its parameter words, issuers, checks and effect. -/
structure Rules where
  op : Op
  minLen : Nat
  maxLen : Nat
  /-- Step 3: the function of this packet may issue it (14 Table 14.2). -/
  issuers : Packet → State → Bool
  /-- The command configures a unit (14 R534, R539). -/
  configures : Bool
  /-- Step 6: channel view and capture range. -/
  rights : Packet → State → Option Rejection := fun _ _ => none
  /-- Step 7: the first offending parameter word. -/
  form : Packet → State → Option Nat := fun _ _ => none
  /-- Step 8: the command requires authority. -/
  authority : Packet → Bool := fun _ => false
  /-- The command is mirrored in a pair (08 Table 8.6). -/
  mirrored : Packet → Bool := fun _ => false
  /-- The mirror boundary of a mirrored packet, from the boundary its effect takes (08 R334, 05 R196). -/
  mirrorAt : Packet → Nat → Nat := fun _ c => c
  /-- Step 9: claims and ownership. -/
  claims : Packet → State → Option Rejection := fun _ _ => none
  /-- Step 10 and the effect. -/
  run : Packet → State → Result

/-- Any function may issue the command. -/
def anyFn : Packet → State → Bool := fun _ _ => true

/-- Only PF0 may issue the command (01 R18). -/
def pf0 : Packet → State → Bool := fun p _ => p.func == 0

/-- Step 6 over global channels in ascending order: the first that lies outside the issuing function's view (15
Table 15.8). -/
def viewCheck (p : Packet) (gs : List Nat) (s : State) : Option Rejection :=
  (gs.find? (fun g => !inView s p.func g)).map (fun g => ⟨.outsideView, [wd g]⟩)

/-- Step 9 for a resource held by `o` (15 Table 15.8). -/
def heldBy (o : Owner) : Rejection := ⟨.heldByOther, [wd (o.hub.toNat * 256 + o.fn.toNat)]⟩

/-- Step 9 over the holders of what a packet names: the first that is neither the issuer nor free; PF0 passes. -/
def holderCheck (p : Packet) (holders : List (Option Owner)) (s : State) : Option Rejection :=
  if p.func = 0 then none
  else (holders.filterMap id).find? (fun o => o != ownerOf p s) |>.map heldBy

/-! ## Replies -/

/-- The reply to a packet. -/
def replyOf (op : Nat) (p : Packet) (st : Status) (data : List Word) (t : Nat) (s : State) : Reply :=
  { encoding := p.encoding, opcode := BitVec.ofNat 16 op, tag := p.tag, status := st, hub := s.ring.hubId, final := true,
    summary := false, completion := t, data := data }

/-- A reply takes its place behind those that wait at its source (15 R582). -/
def queueReply (src : Source) (r : Reply) (s : State) : State :=
  { s with fh := { s.fh with replies := s.fh.replies ++ [(src, r)] } }

/-- The payload of a RELAY_REPLY (15 Table 15.4). -/
def relayReplyWords (id : BitVec 16) (hub : HubId) (func : BitVec 4) (r : Reply) : List Word :=
  wd (id.toNat * 65536 + hub.toNat * 2048 + func.toNat * 128) :: { r with encoding := .native }.nativeWords

/-- A command of the boot script has its final reply: counted, or the script ends (18 R719). -/
def scriptReply (op : Nat) (st : Status) (s : State) : State :=
  if st = .ok then { s with pwr := { s.pwr with scriptOk := s.pwr.scriptOk + 1, scriptIndex := s.pwr.scriptIndex + 1 } }
  else crit 0x0115 0 [wd s.pwr.scriptIndex, wd op, wd st.code]
    { s with pwr := { s.pwr with scriptLeft := [] } }

/-- Hand a reply to a packet's source, in the place that source takes it (15 R582, R598; 18 R719). Under QUIET a success
without data is not written. -/
def deliverReply (op : Nat) (p : Packet) (r : Reply) (s : State) : State :=
  match p.source with
  | .cq _ | .spi => if p.quiet && r.status == .ok && r.data.isEmpty && !r.summary then s else queueReply p.source r s
  | .relay issuer id _ =>
    send { kind := 0x12, cls := 2, target := some issuer, side := none, payload := relayReplyWords id s.ring.hubId p.func r }
      { s with fh := { s.fh with executed := s.fh.executed ++ [{ issuer := issuer, id := id, at_ := now s, reply := r }] } }
  | .script => if r.final then scriptReply op r.status s else s
  | .mirror _ | .staged _ => s

/-- Answer a packet with its final reply. -/
def answer (op : Nat) (p : Packet) (st : Status) (data : List Word) (t : Nat) (s : State) : State :=
  deliverReply op p (replyOf op p st data t s) s

/-- Count a decision (15 Table 15.17). -/
def countDecision (st : Status) (s : State) : State :=
  if st = .ok then { s with fh := { s.fh with accepted := satInc s.fh.accepted } }
  else { s with fh := { s.fh with rejected := satInc s.fh.rejected } }

/-- Reject a packet: the counters and the reply, nothing else (15 R591). -/
def rejectPacket (op : Nat) (p : Packet) (r : Rejection) (s : State) : State :=
  answer op p r.status r.detail (now s) (countDecision r.status s)

/-! ## Step 4, authentication (15 R592 to R595) -/

/-- The key slot of a packet's source (15, "Authentication"). -/
def slotOf (p : Packet) : Fn :=
  match p.source with
  | .cq f => f
  | _ => 0

/-- The trailer of a packet under a key (15 R592). -/
def trailerOf (op : Nat) (p : Packet) (key : Vector Word 8) : BitVec 64 :=
  mac64 (keyBytes key) (bytesOf (packetWords op p))

/-- Why step 4 fails: 1 no trailer, 2 trailer wrong, 3 SEQ not above, 4 slot empty, 5 locked out (15 Table 15.8); none
when it passes (15 R593, R594, R622; 17 R696). -/
def authCause (op : Op) (p : Packet) (s : State) : Option Nat :=
  let f := slotOf p
  let slot := vget s.ao.keys f
  if p.auth then
    if hasBit s.fh.locked f.val then some 5
    else match slot.key with
      | none => some 4
      | some k =>
        if p.trailer ≠ trailerOf op.code p k then some 2
        else if p.seq.toNat ≤ slot.lastSeq.toNat then some 3
        else none
  else if op.authenticated || hasBit s.fh.reqAuth f.val then
    if op == .devSetKey && p.source == .spi && (vget s.ao.keys 0).key.isNone && !hasBit s.fh.reqAuth 0 then none
    else if op == .tsScanEnable && p.source == .spi && s.ao.keys.toList.all (fun k => k.key.isNone)
        && !hasBit s.fh.reqAuth 0 then none
    else some 1
  else none

/-- Store a last accepted SEQ, first raising the slot's reservation where it is reached (15 R593, 16 R630). -/
def storeSeq (f : Fn) (seq : Word) (s : State) : State :=
  { s with ao := { s.ao with keys := vmod s.ao.keys f (fun k =>
      { k with lastSeq := seq, seqRes := if k.seqRes.toNat ≤ seq.toNat then seq + 65536 else k.seqRes }) } }

/-- A failure of step 4: counted, raised, and the sixteenth within 10 s locks the slot out (15 R595). -/
def authFailure (op : Op) (p : Packet) (cause : Nat) (s : State) : State :=
  let f := slotOf p
  let recent := (vget s.fh.failTicks f).filter (fun t => now s < t + 10 * ticksPerSecond) ++ [now s]
  let s1 := raiseEvent .critical 0x0103 (fnCode f) f.val [wd f.val, wd cause, wd op.code]
    { s with fh := { s.fh with authFails := satInc s.fh.authFails, failTicks := vset s.fh.failTicks f recent } }
  if 16 ≤ recent.length ∧ ¬ hasBit s.fh.locked f.val then
    raiseEvent .critical 0x0104 (fnCode f) f.val [wd f.val]
      { s1 with fh := { s1.fh with
          locked := setBit s1.fh.locked f.val, lockedAt := vset s1.fh.lockedAt f (now s1), failTicks := vset s1.fh.failTicks f [] } }
  else s1

/-! ## Steps 1 to 6, at the issuing hub -/

/-- Step 1 for a packet whose header has been read: LEN within its limit and no TARGET on a broadcast (15 R578); a boot
script's packet with AUTH is a malformed header (18 R719). -/
def headerOk (op : Op) (p : Packet) : Bool :=
  decide (p.params.length ≤ if op.code = 0x0807 then 264 else 256) && (!p.bcast || p.target == 0)
    && !(p.source == .script && p.auth)

/-- Step 3: FUNC names the source's function (15 R587), the function exists, the issuer rules hold, AF configures nothing
(14 R534), and no authenticated opcode comes from a boot script (18 R719). -/
def permitted (r : Rules) (p : Packet) (s : State) : Bool :=
  let own : Bool := match p.source with
    | .cq f => p.func == fnCode f && fnExists s f
    | .spi | .script => p.func == 0
    | .relay _ _ _ | .mirror _ | .staged _ => true
  own && r.issuers p s && !(p.func == 0xA && r.configures) && !(p.source == .script && r.op.authenticated)

/-- The packet is for another hub, or for all (15, "Relaying and broadcast"). -/
def isRemote (p : Packet) (s : State) : Bool :=
  match p.source with
  | .cq _ | .spi | .script => p.bcast || p.target != s.ring.hubId
  | _ => false

/-- Step 5: relayable, and the target a member that this hub can reach (15 R598, R601). -/
def relayCheck (op : Op) (p : Packet) (s : State) : Option Rejection :=
  if !isRemote p s then none
  else if op.notRelayable then some ⟨.notRelayable, []⟩
  else if s.ring.mrole == .refused || (!s.ring.east.up && !s.ring.west.up) then
    some ⟨.unreachable, [wd p.target.toNat]⟩
  else if !p.bcast && !Nat.testBit (memberMask s) p.target.toNat then some ⟨.unreachable, [wd p.target.toNat]⟩
  else none

/-- Steps 1 to 3, 5 and 6: the rejection of the first that fails, in order, step 4 passing. -/
def issuingCheck (r : Rules) (p : Packet) (s : State) : Option Rejection :=
  match relayCheck r.op p s with
  | some x => some x
  | none => r.rights p s

/-! ## Steps 7 to 10, at the executing hub -/

/-- The unit is in HOLD, or lost a merge on the HBX path alone: it refuses configuring commands (08 R323, R327). -/
def refusesConfiguring (s : State) : Bool := s.pair.pstate == .hold || s.pair.mergeLost

/-- Step 8: authority where the command requires it, or is mirrored on a pair unit (15 Table 15.3, 08 R331, R323). A
mirrored packet is not checked again (08 R336); a staged one passes in STANDBY while mirroring works (08 R338). -/
def authorityCheck (r : Rules) (p : Packet) (s : State) : Option Rejection :=
  let needs := r.authority p || (s.pair.pstate != .solo && r.mirrored p)
  let excused := match p.source with
    | .mirror _ => true
    | .staged _ => s.pair.pstate == .standby && mirrorWorks s
    | _ => false
  if !needs || excused || holdsAuthority s then none
  else if refusesConfiguring s then some ⟨.holdAuthority, []⟩
  else some ⟨.noAuthority, []⟩

/-- Step 7: the parameter block's length and form (15 R588, R589, 00 R14). -/
def formCheck (r : Rules) (p : Packet) (s : State) : Option Rejection :=
  if p.params.length < r.minLen ∨ r.maxLen < p.params.length then some ⟨.malformed, [0xFFFF]⟩
  else match r.form p s with
    | some i => some ⟨.malformed, [wd i]⟩
    | none => none

/-- Steps 7 to 9: the rejection of the first that fails. -/
def executingCheck (r : Rules) (p : Packet) (s : State) : Option Rejection :=
  match formCheck r p s with
  | some x => some x
  | none => match authorityCheck r p s with
    | some x => some x
    | none => r.claims p s

/-- The class number of the unit that a change configures, which DEV_LATE_APPLY reports as its unit (DESIGN CHOICE,
assumption 46). -/
def Change.unit (c : Change) : Nat :=
  match c with
  | .timeStep _ | .tbSources _ _ | .tbHoldover _ _ _ | .tbMains _ _ | .bcnSet _ => 0x06
  | .ringPolicy _ _ | .ringHop _ _ => 0x07
  | .pairPolicy _ _ | .pairLink _ => 0x08
  | .connections _ _ | .excitation _ _ | .biasGuard _ _ | .overvoltage _ | .diagnostic _ | .diagCancel _ | .releaseIsolation _ =>
    0x02
  | .channels _ _ | .retire _ | .surveySequence _ _ _ | .surveyStart _ | .timer _ _ _ _ _ => 0x03
  | .branch _ _ _ | .fir _ _ | .detectors _ _ | .comparator _ _ | .flRelease _ _ => 0x04
  | .calPolicy _ _ _ | .trim _ _ _ | .refcheck _ => 0x05
  | .capArm _ _ | .capDelete _ | .capTrigger _ _ | .capRelease _ | .capPins _ => 0x09
  | .memPolicy _ _ => 0x0A
  | .stream _ _ _ _ _ => 0x0C
  | .laneGroup _ _ _ => 0x0D
  | .fnView _ _ _ _ | .fnQos _ _ | .fnBudget _ => 0x0E
  | .thresholds _ _ | .peak _ | .watchdog _ | .calendar _ _ => 0x0F
  | .schedule _ _ => 0x10

/-- What a change configures, as a class and an instance: a basin's ports, a basin's converters with their calibration, a
timer, a survey converter, one of a channel's claimable units, and the like; a command of no instance configures its class (07
R286; DESIGN CHOICE, assumption 160). -/
def Change.target (c : Change) : Nat × Nat :=
  match c with
  | .connections b _ | .excitation b _ | .biasGuard b _ => (0x02, b.val)
  | .releaseIsolation p => (0x02, p.val / 4)
  | .channels b _ | .calPolicy b _ _ => (0x03, b.val)
  | .retire m | .trim m _ _ => (0x03, m.val / 9)
  | .surveySequence v _ _ | .surveyStart v => (0x03, 32 + v.val)
  | .timer t _ _ _ _ => (0x03, 36 + t.val)
  | .branch i _ _ => (0x04, i.val)
  | .detectors ch _ | .comparator ch _ | .flRelease ch _ => (0x04, 512 + ch.val)
  | .fir b _ => (0x04, 768 + b.val)
  | .capArm i _ | .capDelete i | .capTrigger i _ | .capRelease i => (0x09, i.val)
  | .stream fn st _ _ _ => (0x0C, 4 * fn.toNat + st.toNat)
  | .laneGroup g _ _ => (0x0D, g.val)
  | c => (c.unit, 1024)

/-- The busy check of a prepared mode change (07 R286): the command's run has staged a change up to C for what the set
configures, or it configures at once a class of the set. -/
def preparedBusy (r : Rules) (p : Packet) (s t : State) : Bool :=
  match p.source with
  | .staged _ | .mirror _ => false
  | _ =>
    let mc := s.ring.mc
    let new := t.staged.filter (fun x => x.accepted == now s && !s.staged.contains x)
    r.configures && mc.state == .prepared
      && (if new.isEmpty then mc.units.any (fun u => u.1 == r.op.code / 256)
        else new.any (fun x => decide (x.at_ ≤ mc.c) && mc.units.contains x.change.target))

/-- The mirror record of an accepted packet (08 Table 8.9, R331, R334), sent over the pair lanes or kept for the host
(08 R337). -/
def mirrorOut (op : Op) (p : Packet) (f : Nat) (s : State) : State :=
  let rseq := s.pair.rseqSent + 1
  let ws := packetWords op.code p
  let rec_ : MirrorRec := { rseq := rseq, f := f, epoch := s.ao.epoch, packet := ws, accepted := now s }
  let s1 := { s with pair := { s.pair with rseqSent := rseq, records := s.pair.records ++ [rec_] } }
  if s.pair.lanesUp then
    send { kind := 0x0F, cls := 2, target := none, side := none,
           payload := wd (rseq.toNat * 65536 + ws.length) :: (split64 f ++ [s.ao.epoch] ++ ws) } s1
  else s1

/-- The mirroring gate of an accepted packet: whether it must be mirrored, and why it cannot (08 R331, R335). -/
def mirrorGate (r : Rules) (p : Packet) (s : State) : Option Rejection :=
  match p.source with
  | .mirror _ | .staged _ => none
  | _ =>
    if r.mirrored p && mirroring s then
      if !mirrorWorks s then some ⟨.noPairPath, []⟩
      else if 64 ≤ s.pair.records.length then some ⟨.busy, []⟩
      else none
    else none

/-- The gates of a packet that its own rules accept, `t` being what it would make of `s`: a prepared mode change, then
mirroring (07 R286, 08 R331, R335). -/
def acceptGate (r : Rules) (p : Packet) (s t : State) : Option Rejection :=
  if preparedBusy r p s t then some ⟨.busy, []⟩ else mirrorGate r p s

/-- The packet is mirrored once accepted. -/
def mirrorsOut (r : Rules) (p : Packet) (s : State) : Bool :=
  match p.source with
  | .mirror _ | .staged _ => false
  | _ => r.mirrored p && mirroring s

/-- CFG_LOCK sets with the first accepted command that configures a unit (14 R539). -/
def lockConfig (r : Rules) (s : State) : State :=
  if r.configures then { s with host := { s.host with cfgLock := true } } else s

/-- Steps 7 to 10 and the effect: what the executing hub makes of a packet (15 Table 15.3). -/
def executeResult (r : Rules) (p : Packet) (s : State) : Result :=
  match executingCheck r p s with
  | some x => .reject x.status x.detail
  | none =>
    match r.run p s with
      | .reject st d => .reject st d
      | .done t data c => match acceptGate r p s t with
        | some x => .reject x.status x.detail
        | none => .done (lockConfig r (if mirrorsOut r p s then mirrorOut r.op p (r.mirrorAt p c) t else t)) data c
      | .owe t why => match acceptGate r p s t with
        | some x => .reject x.status x.detail
        | none => .owe (lockConfig r (if mirrorsOut r p s then mirrorOut r.op p (defaultBoundary true p s) t else t)) why

/-- Execute a packet here: its effect and its reply, or its rejection, or a reply owed (15 R582, R584, R591). -/
def execute (r : Rules) (p : Packet) (s : State) : State :=
  match executeResult r p s with
  | .reject st d => rejectPacket r.op.code p ⟨st, d⟩ s
  | .done t data c => answer r.op.code p .ok data c (countDecision .ok t)
  | .owe t why =>
    countDecision .ok { t with fh := { t.fh with owed := t.fh.owed ++ [{ op := r.op, packet := p, why := why }] } }

/-! ## Relaying (15 R597, R598) -/

/-- The RELAY_CMD message of a packet: without trailer, AUTH cleared (15 Table 15.4). -/
def relayMessage (id : BitVec 16) (op : Op) (p : Packet) (s : State) : Message :=
  let q := { p with auth := false, trailer := 0 }
  { kind := 0x11, cls := 2, target := if p.bcast then none else some p.target, side := none,
    payload := wd (id.toNat * 65536 + s.ring.hubId.toNat * 2048 + p.func.toNat * 128 + b01 p.auth * 64 + b01 p.bcast * 32)
      :: packetWords op.code q }

/-- A relayed command of this source is under way to a target of the packet; a broadcast counts as addressed to every
member (15 R597). -/
def relayBusy (p : Packet) (s : State) : Bool :=
  s.fh.relays.any (fun r => r.packet.source == p.source && (r.packet.bcast || p.bcast || r.packet.target == p.target))
    || s.fh.relayWaiting.any (fun w => w.2.source == p.source && (w.2.bcast || p.bcast || w.2.target == p.target))

/-- The final reply of a relayed command is written and nothing of the command is held any more; a source that has been
reset since gets none (15 R582). -/
def closeRelay (id : BitVec 16) (reply : Packet → Reply) (s : State) : State :=
  let s1 := { s with fh := { s.fh with
    relays := s.fh.relays.filter (fun r => r.id != id), owed := s.fh.owed.filter (fun o => o.why != .relay id) } }
  match s.fh.owed.find? (fun o => o.why == .relay id) with
  | some o => deliverReply o.op.code o.packet (reply o.packet) s1
  | none => s1

/-- A broadcast is complete when every member has replied, or `expired` when RELAY_MS has passed: its summary (15 R598). -/
def closeBroadcast (id : BitVec 16) (expired : Bool) (s : State) : State :=
  match s.fh.relays.find? (fun r => r.id == id && r.packet.bcast) with
  | none => s
  | some r =>
    let silent := r.expected &&& ~~~ (r.succeeded ||| r.rejected)
    if silent ≠ 0 ∧ ¬ expired then s
    else
      let st : Status := if r.succeeded = r.expected then .ok else .mixed
      closeRelay id (fun p =>
        { replyOf r.op.code p st [r.succeeded, r.rejected, silent] (now s) s with summary := true }) s

/-- A member's reply to a broadcast: written with FINAL = 0 and counted (15 R598). -/
def memberReply (id : BitVec 16) (hub : HubId) (r : Reply) (s : State) : State :=
  let mark := fun (x : Relay) =>
    if r.status = .ok then { x with succeeded := setBit x.succeeded hub.toNat } else { x with rejected := setBit x.rejected hub.toNat }
  let s1 := match s.fh.owed.find? (fun o => o.why == .relay id) with
    | some o => deliverReply o.op.code o.packet
        { r with encoding := o.packet.encoding, opcode := BitVec.ofNat 16 o.op.code, tag := o.packet.tag, hub := hub, final := false } s
    | none => s
  closeBroadcast id false
    { s1 with fh := { s1.fh with relays := s1.fh.relays.map (fun x => if x.id == id then mark x else x) } }

/-- Send a packet to its target hubs; the issuing hub executes its own copy of a broadcast in its place in acceptance order
(15 R597, R598). -/
def relayOut (r : Rules) (p : Packet) (s : State) : State :=
  let id := s.fh.nextRelay
  let expected := if p.bcast then memberMask s else 2 ^ p.target.toNat
  let s1 := send (relayMessage id r.op p s)
    { s with fh := { s.fh with
        nextRelay := id + 1, owed := s.fh.owed ++ [{ op := r.op, packet := p, why := .relay id }]
        relays := s.fh.relays ++
          [{ id := id, op := r.op, packet := p, sent := now s, expected := wd expected, succeeded := 0, rejected := 0 }] } }
  if !p.bcast then s1
  else match executeResult r p s1 with
    | .reject st d => memberReply id s.ring.hubId (replyOf r.op.code p st d (now s) s) (countDecision st s1)
    | .done t data c => memberReply id s.ring.hubId (replyOf r.op.code p .ok data c s) (countDecision .ok t)
    | .owe t why =>
      countDecision .ok { t with fh := { t.fh with owed := t.fh.owed ++ [{ op := r.op, packet := p, why := why }] } }

/-- Decide a packet that has been taken: 15 Table 15.3 in order, then its execution here or its relay. -/
def decideTaken (r : Rules) (p : Packet) (s : State) : State :=
  match p.source with
  | .mirror _ | .staged _ | .relay _ _ _ => execute r p s
  | _ =>
    if !headerOk r.op p then rejectPacket r.op.code p ⟨.headerError, []⟩ s
    else if !permitted r p s then rejectPacket r.op.code p ⟨.notPermitted, []⟩ s
    else match authCause r.op p s with
      | some c => rejectPacket r.op.code p ⟨.authFailed, [wd c]⟩ (authFailure r.op p c s)
      | none =>
        let s := if p.auth then storeSeq (slotOf p) p.seq s else s
        match issuingCheck r p s with
        | some x => rejectPacket r.op.code p x s
        | none =>
          if isRemote p s then
            if relayBusy p s then { s with fh := { s.fh with relayWaiting := s.fh.relayWaiting ++ [(r.op, p)] } }
            else relayOut r p s
          else execute r p s

/-! ## Taking (15 R583 to R585, R620) -/

/-- A reply waits at this source that its RQ or reply buffer has no room for (14 R543). -/
def replyBlocked (src : Source) (s : State) : Bool :=
  match src with
  | .cq f =>
    let q := getQueue s f 1
    s.fh.replies.any (fun r => r.1 == src && (!q.en || q.error || decide (queueRoom s f 1 < ceilDiv r.2.words.length 16)))
  | .spi => s.fh.replies.any (fun r => r.1 == src &&
      decide (8192 < 4 * (r.2.words.length + s.host.spi.replies.flatten.length)))
  | _ => false

/-- An owed reply holds up the next packet of its source: a local command that is not complete, other than a diagnostic
(15 R584). -/
def Owed.blocks (o : Owed) : Bool :=
  match o.why with
  | .diagnostic _ | .relay _ => false
  | _ => true

/-- Two packets come from one source: all that arrive relayed from the ring do (15, "Sources and order"). -/
def sameSource : Source → Source → Bool
  | .relay _ _ _, .relay _ _ _ => true
  | a, b => a == b

/-- Fountainhead may take this packet now: it is ready, the script or an open boot apart (18 R719), no earlier packet of
the source waits or blocks, a FENCE finds no reply owed, and a reply would have room (15 R584, R585, R620; 14 R543). -/
def mayTake (p : Packet) (s : State) : Bool :=
  s.fh.fwReady && !s.fh.restarting && (p.source == .script || !s.pwr.booting)
    && !s.fh.waiting.any (fun w => sameSource w.2.source p.source)
    && !s.fh.owed.any (fun o => o.packet.source == p.source && (p.fence || o.blocks))
    && !replyBlocked p.source s

/-- A host command: decided if Fountainhead may take it, and otherwise waiting in its source (15 R583 to R585). -/
def takeCommand (r : Rules) (p : Packet) (s : State) : State :=
  if mayTake p s then decideTaken r p s
  else { s with fh := { s.fh with waiting := s.fh.waiting ++ [(r.op, p)] } }

/-- The answer of a row that always leads to a next state. -/
abbrev Out := Host.Outcome State Fault Refusal

/-- A reply that was owed is written: to the packet, or as this hub's own to a broadcast (15 R582, R598). -/
def settleOne (o : Owed) (st : Status) (data : List Word) (t : Nat) (s : State) : State :=
  match o.packet.source, s.fh.relays.find? (fun r => r.packet == o.packet && o.packet.bcast) with
  | .relay _ _ _, _ => answer o.op.code o.packet st data t s
  | _, some r => memberReply r.id s.ring.hubId (replyOf o.op.code o.packet st data t s) s
  | _, none => answer o.op.code o.packet st data t s

/-- The replies owed for a reason are written now (15 R582). -/
def settle (why : Owing) (st : Status) (data : List Word) (t : Nat) (s : State) : State :=
  (s.fh.owed.filter (fun o => o.why == why)).foldl (fun u o => settleOne o st data t u)
    { s with fh := { s.fh with owed := s.fh.owed.filter (fun x => x.why != why) } }

end Sys2Proof.Machine
end

