-- ==== Sys2Proof/Machine/Modulators.lean ====
section
/-!
DEFINITION. The modulators' shared operations: the assignment map, failure, retirement and substitution (03 R94 to R104,
R769), overlaps and their abort (03 R95 to R97), parking (03 R106, R107, R770).
-/
namespace Sys2Proof.Machine
open Sys2Proof

/-- State of index `i` of basin `b`. -/
def modState (s : State) (b : Nat) (i : Nat) : ModState := vgetD s.cv.mods (9 * b + i) .retired

/-- Set the state of index `i` of basin `b`. -/
def setMod (b i : Nat) (x : ModState) (s : State) : State :=
  { s with cv := { s.cv with mods := vsetD s.cv.mods (9 * b + i) x } }

/-- The foreground calibration of a basin, while it runs. -/
def runningForeground (s : State) (b : Nat) : Option Foreground :=
  match (vgetD s.cal.basins b CalBasin.reset).foreground with
  | some g => if g.running then some g else none
  | none => none

/-- The state that index `i` has, or had at S where a running foreground calibration holds it (05 R194). -/
def heldState (s : State) (b i : Nat) : ModState :=
  match runningForeground s b with
  | some g => (vgetD g.taken i none).getD (modState s b i)
  | none => modState s b i

/-- Index `i` enters a state: at E, where a running foreground calibration holds it in CALIBRATING until then (05 R194;
DESIGN CHOICE, assumption 138). -/
def enterState (b i : Nat) (x : ModState) (s : State) : State :=
  match runningForeground s b with
  | some g =>
    if (vgetD g.taken i none).isSome then
      let q := { vgetD s.cal.basins b CalBasin.reset with foreground := some { g with taken := vsetD g.taken i (some x) } }
      { s with cal := { s.cal with basins := vsetD s.cal.basins b q } }
    else setMod b i x s
  | none => setMod b i x s

/-- A failure of index `i` of basin `b` has been declared since the last cold reset (03 R104). -/
def declaredFailed (s : State) (b i : Nat) : Bool := hasBit s.cv.retired (9 * b + i)

/-- Keep index `i` out of service through every warm reset to come (03 R104). -/
def noteFailed (b i : Nat) (s : State) : State :=
  { s with cv := { s.cv with retired := setBit s.cv.retired (9 * b + i) } }

/-- Index serving local channel `k` of basin `b`, 0xF if parked (03 Table 3.10). -/
def assigned (s : State) (b k : Nat) : Nat := (vgetD s.cv.assign (8 * b + k) 0xF).toNat

/-- Let index `i` serve local channel `k` of basin `b`. -/
def setAssign (b k i : Nat) (s : State) : State :=
  { s with cv := { s.cv with assign := vsetD s.cv.assign (8 * b + k) (BitVec.ofNat 4 i) } }

/-- The local channel that names index `i` in the map. -/
def channelOf (s : State) (b i : Nat) : Option Nat := (List.range 8).find? (fun k => assigned s b k == i)

/-- A modulator is free: healthy, in SPARE or CALIBRATING, named by no channel (held channels name theirs) and not
chosen already (03 R99). -/
def isFree (s : State) (b i : Nat) : Bool :=
  (modState s b i == .spare || modState s b i == .calibrating) && !declaredFailed s b i && (channelOf s b i).isNone
    && !s.cv.subs.any (fun x => x.chan.val / 8 == b && x.chosen.val == i)

/-- The lowest-index free modulator of a basin (03 R99). -/
def lowestFree (s : State) (b : Nat) : Option Nat := (List.range 9).find? (fun i => isFree s b i)

/-- The first frame boundary at least 64 SCLK periods after tick `t` (03 R99). -/
def boundaryAfter (t : Nat) : Nat := frameLen * ceilDiv (t + 16) frameLen

/-- The end of an open mark. -/
def openEnd : Nat := 18446744073709551615

/-- Close the open marks of a kind on a channel at tick `last`; `excl` leaves out the window that contains it. -/
def closeMark (k : MarkKind) (channel last : Nat) (excl : Bool) (s : State) : State :=
  { s with fl := { s.fl with marks := s.fl.marks.map (fun m =>
      if m.kind == k && m.tag == 0 && m.last == openEnd && m.channels == BitVec.ofNat 256 (2 ^ channel) then
        { m with last := last, exclusive := excl } else m) } }

/-- A channel has an open mark of a kind. -/
def hasOpenMark (k : MarkKind) (channel : Nat) (s : State) : Bool :=
  s.fl.marks.any (fun m => m.kind == k && m.tag == 0 && m.last == openEnd && m.channels == BitVec.ofNat 256 (2 ^ channel))

/-- Count a unit that a running test has not finished with as skipped (17 R671). -/
def skipUnit (test unit : Nat) (s : State) : State :=
  if s.ts.runs.any (fun r => r.test == test && r.started && r.left.contains unit) then
    { s with ts := { s.ts with
        runs := s.ts.runs.map (fun r => if r.test = test then { r with left := r.left.filter (· != unit) } else r),
        results := vsetD s.ts.results test
          (let x := vgetD s.ts.results test TestResult.reset; { x with skipped := satInc x.skipped }) } }
  else s

/-- Modulator `m` is left by its calibration or test: chopper, dither injector and node switches are off (05 R173). -/
def stopStimulus (m : Nat) (s : State) : State :=
  { s with cal := { s.cal with stimuli := vsetD s.cal.stimuli m Stimulus.off } }

/-- Abandon test 3 of a modulator that is taken away: it counts as skipped (17 R679). -/
def abandonTest (m : Nat) (s : State) : State :=
  if s.ts.modTests.any (fun t => t.m.val == m) then
    stopStimulus m <| skipUnit 3 m { s with ts := { s.ts with modTests := s.ts.modTests.filter (fun t => t.m.val != m) } }
  else s

/-- The background calibration of index `i` ends without a result: an accepted calibration whose trims are not yet in force
leaves none either (05 R188, R173). -/
def dropVisit (b i : Nat) (s : State) : State :=
  stopStimulus (9 * b + i) { s with cal := { s.cal with
    visits := vsetD s.cal.visits b none, loads := s.cal.loads.filter (fun l => l.m.val != 9 * b + i) } }

/-- Abandon the calibration or the test of a modulator that is taken away (03 R99, 05 R188, 17 R679). -/
def abandonCalibration (b i : Nat) (s : State) : State :=
  let s := abandonTest (9 * b + i) s
  match vgetD s.cal.visits b none with
  | some v => if v.index.val = i then dropVisit b i s else s
  | none => s

/-- No healthy modulator of the basin serves no channel (03 R101). -/
def noSpare (s : State) (b : Nat) : Bool :=
  (List.range 9).all (fun i => !((modState s b i == .spare || modState s b i == .calibrating || modState s b i == .shadow)
    && (channelOf s b i).isNone))

/-- BASIN_NO_SPARE if the basin has come to lack a free healthy modulator (03 R101). -/
def checkNoSpare (before : State) (b : Nat) (s : State) : State :=
  if noSpare s b && !noSpare before b then crit 0x0304 b [wd b] s else s

/-- Retire index `i` of basin `b`, for every warm reset to come (03 R104). -/
def retire (b i : Nat) (s : State) : State := enterState b i .retired (noteFailed b i s)

/-- Enter a substitution of the modulator that serves channel `c` by index `i`, from tick `t` (03 R99). -/
def beginSubstitution (c failed i t : Nat) (s : State) : State :=
  let f1 := boundaryAfter t
  let s1 := abandonCalibration (c / 8) i
    { s with cv := { s.cv with subs := s.cv.subs ++
      [{ chan := fin 256 c, failed := fin 9 failed, chosen := fin 9 i, f1 := some f1, f2 := f1 + frameLen }] } }
  if hasOpenMark .subst c s1 then s1 else mark .subst (BitVec.ofNat 256 (2 ^ c)) t openEnd s1

/-- Substitute the failed server of channel `c` from tick `t`, or let it go on as FAILED_SERVING with OVR where no
modulator is free (03 R99, R102). -/
def substitute (c failed t : Nat) (s : State) : State :=
  match lowestFree s (c / 8) with
  | some i => beginSubstitution c failed i t s
  | none =>
    crit 0x0303 c [wd c, wd (9 * (c / 8) + failed)]
      (mark .ovr (BitVec.ofNat 256 (2 ^ c)) t openEnd (setMod (c / 8) failed .failedServing s))

/-- The lowest FAILED_SERVING channels without a substitution take the free modulators, one by one (03 R102). -/
def offerEach (b : Nat) : Nat → State → State
  | 0, s => s
  | n + 1, s =>
    match (List.range 8).find? (fun k => modState s b (assigned s b k) == .failedServing
        && !s.cv.subs.any (fun x => x.chan.val == 8 * b + k)), lowestFree s b with
    | some k, some i => offerEach b n (beginSubstitution (8 * b + k) (assigned s b k) i (now s) s)
    | _, _ => s

/-- Modulators have become free: FAILED_SERVING channels take them (03 R102). -/
def offerFree (b : Nat) (s : State) : State := offerEach b 8 s

/-- MOD_FAIL and the ledger's count (03 R98, R104): modulator, channel or 0xFF, reason and t_d. -/
def raiseModFail (b i : Nat) (chan : Option Nat) (reason t : Nat) (s : State) : State :=
  countLedger 12 1 (crit 0x0301 (9 * b + i)
    ([wd (9 * b + i), wd (match chan with | some k => 8 * b + k | none => 0xFF), wd reason] ++ split64 t) (noteFailed b i s))

/-- The chosen modulator of a substitution fails before ownership passes: it is retired and another is chosen at this
tick (03 R769). -/
def rechoose (x : Substitution) (t : Nat) (s : State) : State :=
  let b := x.chan.val / 8
  let s1 := { s with cv := { s.cv with subs := s.cv.subs.filter (fun y => y.chan != x.chan) } }
  match lowestFree s1 b with
  | some i => beginSubstitution x.chan.val x.failed.val i t s1
  | none =>
    let s2 := closeMark .subst x.chan.val t true (setMod b x.failed.val .failedServing s1)
    crit 0x0303 x.chan.val [wd x.chan.val, wd (9 * b + x.failed.val)]
      (mark .ovr (BitVec.ofNat 256 (2 ^ x.chan.val)) t openEnd s2)

/-- Handle a failure of index `i` of basin `b` at tick `t` (03 R98 to R102, R769). A modulator that has failed before is
left as it is. -/
def failNow (b i reason t : Nat) (s : State) : State :=
  match modState s b i with
  | .retired | .failedServing => s
  | .serving =>
    match channelOf s b i with
    | none => s
    | some k =>
      if s.cv.subs.any (fun x => x.chan.val == 8 * b + k) then s
      else
        let s1 := raiseModFail b i (some k) reason t s
        match vgetD s1.cv.overlaps b none with
        | some o =>
          if o.chan.val = k then
            mark .subst (BitVec.ofNat 256 (2 ^ (8 * b + k))) t openEnd
              { s1 with cv := { s1.cv with
                  overlaps := vsetD s1.cv.overlaps b none,
                  subs := s1.cv.subs ++ [{ chan := fin 256 (8 * b + k), failed := fin 9 i, chosen := o.shadow,
                                           f1 := none, f2 := boundaryAfter t }] } }
          else substitute (8 * b + k) i t s1
        | none => substitute (8 * b + k) i t s1
  | _ =>
    let s1 := raiseModFail b i none reason t (abandonCalibration b i (retire b i s))
    let s2 := match vgetD s1.cv.overlaps b none with
      | some o => if o.shadow.val = i then { s1 with cv := { s1.cv with overlaps := vsetD s1.cv.overlaps b none } } else s1
      | none => s1
    let s3 := match s2.cv.subs.find? (fun x => x.chan.val / 8 == b && x.chosen.val == i) with
      | some x => rechoose x t s2
      | none => s2
    checkNoSpare s b s3

/-- Declare index `i` of basin `b` failed at tick `t` for a reason (03 R98). A failure of a modulator that a running
foreground calibration has taken waits for E (05 R194, R775). -/
def failModulator (b i reason t : Nat) (s : State) : State :=
  match runningForeground s b with
  | some g =>
    if (vgetD g.taken i none).isSome then
      if (vgetD g.failed i none).isSome then s
      else
        let q := { vgetD s.cal.basins b CalBasin.reset with foreground := some { g with failed := vsetD g.failed i (some reason) } }
        noteFailed b i { s with cal := { s.cal with basins := vsetD s.cal.basins b q } }
    else failNow b i reason t s
  | none => failNow b i reason t s

/-- A foreground calibration of the basin holds ownership back at boundary `f`: it ends after it (05 R775). -/
def ownershipHeld (s : State) (b f : Nat) : Bool :=
  match runningForeground s b with
  | some g => decide (f < g.start + 8 * frameLen)
  | none => false

/-- A substitution step at boundary `f`: the chosen modulator enters SHADOW at F1, and ownership passes at F2
(03 R99, R100). -/
def stepSubstitution (f : Nat) (x : Substitution) (s : State) : State :=
  let b := x.chan.val / 8
  let c := x.chan.val
  if x.f1 = some f then
    setMod b x.chosen.val .shadow
      { s with cv := { s.cv with subs := s.cv.subs.map (fun y => if y == x then { y with f1 := none } else y) } }
  else if x.f2 ≤ f ∧ x.f1.isNone ∧ ¬ ownershipHeld s b f then
    let s1 := retire b x.failed.val (setMod b x.chosen.val .serving (setAssign b (c % 8) x.chosen.val
      { s with cv := { s.cv with subs := s.cv.subs.filter (fun y => y != x), swaps := vsetD s.cv.swaps b (vgetD s.cv.swaps b 0 + 1) } }))
    let s2 := closeMark .ovr c f false (closeMark .subst c f false s1)
    let s3 := mark .settle (BitVec.ofNat 256 (2 ^ c)) f f s2
    checkNoSpare s b (info 0x0302 c ([wd c, wd (9 * b + x.failed.val), wd (9 * b + x.chosen.val)] ++ split64 f) s3)
  else s

/-- The substitutions due at boundary `f`. -/
def stepSubstitutions (f : Nat) (s : State) : State := s.cv.subs.foldl (fun t x => stepSubstitution f x t) s

/-- Begin an overlap of local channel `k` of basin `b` with shadow index `i` at boundary `f` (03 R95). -/
def beginOverlap (b k i f : Nat) (s : State) : State :=
  let o : Overlap := { chan := fin 8 k, shadow := fin 9 i, swapAt := f + 2 * frameLen }
  setMod b i .shadow { s with cv := { s.cv with overlaps := vsetD s.cv.overlaps b (some o) } }

/-- Abort the overlap of a basin for a cause: the shadow returns to SPARE at the next frame boundary (03 R97). -/
def abortOverlap (b cause : Nat) (s : State) : State :=
  match vgetD s.cv.overlaps b none with
  | none => s
  | some o =>
    info 0x0305 (8 * b + o.chan.val) [wd (8 * b + o.chan.val), wd cause]
      { s with cv := { s.cv with
          overlaps := vsetD s.cv.overlaps b none
          returning := s.cv.returning ++ [(fin 32 b, o.shadow, frameLen * (now s / frameLen + 1))] } }

/-- Shadows of aborted overlaps whose boundary has come by `f` return to SPARE (03 R97, R102). One that has failed meanwhile
stays RETIRED. -/
def returnShadows (f : Nat) (s : State) : State :=
  (s.cv.returning.filter (fun x => decide (x.2.2 ≤ f))).foldl
    (fun t x => if modState t x.1.val x.2.1.val == .shadow then offerFree x.1.val (setMod x.1.val x.2.1.val .spare t) else t)
    { s with cv := { s.cv with returning := s.cv.returning.filter (fun x => !decide (x.2.2 ≤ f)) } }

/-- The swap that ends an overlap at boundary `f` (03 R96): SUBST on the window of the first cycle served. The freed
modulator enters CALIBRATING. -/
def swapOverlap (b f : Nat) (o : Overlap) (s : State) : State :=
  let k := o.chan.val
  let old := assigned s b k
  let s1 := setMod b old .calibrating (setMod b o.shadow.val .serving (setAssign b k o.shadow.val
    { s with cv := { s.cv with overlaps := vsetD s.cv.overlaps b none,
                               swaps := vsetD s.cv.swaps b (vgetD s.cv.swaps b 0 + 1) } }))
  mark .subst (BitVec.ofNat 256 (2 ^ (8 * b + k))) f f s1

/-- A substitution of channel `c` that has not passed ownership ends with its channel: the chosen modulator returns from
SHADOW to SPARE (DESIGN CHOICE, assumption 139). -/
def dropSubstitution (c : Nat) (s : State) : State :=
  (s.cv.subs.filter (fun x => x.chan.val == c)).foldl
    (fun t x => if modState t (c / 8) x.chosen.val == .shadow then setMod (c / 8) x.chosen.val .spare t else t)
    { s with cv := { s.cv with subs := s.cv.subs.filter (fun x => x.chan.val != c) } }

/-- Park local channel `k`: its modulator enters SPARE, or RETIRED if it was failed (03 R106). One whose failure waits for E
of a foreground calibration is handled there as a spare (05 R775). -/
def parkChannel (b k : Nat) (s : State) : State :=
  let i := assigned s b k
  if i = 0xF then s
  else
    let s1 := dropSubstitution (8 * b + k) s
    let failed := heldState s b i == .failedServing || s.cv.subs.any (fun x => x.chan.val == 8 * b + k)
    let s2 := setAssign b k 0xF (if failed then retire b i s1 else enterState b i .spare s1)
    closeMark .ovr (8 * b + k) (now s) false (closeMark .subst (8 * b + k) (now s) false s2)

/-- Unpark local channel `k` at boundary `f` with the lowest-index free modulator, or leave it parked and raise
UNPARK_FAILED (03 R107, R770). -/
def unparkChannel (b k f : Nat) (s : State) : State :=
  match lowestFree s b with
  | some i =>
    mark .settle (BitVec.ofNat 256 (2 ^ (8 * b + k))) f f (enterState b i .serving (setAssign b k i (abandonCalibration b i s)))
  | none =>
    crit 0x0309 (8 * b + k) (wd (8 * b + k) :: split64 f)
      { s with cv := { s.cv with chanWord := vsetD s.cv.chanWord b (vgetD s.cv.chanWord b 0 ||| wd (2 ^ (24 + k))) } }

/-- Bring a basin's channel word into force at boundary `f` (03 R105 to R107, R97 cause 1). -/
def applyChannels (b : Nat) (w : Word) (f : Nat) (s : State) : State :=
  let old := vgetD s.cv.chanWord b 0
  let gains := maskOf 8 (fun k => w.field (3 * k + 2) (3 * k) != old.field (3 * k + 2) (3 * k))
  let parks := maskOf 8 (fun k => w.bit (24 + k) && !old.bit (24 + k))
  let unparks := maskOf 8 (fun k => !w.bit (24 + k) && old.bit (24 + k))
  let s0 := { s with cv := { s.cv with chanWord := vsetD s.cv.chanWord b w } }
  let s1 := mark .settle (basinMask b gains) f f s0
  let s2 := (List.range 8).foldl (fun t k => if parks.testBit k then parkChannel b k t else t) s1
  let s3 := (List.range 8).foldl (fun t k => if unparks.testBit k then unparkChannel b k f t else t) s2
  let s4 := match vgetD s3.cv.overlaps b none with
    | some o => if (gains ||| parks).testBit o.chan.val then abortOverlap b 1 s3 else s3
    | none => s3
  checkNoSpare s b (offerFree b s4)

end Sys2Proof.Machine
end

