-- ==== Sys2Proof/Machine/FrontEnd.lean ====
section
/-!
DEFINITION. The front end (02): conflicts of a configuration (R46 to R48), the change at a frame boundary and its marks
(R49 to R54), what inputs and guards see (R44, R64), compliance and driver limits (R56, R63), overvoltage isolation (R66 to
R75), diagnostics (R77 to R84), and the class 0x02 commands.
-/
namespace Sys2Proof.Machine
open Sys2Proof

/-! ## A configuration -/

/-- The connection, source and bias and guard words of the hub. -/
structure FeConfig where
  conn : Vector Word 512
  src : Vector Word 128
  bias : Vector Word 32

/-- The configuration recorded (02 R72, R73). -/
def feConfig (s : State) : FeConfig := { conn := s.fe.conn, src := s.fe.src, bias := s.fe.bias }

/-- One staged front-end change, applied to a configuration. -/
def FeConfig.with (c : FeConfig) (x : Change) : FeConfig :=
  match x with
  | .connections b ws => { c with conn := (ws.zip (List.range 16)).foldl (fun v y => vsetD v (16 * b.val + y.2) y.1) c.conn }
  | .excitation b ws => { c with src := (ws.zip (List.range 4)).foldl (fun v y => vsetD v (4 * b.val + y.2) y.1) c.src }
  | .biasGuard b w => { c with bias := vset c.bias b w }
  | _ => c

/-- The configuration that results from every change staged for boundary `f` or an earlier one (02 R46). -/
def stagedConfig (f : Nat) (s : State) : FeConfig :=
  (inOrder s.staged).foldl (fun c x => if x.at_ ≤ f then c.with x.change else c) (feConfig s)

/-- Connection word of terminal `t`. -/
def FeConfig.word (c : FeConfig) (t : Nat) : Word := vgetD c.conn t 0

/-- Source word `i`. -/
def FeConfig.source (c : FeConfig) (i : Nat) : Word := vgetD c.src i 0

/-- Terminals of the hub joined to source `i` (X of basin i / 4). -/
def FeConfig.joined (c : FeConfig) (i : Nat) : List Nat :=
  ((List.range 16).map (fun j => 16 * (i / 4) + j)).filter (fun t => (c.word t).bit (18 + i % 4))

/-- A source is enabled and delivers: it is joined to a terminal (02 R48). -/
def FeConfig.delivers (c : FeConfig) (i : Nat) : Bool := (c.source i).bit 31 && !(c.joined i).isEmpty

/-- The driver codes joined to a terminal: X0 to X3, BIAS 4, GUARD 5 (02 Table 2.4). -/
def driversOf (w : Word) : List Nat := (List.range 6).filter (fun d => w.bit (18 + d))

/-- TB0 or TB1 is held by a running self-test: test 6 (17 R684). -/
def testBusHeld (s : State) : Bool := s.ts.runs.any (fun r => r.test == 6 && r.started)

/-- Conflicts of one code as (TERMINAL, RESOURCE), lowest terminal and resource first within what each rule lists (02
Table 2.4). -/
def conflictsOf (c : FeConfig) (held : Bool) (code : Nat) : List (Nat × Nat) :=
  let terminals := List.range 512
  let enabled := (List.range 128).filter (fun i => (c.source i).bit 31)
  match code with
  | 1 => terminals.filterMap (fun t => match driversOf (c.word t) with
      | d :: _ :: _ => some (t, d)
      | _ => none)
  | 2 => enabled.filterMap (fun i => match c.joined i with
      | t :: _ :: _ => some (t, i % 4)
      | _ => none)
  | 3 => terminals.filterMap (fun t =>
      let w := c.word t
      if w.field 15 0 ≠ 0 ∧ ¬ w.bit 28 then
        ((List.range 4).find? (fun k => w.bit (18 + k) && (c.source (4 * (t / 16) + k)).bit 31)).map (fun k => (t, k))
      else none)
  | 4 => (List.range 2).filterMap (fun n => match terminals.filter (fun t => (c.word t).bit (24 + n)) with
      | t :: _ :: _ => some (t, n)
      | _ => none)
  | 5 => if held then terminals.flatMap (fun t =>
      ((List.range 2).filter (fun n => (c.word t).bit (24 + n))).map (fun n => (t, n))) else []
  | 6 =>
    let sum := ((List.range 128).map (fun i => if c.delivers i then (c.source i).field 19 0 else 0)).foldl (· + ·) 0
    if 32000000 < sum then [(0x1FF, 0)] else []
  | 7 => enabled.filterMap (fun i =>
      let x := (c.source i).field 19 0
      if x < 1000 ∨ 1000000 < x then some ((c.joined i).headD 0x1FF, i % 4) else none)
  | 8 => (List.range 32).filterMap (fun b =>
      let mv := (vgetD c.bias b 0).field 11 0
      if mv ≠ 0 ∧ (mv < 100 ∨ 1700 < mv) then some (0x1FF, 0) else none)
  | _ => []

/-- The instance with the lowest TERMINAL and then the lowest RESOURCE (02 R47). -/
def lowestConflict (xs : List (Nat × Nat)) : Option (Nat × Nat) :=
  xs.foldl (fun acc x => match acc with
    | none => some x
    | some y => if x.1 < y.1 ∨ (x.1 = y.1 ∧ x.2 < y.2) then some x else some y) none

/-- The detail word of the conflict that a configuration has, if any (02 R46, R47, Table 2.5). -/
def conflictWord (c : FeConfig) (held : Bool) : Option Word :=
  (List.range 9).findSome? (fun code =>
    (lowestConflict (conflictsOf c held code)).map (fun x => wd (code * 16777216 + x.2 * 65536 + x.1)))

/-! ## Channels on a port, and fed by a driver -/

/-- Local channels with an input on terminal word `w`. -/
def inputBits (w : Word) : Nat := w.field 15 8 ||| w.field 7 0

/-- Channels with an input on port `p`. -/
def FeConfig.onPort (c : FeConfig) (p : Nat) : BitVec 256 :=
  basinMask (p / 4) ((List.range 4).foldl (fun a k => a ||| inputBits (c.word (4 * p + k))) 0)

/-- Sources enabled and joined to a terminal of port `p`. -/
def FeConfig.portSources (c : FeConfig) (p : Nat) : List Nat :=
  ((List.range 4).map (fun k => 4 * (p / 4) + k)).filter (fun i => c.delivers i && (c.joined i).any (fun t => t / 4 == p))

/-- Channels fed by source `i` (02, "Connection words"). -/
def FeConfig.fedBy (c : FeConfig) (i : Nat) : BitVec 256 :=
  (c.joined i).foldl (fun m t => m ||| c.onPort (t / 4)) 0

/-- A terminal of port `p` is joined to the driver of connection bit `bit`. -/
def FeConfig.portHas (c : FeConfig) (p bit : Nat) : Bool := (List.range 4).any (fun k => (c.word (4 * p + k)).bit bit)

/-- Channels of basin `b` fed by its BIAS (bit 22) or GUARD (bit 23). -/
def FeConfig.fedByDriver (c : FeConfig) (b bit : Nat) : BitVec 256 :=
  (List.range 4).foldl (fun m j => if c.portHas (4 * b + j) bit then m ||| c.onPort (4 * b + j) else m) 0

/-- The configuration that the switches hold: nothing on an isolated port (02 R67, R72). -/
def FeConfig.live (c : FeConfig) (isolated : BitVec 128) : FeConfig :=
  { c with conn := Vector.ofFn (fun t : Fin 512 => if hasBit isolated (t.val / 4) then 0 else vget c.conn t) }

/-- What a source delivers, and where: nothing unless it is enabled and joined. -/
def FeConfig.output (c : FeConfig) (i : Nat) : Option (List Nat × Bool × Nat) :=
  if c.delivers i then some (c.joined i, (c.source i).bit 30, (c.source i).field 19 0) else none

/-- The connections of the inputs of local channel `k` of basin `b`: terminals on its positive and on its negative, by the
connection words `word`. -/
def inputsBy (word : Nat → Word) (b k : Nat) : Nat × Nat :=
  (maskOf 16 (fun j => (word (16 * b + j)).bit (8 + k)), maskOf 16 (fun j => (word (16 * b + j)).bit k))

/-- The connections of the inputs of local channel `k` of basin `b` in a configuration. -/
def FeConfig.inputs (c : FeConfig) (b k : Nat) : Nat × Nat := inputsBy c.word b k

/-! ## What inputs and guards see (02 R44, R64) -/

/-- The connection word that the crosspoint of terminal `t` holds: on an isolated port the one of before, since changes
reach its switches with the reclose (02 R72, R73). Isolation opens the series switch of a terminal, so an input joined to
it counts as joined (DEDUCED, assumption 134). -/
def switchWord (s : State) (t : Nat) : Word :=
  if hasBit s.fe.isolated (t / 4) then vgetD s.fe.heldConn t 0 else vgetD s.fe.conn t 0

/-- Neither input of channel `c` is joined to a terminal: it reads zero (02 R44). -/
def unjoined (s : State) (c : Nat) : Bool := inputsBy (switchWord s) (c / 8) (c % 8) == (0, 0)

/-- What the GUARD driver of basin `b` follows under the bias and guard word `w` (02 R64, Table 2.13). -/
def guardNode (word : Nat → Word) (w : Word) (b : Nat) : GuardNode :=
  let k := w.field 18 16
  let x := inputsBy word b k
  if !w.bit 20 then .off
  else if (if w.bit 19 then x.2 else x.1) = 0 then .bias
  else .input (fin 8 k) (w.bit 19)

/-- The guards follow the configuration in force (02 R64). -/
def followGuards (s : State) : State :=
  { s with fe := { s.fe with guard := Vector.ofFn (fun b : Fin 32 => guardNode (switchWord s) (vget s.fe.bias b) b.val) } }

/-- The last tick that a settling of 5 µs from boundary `f` reaches (02 Table 2.6). -/
def settleEnd (f : Nat) : Nat := f + 61

/-! ## The change at a frame boundary (02 R49 to R54) -/

/-- Record a staged change in the configuration, in force at boundary `f` (02 R51, R72). -/
def recordFrontEnd (x : Change) (f : Nat) (s : State) : State :=
  let c := (feConfig s).with x
  let basin := match x with
    | .connections b _ | .excitation b _ | .biasGuard b _ => some b
    | _ => none
  let tick := match basin with
    | some b => vset s.fe.configTick b f
    | none => s.fe.configTick
  { s with fe := { s.fe with conn := c.conn, src := c.src, bias := c.bias, configTick := tick } }

/-- A change of these sources, their terminals or their BIAS takes effect in the frame that begins at `b` (08 R311). -/
def disturb (is : List Nat) (b : Nat) (s : State) : State :=
  { s with pair := { s.pair with disturbed := is.foldl (fun v i => vsetD v i (some b)) s.pair.disturbed } }

/-- Sources whose word, joined terminals or basin's BIAS differ between two configurations (08 R311). -/
def FeConfig.changedSources (old new : FeConfig) : List Nat :=
  (List.range 128).filter (fun i => old.source i != new.source i || old.joined i != new.joined i
    || (new.joined i).any (fun t => old.word t != new.word t) || vgetD old.bias (i / 4) 0 != vgetD new.bias (i / 4) 0)

/-- What the changes of one boundary, taken together, do to channels: SETTLE where inputs change, XSTEP where the current
of a feeding source or BIAS_MV changes, and the abort of an overlap whose channel changes (02 R53, R54; 03 R97). `old`
and `new` are what the switches held and hold. -/
def settleFrontEnd (old new : FeConfig) (f : Nat) (s : State) : State :=
  let changed := fun (b : Nat) => maskOf 8 (fun k => decide (old.inputs b k ≠ new.inputs b k))
  let s1 := (List.range 32).foldl (fun t b =>
    let m := changed b
    let t1 := mark .settle (basinMask b m) f f t
    match vgetD t.cv.overlaps b none with
    | some o => if m.testBit o.chan.val then abortOverlap b 1 t1 else t1
    | none => t1) s
  let steps := (List.range 128).foldl (fun m i =>
    if old.output i = new.output i then m else m ||| old.fedBy i ||| new.fedBy i) 0
  let biases := (List.range 32).foldl (fun m b =>
    if (vgetD old.bias b 0).field 11 0 = (vgetD new.bias b 0).field 11 0 then m
    else m ||| old.fedByDriver b 22 ||| new.fedByDriver b 22) 0
  disturb (old.changedSources new) f (mark .xstep (steps ||| biases) f (settleEnd f) s1)

/-! ## Compliance and driver limits (02 R56, R63) -/

/-- Compliance of source `i` at a boundary (02 R56). -/
def complianceFrame (obs : FrontEndObs) (i : Fin 128) (s : State) : State :=
  match obs.outOfCompliance.find? (fun x => x.1 == i) with
  | some (_, na) =>
    if hasBit s.fe.compliance i.val then s
    else countLedger 28 1 (crit 0x0204 i.val [wd i.val, na] { s with fe := { s.fe with compliance := setBit s.fe.compliance i.val } })
  | none =>
    if hasBit s.fe.compliance i.val then
      info 0x0205 i.val [wd i.val] { s with fe := { s.fe with compliance := clearBit s.fe.compliance i.val } }
    else s

/-- BIAS and GUARD limits of basin `b` at a boundary (02 R63). -/
def driverFrame (obs : FrontEndObs) (b : Fin 32) (s : State) : State :=
  let inBias := obs.biasLimit.contains b
  let inGuard := obs.guardLimit.contains b
  let s1 := if inBias && !hasBit s.fe.biasFault b.val then crit 0x0206 b.val [wd b.val] s else s
  let s2 := if inGuard && !hasBit s.fe.guardFault b.val then crit 0x0207 b.val [wd b.val] s1 else s1
  let put := fun (m : BitVec 32) (on : Bool) => if on then setBit m b.val else clearBit m b.val
  { s2 with fe := { s2.fe with biasFault := put s2.fe.biasFault inBias, guardFault := put s2.fe.guardFault inGuard } }

/-! ## Diagnostics (02 R77 to R84) -/

/-- Frames that a request occupies the measurement unit: 1 to 3 of Table 2.9, 5 and 6 as self-tests (17
Table 17.1, R683). -/
def diagFrames (kind : Nat) : Nat := if kind = 2 then 1 else if kind = 3 then 6 else if kind = 5 then 4 else 2

/-- The port that a request disturbs (kinds 1 and 3). -/
def DiagReq.port (r : DiagReq) : Option Nat := if r.kind = 1 ∨ r.kind = 3 then some (r.p / 4) else none

/-- The result word of a diagnostic (02 Table 2.10). -/
def diagWord (kind status : Nat) (value : BitVec 24) : Word := wd (kind * 268435456 + status * 16777216 + value.toNat)

/-- The magnitude of VALUE (02 R83). -/
def diagMagnitude (kind : Nat) (value : BitVec 24) : Nat := if kind = 3 then value.toInt.natAbs else value.toNat

/-- A run has its result: the reply of a first run, DIAG_LIMIT of a repeating one (02 R768, R83). -/
def diagResult (r : DiagReq) (status : Nat) (value : BitVec 24) (s : State) : State :=
  let w := diagWord r.kind status value
  let s1 := if r.first then settle (.diagnostic r.request) .ok [w] (now s) s else s
  match r.slot with
  | some k =>
    if status ≠ 0 ∨ (r.limit ≠ 0 ∧ r.limit < diagMagnitude r.kind value) then crit 0x0208 k.val [wd k.val, w] s1 else s1
  | none => s1

/-- Note the boundary at which a repeating request runs again, `every` frames after this run's start. -/
def scheduleRepeat (r : DiagReq) (t : Nat) (s : State) : State :=
  match r.slot with
  | none => s
  | some k => match vget s.fe.diagSlots k with
    | some d => if d.req.request = r.request then
        { s with fe := { s.fe with diagSlots := vset s.fe.diagSlots k (some { d with due := t + frameLen * r.every }) } } else s
    | none => s

/-- Marks of a run that begins at `t` (02 Table 2.9). -/
def diagMarks (r : DiagReq) (t : Nat) (s : State) : State :=
  match r.port with
  | none => s
  | some p =>
    let c := (feConfig s).live s.fe.isolated
    let e := t + frameLen * diagFrames r.kind - 1
    let own := c.onPort p
    if r.kind = 1 then mark .xstep own t e s
    else
      let fed := (List.range 4).foldl (fun m k =>
        if (c.joined (4 * (p / 4) + k)).any (fun x => x / 4 == p) && c.delivers (4 * (p / 4) + k) then m ||| c.fedBy (4 * (p / 4) + k) else m) 0
      mark .settleSpan own t e (mark .xstep (own ||| fed) t e s)

/-- A request of kind 1 or 3 may run: in SOLO, or with configuration mirroring working in a pair (02 R81). -/
def DiagReq.pathOk (r : DiagReq) (s : State) : Bool :=
  r.port.isNone || s.pair.pstate == .solo
    || (mirrorWorks s && s.pair.pstate != .joining && s.pair.pstate != .hold)

/-- The STATUS with which a request that takes no time ends: its port is isolated, or TB2 or TB3 is held (02 R767). -/
def DiagReq.barred (r : DiagReq) (s : State) : Option Nat :=
  match r.port with
  | none => none
  | some p => if hasBit s.fe.isolated p then some 2 else if s.fe.busHeld then some 3 else none

/-- A turn that comes while mirroring does not work takes no time: a first run answers NO_PAIR_PATH, a later one is left
out (02 R81; DESIGN CHOICE, assumption 135). -/
def passTurn (r : DiagReq) (s : State) : State :=
  if r.first then settle (.diagnostic r.request) .noPairPath [] (now s) s else s

/-- Start the next request of the queue at boundary `t`, if the unit is free; one that cannot run takes no time (02 R77, R81,
R767). -/
def startDiagnostics (t : Nat) : Nat → State → State
  | 0, s => s
  | n + 1, s =>
    match s.fe.diagRunning, s.fe.diagQueue with
    | none, r :: rest =>
      let s1 := scheduleRepeat r t { s with fe := { s.fe with diagQueue := rest } }
      if r.pathOk s then
        match r.barred s with
        | some st => startDiagnostics t n (diagResult r st 0 s1)
        | none => diagMarks r t { s1 with fe := { s1.fe with diagRunning := some { req := r, began := t } } }
      else startDiagnostics t n (passTurn r s1)
    | _, _ => s

/-- Start what can start at boundary `t`. -/
def runDiagnostics (t : Nat) (s : State) : State := startDiagnostics t (s.fe.diagQueue.length + 1) s

/-- The running request ends at its tick and the next one starts; kind 3 leaves SETTLE by R53 (02 Table 2.9). -/
def endDiagnostic (r : DiagRun) (abandoned : Bool) (status : Nat) (value : BitVec 24) (s : State) : State :=
  let e := r.began + frameLen * diagFrames r.req.kind
  let s0 := if abandoned then s else { s with tb := { s.tb with tick := max s.tb.tick e } }
  let s1 := disturb (match r.req.port with
    | some p => ((feConfig s0).live s0.fe.isolated).portSources p
    | none => []) s0.tb.frameTick { s0 with fe := { s0.fe with diagRunning := none } }
  let s2 := if r.req.kind = 3 ∧ ¬ abandoned then
      mark .settle (((feConfig s1).live s1.fe.isolated).onPort (r.req.p / 4)) e e s1 else s1
  diagResult r.req status value s2

/-- DIAGNOSTIC_RUN_END (02 Table 2.10, R83, R77): `over` is over range or open. Self-tests 5 and 6 end by rows of their
own. -/
def execDiagnosticRunEnd (overRange : Bool) (value : BitVec 24) (s : State) : Out :=
  .next (match s.fe.diagRunning with
    | none => s
    | some r =>
      if 5 ≤ r.req.kind ∨ !dueSoon (r.began + frameLen * diagFrames r.req.kind) s then s
      else
        let v : BitVec 24 := if !overRange then value else if r.req.kind = 3 then (if value.msb then 0x800000 else 0x7FFFFF) else 0xFFFFFF
        let s1 := endDiagnostic r false (b01 overRange) v s
        runDiagnostics (r.began + frameLen * diagFrames r.req.kind) s1)

/-- DIAGNOSTIC_REPEAT_DUE (02 R83): the slot's request joins the queue, once at a time. -/
def execDiagnosticRepeatDue (slot : Fin 8) (s : State) : Out :=
  .next (match vget s.fe.diagSlots slot with
    | none => s
    | some d =>
      let queued := (s.fe.diagQueue ++ (s.fe.diagRunning.map (fun r => r.req)).toList).any (fun r => r.request == d.req.request)
      if d.due = 0 ∨ queued ∨ !dueSoon d.due s then s
      else
        let s1 := { s with tb := { s.tb with tick := max s.tb.tick d.due },
                           fe := { s.fe with diagQueue := s.fe.diagQueue ++ [{ d.req with first := false }] } }
        runDiagnostics d.due s1)

/-- A slot has no diagnostic any more; its later runs leave the queue, a first run stays (02 R84, R768). A run in progress
goes on and still compares its result with LIMIT (DESIGN CHOICE, assumption 136). -/
def clearSlot (k : Fin 8) (s : State) : State :=
  { s with fe := { s.fe with diagSlots := vset s.fe.diagSlots k none,
                             diagQueue := s.fe.diagQueue.filter (fun r => r.slot != some k || r.first) } }

/-- One-shot requests queued or staged, and the number that may stand in the queue: 8 behind the running one, which is the
first of them while none runs (02 R77). -/
def oneShots (s : State) : Nat × Nat :=
  ((s.fe.diagQueue.filter (fun r => r.slot.isNone)).length
    + (s.staged.filter (fun x => match x.change with
        | .diagnostic r => r.slot.isNone
        | _ => false)).length,
   8 + b01 s.fe.diagRunning.isNone)

/-- A request joins the queue, replacing its slot's diagnostic (02 R77, R84). -/
def queueDiagnostic (r : DiagReq) (s : State) : State :=
  let s1 := match r.slot with
    | none => s
    | some k =>
      let t := clearSlot k s
      { t with fe := { t.fe with diagSlots := vset t.fe.diagSlots k (some { req := r, due := 0 }) } }
  { s1 with fe := { s1.fe with diagQueue := s1.fe.diagQueue ++ [r] } }

/-! ## Survey slots and isolation (03 R116) -/

/-- Survey converter `v`. -/
def getSv (s : State) (v : Fin 4) : Survey := vget s.cv.surveys v

/-- Change survey converter `v`. -/
def modSv (v : Fin 4) (f : Survey → Survey) (s : State) : State := { s with cv := { s.cv with surveys := vmod s.cv.surveys v f } }

/-- The port of input code `c` of converter `v`, if it is a terminal (03 Table 3.5). -/
def codePort (v c : Nat) : Option Nat := if c < 128 then some (32 * v + c / 4) else none

/-- A port that entry `e` names is isolated now (03 R116). -/
def entryIsolated (v : Fin 4) (e : Fin 16) (s : State) : Bool :=
  let w := vget (vget (getSv s v).entries e) 0
  [w.field 31 24, w.field 23 16].any (fun c => ((codePort v.val c).map (fun p => hasBit s.fe.isolated p)).getD false)

/-- Slots that have begun by now find their ports as they still are: this comes before every change of what is isolated (03
R116). -/
def judgeSlots (s : State) : State :=
  (List.finRange 4).foldl (fun t v =>
    let x := getSv t v
    match x.running with
    | some e => if x.skip.isNone ∧ x.slotAt ≤ 4 * now t then modSv v (fun y => { y with skip := some (entryIsolated v e t) }) t else t
    | none => t) s

/-! ## Overvoltage isolation (02 R66 to R75) -/

/-- Mark with an end still open, for the isolation of port `p`. -/
def isolationMark (k : MarkKind) (p : Nat) (m : BitVec 256) (t : Nat) (s : State) : State :=
  if m = 0 then s
  else { s with fl := { s.fl with marks := s.fl.marks ++
    [{ kind := k, channels := m, first := t, last := openEnd, exclusive := false, tag := p + 1 }] } }

/-- Isolations of port `p` within the last 10 s (02 R70). -/
def recentIsolations (p : Fin 128) (s : State) : Nat :=
  (s.fe.isolations.filter (fun x => x.1 == p && decide (now s < x.2 + 10 * ticksPerSecond))).length

/-- The crosspoint of port `p` keeps what it holds until the reclose (02 R72). -/
def holdSwitches (p : Nat) (s : State) : State :=
  { s with fe := { s.fe with heldConn := (List.range 4).foldl (fun v k =>
      vsetD v (4 * p + k) (vgetD s.fe.conn (4 * p + k) 0)) s.fe.heldConn } }

/-- Split sources of a pair that stop delivering do not resume of themselves; a unit that is alone has no halves to resume (08
R316; DESIGN CHOICE, assumption 162). -/
def stopHalves (is : List Nat) (s : State) : State :=
  if s.pair.en && s.pair.pstate != .activeAlone then
    { s with pair := { s.pair with stopped :=
        (is.filter (fun i => vgetD s.pair.split i .off != .off)).foldl (fun m i => setBit m i) s.pair.stopped } }
  else s

/-- A trip isolates its port: it is recorded, every source that the port carried is diverted, and the channels on it
carry OVR and those its sources feed XSTEP from now on (02 R67, R68). An overlap of a channel of the port is aborted (03
R97). -/
def isolatePort (port : Fin 128) (mask : BitVec 4) (polarity : Bool) (s : State) : State :=
  let p := port.val
  let c := (feConfig s).live s.fe.isolated
  let sources := c.portSources p
  let fed := sources.foldl (fun m i => m ||| c.fedBy i) 0
  let isolations := (s.fe.isolations.filter (fun x => decide (now s < x.2 + 10 * ticksPerSecond))) ++ [(port, now s)]
  let s0 := match vgetD s.cv.overlaps (p / 4) none with
    | some o => if hasBit ((feConfig s).onPort p) (8 * (p / 4) + o.chan.val) then abortOverlap (p / 4) 2 (judgeSlots s) else judgeSlots s
    | none => judgeSlots s
  let s1 := holdSwitches p { s0 with fe := { s0.fe with
    isolated := setBit s.fe.isolated p, trips := s.fe.trips ++ [{ port := port, mask := mask, polarity := polarity }],
    isolations := isolations, diverted := sources.foldl (fun m i => setBit m i) s.fe.diverted } }
  isolationMark .xstep p fed (now s) (isolationMark .ovr p (c.onPort p) (now s) (stopHalves sources s1))

/-- The port latches with the (RETRY_LIMIT + 1)th isolation within 10 s, or at once under LATCH_ALWAYS (02 R70). -/
def latchPort (port : Fin 128) (s : State) : State :=
  let n := recentIsolations port s
  if s.fe.ovWord.bit 16 ∨ s.fe.ovWord.field 15 12 < n then
    crit 0x0203 port.val [wd port.val, wd n] { s with fe := { s.fe with latched := setBit s.fe.latched port.val } }
  else s

/-- A diagnostic that runs on the isolated port is abandoned, with STATUS 4 (02 R80). -/
def abandonOn (port : Fin 128) (s : State) : State :=
  match s.fe.diagRunning with
  | some r => if r.req.port = some port.val then endDiagnostic r true 4 0 s else s
  | none => s

/-- OV_TRIP (02 R67, R68, R70, R80): the port isolates and its trip waits for the next frame boundary; on a port isolated
already only the reclose hold starts anew (R69). -/
def execOvTrip (port : Fin 128) (mask : BitVec 4) (polarity : Bool) (s : State) : Out :=
  .next (if hasBit s.fe.isolated port.val then { s with fe := { s.fe with recloseDue := clearBit s.fe.recloseDue port.val } }
  else abandonOn port (latchPort port (isolatePort port mask polarity s)))

/-- RECLOSE_HOLD_EXPIRY (02 R69): the port recloses at the next frame boundary, unless it is latched. -/
def execRecloseHoldExpiry (port : Fin 128) (s : State) : Out :=
  .next (if hasBit s.fe.isolated port.val ∧ ¬ hasBit s.fe.latched port.val then
    { s with fe := { s.fe with recloseDue := setBit s.fe.recloseDue port.val } } else s)

/-- Trips reach their frame boundary: status bit, event and ledger (02 Table 2.8). -/
def tripFrame (x : Trip) (s : State) : State :=
  let p := x.port.val
  countLedger 11 1 (crit 0x0201 p [wd p, wd x.mask.toNat, wd (b01 x.polarity)]
    { s with fe := { s.fe with ovBits := setBit s.fe.ovBits p } })

/-- Close the marks of a port's isolation at tick `t`. -/
def closeIsolation (p t : Nat) (s : State) : State :=
  { s with fl := { s.fl with marks := s.fl.marks.map (fun m => if m.tag = p + 1 then { m with last := t, tag := 0 } else m) } }

/-- The configuration with the connections that port `p` held when it isolated. -/
def FeConfig.withHeld (c : FeConfig) (p : Nat) (s : State) : FeConfig :=
  { c with conn := (List.range 4).foldl (fun v k => vsetD v (4 * p + k) (vgetD s.fe.heldConn (4 * p + k) 0)) c.conn }

/-- Reclose port `p` at boundary `f`: its recorded connections are restored, with SETTLE on channels of the port and XSTEP
on those fed by what returns; a change recorded meanwhile marks here the channels of the port before and after it (02 R69,
R73, R74). -/
def reclosePort (p f : Nat) (s : State) : State :=
  let s0 := judgeSlots s
  let s1 := closeIsolation p f
    { s0 with fe := { s0.fe with isolated := clearBit s0.fe.isolated p, ovBits := clearBit s0.fe.ovBits p,
                                 recloseDue := clearBit s0.fe.recloseDue p } }
  let c := (feConfig s1).live s1.fe.isolated
  let was := c.withHeld p s
  let on := was.onPort p ||| c.onPort p
  let sources := was.portSources p ++ c.portSources p
  let fed := sources.foldl (fun m i => m ||| was.fedBy i ||| c.fedBy i) 0
  let drivers := if [22, 23].any (fun d => was.portHas p d || c.portHas p d) then on else 0
  let s2 := { s1 with fe := { s1.fe with
    diverted := (List.range 4).foldl (fun m k => clearBit m (4 * (p / 4) + k)) s1.fe.diverted } }
    |> disturb sources f
  mark .xstep (fed ||| drivers) f (settleEnd f) (mark .settle on f f s2)

/-- The isolation work of boundary `f`: trips of the frame, then ports that reclose of themselves (02 Table 2.8, R69). -/
def isolationFrame (f : Nat) (s : State) : State :=
  let s1 := s.fe.trips.foldl (fun t x => tripFrame x t) { s with fe := { s.fe with trips := [] } }
  (List.range 128).foldl (fun t p =>
    if hasBit t.fe.recloseDue p && hasBit t.fe.isolated p && !hasBit t.fe.latched p then info 0x0202 p [wd p] (reclosePort p f t)
    else t) s1

/-- FE_RELEASE_ISOLATION takes effect at `f`: a latched port is released and recloses at this boundary, without OV_RECLOSE
(02 R70, R71; DESIGN CHOICE, assumption 137). -/
def applyRelease (p : Fin 128) (f : Nat) (s : State) : State :=
  if hasBit s.fe.latched p.val then reclosePort p.val f { s with fe := { s.fe with latched := clearBit s.fe.latched p.val } } else s

/-- The observations of the frame that ends at a boundary (02 R56, R63, R69). -/
def observeFrontEnd (obs : FrontEndObs) (s : State) : State :=
  let s1 := (List.finRange 128).foldl (fun t i => complianceFrame obs i t) s
  let s2 := (List.finRange 32).foldl (fun t b => driverFrame obs b t) s1
  { s2 with fe := { s2.fe with outOfRange := obs.outOfRange.foldl (fun m p => setBit m p.val) 0, busHeld := obs.busHeld } }

/-! ## Commands (02, "Commands and parameter blocks") -/

/-- The basin a front-end block names. -/
def feBasin (p : Packet) : Fin 32 := fin 32 ((p.w 0).field 4 0)

/-- A command that stages one front-end change: APPLY_TICK in words 1 and 2, then the conflict check on the boundary it
names (02 R46, R49, R50). -/
def stageFrontEnd (p : Packet) (x : Change) (s : State) : Result :=
  match applyBoundary true p (p.w64 1) s with
  | .error r => .reject r.status r.detail
  | .ok f => match conflictWord ((stagedConfig f s).with x) (testBusHeld s) with
    | some w => .reject .feConflict [w]
    | none => .done (stage f x s) [] f

/-- The rules that FE_SET_CONNECTIONS, FE_SET_EXCITATION and FE_SET_BIAS_GUARD share: `n` words from word 3, with the
reserved bits `mask`. -/
def rulesFeSet (op : Op) (n : Nat) (mask : Word) (change : Packet → Change) : Rules :=
  { op := op, minLen := 3 + n, maxLen := 3 + n, issuers := pf0, configures := true, authority := fun _ => true,
    mirrored := fun _ => true,
    form := fun p _ => firstBad ([(0, rsv (p.w 0) 0xFFFFFFE0), tickForm p 1]
      ++ (List.range n).map (fun i => (3 + i, rsv (p.w (3 + i)) mask))),
    run := fun p s => stageFrontEnd p (change p) s }

/-- FE_SET_CONNECTIONS (02 Table 2.3). -/
def rulesFeSetConnections : Rules :=
  rulesFeSet .feSetConnections 16 0xEC030000 (fun p => .connections (feBasin p) ((List.range 16).map (fun i => p.w (3 + i))))

/-- FE_SET_CONNECTIONS. -/
def execFeSetConnections (p : Packet) (s : State) : Out := .next (takeCommand rulesFeSetConnections p s)

/-- FE_SET_EXCITATION (02 Table 2.12). -/
def rulesFeSetExcitation : Rules :=
  rulesFeSet .feSetExcitation 4 0x3FF00000 (fun p => .excitation (feBasin p) ((List.range 4).map (fun i => p.w (3 + i))))

/-- FE_SET_EXCITATION. -/
def execFeSetExcitation (p : Packet) (s : State) : Out := .next (takeCommand rulesFeSetExcitation p s)

/-- FE_SET_BIAS_GUARD (02 Table 2.13). -/
def rulesFeSetBiasGuard : Rules := rulesFeSet .feSetBiasGuard 1 0xFFE0F000 (fun p => .biasGuard (feBasin p) (p.w 3))

/-- FE_SET_BIAS_GUARD. -/
def execFeSetBiasGuard (p : Packet) (s : State) : Out := .next (takeCommand rulesFeSetBiasGuard p s)

/-- FE_SET_OVERVOLTAGE (02 Table 2.14, R79). -/
def rulesFeSetOvervoltage : Rules :=
  { op := .feSetOvervoltage, minLen := 1, maxLen := 1, issuers := pf0, configures := true, authority := fun _ => true,
    mirrored := fun _ => true,
    form := fun p _ => firstBad [(0, rsv (p.w 0) 0xFFFE0C00 && within ((p.w 0).field 9 0) 1 1000)],
    run := fun p s => let f := defaultBoundary true p s; .done (stage f (.overvoltage (p.w 0)) s) [] f }

/-- FE_SET_OVERVOLTAGE. -/
def execFeSetOvervoltage (p : Packet) (s : State) : Out := .next (takeCommand rulesFeSetOvervoltage p s)

/-- KIND of an FE_RUN_DIAGNOSTIC block. -/
def diagKind (p : Packet) : Nat := (p.w 0).field 31 28

/-- The form of an FE_RUN_DIAGNOSTIC block (02 R78, R79); VDDAH is its latest reading, in mV. -/
def diagForm (p : Packet) (s : State) : Option Nat :=
  let k := diagKind p
  let w0 := p.w 0
  let w1 := p.w 1
  let tp := w0.field 8 0
  let tq := w0.field 17 9
  let level := w1.field 11 8
  firstBad [(0, rsv w0 0x01FC0000 && decide (k ≤ 3) && (k == 1 || tq == 0) && (k != 1 || tp / 4 == tq / 4)
      && (k != 2 || decide (tp ≤ 127)) && (k != 0 || tp == 0)),
    (1, rsv w1 0x0000F0FF && (w1.field 31 16 == 0 || (decide (16 ≤ w1.field 31 16) && k != 0))
      && decide (level ≤ (if k = 1 then 1 else if k = 3 then 2 else 0))
      && !(k == 3 && level == 2 && decide ((vgetD s.hl.rails 6 0).toNat < 3300))),
    (2, rsv (p.w 2) 0xFF000000 && (k != 0 || p.w 2 == 0))]

/-- The request that an FE_RUN_DIAGNOSTIC block spells (02 Table 2.15). -/
def diagRequest (p : Packet) (n : Nat) : DiagReq :=
  let every := (p.w 1).field 31 16
  { request := n, kind := diagKind p, p := (p.w 0).field 8 0, q := (p.w 0).field 17 9, level := (p.w 1).field 11 8,
    limit := (p.w 2).field 23 0, slot := if every = 0 then none else some (fin 8 ((p.w 0).field 27 25)), every := every,
    first := true }

/-- The packet's effect waits for a mirror boundary. -/
def waitsForMirror (p : Packet) (s : State) : Bool :=
  match p.source with
  | .mirror _ => true
  | .staged _ => true
  | _ => mirroring s

/-- FE_RUN_DIAGNOSTIC (02 R77, R81, R84, R768; 08 Table 8.6). -/
def rulesFeRunDiagnostic : Rules :=
  { op := .feRunDiagnostic, minLen := 3, maxLen := 3, issuers := pf0, configures := false,
    authority := fun p => diagKind p == 1 || diagKind p == 3, mirrored := fun p => diagKind p != 2, form := diagForm,
    run := fun p s =>
      let k := diagKind p
      let slot := fin 8 ((p.w 0).field 27 25)
      let at_ := defaultBoundary true p s
      let shots := oneShots s
      if k = 0 then
        if waitsForMirror p s then .done (stage at_ (.diagCancel slot) s) [0] at_ else .done (clearSlot slot s) [0] (now s)
      else if (k = 1 ∨ k = 3) ∧ s.pair.pstate ≠ .solo ∧ ¬ mirrorWorks s then .reject .noPairPath []
      else if (p.w 1).field 31 16 = 0 ∧ shots.2 ≤ shots.1 then .reject .busy []
      else
        let r := diagRequest p s.fe.diagNext
        let s1 := { s with fe := { s.fe with diagNext := s.fe.diagNext + 1 } }
        .owe (if waitsForMirror p s && k != 2 then stage at_ (.diagnostic r) s1 else queueDiagnostic r s1) (.diagnostic r.request) }

/-- FE_RUN_DIAGNOSTIC. -/
def execFeRunDiagnostic (p : Packet) (s : State) : Out := .next (takeCommand rulesFeRunDiagnostic p s)

/-- The reply data of FE_READ_STATUS (02 Table 2.16). -/
def feStatusWords (b : Nat) (s : State) : List Word :=
  let c := feConfig s
  let bits := fun (n : Nat) (f : Nat → Bool) => maskOf n f
  [wd (bits 4 (fun j => hasBit s.fe.latched (4 * b + j)) * 65536 + bits 4 (fun j => hasBit s.fe.ovBits (4 * b + j)) * 4096
     + bits 4 (fun k => hasBit s.fe.compliance (4 * b + k)) * 256 + bits 4 (fun k => c.delivers (4 * b + k)) * 16
     + b01 (hasBit s.fe.guardFault b) * 8 + b01 (hasBit s.fe.biasFault b) * 4 + b01 s.pair.en * 2)]
  ++ split64 (vgetD s.fe.configTick b 0)

/-- FE_READ_STATUS (02 Table 2.16). -/
def rulesFeReadStatus : Rules :=
  { op := .feReadStatus, minLen := 1, maxLen := 1, issuers := pf0, configures := false,
    form := fun p _ => firstBad [(0, rsv (p.w 0) 0xFFFFFFE0)],
    run := fun p s => .done s (feStatusWords (feBasin p).val s) (now s) }

/-- FE_READ_STATUS. -/
def execFeReadStatus (p : Packet) (s : State) : Out := .next (takeCommand rulesFeReadStatus p s)

/-- FE_RELEASE_ISOLATION (02 R70, R71). -/
def rulesFeReleaseIsolation : Rules :=
  { op := .feReleaseIsolation, minLen := 1, maxLen := 1, issuers := pf0, configures := true, authority := fun _ => true,
    mirrored := fun _ => true,
    form := fun p _ => firstBad [(0, rsv (p.w 0) 0xFFFFFF80)],
    run := fun p s =>
      let port := fin 128 ((p.w 0).field 6 0)
      if ¬ hasBit s.fe.latched port.val then .done s [] (now s)
      else if hasBit s.fe.outOfRange port.val then .reject .precondition []
      else let f := defaultBoundary true p s; .done (stage f (.releaseIsolation port) s) [] f }

/-- FE_RELEASE_ISOLATION. -/
def execFeReleaseIsolation (p : Packet) (s : State) : Out := .next (takeCommand rulesFeReleaseIsolation p s)

/-- FE_READ_CONNECTIONS (02 R73): 16 connection words, 4 source words, the bias and guard word. -/
def rulesFeReadConnections : Rules :=
  { op := .feReadConnections, minLen := 1, maxLen := 1, issuers := pf0, configures := false,
    form := fun p _ => firstBad [(0, rsv (p.w 0) 0xFFFFFFE0)],
    run := fun p s =>
      let c := feConfig s
      let b := (feBasin p).val
      .done s ((List.range 16).map (fun t => c.word (16 * b + t)) ++ (List.range 4).map (fun k => c.source (4 * b + k))
        ++ [vgetD c.bias b 0]) (now s) }

/-- FE_READ_CONNECTIONS. -/
def execFeReadConnections (p : Packet) (s : State) : Out := .next (takeCommand rulesFeReadConnections p s)

end Sys2Proof.Machine
end

