-- ==== Sys2Proof/Machine/Filter.lean ====
section
/-!
DEFINITION. Decimation filters and detectors (04): windows and their values (R132 to R148), line-cycle windows (R149 to
R152), detectors and comparators (R155 to R163, R771), and the class 0x04 commands with what they stage (R129 to R131,
R141 to R143, R153, R154, R164 to R167).
-/
namespace Sys2Proof.Machine
open Sys2Proof

/-! ## Arithmetic -/

/-- rnd(p / q): to nearest, ties toward +∞ (04, "CIC arithmetic"). -/
def rndDiv (p : Int) (q : Nat) : Int := Int.fdiv (2 * p + q) (2 * q)

/-- The greatest integer below 2^k whose square does not exceed `x` (04 Table 4.4). -/
def isqrtBits (x : Nat) : Nat → Nat → Nat
  | 0, a => a
  | k + 1, a => if (a + 2 ^ k) * (a + 2 ^ k) ≤ x then isqrtBits x k (a + 2 ^ k) else isqrtBits x k a

/-- isqrt (04 Table 4.4): the greatest integer whose square does not exceed `x`, for `x` below 2^64. -/
def isqrt (x : Nat) : Nat := isqrtBits x 32 0

/-- A value limited to 24 bits, and whether it was clipped (04 R136, R137). -/
def clip24 (v : Int) : Int × Bool :=
  if 8388607 < v then (8388607, true) else if v < -8388608 then (-8388608, true) else (v, false)

/-- The transitions of a band comparator (03 Table 3.6): state after (OUT, side high) and whether the event is raised. -/
def bandStep (low high hyst : Int) (out side : Bool) (x : Int) : Bool × Bool × Bool :=
  if !out then
    if high < x then (true, true, true) else if x < low then (true, false, true) else (false, side, false)
  else if low + hyst ≤ x ∧ x ≤ high - hyst then (false, side, false)
  else if side && decide (x < low) then (true, false, true)
  else if !side && decide (high < x) then (true, true, true)
  else (out, side, false)

/-- A 72-bit register read as signed. -/
def signed72 (x : BitVec 72) : Int := x.toInt

/-! ## Branches -/

/-- Branch `i` (2c + b). -/
def getBranch (s : State) (i : Nat) : Branch := vgetD s.fl.branches i (Branch.reset 1)

/-- Replace branch `i`. -/
def setBranch (i : Nat) (x : Branch) (s : State) : State :=
  { s with fl := { s.fl with branches := vsetD s.fl.branches i x } }

/-- The fields of branch words (04 Table 4.7). -/
structure BranchCfg where
  en : Bool
  lc : Bool
  coarse : Bool
  fir : Bool
  order : Nat
  lcRef : Bool
  m : Nat
  cycles : Nat
  r : Nat
  phase : Int

/-- Read branch words (04 Table 4.7). -/
def branchCfg (ws : Vector Word 3) : BranchCfg :=
  let w0 := vgetD ws 0 0
  { en := w0.bit 31, lc := w0.bit 30, coarse := w0.bit 29, fir := w0.bit 28, order := w0.field 27 25, lcRef := w0.bit 24,
    m := w0.field 23 8 + 1, cycles := w0.field 7 0, r := (vgetD ws 1 0).field 23 0,
    phase := signedField 20 ((vgetD ws 2 0).field 19 0) }

/-- The output window w of a tick-grid branch, in cycles (04, "Windows and their alignment"). -/
def BranchCfg.window (c : BranchCfg) : Nat := c.r * c.m

/-- The fields whose change starts a regime: EN, MODE, ORDER, DECIM, AVG_M, CYCLES, FIR_EN (04, "Regime changes"). -/
def regimeFields (ws : Vector Word 3) : Word × Word := (vgetD ws 0 0 &&& 0xDEFFFFFF, vgetD ws 1 0)

/-- The cadence of a branch: MODE, DECIM, AVG_M, CYCLES and LC_REF (12 R452). -/
def branchCadence (ws : Vector Word 3) : Word × Word := (vgetD ws 0 0 &&& 0x41FFFFFF, vgetD ws 1 0)

/-- A decimation or window length of the tick grid (04 R132). -/
def gridLength (n : Nat) : Bool := decide (96 ≤ n) && (12288 % n == 0 || n % 12288 == 0)

/-- The branch words obey 04 R132, R135 and R166, reserved fields 0. -/
def branchWordsOk (ws : Vector Word 3) : Bool :=
  let c := branchCfg ws
  let bound := if c.order = 3 then 8388608 else if c.order = 4 then 131072 else 16384
  !c.en ||
    (if c.lc then c.cycles != 0 && !c.coarse && !c.fir && c.m == 1 && c.order == 0 && c.r == 0
     else within c.order 3 5 && gridLength c.r && gridLength c.window && decide (c.r ≤ bound) && c.cycles == 0
       && !c.lcRef && c.phase == 0)

/-- The first tick after the tick-grid window that begins at `a` (04 R133, R142). -/
def gridEnd (w a : Nat) : Nat := (a / w + 1) * w

/-! ## Marks on windows -/

/-- A mark of kind `k` on channel `c` reaches the window from tick `a` to `e`. -/
def Mark.reaches (m : Mark) (k : MarkKind) (c a e : Nat) : Bool :=
  m.kind == k && hasBit m.channels c && decide (m.first ≤ e) && (if m.exclusive then decide (e < m.last) else decide (a ≤ m.last))

/-- Some mark of a kind reaches a window. -/
def marked (s : State) (k : MarkKind) (c a e : Nat) : Bool := s.fl.marks.any (fun m => m.reaches k c a e)

/-- The latest disturbance of a branch within ticks `a` to `e`, and the sub-windows it marks: n + F for those of
04 Table 4.3, 1 for a change of coefficients of a branch with FIR_EN (04 R144). -/
def disturbance (s : State) (cfg : BranchCfg) (c a e : Nat) : Option (Nat × Nat) :=
  let n := if cfg.lc then 1 else cfg.order
  let full := n + (if cfg.fir then 14 else 0)
  s.fl.marks.foldl (fun acc m =>
    if hasBit m.channels c ∧ a ≤ m.first ∧ m.first ≤ e ∧ (m.kind = .settle ∨ (m.kind = .firChange ∧ cfg.fir)) then
      let k := if m.kind = .settle then full else 1
      match acc with
      | none => some (m.first, k)
      | some (t, j) => some (max t m.first, max j k)
    else acc) none

/-! ## Line-cycle windows -/

/-- The extrapolated crossings a branch takes: P̂ in 1/256 SCLK period, a crossing in 1/256 SCLK period, and whether the
phase term applies (04 R149, R150). -/
structure Crossings where
  phat : Nat
  xing : Int
  tracking : Bool

/-- The crossings of the hub's own tracker (06 R240). -/
def ownCrossings (s : State) : Crossings :=
  { phat := s.tb.mains.phat, xing := s.tb.mains.xhat, tracking := s.tb.mains.tracking }

/-- The length of a line-cycle window that begins at tick `b` (04 R149, R150). -/
def lcLength (cfg : BranchCfg) (x : Crossings) (b : Nat) : Nat :=
  let base : Int := 8 * cfg.cycles * x.phat
  let d0 : Int := ((b : Int) * 1024 - x.xing) % (max x.phat 1 : Nat)
  let d : Int := if (x.phat : Int) < 2 * d0 then d0 - x.phat else d0
  let num : Int := if x.tracking then 256 * (base - (d - 1024 * cfg.phase)) else 256 * base
  let lim : Int := min (max num (base * 255)) (base * 257)
  (rndDiv lim 2097152).toNat

/-- The tick nearest to `t` whose low 48 bits are `x` (07 Table 7.4). -/
def nearest48 (x : BitVec 48) (t : Nat) : Int :=
  (x.toNat : Int) + 281474976710656 * Int.fdiv ((t : Int) - x.toNat + 140737488355328) 281474976710656

/-- The master's crossings of a state record read at tick `t`: LC_XING, LC_PHAT and LC_VALID (07 Table 7.4). -/
def recordCrossings (r : Vector (BitVec 48) 8) (t : Nat) : Crossings :=
  let w7 := vgetD r 7 0
  { phat := w7.toNat / 65536, xing := nearest48 (vgetD r 6 0) t * 1024, tracking := w7.getLsbD 15 }

/-- A pair unit that does not hold authority (08 R339). -/
def pairFollows (s : State) : Bool := s.pair.pstate != .solo && !holdsAuthority s

/-- The branch takes its boundaries from another hub: with LC_REF = 1 from the ring master, and on a pair unit without
authority from the authority holder (04 R151, 07 R265, 08 R339). -/
def wantsForeign (s : State) (cfg : BranchCfg) : Bool :=
  pairFollows s || (cfg.lcRef && s.ring.mrole != .master && s.ring.mrole != .segmentMaster)

/-- No boundary has arrived: LC_VALID 0, no reference side, or the pair lanes down (07 R265, 08 R339). -/
def noCrossings : Crossings := { phat := 0, xing := 0, tracking := false }

/-- The crossings that a branch takes by R265: those of another hub, or on the master its own; none if the branch goes by
R149. -/
def foreignCrossings (s : State) (cfg : BranchCfg) : Option Crossings :=
  if pairFollows s then some (if s.pair.lanesUp then recordCrossings s.pair.side.record (now s) else noCrossings)
  else if !cfg.lcRef then none
  else if !wantsForeign s cfg then some (ownCrossings s)
  else some (match s.ring.refSide with
    | some .east => recordCrossings s.ring.east.record (now s)
    | some .west => recordCrossings s.ring.west.record (now s)
    | none => noCrossings)

/-- The CYCLES-th boundary after tick `b` of crossings shifted by LC_PHASE (07 R265). -/
def foreignEnd (cfg : BranchCfg) (x : Crossings) (b : Nat) : Nat :=
  let at0 : Int := x.xing + 1024 * cfg.phase
  let n0 : Int := Int.fdiv ((b : Int) * 1024 - at0) (max x.phat 1 : Nat) + 1
  (rndDiv (at0 + (n0 + cfg.cycles - 1) * x.phat) 1024).toNat

/-- The first tick after the line-cycle window that begins at `b`, as the hub computes it itself (04 R149). -/
def lcLocal (s : State) (cfg : BranchCfg) (b : Nat) : Nat := b + max 1 (lcLength cfg (ownCrossings s) b)

/-- That tick as boundaries of R265 give it, if they have arrived (04 R151, 07 R265). -/
def lcForeign (s : State) (cfg : BranchCfg) (b : Nat) : Option Nat :=
  match foreignCrossings s cfg with
  | some x => if x.tracking && decide (0 < x.phat) then some (max (b + 1) (foreignEnd cfg x b)) else none
  | none => none

/-- LC_BOUNDARY_MISSED for the boundary at tick `e` of channel `c`, once for a boundary: the first affected branch names it
(04 R151). -/
def boundaryMissed (c e : Nat) (s : State) : State :=
  let g := hubNum s * 256 + c
  if s.fl.lcMissed = e then s
  else info 0x0404 g (wd g :: split64 e) { s with fl := { s.fl with lcMissed := e } }

/-- Tracking has returned at a line-cycle window start: LC_TRACK_RESTORED (04 R150). -/
def lcRestored (t : Nat) (s : State) : State :=
  if s.fl.lcLost && s.tb.mains.tracking then
    info 0x0403 0 (split64 t ++ [wd s.tb.mains.phat]) { s with fl := { s.fl with lcLost := false } }
  else s

/-- Begin a window at tick `b`: a line-cycle window takes its length here (04 R149). Where the boundary should come from
another hub whose crossings are not valid now, it has not arrived in time (04 R151, 07 R265): the miss is raised at the
window's start (DESIGN CHOICE, assumption 146). -/
def beginWindow (i b : Nat) (s : State) : State :=
  let x := getBranch s i
  let cfg := branchCfg x.words
  if cfg.lc && cfg.en then
    let own := lcLocal s cfg b
    let got := lcForeign s cfg b
    let missed := wantsForeign s cfg && got.isNone
    let s1 := setBranch i { x with winStart := b, winEnd := got.getD own, winLocal := own, byLocal := missed } (lcRestored b s)
    if missed then boundaryMissed (i / 2) own s1 else s1
  else setBranch i { x with winStart := b } s

/-! ## Regimes -/

/-- A branch begins a regime under `ws` at T (04 R141, R142, R144). A disabled branch forms no window. -/
def startRegime (i : Nat) (ws : Vector Word 3) (t : Nat) (s : State) : State :=
  let x := getBranch s i
  let cfg := branchCfg ws
  let n := (if cfg.lc then 1 else cfg.order) + (if cfg.fir then 14 else 0)
  beginWindow i t (setBranch i
    { x with words := ws, waiting := none, regime := t, subs := 0, subStart := t, combs := [], corrected := [],
             coarse := [], winStart := t, windows := 0, settleLeft := n, disturbed := t } s)

/-- The T of a regime change applied at boundary `f` (04 R141). -/
def regimeTick (x : Branch) (f : Nat) : Nat :=
  let cfg := branchCfg x.words
  if !cfg.en then f
  else if cfg.lc then ceilDiv (if f ≤ x.winStart then x.winStart else x.winEnd) 32 * 32
  else ceilDiv f cfg.window * cfg.window

/-- A staged FL_SET_BRANCH takes effect at `f`: a regime change waits for its T or begins; any other change brings
COARSE_EN, LC_REF and LC_PHASE into force (04 R141, R143). -/
def applyBranch (i : Nat) (ws : Vector Word 3) (regime : Bool) (f : Nat) (s : State) : State :=
  let x := getBranch s i
  if regime then
    let t := match x.waiting with
      | some (t, _) => t
      | none => regimeTick x f
    if t = x.winStart ∨ ¬ (branchCfg x.words).en then startRegime i ws t s
    else setBranch i { x with waiting := some (t, ws) } s
  else
    let merge := fun (old : Vector Word 3) =>
      vset (vset old 0 ((vgetD old 0 0 &&& 0xDEFFFFFF) ||| (vgetD ws 0 0 &&& 0x21000000))) 2 (vgetD ws 2 0)
    setBranch i { x with words := merge x.words, waiting := x.waiting.map (fun y => (y.1, merge y.2)) } s

/-- A coefficient set takes effect at `f` (04 R154, Table 4.3). -/
def applyFir (b : Fin 32) (ws : Vector Word 8) (f : Nat) (s : State) : State :=
  mark .firChange (basinMask b.val 255) f f { s with fl := { s.fl with fir := vset s.fl.fir b ws } }

/-- Change the detector unit of channel `c`. -/
def modDetector (c : Nat) (g : Detector → Detector) (s : State) : State :=
  { s with fl := { s.fl with detectors := vsetD s.fl.detectors c (g (vgetD s.fl.detectors c Detector.reset)) } }

/-- An empty block. -/
def Detector.clear (d : Detector) : Detector := { d with count := 0, sum := 0, sumSq := 0, max := 0, min := 0, flags := 0 }

/-- A detector word takes effect: blocks and envelope restart (04 Table 4.9). -/
def applyDetectors (c : Fin 256) (w : Word) (s : State) : State :=
  modDetector c.val (fun d => { d.clear with word := w, env := 0, withheld := false }) s

/-- Comparator words take effect: the comparator starts IN (04 R160). -/
def applyComparator (c : Fin 256) (ws : Vector Word 4) (s : State) : State :=
  modDetector c.val (fun d => { d with cmp := ws, out := false, high := false }) s

/-! ## One window -/

/-- What a branch keeps while it forms the sub-windows of one window. -/
structure SubAcc where
  x : Branch
  fsum : Int
  count : Nat
  settle : Bool

/-- The digital trim that corrects channel `c` now: that of the modulator that serves it; neutral on a parked channel (04 R136,
R139, R772). -/
def channelTrim (s : State) (c : Nat) : Digital :=
  let i := assigned s (c / 8) (c % 8)
  if i < 9 then vgetD s.cal.digital (9 * (c / 8) + i) Digital.neutral else Digital.neutral

/-- The digital trim that corrects what channel `c` formed at tick `e` (04 R136). -/
def trimAt (s : State) (c e : Nat) : Digital :=
  match s.fl.past.find? (fun x => x.chan.val == c && decide (e < x.before)) with
  | some x => x.digital
  | none => channelTrim s c

/-- The coefficients of basin `b` at tick `e` (04 R136, R154). -/
def firAt (s : State) (b e : Nat) : Vector Word 8 :=
  match s.fl.firPast.find? (fun x => x.basin.val == b && decide (e < x.before)) with
  | some x => x.fir
  | none => vgetD s.fl.fir b firReset

/-- Boundary `f` has turned `old` into `s`: sub-windows that ended before it keep the trims and coefficients of before (04
R136, R154). -/
def keepPast (f : Nat) (old s : State) : State :=
  let trims := (List.finRange 256).filterMap (fun c =>
    if channelTrim old c.val = channelTrim s c.val then none
    else some { chan := c, before := f, digital := channelTrim old c.val : PastTrim })
  let firs := (List.finRange 32).filterMap (fun b =>
    if vget old.fl.fir b = vget s.fl.fir b then none else some { basin := b, before := f, fir := vget old.fl.fir b : PastFir })
  { s with fl := { s.fl with past := s.fl.past ++ trims, firPast := s.fl.firPast ++ firs } }

/-- The digital correction of a value that channel `c` formed at tick `e` (04 R136, R139). -/
def corrected (s : State) (c e : Nat) (u : Int) : Int :=
  let d := trimAt s c e
  if d.engaged then rndDiv ((u - 16 * d.dofs.toInt) * d.dgain.toNat) 4194304 else u

/-- Alternating binomial sum of the order-n comb: In(e) first, then In(e − r) and so on (04, "CIC arithmetic"). -/
def combSum : Nat → List (BitVec 72) → BitVec 72
  | 3, [a, b, c, d] => a - 3 * b + 3 * c - d
  | 4, [a, b, c, d, e] => a - 4 * b + 6 * c - 4 * d + e
  | 5, [a, b, c, d, e, f] => a - 5 * b + 10 * c - 10 * d + 5 * e - f
  | _, _ => 0

/-- The droop-compensation FIR on the last 15 corrected values, newest first; taps before the regime take its earliest
value (04 R136). -/
def firValue (coef : Vector Word 8) (cs : List Int) : Int :=
  let last := cs.getLast?.getD 0
  let tap := fun (i : Nat) => (cs[i]?).getD last
  let k := fun (i : Nat) => signedField 18 ((vgetD coef i 0).field 17 0)
  rndDiv ((List.range 7).foldl (fun a i => a + k i * (tap i + tap (14 - i))) (k 7 * tap 7)) 65536

/-- Form the sub-window of branch `x` that ends at tick `e` with the integrators `snap` there (04 R136, R144). -/
def formSub (s : State) (c : Nat) (cfg : BranchCfg) (a : SubAcc) (e : Nat) (snap : Cascade) : SubAcc :=
  let x := a.x
  let i1 := vgetD snap 0 0
  let inn := vgetD snap (cfg.order - 1) 0
  let len := e + 1 - x.subStart
  let u :=
    if cfg.lc ∨ x.subs < cfg.order then rndDiv (signed72 (i1 - x.i1) * 2147483648) len
    else rndDiv (signed72 (combSum cfg.order ((inn :: x.combs).take (cfg.order + 1))) * 2147483648) (cfg.r ^ cfg.order)
  let cv := corrected s c e u
  let cs := (cv :: x.corrected).take 15
  let f := if cfg.fir then firValue (firAt s (c / 8) e) cs else cv
  let (left, dist) := match disturbance s cfg c x.subStart e with
    | some (t, k) => (max x.settleLeft k, max x.disturbed t)
    | none => (x.settleLeft, x.disturbed)
  { x := { x with subs := x.subs + 1, subStart := e + 1, i1 := i1, combs := (inn :: x.combs).take 5, corrected := cs,
                  settleLeft := left - 1, disturbed := dist },
    fsum := a.fsum + f, count := a.count + 1, settle := a.settle || decide (0 < left) }

/-- The end ticks of the sub-windows of a window from `a` to `e` (04 R133, R142). -/
def subEnds (cfg : BranchCfg) (a e : Nat) : List Nat :=
  if cfg.lc then [e]
  else (List.range (ceilDiv (e + 1) cfg.r - a / cfg.r)).map (fun i => (a / cfg.r + 1 + i) * cfg.r - 1)

/-- The coarse value of a window: the mean of its valid coarse outputs, if there is one (04 R146, R147). -/
def coarseValue (s : State) (c : Nat) (cfg : BranchCfg) (x : Branch) (a e : Nat) (i2 : List (BitVec 72)) : Option Int :=
  let rc := cfg.r / 16
  let k0 := ceilDiv (a + 1) rc
  let hist := fun (k : Nat) => if k < 2 then (x.coarse[1 - k]?).getD 0 else (i2[k - 2]?).getD 0
  let outs := (List.range i2.length).filterMap (fun j =>
    let t := (k0 + j) * rc - 1
    if t ≤ e ∧ a + 2 * rc ≤ t + 1 ∧ x.disturbed + 2 * rc ≤ t + 1 then
      let y := hist (j + 2) - 2 * hist (j + 1) + hist j
      some (corrected s c t (rndDiv (signed72 y * 2147483648) (rc * rc)))
    else none)
  if outs.isEmpty then none else some (rndDiv (outs.foldl (· + ·) 0) (256 * outs.length))

/-- A window as formed: its sample word, VALUE, span, index and regime, and what delivery needs to know of it. -/
structure Formed where
  chan : Nat
  branch : Nat
  word : Word
  value : Int
  start : Nat
  out : Nat
  regime : Nat
  first : Bool
  /-- The regime ends with this window (04 R141). -/
  last : Bool
  k : Nat
  held : Bool
  /-- Its window contains a cycle of a holdover frame (06 R222). -/
  holdover : Bool
  /-- Detector words of the block that ends here, and whether RMS and envelope words were withheld (04 R157). -/
  block : Option (List Word)
  blockStart : Nat
  shed : Bool
  /-- SEQ of the window (12 R456), and whether its branch ran in line-cycle mode. -/
  seq : Nat
  lc : Bool

/-- The first tick after the window in progress of a branch (04 R133, R141, R149). -/
def windowNext (x : Branch) : Nat :=
  let cfg := branchCfg x.words
  if cfg.lc then match x.waiting with
    | some (t, _) => if x.winEnd ≤ t ∧ t < x.winEnd + 32 then t else x.winEnd
    | none => x.winEnd
  else gridEnd cfg.window x.winStart

/-- SEQ of a window (12 R456). -/
def windowSeq (cfg : BranchCfg) (regime out k : Nat) : Nat :=
  let k := if cfg.lc then k else (out + 1) / cfg.window - regime / cfg.window - 1
  (regime / 32 + k) % 281474976710656

/-- VALUE and flags of a window except WOUT (02 R44; 04 R136, R137, R145, R147; 05 R192; 01 Table 1.6). A channel with neither
input joined reads zero, once the windows that its disturbance marks are over. -/
def windowValue (s : State) (c : Nat) (cfg : BranchCfg) (old : Branch) (a : SubAcc) (obs : WindowObs) (e : Nat) :
    Int × SampleFlags :=
  let fine := clip24 (rndDiv a.fsum (256 * a.count))
  let coarse := if a.settle && cfg.coarse && !cfg.lc then coarseValue s c cfg { a.x with coarse := old.coarse } old.winStart e obs.coarse
                else none
  let (v, clipped, isCoarse) := match coarse with
    | some x => ((clip24 x).1, (clip24 x).2, true)
    | none => (fine.1, fine.2, false)
  let open_ := unjoined s c && !a.settle
  let held := marked s .stale c old.winStart e
  let mk := fun k => marked s k c old.winStart e
  (if held then old.held else if open_ then 0 else v,
   { ovr := ((clipped && !held || obs.leftRange || obs.clamped) && !open_) || mk .ovr, settle := a.settle || mk .settleSpan,
     coarse := isCoarse && !held, subst := mk .subst, xstep := mk .xstep, caladj := mk .caladj, stale := held })

/-! ## Detectors and comparator -/

/-- A detector word: its value clipped with OVR, and the flags of its block (04 R156). -/
def detectorWord (v : Int) (flags : BitVec 8) : Word :=
  if 8388607 < v then wd (8388607 * 256 + (flags ||| 0x80).toNat) else wd (toField 24 v * 256 + flags.toNat)

/-- The envelope after a sample (04 R155). -/
def envStep (word : Word) (e : BitVec 32) (v : Int) : BitVec 32 :=
  let a := v.natAbs * 256
  if e.toNat < a then BitVec.ofNat 32 (e.toNat + (a - e.toNat) / 2 ^ (word.field 23 20))
  else BitVec.ofNat 32 (e.toNat - (e.toNat - a) / 2 ^ (word.field 19 16))

/-- The RMS value of the block in progress (04 Table 4.4). -/
def rmsValue (d : Detector) : Int :=
  let n := max d.count 1
  if d.word.bit 28 then isqrt (((n * d.sumSq : Nat) - (d.sum * d.sum)).toNat / (n * n)) else isqrt (d.sumSq / n)

/-- A sample enters the block and the envelope (04 Table 4.4, R155). -/
def Detector.take (d : Detector) (v : Int) : Detector :=
  { d with count := d.count + 1, sum := d.sum + v, sumSq := d.sumSq + v.natAbs * v.natAbs,
           max := if d.count = 0 ∨ d.max < v then v else d.max, min := if d.count = 0 ∨ v < d.min then v else d.min,
           env := if d.word.bit 29 then envStep d.word d.env v else d.env }

/-- The words of a block that ends, RMS and envelope left out while they are withheld (04 Table 4.4, R157). -/
def blockWords (d : Detector) : List Word :=
  (if d.word.bit 31 then [detectorWord d.max d.flags, detectorWord d.min d.flags] else [])
  ++ (if d.word.bit 30 && !d.withheld then [detectorWord (rmsValue d) d.flags] else [])
  ++ (if d.word.bit 29 && !d.withheld then [detectorWord ((d.env.toNat + 128) / 256) d.flags] else [])

/-- The detectors of a channel take samples of branch `b`. -/
def Detector.takes (d : Detector) (b : Nat) : Bool := d.word.field 31 29 != 0 && b01 (d.word.bit 27) == b

/-- A block ends with this window (04, "Detectors", R771). -/
def blockEnds (cfg : BranchCfg) (d : Detector) (out k : Nat) (regimeEnds : Bool) : Bool :=
  let db := d.word.field 15 0 + 1
  regimeEnds || (if cfg.lc then (k + 1) % db == 0 else (out + 1) % (cfg.window * db) == 0)

/-- Occurrences that the sample-to-core event queue holds: 64 µs of band exits at the full rate of every channel, 2,098, or
more (01 R26). -/
def eventQueueSize : Nat := 2098 + Config.eventQueueExtra

/-- An occurrence of the sample domain goes to the core at once, or while the core is stretched into the sample-to-core event
queue; one that finds it full is counted in OVERFLOW and lost (04 R163, 16 R658; DEDUCED, assumption 147). -/
def sampleEvent (e : EventEntry) (s : State) : State :=
  if !s.hl.droop then recordEvent e s
  else if s.fl.exits.length < eventQueueSize then { s with fl := { s.fl with exits := s.fl.exits ++ [e] } }
  else countLedger 26 1 { s with hl := { s.hl with overflow := satInc s.hl.overflow } }

/-- The core runs again at its rate: it takes what the sample-to-core event queue holds, oldest first (04 R163). -/
def drainExits (s : State) : State :=
  s.fl.exits.foldl (fun t e => recordEvent e t) { s with fl := { s.fl with exits := [] } }

/-- The comparator of a channel takes an input of tick `t`, and raises CMP_BAND_EXIT (04 R159, R160). -/
def compareInput (c : Nat) (x : Int) (t : Nat) (s : State) : State :=
  let d := vgetD s.fl.detectors c Detector.reset
  let w0 := vgetD d.cmp 0 0
  let low := signedField 24 ((vgetD d.cmp 1 0).field 23 0)
  let high := signedField 24 ((vgetD d.cmp 2 0).field 23 0)
  let hyst : Int := (vgetD d.cmp 3 0).field 22 0
  let (out, side, ev) := bandStep low high hyst d.out d.high x
  let s1 := modDetector c (fun d => { d with out := out, high := side }) s
  let g := hubNum s * 256 + c
  if ev && w0.bit 30 then
    sampleEvent (eventEntry .critical 0x0401 0xF g ([wd g, wd (b01 side), wd (toField 32 x)] ++ split64 t) s) s1
  else s1

/-- The comparator's sources that this window feeds: the sample of its branch, the envelope at it, the RMS word of the
block that ends, as clipped to VALUE (04 R156, R159). -/
def compareWindow (c b : Nat) (v : Int) (held blockEnd : Bool) (t : Nat) (s : State) : State :=
  let d := vgetD s.fl.detectors c Detector.reset
  let w0 := vgetD d.cmp 0 0
  let src := w0.field 29 28
  if !w0.bit 31 then s
  else if src = 2 then
    if blockEnd && d.takes b && d.word.bit 30 && !d.withheld then compareInput c (min (rmsValue d) 8388607) t s else s
  else if held then s
  else if src = 3 then
    if d.takes b && d.word.bit 29 then compareInput c ((d.env.toNat + 128) / 256) t s else s
  else if src = b then compareInput c v t s
  else s

/-- DET_SHED at the first block end of a shedding interval whose RMS or envelope words are withheld (04 R157). -/
def noteShed (t : Nat) (s : State) : State :=
  let s1 := { s with fl := { s.fl with lastWithheld := t } }
  if s.fl.shedRaised then s1
  else info 0x0405 0 (split64 t) { s1 with fl := { s1.fl with shedRaised := true } }

/-- RMS and envelope detectors are shed: shedding level 2 (16 Table 16.8). -/
def shedsDetectors (s : State) : Bool := decide (2 ≤ s.hl.level)

/-- Close a block: its words, the events of shedding, and an empty block; after withheld blocks the envelope restarts
from 0 (04 R157, R158). -/
def closeBlock (c : Nat) (out : Nat) (s : State) : State × List Word × Bool :=
  let d := vgetD s.fl.detectors c Detector.reset
  let ws := blockWords d
  let lacks := d.withheld && (d.word.bit 30 || d.word.bit 29)
  let s1 := if lacks && shedsDetectors s then noteShed out s else s
  (modDetector c (fun d => { d.clear with withheld := shedsDetectors s, env := if d.withheld then 0 else d.env }) s1, ws, lacks)

/-- The window in the channel's detector and comparators, and the block it closes: with the new state come the sample's
flags, the block, whether it was shed, and where it began (04 R155 to R161). -/
def detectWindow (c b : Nat) (x : Branch) (v : Int) (fl : SampleFlags) (e : Nat) (takes blockEnd : Bool) (s : State) :
    State × SampleFlags × Option (List Word) × Bool × Nat :=
  let s1 := if takes then modDetector c (fun d =>
      { d.take v with began := if d.count = 0 then x.winStart else d.began, withheld := d.withheld || shedsDetectors s }) s else s
  let s2 := compareWindow c b v fl.stale blockEnd e s1
  let flags := { fl with wout := (vgetD s2.fl.detectors c Detector.reset).out }
  let s3 := if takes then modDetector c (fun d => { d with flags := d.flags ||| BitVec.ofNat 8 flags.bits }) s2 else s2
  let began := (vgetD s1.fl.detectors c Detector.reset).began
  if blockEnd then
    let (t, ws, shed) := closeBlock c e s3
    (t, flags, some ws, shed, began)
  else (s3, flags, none, false, began)

/-- A window that ends at tick `e` is complete (01 R35). -/
def noteWindow (e : Nat) (s : State) : State :=
  { s with fl := { s.fl with lastWindow := some (max e (s.fl.lastWindow.getD 0)) } }

/-- The branch after its window: its sums taken in, the integrators kept, and the regime or window that begins now (04 R141,
R146, R168). -/
def followWindow (c i : Nat) (x a : Branch) (v : Int) (held : Bool) (next : Nat) (obs : WindowObs) (s : State) : State :=
  let x1 := { a with held := if held then x.held else v, windows := x.windows + 1, winStart := next,
                     coarse := (obs.coarse.reverse ++ x.coarse).take 2 }
  let s := noteWindow (next - 1) s
  let s1 := setBranch i x1 { s with fl := { s.fl with
    integ := match obs.fine.getLast? with
      | some z => vsetD s.fl.integ c z
      | none => s.fl.integ } }
  match x.waiting with
  | some (t, ws) => if t = next then startRegime i ws t s1 else beginWindow i next s1
  | none => beginWindow i next s1

/-- A regime of branch `i` begins at tick `t`, a change staged for that boundary that comes in time (04 R141, R771). -/
def regimeStaged (i t : Nat) (s : State) : Bool :=
  s.staged.any (fun x => x.at_ == t && !x.late t && (match x.change with
    | .branch j _ r => j.val == i && r
    | _ => false))

/-- Form the window of branch `b` of channel `c` that ends: its value, its detector block and comparator inputs, its
sample word; the branch moves on, into its next regime where one begins (04 R136 to R148, R155 to R161, R771). -/
def formWindow (c b : Nat) (obs : WindowObs) (s : State) : Option (State × Formed) :=
  let i := 2 * c + b
  let x := getBranch s i
  let cfg := branchCfg x.words
  if !cfg.en || !s.tb.started then none
  else
    let next := windowNext x
    let e := next - 1
    let x0 := if x.subs = 0 then { x with i1 := vgetD obs.before 0 0, coarse := [vgetD obs.before 1 0] } else x
    let ends := subEnds cfg x.winStart e
    let a := (ends.zip (List.range ends.length)).foldl
      (fun a p => formSub s c cfg a p.1 ((obs.fine[p.2]?).getD (vgetD s.fl.integ c (vall 5 0))))
      { x := x0, fsum := 0, count := 0, settle := false }
    let (v, fl) := windowValue s c cfg x0 a obs e
    let regimeEnds := match x.waiting with
      | some (t, _) => t == next
      | none => false
    let d0 := vgetD s.fl.detectors c Detector.reset
    let takes := d0.takes b
    let ends_ := regimeEnds || regimeStaged i next s
    let d := detectWindow c b x v fl e takes (takes && blockEnds cfg d0 e x.windows ends_) s
    let fl := d.2.1
    some (followWindow c i x0 a.x v fl.stale next obs d.1,
      { chan := c, branch := b, word := sampleWord v fl, value := v, start := x.winStart, out := e, regime := x.regime,
        first := x.windows == 0, last := regimeEnds, k := x.windows, held := fl.stale,
        holdover := marked s .holdover c x.winStart e, block := d.2.2.1,
        blockStart := d.2.2.2.2, shed := d.2.2.2.1,
        seq := windowSeq cfg x.regime e x.windows, lc := cfg.lc })

/-- A regime that waits for the end of the window in progress begins with the line-cycle boundary that now counts (04
R141). -/
def moveRegime (x : Branch) : Branch := { x with waiting := x.waiting.map (fun y => (ceilDiv x.winEnd 32 * 32, y.2)) }

/-- LC_BOUNDARY_MISSED (04 R151): the boundary that another hub should give has not arrived one frame before it falls; the one
that R149 gave at the window's start counts. A branch that goes by itself, or already by R149, misses none. -/
def execLcBoundaryMissed (c : Fin 256) (branch : Fin 2) (s : State) : Out :=
  let i := 2 * c.val + branch.val
  let x := getBranch s i
  let cfg := branchCfg x.words
  .next (if cfg.en && cfg.lc && wantsForeign s cfg && !x.byLocal then
    boundaryMissed c.val x.winLocal (setBranch i (moveRegime { x with winEnd := x.winLocal, byLocal := true }) s)
  else s)

/-! ## Commands of class 0x04 -/

/-- The local channels a selector names at this hub, if all lie on it (04 Table 4.6, R165). -/
def selector (w : Word) (bcast : Bool) (s : State) : Option (List Nat) :=
  let g := w.field 12 0
  let n := w.field 21 13
  if (bcast ∨ g / 256 = hubNum s) ∧ 1 ≤ n ∧ n ≤ 256 ∧ g % 256 + n ≤ 256 then
    some ((List.range n).map (fun i => g % 256 + i))
  else none

/-- The hubs that a packet names: its own, or for a broadcast every member (04 R165, 15 Table 15.3). -/
def packetHubs (p : Packet) (own : Nat) (s : State) : List Nat :=
  if p.bcast then (List.range 32).filter (fun h => Nat.testBit (memberMask s) h || h == hubNum s) else [own]

/-- Every channel a selector names lies in the issuing function's view, for a broadcast at every member (04 R165; 15, the table
of checks, step 6). -/
def selectorView (p : Packet) (s : State) : Option Rejection :=
  let w := p.w 0
  viewCheck p ((packetHubs p (w.field 12 8) s).flatMap (fun h =>
    (List.range (w.field 21 13)).map (fun i => h * 256 + w.field 7 0 + i))) s

/-- The selector's form. -/
def selectorOk (p : Packet) (branch : Bool) (s : State) : Bool :=
  rsv (p.w 0) 0xFF800000 && (branch || !(p.w 0).bit 22) && (selector (p.w 0) p.bcast s).isSome

/-- The channels a command names. -/
def named (p : Packet) (s : State) : List Nat := (selector (p.w 0) p.bcast s).getD []

/-- Claimant of unit `u` of channel `c`. -/
def claimant (s : State) (c u : Nat) : Option Owner := vgetD (vgetD s.fl.owners c (vall 3 none)) u none

/-- Set the claimant of unit `u` of channel `c`. -/
def setClaimant (c u : Nat) (o : Option Owner) (s : State) : State :=
  { s with fl := { s.fl with owners := vsetD s.fl.owners c (vsetD (vgetD s.fl.owners c (vall 3 none)) u o) } }

/-- Step 9: the unit is unclaimed, or claimed by the issuer, or the issuer is PF0 (04 R129). -/
def claimCheck (units : List Nat) (p : Packet) (s : State) : Option Rejection :=
  holderCheck p ((named p s).flatMap (fun c => units.map (fun u => claimant s c u))) s

/-- The first configuring function becomes the claimant (04 R129). -/
def claimUnits (u : Nat) (p : Packet) (s : State) : State :=
  (named p s).foldl (fun t c => if (claimant t c u).isNone then setClaimant c u (some (ownerOf p s)) t else t) s

/-- Words `i` on of a packet as a block of `n`. -/
def blockOf (n i : Nat) (p : Packet) : Vector Word n := Vector.ofFn (fun j : Fin n => p.w (i + j.val))

/-- A branch of a channel is used by a segment, a capture set, an enabled detector or an enabled comparator (04 R131). -/
def branchUsed (s : State) (c b : Nat) : Bool :=
  let det := vgetD s.fl.detAccepted c 0
  let cmp := vgetD (vgetD s.fl.cmpAccepted c (vall 4 0)) 0 0
  (det.field 31 29 != 0 && b01 (det.bit 27) == b)
  || (cmp.bit 31 && cmp.field 29 28 == b)
  || s.st.segments.any (fun g => g.chans.any (fun x => x.val == c)
       && (if g.word0.field 30 29 = 0 then b01 (g.word0.bit 28) == b else b01 (det.bit 27) == b))
  || s.cap.sets.toList.any (fun t => t.state != .free && b01 ((vgetD t.config 0 0).bit 30) == b
       && (vgetD t.config (7 + c / 32) 0).bit (c % 32))

/-- A change of cadence would leave a segment's channels apart: some named channel of it and some other disagree
(12 R452). `cad` is the cadence the command gives, `other` the cadence of a channel as accepted. -/
def splitsCadence {α : Type} [BEq α] (s : State) (chans : List Nat) (concerns : Segment → Bool) (cad : α)
    (other : Nat → α) : Bool :=
  s.st.segments.any (fun g => concerns g && g.chans.any (fun x => chans.contains x.val)
    && g.chans.any (fun x => !chans.contains x.val && other x.val != cad))

/-- The detector fields of the cadence: DET_BRANCH, PK_EN, RMS_EN, ENV_EN, DBLK (12 R452). -/
def detCadence (w : Word) : Word := w &&& 0xE800FFFF

/-- Drop the staged regime changes of branch `i`, which a later one replaces (04 R143). -/
def dropReplaced (i : Nat) (s : State) : State :=
  { s with staged := s.staged.filter (fun x => match x.change with
      | .branch j _ true => j.val != i
      | _ => true) }

/-- Stage FL_SET_BRANCH for one branch (04 R141, R143). A later regime change replaces one that is staged or waits for its T,
so that one regime begins: at the T that waits, if the later command's boundary does not lie beyond it, otherwise at the T of
the later command (DEDUCED, assumption 148). -/
def stageBranch (i : Nat) (ws : Vector Word 3) (f : Nat) (s : State) : State :=
  let x := getBranch s i
  let regime := regimeFields ws != regimeFields x.accepted
  let keep := x.waiting.filter (fun y => !regime || decide (f ≤ y.1))
  stage f (.branch (fin 512 i) ws regime) (setBranch i { x with accepted := ws, waiting := keep } (if regime then dropReplaced i s else s))

/-- FL_SET_BRANCH (04 R129, R131, R141, R166). -/
def rulesFlSetBranch : Rules :=
  { op := .flSetBranch, minLen := 6, maxLen := 6, issuers := anyFn, configures := true, mirrored := fun _ => true,
    rights := selectorView,
    form := fun p s => firstBad [(0, selectorOk p true s), tickForm p 1, (3, branchWordsOk (blockOf 3 3 p)),
      (4, rsv (p.w 4) 0xFF000000), (5, rsv (p.w 5) 0xFFF00000)],
    claims := fun p s => claimCheck [b01 ((p.w 0).bit 22)] p s,
    run := fun p s =>
      let b := b01 ((p.w 0).bit 22)
      let ws := blockOf 3 3 p
      let chans := named p s
      if !(branchCfg ws).en && chans.any (fun c => (branchCfg (getBranch s (2 * c + b)).accepted).en && branchUsed s c b) then
        .reject .precondition []
      else if splitsCadence s chans (fun g => if g.word0.field 30 29 = 0 then b01 (g.word0.bit 28) == b else true)
          (branchCadence ws) (fun c => branchCadence (getBranch s (2 * c + b)).accepted) then .reject .precondition []
      else match applyBoundary true p (p.w64 1) s with
        | .error r => .reject r.status r.detail
        | .ok f => .done (chans.foldl (fun t c => stageBranch (2 * c + b) ws f t) (claimUnits b p s)) [] f }

/-- FL_SET_BRANCH. -/
def execFlSetBranch (p : Packet) (s : State) : Out := .next (takeCommand rulesFlSetBranch p s)

/-- The DC gain of a coefficient set is 1 (04 R153). -/
def firGainOk (p : Packet) : Bool :=
  let k := fun (i : Nat) => signedField 18 ((p.w (3 + i)).field 17 0)
  (List.range 7).foldl (fun a i => a + 2 * k i) (k 7) == 65536

/-- FL_SET_FIR (04 R153, R154). -/
def rulesFlSetFir : Rules :=
  { op := .flSetFir, minLen := 11, maxLen := 11, issuers := pf0, configures := true, mirrored := fun _ => true,
    form := fun p _ => firstBad ([(0, rsv (p.w 0) 0xFFFFFFE0), tickForm p 1]
      ++ (List.range 8).map (fun i => (3 + i, rsv (p.w (3 + i)) 0xFFFC0000)) ++ [(3, firGainOk p)]),
    run := fun p s => match applyBoundary true p (p.w64 1) s with
      | .error r => .reject r.status r.detail
      | .ok f => .done (stage f (.fir (fin 32 ((p.w 0).field 4 0)) (blockOf 8 3 p)) s) [] f }

/-- FL_SET_FIR. -/
def execFlSetFir (p : Packet) (s : State) : Out := .next (takeCommand rulesFlSetFir p s)

/-- FL_SET_DETECTORS (04 Table 4.9, R131, R167). -/
def rulesFlSetDetectors : Rules :=
  { op := .flSetDetectors, minLen := 2, maxLen := 2, issuers := anyFn, configures := true, mirrored := fun _ => true,
    rights := selectorView,
    form := fun p s => firstBad [(0, selectorOk p false s), (1, rsv (p.w 1) 0x07000000 &&
      ((p.w 1).field 31 29 == 0 || (named p s).all (fun c =>
        (branchCfg (getBranch s (2 * c + b01 ((p.w 1).bit 27))).accepted).en)))],
    claims := claimCheck [2],
    run := fun p s =>
      let w := p.w 1
      let chans := named p s
      let taken := fun (c : Nat) => let cmp := vgetD (vgetD s.fl.cmpAccepted c (vall 4 0)) 0 0
        cmp.bit 31 && ((cmp.field 29 28 == 2 && !w.bit 30) || (cmp.field 29 28 == 3 && !w.bit 29))
      if chans.any taken then .reject .precondition []
      else if splitsCadence s chans (fun g => g.word0.field 30 29 == 1) (detCadence w)
          (fun c => detCadence (vgetD s.fl.detAccepted c 0)) then .reject .precondition []
      else
        let f := defaultBoundary true p s
        .done (chans.foldl (fun t c => stage f (.detectors (fin 256 c) w)
          { t with fl := { t.fl with detAccepted := vsetD t.fl.detAccepted c w } }) (claimUnits 2 p s)) [] f }

/-- FL_SET_DETECTORS. -/
def execFlSetDetectors (p : Packet) (s : State) : Out := .next (takeCommand rulesFlSetDetectors p s)

/-- The comparator words obey 04 R167: band, hysteresis, and an enabled source on each named channel. -/
def comparatorOk (p : Packet) (s : State) : Bool :=
  let src := (p.w 1).field 29 28
  let low := signedField 24 ((p.w 2).field 23 0)
  let high := signedField 24 ((p.w 3).field 23 0)
  let hyst : Int := (p.w 4).field 22 0
  !(p.w 1).bit 31 || (decide (low ≤ high) && decide (2 * hyst ≤ high - low) && (named p s).all (fun c =>
    if src < 2 then (branchCfg (getBranch s (2 * c + src)).accepted).en
    else (vgetD s.fl.detAccepted c 0).bit (if src = 2 then 30 else 29)))

/-- FL_SET_COMPARATOR (04 R160, R167). -/
def rulesFlSetComparator : Rules :=
  { op := .flSetComparator, minLen := 5, maxLen := 5, issuers := anyFn, configures := true, mirrored := fun _ => true,
    rights := selectorView,
    form := fun p s => firstBad [(0, selectorOk p false s), (1, rsv (p.w 1) 0x0FFFFFFF && comparatorOk p s),
      (2, rsv (p.w 2) 0xFF000000), (3, rsv (p.w 3) 0xFF000000), (4, rsv (p.w 4) 0xFF800000)],
    claims := claimCheck [2],
    run := fun p s =>
      let f := defaultBoundary true p s
      .done ((named p s).foldl (fun t c => stage f (.comparator (fin 256 c) (blockOf 4 1 p))
        { t with fl := { t.fl with cmpAccepted := vsetD t.fl.cmpAccepted c (blockOf 4 1 p) } }) (claimUnits 2 p s)) [] f }

/-- FL_SET_COMPARATOR. -/
def execFlSetComparator (p : Packet) (s : State) : Out := .next (takeCommand rulesFlSetComparator p s)

/-- OWNER fields report the function alone, 0xF none (15 R596, 04 Table 4.11). -/
def ownerField (o : Option Owner) : Nat :=
  match o with
  | some x => x.fn.toNat
  | none => 0xF

/-- The reply data of FL_READ_CHANNEL (04 Table 4.11, R772). -/
def readChannelData (c : Nat) (s : State) : List Word :=
  let d := vgetD s.fl.detectors c Detector.reset
  let i := assigned s (c / 8) (c % 8)
  let dig := channelTrim s c
  let own := fun u => ownerField (claimant s c u)
  (getBranch s (2 * c)).words.toList ++ (getBranch s (2 * c + 1)).words.toList ++ [d.word] ++ d.cmp.toList ++
  [wd (b01 d.out * 2147483648 + b01 d.high * 1073741824 + b01 dig.engaged * 536870912 + b01 (i == 0xF) * 16777216
      + own 0 * 1048576 + own 1 * 65536 + own 2 * 4096), wd dig.dofs.toNat, wd dig.dgain.toNat]
  ++ split64 (getBranch s (2 * c)).regime ++ split64 (getBranch s (2 * c + 1)).regime

/-- FL_READ_CHANNEL (04 R772, R773). -/
def rulesFlReadChannel : Rules :=
  { op := .flReadChannel, minLen := 1, maxLen := 1, issuers := anyFn, configures := false,
    rights := fun p s => viewCheck p ((packetHubs p ((p.w 0).field 12 8) s).map (fun h => h * 256 + (p.w 0).field 7 0)) s,
    form := fun p s => firstBad [(0, rsv (p.w 0) 0xFFFFE000 && (p.bcast || (p.w 0).field 12 8 == hubNum s))],
    run := fun p s => .done s (readChannelData ((p.w 0).field 7 0) s) (now s) }

/-- FL_READ_CHANNEL. -/
def execFlReadChannel (p : Packet) (s : State) : Out := .next (takeCommand rulesFlReadChannel p s)

/-- Release units of a channel by mask (04 R130). -/
def releaseUnits (c mask : Nat) (s : State) : State :=
  (List.range 3).foldl (fun t u => if mask.testBit u then setClaimant c u none t else t) s

/-- FL_RELEASE (04 R130): at once, or at the mirror boundary where it is mirrored (08 R334). -/
def rulesFlRelease : Rules :=
  { op := .flRelease, minLen := 2, maxLen := 2, issuers := anyFn, configures := false, mirrored := fun _ => true,
    rights := selectorView,
    form := fun p s => firstBad [(0, selectorOk p false s), (1, rsv (p.w 1) 0xFFFFFFF8)],
    claims := fun p s => claimCheck ((List.range 3).filter (fun u => (p.w 1).bit u)) p s,
    run := fun p s =>
      let mask := (p.w 1).field 2 0
      let f := defaultBoundary true p s
      let later := match p.source with
        | .mirror _ | .staged _ => true
        | _ => mirroring s
      if later then .done ((named p s).foldl (fun t c => stage f (.flRelease (fin 256 c) (BitVec.ofNat 3 mask)) t) s) [] f
      else .done ((named p s).foldl (fun t c => releaseUnits c mask t) s) [] (now s) }

/-- FL_RELEASE. -/
def execFlRelease (p : Packet) (s : State) : Out := .next (takeCommand rulesFlRelease p s)

/-- FL_READ_FIR: the coefficient words in force (04 Table 4.8). -/
def rulesFlReadFir : Rules :=
  { op := .flReadFir, minLen := 1, maxLen := 1, issuers := anyFn, configures := false,
    form := fun p _ => firstBad [(0, rsv (p.w 0) 0xFFFFFFE0)],
    run := fun p s => .done s (vgetD s.fl.fir ((p.w 0).field 4 0) firReset).toList (now s) }

/-- FL_READ_FIR. -/
def execFlReadFir (p : Packet) (s : State) : Out := .next (takeCommand rulesFlReadFir p s)

end Sys2Proof.Machine
end

