-- ==== Sys2Proof/Machine/MemoryCtl.lean ====
section
/-!
DEFINITION. The capture memory controller (10): the address map (R401), codewords and their errors (R402, R403, R417 to
R420), activates and row-disturbance protection (R415), refresh (R411 to R413), the requests it holds (R408, R409), and
the class 0x0A commands (R396, R421, R422). When a request completes is the memory's own timing: the rows
MEM_WRITE_DRAIN and MEM_READ_RETURN say when, and MemoryPath.lean what then happens.
-/
namespace Sys2Proof.Machine
open Sys2Proof

/-! ## The address map (10 R401) -/

/-- CAP_SIZE in bytes. -/
def capBytes (s : State) : Nat := s.mem.capPages * 4096

/-- Rows per bank (10 Table 10.1). -/
def rowsPerBank (s : State) : Nat := 32768 * 2 ^ s.mem.density.toNat

/-- Where a capture address lies in the device. -/
structure Place where
  ch : Nat
  rank : Nat
  bank : Nat
  row : Nat
  column : Nat
  deriving DecidableEq, Repr

/-- The map of capture address `a` (10 R401). -/
def placeOf (rows a : Nat) : Place :=
  let g := a / 256
  let o := a % 256
  let cg := g / 2
  let slot := cg / 7
  let q := cg % 7
  let rowAll := slot / 8
  { ch := g % 2, rank := rowAll / rows, bank := Nat.xor (slot % 8) (rowAll % 8), row := rowAll % rows,
    column := 16 * (9 * q + o / 32) + (o % 32) / 2 }

/-- CAP_PAGES of a device: 896 MiB per 4 Gb rank, in 4 KiB units (10 Table 10.1). -/
def pagesOf (rank2 : Bool) (density : Nat) : Nat := 229376 * 2 ^ (density + b01 rank2)

/-! ## Codewords (10 R402) -/

/-- The number of set bits of a codeword mask. -/
def popCount (m : BitVec 72) : Nat := (List.range 72).foldl (fun a i => a + b01 (m.getLsbD i)) 0

/-- The inverted codeword bits of 8-byte word `w`. -/
def flipOf (fs : List (Nat × BitVec 72)) (w : Nat) : BitVec 72 :=
  match fs.find? (fun x => x.1 == w) with
  | some x => x.2
  | none => 0

/-- Put the inverted bits of a word, words ascending, none of 0 listed. -/
def putFlip : List (Nat × BitVec 72) → Nat → BitVec 72 → List (Nat × BitVec 72)
  | [], w, m => if m = 0 then [] else [(w, m)]
  | (v, k) :: rest, w, m =>
    if w < v then (if m = 0 then (v, k) :: rest else (w, m) :: (v, k) :: rest)
    else if w = v then (if m = 0 then rest else (w, m) :: rest)
    else (v, k) :: putFlip rest w m

/-- Replace the inverted bits of word `w`. -/
def setFlip (w : Nat) (m : BitVec 72) (s : State) : State := { s with mem := { s.mem with flips := putFlip s.mem.flips w m } }

/-- Bits of the device that have flipped of themselves, within the capture address space. -/
def applySoft (soft : SoftErrors) (s : State) : State :=
  soft.foldl (fun t x =>
    if t.mem.mstate = .ready ∧ x.1 * 8 < capBytes t then setFlip x.1 (flipOf t.mem.flips x.1 ^^^ x.2) t else t) s

/-! ## Error counting and the error log (10 R417 to R420) -/

/-- A corrected error in word `w`: written back, counted, and raised if CE_EVT is 1 (10 R417, R420). -/
def countCorrected (w : Nat) (s : State) : State :=
  let m := flipOf s.mem.flips w
  let ch := (placeOf (rowsPerBank s) (8 * w)).ch
  let s1 := countLedger 16 1 (setFlip w 0 { s with mem := { s.mem with ceCh := vsetD s.mem.ceCh ch (satInc (vgetD s.mem.ceCh ch 0)) } })
  if s.mem.policy0.bit 30 then info 0x0A03 ch [wd ch, wd (8 * w), wd (Config.syndrome m).toNat] s1 else s1

/-- An uncorrectable error: the error log of 16 entries, UE_COUNT, the ledger, and MEM_UE (10 R418 to R420). -/
def countUncorrectable (kind : Nat) (requester : Fin 6) (fn : BitVec 4) (w : Nat) (s : State) : State :=
  let e : MemError :=
    { kind := BitVec.ofNat 4 kind, req := fin 8 requester.val, fn := fn, addr := 8 * w,
      syndrome := Config.syndrome (flipOf s.mem.flips w), tick := now s }
  let full := decide (16 ≤ s.mem.errLog.length)
  crit 0x0A04 0 [wd kind, wd (8 * w), wd requester.val, wd fn.toNat]
    (countLedger 17 1 { s with mem := { s.mem with
      errLog := (if full then s.mem.errLog.drop 1 else s.mem.errLog) ++ [e],
      errOverflow := if full then satInc s.mem.errOverflow else s.mem.errOverflow,
      errTotal := satInc s.mem.errTotal, ueCount := satInc s.mem.ueCount } })

/-- Read one 8-byte word: its bytes, corrected, or none if uncorrectable. Three or more inverted bits are beyond what
R402 states: a free value decides between an uncorrectable word and wrong data, and gives that data (DESIGN CHOICE,
assumption 30). -/
def readWord (kind : Nat) (requester : Fin 6) (fn : BitVec 4) (w : Nat) (s : State) : State × Option (List Byte) :=
  let m := flipOf s.mem.flips w
  let n := popCount m
  if n = 0 then (s, some (getBytes s.mem.bytes (8 * w) 8))
  else if n = 1 then (countCorrected w s, some (getBytes s.mem.bytes (8 * w) 8))
  else if n = 2 then (countUncorrectable kind requester fn w s, none)
  else
    let s1 := { s with freeCtr := s.freeCtr + 3 }
    if (Config.freeWord s.freeCtr).bit 0 then (countUncorrectable kind requester fn w s1, none)
    else (s1, some (bytesOf [Config.freeWord (s.freeCtr + 1), Config.freeWord (s.freeCtr + 2)]))

/-! ## Activates (10 R407, R415) -/

/-- Count an activate of a row by an actor; at ACT_THR activates of the row in the window the actor is limited in the
bank (10 R415; every activate is counted, DESIGN CHOICE, assumption 31). -/
def countActivate (requester : Fin 6) (fn : BitVec 4) (p : Place) (s : State) : State :=
  let same := fun (x : RowCount) => x.requester == requester && x.fn == fn && x.ch == p.ch && x.rank == p.rank
    && x.bank == p.bank && x.row == p.row
  let n := match s.mem.rowCounts.find? same with
    | some x => x.count + 1
    | none => 1
  let entry : RowCount := { requester := requester, fn := fn, ch := p.ch, rank := p.rank, bank := p.bank, row := p.row, count := n }
  let s1 := { s with mem := { s.mem with
    rowCounts := s.mem.rowCounts.filter (fun x => !same x) ++ [entry],
    activates := s.mem.activates.filter (fun x => decide (now s ≤ x.tick + 805))
      ++ [{ requester := requester, fn := fn, ch := p.ch, rank := p.rank, bank := p.bank, row := p.row, tick := now s }] } }
  let actor := (requester, fn, p.ch, p.rank, p.bank)
  let thr := s.mem.policy0.field 15 0
  if n = thr ∨ (thr < n ∧ ¬ s.mem.throttled.contains actor) then
    crit 0x0A05 p.ch [wd requester.val, wd fn.toNat, wd p.ch, wd p.rank, wd p.bank, wd p.row]
      { s1 with mem := { s1.mem with
          throttleCount := satInc s1.mem.throttleCount,
          throttled := if s1.mem.throttled.contains actor then s1.mem.throttled else s1.mem.throttled ++ [actor] } }
  else s1

/-- An access to the row of address `a`: an activate unless the row is open. -/
def touchRow (requester : Fin 6) (fn : BitVec 4) (a : Nat) (s : State) : State :=
  let p := placeOf (rowsPerBank s) a
  let key := (p.ch, p.rank, p.bank)
  if s.mem.openRows.any (fun x => x.1 == key && x.2 == p.row) then s
  else countActivate requester fn p
    { s with mem := { s.mem with openRows := s.mem.openRows.filter (fun x => x.1 != key) ++ [(key, p.row)] } }

/-- The first addresses of the groups that `len` bytes from `a` touch. -/
def groupsOf (a len : Nat) : List Nat :=
  if len = 0 then [] else (List.range ((a + len - 1) / 256 - a / 256 + 1)).map (fun i => (a / 256 + i) * 256)

/-! ## Accesses (10 R403, Table 10.7) -/

/-- The error code that keeps a request from being performed at all: 4 not READY, 3 beyond CAP_SIZE, 0 none. -/
def memCheck (a len : Nat) (s : State) : Nat :=
  if s.mem.mstate ≠ .ready then 4 else if capBytes s < a + len then 3 else 0

/-- The words of 8 bytes that `len` bytes from `a` touch. -/
def memWords (a len : Nat) : List Nat :=
  if len = 0 then [] else (List.range ((a + len - 1) / 8 - a / 8 + 1)).map (fun i => a / 8 + i)

/-- Perform a read: the bytes, or none if a word of them is uncorrectable (Table 10.7 code 1). -/
def performRead (requester : Fin 6) (fn : BitVec 4) (a len : Nat) (s : State) : State × Option (List Byte) :=
  let s1 := (groupsOf a len).foldl (fun t g => touchRow requester fn g t) s
  let (t, r) := (memWords a len).foldl
    (fun (acc : State × Option (List Byte)) w =>
      let (t, d) := readWord 1 requester fn w acc.1
      (t, match acc.2, d with
        | some xs, some ys => some (xs ++ ys)
        | _, _ => none)) (s1, some [])
  (t, r.map (fun xs => (xs.drop (a % 8)).take len))

/-- Write into one word the bytes of `data` (from address `a`) that lie in it: without reading if it is covered whole,
else merged; an uncorrectable word stays as it is (10 R403, Table 10.7 code 2). Answers whether the word was refused. -/
def writeWordAt (requester : Fin 6) (fn : BitVec 4) (a : Nat) (data : List Byte) (w : Nat) (s : State) : State × Bool :=
  let lo := max a (8 * w)
  let hi := min (a + data.length) (8 * w + 8)
  let part := (data.drop (lo - a)).take (hi - lo)
  let put := fun (t : State) => setFlip w 0 { t with mem := { t.mem with bytes := putBytes t.mem.bytes lo part } }
  if hi - lo = 8 then (put s, false)
  else match readWord 2 requester fn w s with
    | (t, some old) => (put { t with mem := { t.mem with bytes := putBytes t.mem.bytes (8 * w) old } }, false)
    | (t, none) => ({ t with mem := { t.mem with wrRefused := satInc t.mem.wrRefused } }, true)

/-- Perform a write; answers whether some word was refused (Table 10.7 code 2). -/
def performWrite (requester : Fin 6) (fn : BitVec 4) (a : Nat) (data : List Byte) (s : State) : State × Bool :=
  let s1 := (groupsOf a data.length).foldl (fun t g => touchRow requester fn g t) s
  (memWords a data.length).foldl
    (fun (acc : State × Bool) w =>
      let (t, bad) := writeWordAt requester fn a data w acc.1
      (t, acc.2 || bad)) (s1, false)

/-! ## Requests (10 R408, R409) -/

/-- Two requests touch a common group of 256 bytes. -/
def MemReq.meets (x y : MemReq) : Bool :=
  x.len != 0 && y.len != 0 && decide (x.addr / 256 ≤ (y.addr + y.len - 1) / 256) && decide (y.addr / 256 ≤ (x.addr + x.len - 1) / 256)

/-- The controller accepts a request. -/
def acceptRequest (r : MemReq) (s : State) : State := { s with mem := { s.mem with requests := s.mem.requests ++ [r] } }

/-- The oldest request of a requester, if no request accepted before it forbids its completion: for a write, none that
meets it; for a read, no write that meets it (10 R408, R409). -/
def nextRequest (requester : Fin 6) (s : State) : Option MemReq :=
  let older := s.mem.requests.takeWhile (fun r => r.requester != requester)
  match s.mem.requests.find? (fun r => r.requester == requester) with
  | none => none
  | some r => if older.any (fun x => x.meets r && (r.write || x.write)) then none else some r

/-! ## Scheduling (10 R404, Table 10.5) -/

/-- Credit that a function's DRAM minimum, in MB/s, fills in a cycle (14 Table 14.16). -/
def dramRate (s : State) (f : Nat) : Nat := 1000 * (contractWord s f 3).field 31 16

/-- The function has DRAM guarantee credit; none has while the minimums are over their limit (14 R571). -/
def dramCredit (s : State) (f : Nat) : Bool :=
  decide (f < 9) && !s.host.overcommit.contains 2
    && decide (0 < (vgetD s.mem.credit f { units := 0, at_ := 0 }).atTick (dramRate s f) (now s))

/-- The capture writer's requests are RT, the scrubber's and the self-test's MAINT, the others BE (10 Table 10.4). -/
def MemReq.rt (r : MemReq) : Bool := r.requester == 0

/-- The level of a request (10 Table 10.5, R410). Level 1 has no requests, and the scrubber's reads are a row of their own. -/
def reqLevel (s : State) (r : MemReq) : Nat :=
  let later := (s.mem.requests.dropWhile (fun x => x != r)).drop 1
  if r.write && later.any (fun x => !x.write && x.requester != r.requester && x.meets r) then 2
  else if r.requester = 4 ∨ r.requester = 5 then 6
  else if dramCredit s r.fn.toNat then (if r.rt then 3 else 4)
  else 5

/-- The channel of a request: that of its first group. -/
def MemReq.chan (s : State) (r : MemReq) : Fin 2 := fin 2 (placeOf (rowsPerBank s) r.addr).ch

/-- The request hits an open row (10 R404). -/
def rowHit (s : State) (r : MemReq) : Bool :=
  let p := placeOf (rowsPerBank s) r.addr
  s.mem.openRows.any (fun x => x.1 == (p.ch, p.rank, p.bank) && x.2 == p.row)

/-- Fewer than `ns` nanoseconds lie between two ticks. -/
def closerThan (ns earlier later : Nat) : Bool := decide ((later - earlier) * 1000000000 < ns * 12288000)

/-- The capture writer activated the row less than 4 µs ago (10 R407). -/
def rowHeld (s : State) (r : MemReq) (p : Place) : Bool :=
  r.requester == 0 && s.mem.activates.any (fun x => x.requester == 0 && x.ch == p.ch && x.rank == p.rank && x.bank == p.bank
    && x.row == p.row && closerThan 4000 x.tick (now s))

/-- The actor of a request is limited in the bank and made an activate there less than THR_NS ago; a write that a waiting read
depends on is issued all the same (10 R410, R415). -/
def actorHeld (s : State) (r : MemReq) (p : Place) : Bool :=
  reqLevel s r != 2 && s.mem.throttled.contains (r.requester, r.fn, p.ch, p.rank, p.bank)
    && s.mem.activates.any (fun x => x.requester == r.requester && x.fn == r.fn && x.ch == p.ch && x.rank == p.rank
      && x.bank == p.bank && closerThan (s.mem.policy1.field 31 16) x.tick (now s))

/-- An activate that a request needs must wait (10 R407, R415). -/
def heldBack (s : State) (r : MemReq) : Bool :=
  (groupsOf r.addr r.len).any (fun g =>
    let p := placeOf (rowsPerBank s) g
    !s.mem.openRows.any (fun x => x.1 == (p.ch, p.rank, p.bank) && x.2 == p.row) && (rowHeld s r p || actorHeld s r p))

/-- The eligible requests of a channel, oldest first. -/
def eligibleOn (c : Fin 2) (s : State) : List MemReq :=
  s.mem.requests.filter (fun r => r.chan s == c && nextRequest r.requester s == some r && !heldBack s r)

/-- The requests of a channel among which the scheduler takes the oldest: those of the highest level that holds any; of level 5
RT before BE, and of the function whose turn it is (10 R404, Table 10.5). -/
def foremost (c : Fin 2) (s : State) : List MemReq :=
  let xs := eligibleOn c s
  match (List.range 7).find? (fun n => xs.any (fun r => reqLevel s r == n)) with
  | none => []
  | some n =>
    let ys := xs.filter (fun r => reqLevel s r == n)
    if n ≠ 5 then ys
    else
      let rt := ys.any MemReq.rt
      let zs := ys.filter (fun r => r.rt == rt)
      match (vget s.mem.turns c).pick 16 (fun f => zs.any (fun r => r.fn.toNat == f)) with
      | some f => zs.filter (fun r => r.fn.toNat == f)
      | none => zs

/-- The scheduler may take a request next: the oldest of the foremost, or one of them that hits an open row, of which at most
16 in a row pass an older one (10 R404). -/
def scheduled (r : MemReq) (s : State) : Bool :=
  let xs := foremost (r.chan s) s
  xs.head? == some r || (xs.contains r && rowHit s r && decide (vget s.mem.hits (r.chan s) < 16))

/-- The request of a requester that completes next, if the ordering rules and the scheduler let it; a request's commands and its
completion are one row (10 R404, R408, R409; DESIGN CHOICE, assumption 171). -/
def completable (requester : Fin 6) (s : State) : Option MemReq :=
  (nextRequest requester s).filter (fun r => scheduled r s)

/-- `n` bytes are charged to a function (10, "Requesters and scheduling"). -/
def spendDram (f n : Nat) (s : State) : State :=
  let left := (vgetD s.mem.credit f { units := 0, at_ := 0 }).spend (dramRate s f) (now s) n
  if f < 9 then { s with mem := { s.mem with credit := vsetD s.mem.credit f left } } else s

/-- What the scheduler notes of a request that it takes: its function's credit and turn, and whether it passed an older one. -/
def chargeRequest (r : MemReq) (s : State) : State :=
  let c := r.chan s
  let f := r.fn.toNat
  let passed := (foremost c s).head? != some r
  let turn := if reqLevel s r = 5 then (vget s.mem.turns c).served f ((contractWord s f 3).field 15 8) else vget s.mem.turns c
  spendDram f r.len { s with mem := { s.mem with
    turns := vset s.mem.turns c turn, hits := vset s.mem.hits c (if passed then vget s.mem.hits c + 1 else 0) } }

/-! ## Refresh (10 R411 to R413) -/

/-- tREFI of a channel under its last MR4 reading, in millionths of a tick: 3.904 µs, a half of it for code 4 (PRESUMED, the
JEDEC multiplier, assumption 192), a quarter of it for codes 5 to 7 (10 R411, Table 10.6). -/
def trefi (s : State) (ch : Nat) : Nat :=
  let code := (vgetD s.mem.mr4 ch 0).toNat
  if code ≤ 3 then 3904 * 12288 else if code = 4 then 1952 * 12288 else 976 * 12288

/-- Where an interval begins whose predecessor, of length `len`, ended at `due`: there, or now where that lies a whole interval
back (millionths of a tick; assumption 189). -/
def intervalFrom (due len : Nat) (s : State) : Nat := if due + len ≤ 1000000 * now s then 1000000 * now s else due

/-- Where the present tREFI of a rank ends, in millionths of a tick. -/
def refreshEnd (ch rank : Nat) (s : State) : Nat := vgetD s.mem.refAt (2 * ch + rank) 0 + trefi s ch

/-- The next tREFI of a rank begins. -/
def nextRefresh (ch rank : Nat) (s : State) : State :=
  if s.tb.started then
    { s with mem := { s.mem with
      refAt := vsetD s.mem.refAt (2 * ch + rank) (intervalFrom (refreshEnd ch rank s) (trefi s ch) s) } }
  else s

/-- The length of a refresh window, 8,192 tREFI of the channel with the longer one (10 "Row-disturbance protection";
assumption 189). -/
def windowLen (s : State) : Nat := 8192 * max (trefi s 0) (trefi s 1)

/-- A refresh window ends: counts and limits end with it, and the next begins (10 R415). -/
def nextWindow (s : State) : State :=
  { s with mem := { s.mem with
    rowCounts := [], throttled := []
    windowAt := if s.tb.started then intervalFrom (s.mem.windowAt + windowLen s) (windowLen s) s else s.mem.windowAt } }

/-- One tREFI of a rank passes: per-bank refreshes made, then a rise of 8; a debt that would exceed +64 pre-empts
(10 R412, R413). -/
def refreshRank (ch rank perBank : Nat) (s : State) : State :=
  let i := 2 * ch + rank
  let low := max (-64 : Int) (vgetD s.mem.debt i 0 - perBank)
  let high := low + 8
  let s1 := { s with mem := { s.mem with
    debtMax := if (s.mem.debtMax.toNat : Int) < min high 64 then BitVec.ofInt 8 (min high 64) else s.mem.debtMax } }
  if 64 < high then
    info 0x0A06 ch ([wd ch, wd rank] ++ split64 (now s))
      { s1 with mem := { s1.mem with
          debt := vsetD s1.mem.debt i 0, preempts := satInc s1.mem.preempts,
          openRows := s1.mem.openRows.filter (fun x => !(x.1.1 == ch && x.1.2.1 == rank)) } }
  else { s1 with mem := { s1.mem with debt := vsetD s1.mem.debt i high } }

/-- MR4_POLL (10 R411): TEMP_HIGH follows the last readings (DEDUCED, assumption 32). -/
def execMr4Poll (ch : Fin 2) (code : Fin 8) (s : State) : Out :=
  .next (if s.mem.mstate = .ready then
    let codes := vset s.mem.mr4 ch (BitVec.ofNat 3 code.val)
    let s1 := { s with mem := { s.mem with mr4 := codes, tempHigh := codes.toList.any (fun c => c == 7) } }
    if code.val = 7 then crit 0x0A07 ch.val [wd ch.val, 7] s1 else s1
  else s)

/-- ZQ_CALIBRATION (10 R399): the channel pauses for at most 30 ns, which the model's time does not show. -/
def execZqCalibration (_ch : Fin 2) (s : State) : Out := .next s

/-- DQS_OSCILLATOR_READ (10 R399). -/
def execDqsOscillatorRead (ch : Fin 2) (count : Nat) (s : State) : Out :=
  .next (if s.mem.mstate = .ready then { s with mem := { s.mem with dqsCount := vset s.mem.dqsCount ch count } } else s)

/-! ## Scrubbing (10 R419) -/

/-- The scrubber reads the words of one group: corrected and uncorrectable errors of the pass. -/
def scrubGroup (g : Nat) (s : State) : State :=
  (List.range 32).foldl (fun t i =>
    let w := 32 * g + i
    let one := popCount (flipOf t.mem.flips w) == 1
    match readWord 3 4 0xF w t with
    | (u, none) => { u with mem := { u.mem with passUe := u.mem.passUe + 1 } }
    | (u, some _) => if one then { u with mem := { u.mem with passCe := u.mem.passCe + 1 } } else u) s

/-- The position moves on; at the end of the capture address space a pass is complete. -/
def scrubAdvance (s : State) : State :=
  let next := s.mem.scrubPos + 1
  if next * 256 < capBytes s then { s with mem := { s.mem with scrubPos := next } }
  else
    let n := satInc s.mem.scrubPasses
    info 0x0A08 0 [wd n.toNat, wd s.mem.passCe, wd s.mem.passUe]
      { s with mem := { s.mem with scrubPos := 0, scrubPasses := n, passCe := 0, passUe := 0 } }

/-- SCRUB_READ (10 R419). A group with a pending write is left for its next turn. -/
def execScrubRead (soft : SoftErrors) (s : State) : Out :=
  let s1 := applySoft soft s
  let probe : MemReq := { requester := 4, fn := 0xF, write := false, addr := 256 * s.mem.scrubPos, len := 256, data := [], use := .test }
  .next (if s.mem.mstate ≠ .ready ∨ ¬ s.mem.policy0.bit 31 then s1
    else if s.mem.requests.any (fun r => r.write && r.meets probe) then s1
    else scrubAdvance (scrubGroup s.mem.scrubPos (touchRow 4 0xF (256 * s.mem.scrubPos) s1)))

/-! ## Initialisation (10 R395 to R398) -/

/-- A step of Table 10.3 fails (10 R397). -/
def failTraining (step ch rank : Nat) (s : State) : State :=
  crit 0x0A02 ch [wd step, wd ch, wd rank]
    { s with mem := { s.mem with mstate := .failed, failStep := BitVec.ofNat 4 step } }

/-- MEM_TRAIN_FAIL: during TRAINING only, steps 1 to 6. -/
def execMemTrainFail (step : Fin 7) (ch rank : Fin 2) (s : State) : Out :=
  .next (if s.mem.mstate = .training ∧ step.val ≠ 0 then failTraining step.val ch.val rank.val s else s)

/-- MEM_INIT_COMPLETE: the device is ready and reads 0 throughout; a geometry outside Table 10.1 fails (10 R396 to
R398). -/
def execMemInitComplete (rank2 : Bool) (density : Fin 4) (s : State) : Out :=
  .next (if s.mem.mstate = .training ∨ s.mem.mstate = .filling then
    if density.val = 3 ∨ (density.val = 2 ∧ rank2 = true) then failTraining 1 0 0 s
    else
      let pages := pagesOf rank2 density.val
      info 0x0A01 0 [wd pages, wd (s.mem.initWord.field 3 0)]
        { s with mem := { s.mem with
            mstate := .ready, rank2 := rank2, density := BitVec.ofNat 2 density.val, capPages := pages,
            bytes := [], flips := [], requests := [], scrubPos := 0, debt := vall 4 0, refAt := vall 4 (1000000 * now s), windowAt := 1000000 * now s, openRows := [], rowCounts := [], activates := [],
            throttled := [] } }
  else s)

/-- TRAINING becomes FILLING at the first frame boundary 30 ms after MEM_INIT, the latest moment of Table 10.3
(DESIGN CHOICE, assumption 33). -/
def memoryFrame (f : Nat) (s : State) : State :=
  if s.mem.mstate = .training ∧ s.mem.initTick + 368640 ≤ f then { s with mem := { s.mem with mstate := .filling } } else s

/-! ## Commands (10 R421, R422) -/

/-- MEM_INIT (10 R396). -/
def rulesMemInit : Rules :=
  { op := .memInit, minLen := 1, maxLen := 1, issuers := pf0, configures := true,
    form := fun p _ => firstBad [(0, rsv (p.w 0) 0xFFFF8880 && decide ((p.w 0).field 3 0 ≤ 6)
      && within ((p.w 0).field 6 4) 1 6 && within ((p.w 0).field 10 8) 1 6 && within ((p.w 0).field 14 12) 1 6)],
    run := fun p s =>
      if s.mem.mstate = .uninit ∨ s.mem.mstate = .failed then
        .done { s with mem := { s.mem with mstate := .training, initWord := p.w 0, initTick := now s, failStep := 0 } } [] (now s)
      else .reject .precondition [] }

/-- MEM_INIT. -/
def execMemInit (p : Packet) (s : State) : Out := .next (takeCommand rulesMemInit p s)

/-- MEM_SET_POLICY (10 Table 10.10). -/
def rulesMemSetPolicy : Rules :=
  { op := .memSetPolicy, minLen := 2, maxLen := 2, issuers := pf0, configures := true,
    form := fun p _ => firstBad [(0, rsv (p.w 0) 0x3F000000 && decide (1 ≤ (p.w 0).field 23 16) && decide (1024 ≤ (p.w 0).field 15 0)),
      (1, rsv (p.w 1) 0x0000FFFF && decide (100 ≤ (p.w 1).field 31 16))],
    run := fun p s => let f := defaultBoundary false p s; .done (stage f (.memPolicy (p.w 0) (p.w 1)) s) [] f }

/-- MEM_SET_POLICY. -/
def execMemSetPolicy (p : Packet) (s : State) : Out := .next (takeCommand rulesMemSetPolicy p s)

/-- Codes of MSTATE (10 Table 10.11). -/
def MState.code : MState → Nat
  | .uninit => 0 | .training => 1 | .filling => 2 | .ready => 3 | .failed => 4 | .selfRefresh => 5

/-- The reply data of MEM_READ_STATUS (10 Table 10.11). -/
def memStatusWords (s : State) : List Word :=
  let m := s.mem
  let speed := if m.mstate = .uninit then 0 else m.initWord.field 3 0
  [wd (m.mstate.code * 268435456 + speed * 16777216 + b01 m.rank2 * 8388608 + m.density.toNat * 2097152
     + max (vget m.mr4 0).toNat (vget m.mr4 1).toNat * 262144 + b01 m.tempHigh * 131072 + m.failStep.toNat * 8192),
   wd m.capPages, halves (vget m.ceCh 0).toNat (vget m.ceCh 1).toNat, halves m.ueCount.toNat m.wrRefused.toNat,
   halves m.preempts.toNat m.throttleCount.toNat, wd (m.scrubPasses.toNat * 65536 + m.debtMax.toNat * 256), wd m.scrubPos]

/-- MEM_READ_STATUS. -/
def rulesMemReadStatus : Rules :=
  { op := .memReadStatus, minLen := 0, maxLen := 0, issuers := anyFn, configures := false,
    run := fun _ s => .done s (memStatusWords s) (now s) }

/-- MEM_READ_STATUS. -/
def execMemReadStatus (p : Packet) (s : State) : Out := .next (takeCommand rulesMemReadStatus p s)

/-- The words of an error-log entry (10 Table 10.12). -/
def MemError.words (rows : Nat) (e : MemError) : List Word :=
  let p := placeOf rows e.addr
  [wd (e.kind.toNat * 268435456 + e.req.val * 33554432 + e.fn.toNat * 2097152 + p.ch * 1048576 + p.rank * 524288
     + p.bank * 65536 + e.syndrome.toNat * 256), wd (p.column * 131072 + p.row), wd e.addr] ++ split64 e.tick

/-- MEM_READ_ERRLOG (10 R420, "Commands and parameter blocks"). -/
def rulesMemReadErrlog : Rules :=
  { op := .memReadErrlog, minLen := 1, maxLen := 1, issuers := pf0, configures := false,
    form := fun p _ => firstBad [(0, rsv (p.w 0) 0x7FFFFFFF)],
    run := fun p s =>
      let m := s.mem
      let entries := m.errLog.flatMap (MemError.words (rowsPerBank s))
      let data := wd (m.errTotal.toNat * 65536 + m.errOverflow.toNat * 256 + m.errLog.length)
        :: (entries ++ List.replicate 80 0).take 80
      let s1 := if (p.w 0).bit 31 then { s with mem := { m with errLog := [], errOverflow := 0 } } else s
      .done s1 data (now s) }

/-- MEM_READ_ERRLOG. -/
def execMemReadErrlog (p : Packet) (s : State) : Out := .next (takeCommand rulesMemReadErrlog p s)

/-- The codeword mask that MEM_INJECT_ERROR inverts. -/
def injectMask (w : Word) : BitVec 72 :=
  BitVec.ofNat 72 (2 ^ w.field 7 0 + (if w.bit 31 then 2 ^ w.field 15 8 else 0))

/-- MEM_INJECT_ERROR (10 R422, "Commands and parameter blocks"): a request of Fountainhead. -/
def rulesMemInjectError : Rules :=
  { op := .memInjectError, minLen := 2, maxLen := 2, issuers := pf0, configures := false,
    form := fun p _ => firstBad [(0, rsv (p.w 0) 0x7FFF0000 && decide ((p.w 0).field 7 0 ≤ 71) && decide ((p.w 0).field 15 8 ≤ 71)
      && !((p.w 0).bit 31 && (p.w 0).field 7 0 == (p.w 0).field 15 8)), (1, (p.w 1).toNat % 8 == 0)],
    run := fun p s =>
      if s.mem.mstate ≠ .ready ∨ capBytes s ≤ (p.w 1).toNat then .reject .precondition []
      else .done (acceptRequest { requester := 3, fn := 0, write := true, addr := (p.w 1).toNat, len := 8, data := [],
                                  use := .inject (injectMask (p.w 0)) } s) [] (now s) }

/-- MEM_INJECT_ERROR. -/
def execMemInjectError (p : Packet) (s : State) : Out := .next (takeCommand rulesMemInjectError p s)

end Sys2Proof.Machine
end

