-- ==== Sys2Proof/Machine/Capture.lean ====
section
/-!
DEFINITION. The acquisition and trigger engine (09): slot layout (R371, R372), slots and their windows (R352 to R356),
trigger decisions (R357 to R370), gaps (R374 to R379), truncation and restarts (R380 to R382), the closing of a record
(R361 to R363, Table 9.5), and the class 0x09 commands. When a row reaches memory is in MemoryPath.lean.
-/
namespace Sys2Proof.Machine
open Sys2Proof

/-! ## Configuration and layout -/

/-- The fields of a CAP_SET_CONFIG block (09 Table 9.9). -/
structure CapCfg where
  tickEn : Bool
  branch : Nat
  red : Nat
  gapCap : Nat
  blk : Nat
  maxRec : Nat
  pre : Nat
  post : Nat
  auto_ : Nat
  base : Nat
  size : Nat
  chans : List Nat

/-- Read a CAP_SET_CONFIG block (09 Table 9.9). -/
def capCfg (ws : Vector Word 15) : CapCfg :=
  let w := fun (i : Nat) => vgetD ws i 0
  { tickEn := (w 0).bit 31, branch := b01 ((w 0).bit 30), red := (w 0).field 29 26, gapCap := (w 0).field 23 16,
    blk := (w 1).field 31 16 + 1, maxRec := (w 1).field 15 0, pre := (w 2).field 23 0, post := (w 3).field 23 0,
    auto_ := (w 4).field 23 0, base := (w 5).field 19 0, size := (w 6).field 19 0,
    chans := (List.range 256).filter (fun c => (w (7 + c / 32)).bit (c % 32)) }

/-- N = PRE + POST. -/
def CapCfg.rows (c : CapCfg) : Nat := c.pre + c.post

/-- RB (09, "States, arming and the trigger window"). -/
def CapCfg.blockRows (c : CapCfg) : Nat := ceilDiv c.rows c.blk + 1

/-- Reduction kind `j` is enabled. -/
def CapCfg.on (c : CapCfg) (j : Nat) : Bool := c.red.testBit j

/-- The primary reduction. -/
def CapCfg.primary (c : CapCfg) : Nat := ((List.range 4).find? (fun j => c.red.testBit j)).getD 0

/-- Some block kind is enabled. -/
def CapCfg.blocks (c : CapCfg) : Bool := c.red / 2 != 0

/-- Words per channel in a row of kind `j` (09 Table 9.1). -/
def kindWords (j : Nat) : Nat := if j = 1 then 2 else 1

/-- Bytes of the section of kind `j` (09 Table 9.4). -/
def CapCfg.kindBytes (c : CapCfg) (j : Nat) : Nat :=
  if c.on j then 4 * kindWords j * (if j = 0 then c.rows else c.blockRows) * c.chans.length else 0

/-- Offset of the TICK section. -/
def CapCfg.tickOffset (c : CapCfg) : Nat := 160 + 16 * c.gapCap

/-- Offset of the section of kind `j`; of kind 4, the end of the sections. -/
def CapCfg.kindOffset (c : CapCfg) (j : Nat) : Nat :=
  (List.range j).foldl (fun a i => a + c.kindBytes i) (c.tickOffset + (if c.tickEn then 8 * c.rows else 0))

/-- SLOT_PAGES (09 R371). -/
def CapCfg.slotPages (c : CapCfg) : Nat := ceilDiv (c.kindOffset 4) 4096

/-- NSLOTS (09 R371). -/
def CapCfg.slots (c : CapCfg) : Nat := c.size / c.slotPages

/-- Capture set `i`. -/
def getSet (s : State) (i : Fin 16) : CapSet := vget s.cap.sets i

/-- Change capture set `i`. -/
def modSet (i : Fin 16) (f : CapSet → CapSet) (s : State) : State := { s with cap := { s.cap with sets := vmod s.cap.sets i f } }

/-- The capture address of the slot of record `ridx`. -/
def slotAddr (c : CapCfg) (ridx : Word) : Nat := 4096 * (c.base + ridx.toNat % max c.slots 1 * c.slotPages)

/-- The function a set's traffic and events concern: its owner's. -/
def CapSet.fn (t : CapSet) : BitVec 4 :=
  match t.owner with
  | some o => o.fn
  | none => 0xF

/-- A slot is open: ARMING, ARMED, POST or CLOSING. -/
def CapSet.open_ (t : CapSet) : Bool := t.state == .arming || t.state == .armed || t.state == .post || t.state == .closing

/-- Waiting for a trigger. -/
def CapSet.waits (t : CapSet) : Bool := t.state == .arming || t.state == .armed

/-! ## Moments: anchors, authority, epoch and generation over time (09 Table 9.5, 12 R473) -/

/-- What holds now. -/
def presentMoment (s : State) : Moment :=
  { tick := now s, anchorTick := s.tb.anchorTick, anchorTime := s.tb.anchorTime, valid := s.tb.timeValid, gen := s.tb.timeGen,
    auth := holdsAuthority s, epoch := s.ao.epoch, generation := s.ring.generation }

/-- Note what holds, if it differs from the last note. -/
def noteMoment (s : State) : State :=
  let m := presentMoment s
  let same := match s.cap.moments with
    | x :: _ => { x with tick := m.tick } == m
    | [] => false
  if same then s else { s with cap := { s.cap with moments := m :: s.cap.moments } }

/-- What held at tick `t`. -/
def momentAt (t : Nat) (s : State) : Moment :=
  (s.cap.moments.find? (fun m => m.tick ≤ t)).getD (presentMoment s)

/-- The structure time of tick `t` under the anchor in force at it (06 R205, R206). -/
def structTimeAt (s : State) (t : Nat) : Nat :=
  let m := momentAt t s
  structTime { s with tb := { s.tb with anchorTick := m.anchorTick, anchorTime := m.anchorTime } } t

/-! ## Windows of a slot -/

/-- The lowest channel of a set. -/
def CapSet.lead (t : CapSet) : CapChan :=
  match t.chans with
  | x :: _ => x
  | [] => { chan := 0, n := 0, first := 0, started := false, block := 0, count := 0, sum := 0, sumSq := 0, max := 0, min := 0,
            flags := 0, shed := false }

/-- The branch a set uses of a channel. -/
def capBranch (s : State) (t : CapSet) (c : Nat) : Branch := getBranch s (2 * c + (capCfg t.config).branch)

/-- The tick from which the open slot's windows begin. -/
def CapSet.since (t : CapSet) : Nat := t.openAt.getD 0

/-- Window 0 of the slot has begun on the lowest channel. -/
def slotBegun (s : State) (t : CapSet) : Bool := t.lead.started || decide (t.since ≤ (capBranch s t t.lead.chan.val).winStart)

/-- Start tick of window 0: as it began, or the next window's start if none has begun yet. -/
def slotStart (s : State) (t : CapSet) : Nat :=
  let x := capBranch s t t.lead.chan.val
  if t.lead.started then t.lead.first
  else if t.since ≤ x.winStart then x.winStart
  else max (windowNext x) (if t.wlen = 0 then 0 else ceilDiv t.since t.wlen * t.wlen)

/-- Starts of the slot's windows in line-cycle mode, newest first: the first of them is the window in progress. -/
def lineStarts (s : State) (t : CapSet) : List Nat :=
  if t.lead.started then t.starts else if slotBegun s t then [slotStart s t] else []

/-- The number of the window that contains a tick, negative before the slot (09 R357). -/
def windowOf (s : State) (t : CapSet) (tick : Nat) : Int :=
  let w0 := slotStart s t
  if tick < w0 then -1
  else if t.wlen = 0 then
    let later := (lineStarts s t).takeWhile (fun a => tick < a)
    (t.lead.n : Int) - later.length
  else (tick / t.wlen : Nat) - (w0 / t.wlen : Nat)

/-- Start tick of window `i` of the slot on the lowest channel. -/
def windowStart (s : State) (t : CapSet) (i : Nat) : Nat :=
  if t.wlen = 0 then ((lineStarts s t)[t.lead.n - i]?).getD 0
  else if i = 0 then slotStart s t
  else (slotStart s t / t.wlen + i) * t.wlen

/-- The block number of window `i` of the slot (09 R352). -/
def blockOfWindow (s : State) (t : CapSet) (i : Nat) : Nat :=
  let blk := (capCfg t.config).blk
  if t.wlen = 0 then i / blk
  else
    let g := slotStart s t / t.wlen
    (g + i) / blk - g / blk

/-- One past the last window of the span. -/
def CapSet.spanEnd (t : CapSet) : Nat := t.trigK - (capCfg t.config).pre + t.nwin

/-- A channel has given every window of the span. -/
def CapChan.spanDone (c : CapChan) (e : Nat) : Bool := decide (e ≤ c.n)

/-- The block containing the span's last window has ended on a channel. -/
def CapChan.blockDone (c : CapChan) (e : Nat) (blocks : Bool) : Bool := decide (e ≤ c.n) && (!blocks || decide (e ≤ c.n - c.count))

/-! ## Gaps (09 R375, R376) -/

/-- A gap record is complete: CAP_GAP (09 R376). -/
def closeGap (i : Fin 16) (g : CapGap) (s : State) : State :=
  let t := getSet s i
  raiseEvent .critical 0x0904 t.fn i.val
    ([wd i.val, t.ridx, wd g.cause.toNat, wd g.sect.toNat] ++ split64 (windowStart s t g.firstN) ++ [wd (g.lastN + 1 - g.firstN)])
    (modSet i (fun t =>
      { t with openGaps := t.openGaps.filter (fun x => x != g),
               gaps := (t.gaps.filter (fun x => decide (t.lead.n ≤ x.lastN + (capCfg t.config).rows + 1))) ++ [g] }) s)

/-- Close the gap records in formation that `sel` selects. -/
def closeGaps (sel : CapGap → Bool) (i : Fin 16) (s : State) : State :=
  ((getSet s i).openGaps.filter sel).foldl (fun u g => closeGap i g u) s

/-- Windows `a` to `b` of a slot are absent with a cause in the sections `sect`: they extend the gap record of that cause and
those sections, or begin one after closing it (09 R376). -/
def noteGap (i : Fin 16) (cause sect : BitVec 4) (a b : Nat) (s : State) : State :=
  let same := fun (g : CapGap) => g.cause == cause && g.sect == sect
  let s1 := closeGaps (fun g => same g && decide (g.lastN + 1 < a)) i s
  modSet i (fun t =>
    { t with openGaps :=
        if t.openGaps.any same then t.openGaps.map (fun g => if same g then { g with lastN := max g.lastN b } else g)
        else t.openGaps ++ [{ cause := cause, sect := sect, firstN := a, lastN := b }] }) s1

/-- A row of section `sect` whose windows begin with `a` is stored: a gap record of that section is complete once no row of the
window after it can still be absent (09 R376; DEDUCED, assumption 154). -/
def endGaps (i : Fin 16) (sect a : Nat) (s : State) : State :=
  closeGaps (fun g => g.sect.toNat.testBit sect && decide (g.lastN + 1 < a)) i s

/-! ## Rows into the capture queue (01 R26; 10 R406) -/

/-- Bytes of capture output that wait: the rows held and the requests of the capture writer. -/
def captureBacklog (s : State) : Nat :=
  s.mem.capture.foldl (fun a r => a + r.data.length) 0
    + (s.mem.requests.filter (fun r => r.requester == 0)).foldl (fun a r => a + r.len) 0

/-- The capture queue and the write buffer have room for `n` more bytes: 32 KiB of buffer and at least 64 µs of output,
37,760 bytes, of queue; what a queue holds beyond that is a free value (01 R26, 10 R406). -/
def captureRoom (n : Nat) (s : State) : Bool :=
  decide (captureBacklog s + n ≤ 70528) || decide (captureBacklog s + n ≤ 70528 + Config.captureQueueExtra)

/-- A row of section `sect` for windows `a` to `b` goes to the capture queue, or is dropped with cause 1 (09 R376). -/
def putRow (i : Fin 16) (sect : Nat) (a b offset : Nat) (ws : List Word) (s : State) : State :=
  let t := getSet s i
  let data := bytesOf ws
  if captureRoom data.length s then
    endGaps i sect a { s with mem := { s.mem with capture := s.mem.capture ++
        [{ set := i, sect := fin 4 sect, firstN := a, lastN := b, fn := t.fn, addr := slotAddr (capCfg t.config) t.ridx + offset, data := data }] } }
  else noteGap i 1 (BitVec.ofNat 4 (2 ^ sect)) a b s

/-! ## Opening a slot (09 R355, R359) -/

/-- Write bytes of the set's own bookkeeping (header, gap table) as the capture writer; nothing where the controller
serves no request. -/
def writeSlot (i : Fin 16) (offset : Nat) (ws : List Word) (s : State) : State :=
  let t := getSet s i
  let a := slotAddr (capCfg t.config) t.ridx + offset
  if memCheck a (4 * ws.length) s = 0 then (performWrite 0 t.fn a (bytesOf ws) s).1 else s

/-- ARMED from window PRE of the slot onward (09 R359). -/
def checkArmed (i : Fin 16) (s : State) : State :=
  let t := getSet s i
  if t.state = .arming ∧ slotBegun s t ∧ (capCfg t.config).pre ≤ t.lead.n then modSet i (fun t => { t with state := .armed }) s
  else s

/-- An empty channel of a slot. -/
def CapChan.fresh (c : Fin 256) : CapChan :=
  { chan := c, n := 0, first := 0, started := false, block := 0, count := 0, sum := 0, sumSq := 0, max := 0, min := 0,
    flags := 0, shed := false }

/-- Slot RIDX mod NSLOTS opens: its first window is the first that begins at or after tick `a` (09 R355). Its header
reads 0 until the record closes (09 Table 9.5). -/
def openSlot (i : Fin 16) (a : Nat) (s : State) : State :=
  let t := getSet s i
  let c := capCfg t.config
  let bc := branchCfg (capBranch s t (c.chans.headD 0)).words
  let s1 := writeSlot i 0 (List.replicate 40 0) (modSet i (fun t =>
    { t with state := .arming, openAt := some a, chans := c.chans.map (fun c => CapChan.fresh (fin 256 c)), starts := [],
             gaps := [], openGaps := [], trigCause := 0, truncCause := 0, nwin := 0, holdover := 0,
             generation := s.ring.generation, wlen := if bc.lc then 0 else bc.window }) s)
  checkArmed i (modSet i (fun t => { t with openTick := slotStart s1 t }) s1)

/-- The next slot after a record closes: DONE, FULL or open (09 R363). -/
def nextSlot (i : Fin 16) (a : Nat) (s : State) : State :=
  let t := getSet s i
  let c := capCfg t.config
  if c.maxRec ≠ 0 ∧ c.maxRec ≤ t.closedRun then
    raiseEvent .informational 0x0908 t.fn i.val [wd i.val, wd t.closedRun] (modSet i (fun t => { t with state := .done, openAt := none }) s)
  else if c.slots ≤ t.ready.length then
    raiseEvent .informational 0x0903 t.fn i.val [wd i.val, t.ridx] (modSet i (fun t => { t with state := .full, openAt := none }) s)
  else openSlot i a s

/-! ## Trigger decisions (09 R357 to R364) -/

/-- POST becomes CLOSING once every channel has given the span's last window (09 R361). -/
def checkSpan (i : Fin 16) (s : State) : State :=
  let t := getSet s i
  if t.state = .post ∧ t.chans.all (fun c => c.spanDone t.spanEnd) then modSet i (fun t => { t with state := .closing }) s else s

/-- The TRIG_SHARE message of a set (09 Table 9.3; its words, DESIGN CHOICE, assumption 26). -/
def shareMessage (i : Fin 16) (s : State) : Message :=
  let t := getSet s i
  { kind := 0x0B, cls := 1, target := none, side := none,
    payload := wd ((vget t.trigger 0).field 22 19 * 268435456 + hubNum s * 8388608 + i.val * 524288 + t.trigCause.toNat * 1024)
      :: split64 t.trigTick }

/-- A pulse of WIDTH cycles begins at the cycle after the decision, or restarts its WIDTH if it runs (09 R370). -/
def TrigPin.pulse (decided : Nat) (p : TrigPin) : TrigPin :=
  { p with pulseFrom := if p.pulseEnd.any (fun e => decide (decided + 1 ≤ e)) then p.pulseFrom else decided + 1,
           pulseEnd := some (decided + 1 + p.word.field 15 0) }

/-- The level the hub drives on the ball of a pin at tick `t`: high during the pulse, inverted if INV is 1; none while the pin
is an input (09 R370, Table 9.11). -/
def TrigPin.level (t : Nat) (p : TrigPin) : Option Bool :=
  if p.word.bit 31 then some ((decide (p.pulseFrom ≤ t) && p.pulseEnd.any (fun e => decide (t < e))) != p.word.bit 30) else none

/-- The pulses of the outputs that follow set `i` (09 R370). -/
def pulsePins (i : Fin 16) (decided : Nat) (s : State) : State :=
  { s with cap := { s.cap with pins := s.cap.pins.map (fun p =>
      if p.word.bit 31 && p.word.field 23 20 == i.val then p.pulse decided else p) } }

/-- A share leaves when a set that shares accepts from any source other than the ring (09 R369). -/
def shareOut (i : Fin 16) (bit : Nat) (s : State) : State :=
  if (vget (getSet s i).trigger 0).bit 23 ∧ bit ≠ 7 then send (shareMessage i s) s else s

/-- Accept a trigger with window `k` (09 R360). -/
def acceptTrigger (i : Fin 16) (bit k tick decided : Nat) (s : State) : State :=
  let c := capCfg (getSet s i).config
  let s1 := modSet i (fun t =>
    { t with state := .post, trigK := k, trigTick := tick, trigCause := BitVec.ofNat 9 (2 ^ bit), decidedAt := decided,
             lastTrig := wd tick, nwin := c.rows, truncCause := 0 }) s
  let t := getSet s1 i
  let s2 := raiseEvent .informational 0x0901 t.fn i.val ([wd i.val, t.ridx] ++ split64 tick ++ [wd (2 ^ bit)]) s1
  checkSpan i (pulsePins i decided (shareOut i bit s2))

/-- Decide a trigger of an enabled source, cause bit `bit`, at cycle `decided` (09 R358, R360). -/
def decideTrigger (i : Fin 16) (bit tick decided : Nat) (s : State) : State :=
  let t := getSet s i
  let c := capCfg t.config
  let k := windowOf s t tick
  if t.waits then
    if k < (c.pre : Int) then modSet i (fun t => { t with ignPre := satInc t.ignPre }) s
    else if (c.post : Int) - 1 < (t.lead.n : Int) - 1 - k then modSet i (fun t => { t with ignLate := satInc t.ignLate }) s
    else acceptTrigger i bit k.toNat tick decided s
  else if t.open_ ∧ t.decidedAt = decided ∧ k = (t.trigK : Int) then
    let fromRing := t.trigCause = 0x80
    let s1 := modSet i (fun t => { t with trigCause := setBit t.trigCause bit }) s
    if fromRing then shareOut i bit s1 else s1
  else modSet i (fun t => { t with ignBusy := satInc t.ignBusy }) s

/-- The pattern condition of a set (09 R365). -/
def patternHolds (s : State) (t : CapSet) : Bool :=
  let base := (vget t.trigger 1).field 11 4
  let mask := join64 (vget t.trigger 2) (vget t.trigger 3)
  let value := join64 (vget t.trigger 4) (vget t.trigger 5)
  (List.range 64).all (fun i =>
    let d := vgetD s.fl.detectors (base + i) Detector.reset
    !mask.testBit i || ((vgetD d.cmp 0 0).bit 31 && d.out) == value.testBit i)

/-- Evaluate a set at tick `t`: the pattern source (09 R365), then the forced trigger (09 R364). -/
def evaluateSet (t : Nat) (i : Fin 16) (s : State) : State :=
  let x := getSet s i
  let holds := patternHolds s x
  let s1 := if (vget x.trigger 0).bit 31 then
      let u := modSet i (fun x => { x with patternPrev := holds }) s
      if holds && !x.patternPrev then decideTrigger i 0 t t u else u
    else s
  let y := getSet s1 i
  let c := capCfg y.config
  if y.waits ∧ c.auto_ ≠ 0 ∧ c.pre + c.auto_ ≤ y.lead.n then
    acceptTrigger i 8 (c.pre + c.auto_ - 1) t t (modSet i (fun x => { x with forced := satInc x.forced }) s1)
  else s1

/-- Every set is evaluated once the updates that carry tick `t` have been applied (09 R364, R365). -/
def evaluateSets (t : Nat) (s : State) : State :=
  (List.finRange 16).foldl (fun u i => evaluateSet t i u) { s with cap := { s.cap with patternTick := none } }

/-- Before anything at a tick of at least `t`: evaluate what an earlier tick has left. -/
def settlePatterns (t : Nat) (s : State) : State :=
  match s.cap.patternTick with
  | some p => if p < t then evaluateSets p s else s
  | none => s

/-- Time reaches tick `t` by an event there: patterns of earlier ticks are settled first (09 R365). -/
def advanceTo (t : Nat) (s : State) : State :=
  let s1 := settlePatterns t s
  { s1 with tb := { s1.tb with tick := max s1.tb.tick t } }

/-- Time reaches the tick at which something falls due, where ticks are counted; before that the row says when. -/
def reach (t : Nat) (s : State) : State := if s.tb.started then advanceTo t s else s

/-- `f` as of the tick `t` at which it falls due; a row that comes before the frame boundaries up to there changes nothing (DESIGN
CHOICE, assumption 178). -/
def atDue (t : Nat) (f : State → State) (s : State) : State := if dueSoon t s then f (reach t s) else s

/-- A trigger of one source at every set that `enabled` selects, decided now. -/
def triggerSets (enabled : CapSet → Bool) (bit tick : Nat) (s : State) : State :=
  let s1 := settlePatterns (now s) s
  (List.finRange 16).foldl (fun u i => if enabled (getSet u i) then decideTrigger i bit tick (now u) u else u) s1

/-- The timer source: `code` is n for a timer tick of TMRn, 8 + n for a PWM edge (09 R367). -/
def timerTrigger (code tick : Nat) (s : State) : State :=
  triggerSets (fun t => (vget t.trigger 0).bit 26 && (vget t.trigger 0).field 18 15 == code) 5 tick s

/-! ## Truncation (09 R380, R382) -/

/-- Windows of the set that end before tick `t` on its lowest channel. -/
def windowsBefore (s : State) (x : CapSet) (t : Nat) : Nat :=
  let b := capBranch s x x.lead.chan.val
  x.lead.n + (if x.since ≤ b.winStart ∧ windowNext b ≤ t ∧ b.winStart < t then 1 else 0)

/-- The value of a block of kind `j`, with its flags and OVR where it is clipped (09 R353, Table 9.1). -/
def blockValue (c : CapChan) (j : Nat) : List Word :=
  if j = 1 then [detectorWord c.max c.flags, detectorWord c.min c.flags]
  else if j = 2 then [detectorWord (rndDiv c.sum (max c.count 1)) c.flags]
  else [detectorWord (isqrt (c.sumSq / max c.count 1)) c.flags]

/-- The position of a channel in the set. -/
def chanPlace (cfg : CapCfg) (c : Nat) : Nat := (cfg.chans.takeWhile (fun x => x != c)).length

/-- A block of a channel ends: the rows of its kinds, or their absence while they are shed (09 R352, R376, R377). -/
def endBlock (i : Fin 16) (c : CapChan) (s : State) : State :=
  let cfg := capCfg (getSet s i).config
  let a := c.n - c.count
  let b := c.n - 1
  let kinds := [1, 2, 3].filter (fun j => cfg.on j)
  let shed := kinds.filter (fun j => c.shed && j != cfg.primary)
  let s1 := (kinds.filter (fun j => !shed.contains j)).foldl (fun u j =>
    putRow i j a b (cfg.kindOffset j + 4 * kindWords j * (c.block % cfg.blockRows * cfg.chans.length + chanPlace cfg c.chan.val))
      (blockValue c j) u) s
  if shed.isEmpty then s1
  else noteGap i 2 (BitVec.ofNat 4 (shed.foldl (fun m j => m + 2 ^ j) 0)) a b s1

/-- The next block of a channel. -/
def CapChan.nextBlock (c : CapChan) : CapChan :=
  { c with block := c.block + 1, count := 0, sum := 0, sumSq := 0, max := 0, min := 0, flags := 0, shed := false }

/-- Replace a channel of a set. -/
def setCapChan (i : Fin 16) (c : CapChan) (s : State) : State :=
  modSet i (fun t => { t with chans := t.chans.map (fun x => if x.chan == c.chan then c else x) }) s

/-- A truncated record: the block in progress of a channel that has given its last window ends with it (09 R380). -/
def flushBlock (i : Fin 16) (c : CapChan) (s : State) : State :=
  let t := getSet s i
  if t.truncCause ≠ 0 ∧ c.n = t.spanEnd ∧ c.count ≠ 0 ∧ (capCfg t.config).blocks then setCapChan i c.nextBlock (endBlock i c s) else s

/-- A set without an open slot goes where its cause sends it (09 Table 9.7). -/
def settleSet (i : Fin 16) (cause : Nat) (after : SetState) (tick : Nat) (s : State) : State :=
  if after = .arming then
    let s1 := nextSlot i tick (modSet i (fun t => { t with truncs := satInc t.truncs }) s)
    let t := getSet s1 i
    raiseEvent .informational 0x0905 t.fn i.val ([wd i.val, wd cause] ++ split64 t.openTick) s1
  else if after = .free then
    modSet i (fun t => { CapSet.reset with ignPre := t.ignPre, ignLate := t.ignLate, ignBusy := t.ignBusy, forced := t.forced,
                                           gapCount := t.gapCount, truncs := t.truncs }) s
  else modSet i (fun t => { t with state := after, openAt := none, openGaps := [], chans := [] }) s

/-- A cause of 09 Table 9.7 at tick `tick`: a record that a trigger has opened closes truncated; any other slot ends. -/
def truncateSet (i : Fin 16) (cause : Nat) (after : SetState) (tick : Nat) (s : State) : State :=
  let t := getSet s i
  let s0 := if cause = 5 ∧ (t.open_ ∨ t.state = .full) then
      raiseEvent .informational 0x0906 t.fn i.val [wd i.val, wd cause] s else s
  match t.state with
  | .post | .closing =>
    if t.truncCause ≠ 0 then modSet i (fun t => { t with after := if after = .arming ∨ t.after = .free then t.after else after }) s0
    else
      let pre := t.trigK - (capCfg t.config).pre
      let last := min t.spanEnd (windowsBefore s t tick)
      let s1 := modSet i (fun t =>
        { t with state := .closing, truncCause := cause, after := after, nwin := last - pre, openAt := some tick,
                 truncs := satInc t.truncs }) s0
      (getSet s1 i).chans.foldl (fun u c => flushBlock i c u) s1
  | .arming | .armed =>
    if after = .arming ∧ t.openAt = some tick ∧ ¬ t.lead.started then s else settleSet i cause after tick s0
  | .free | .idle => if after = .free then settleSet i cause after tick s else s
  | .full | .done => if after = .arming then s else settleSet i cause after tick s0

/-- A regime of branch `b` of channel `c` begins at `t` under branch words with line-cycle mode or not: cause 2, or
cause 5 for a move to line-cycle mode without TICK_EN (09 R373, R380). -/
def captureRegime (c b : Nat) (lc : Bool) (t : Nat) (s : State) : State :=
  (List.finRange 16).foldl (fun u i =>
    let x := getSet u i
    let cfg := capCfg x.config
    if cfg.branch = b ∧ cfg.chans.contains c ∧ (x.open_ ∨ x.state = .full) then
      if lc && !cfg.tickEn then truncateSet i 5 .idle t u else truncateSet i 2 .arming t u
    else u) s

/-- A new generation number comes into force at boundary `f`: cause 3 (09 R380). -/
def captureGeneration (f : Nat) (s : State) : State :=
  (List.finRange 16).foldl (fun u i => if (getSet u i).open_ then truncateSet i 3 .arming f u else u) s

/-- A reset clears the sets of a function: an open slot is abandoned (09 R382). -/
def clearSets (fn : BitVec 4) (s : State) : State :=
  (List.finRange 16).foldl (fun u i =>
    let t := getSet u i
    if t.owner.isSome ∧ t.fn = fn then
      let rows := (capCfg t.config).rows
      let n := t.lead.n
      let first := if n = 0 then slotStart u t else windowStart u t (n - min n rows)
      let last := if n = 0 then slotStart u t else windowStart u t n - 1
      let u1 := if t.open_ then
          raiseEvent .critical 0x0907 t.fn i.val ([wd i.val, t.ridx] ++ split64 first ++ split64 last) u else u
      { u1 with cap := { u1.cap with sets := vset u1.cap.sets i CapSet.reset },
                mem := { u1.mem with capture := u1.mem.capture.filter (fun r => r.set != i) },
                staged := u1.staged.filter (fun x => match x.change with
                  | .capArm j _ | .capDelete j | .capTrigger j _ | .capRelease j => j != i
                  | _ => true) }
    else u) s

/-! ## Windows into sets (09 R352 to R356, R376 to R378) -/

/-- A holdover mark in a word (09 R378). -/
def holdWord (w : Word) (h : Bool) : Word := if h then w ||| 1 else w

/-- A window enters a channel's block. -/
def CapChan.take (c : CapChan) (f : Formed) (shed : Bool) : CapChan :=
  { c with n := c.n + 1, first := if c.started then c.first else f.start, started := true, count := c.count + 1,
           sum := c.sum + f.value, sumSq := c.sumSq + f.value.natAbs * f.value.natAbs,
           max := if c.count = 0 ∨ c.max < f.value then f.value else c.max,
           min := if c.count = 0 ∨ f.value < c.min then f.value else c.min,
           flags := c.flags ||| BitVec.ofNat 8 ((holdWord f.word f.holdover).field 7 0), shed := c.shed || shed }

/-- The SAMPLE and TICK rows of window `n` (09 R356, R376). -/
def sampleRows (i : Fin 16) (c : CapChan) (f : Formed) (shedding : Bool) (s : State) : State :=
  let t := getSet s i
  let cfg := capCfg t.config
  let n := c.n
  let row := n % cfg.rows
  let s1 := if cfg.on 0 then
      putRow i 0 n n (cfg.kindOffset 0 + 4 * (row * cfg.chans.length + chanPlace cfg c.chan.val)) [holdWord f.word f.holdover] s
    else s
  if cfg.tickEn && c.chan == t.lead.chan then
    if shedding && cfg.primary != 0 then noteGap i 2 1 n n s1
    else putRow i 0 n n (cfg.tickOffset + 8 * row) (split64 f.out) s1
  else s1

/-- The lowest channel's bookkeeping after its window `n`: line-cycle starts, OPEN_TICK. -/
def leadWindow (f : Formed) (n : Nat) (t : CapSet) : CapSet :=
  let cfg := capCfg t.config
  let base := if n = 0 then [f.start] else t.starts
  { t with openTick := if n = 0 then f.start else t.openTick,
           starts := if t.wlen = 0 then ((f.out + 1) :: base).take (cfg.rows + cfg.blk + 4) else t.starts }

/-- A window of a channel enters capture set `i`. -/
def setWindow (f : Formed) (i : Fin 16) (s : State) : State :=
  let t := getSet s i
  let cfg := capCfg t.config
  match t.chans.find? (fun c => c.chan.val == f.chan) with
  | none => s
  | some c =>
    if !t.open_ || cfg.branch != f.branch then s
    else if !c.started && decide (f.start < t.since) then checkArmed i s
    else if !t.waits && c.blockDone t.spanEnd cfg.blocks then s
    else
      let n := c.n
      let shedding := decide (5 ≤ s.hl.level)
      let s1 := if t.waits || decide (n < t.spanEnd) then sampleRows i c f shedding s else s
      let c1 := c.take f shedding
      let lead := c.chan == t.lead.chan
      let s2 := modSet i (fun t =>
        let t := if lead then leadWindow f n t else t
        { t with holdover :=
            if f.holdover && (t.waits || decide (n < t.spanEnd) || (cfg.blocks && decide (n - c.count < t.spanEnd)))
            then max t.holdover (n + 1) else t.holdover }) (setCapChan i c1 s1)
      let ends := cfg.blocks && (if f.lc then (n + 1) % cfg.blk == 0 else (f.out + 1) % ((f.out + 1 - f.start) * cfg.blk) == 0)
      let s3 := if ends then setCapChan i c1.nextBlock (endBlock i c1 s2)
        else flushBlock i c1 s2
      checkSpan i (checkArmed i s3)

/-- A window enters every set that uses its branch; the patterns of its tick are evaluated when the tick has passed. -/
def captureWindow (f : Formed) (s : State) : State :=
  let s1 := (List.finRange 16).foldl (fun u i => setWindow f i u) s
  { s1 with cap := { s1.cap with patternTick := some f.out } }

/-! ## Closing a record (09 R361 to R363, R379) -/

/-- Rows of a set that wait or are on their way to memory. -/
def rowsPending (i : Fin 16) (s : State) : Bool :=
  s.mem.capture.any (fun r => r.set == i) || s.mem.requests.any (fun r => match r.use with
    | .capture j _ _ _ => j == i
    | _ => false)

/-- Gaps clipped to the span, entered into a table of `cap` entries: beyond it the last entry is extended (09 R379).
Answers the entries and GAP_OVF. -/
def gapTable (cap a e : Nat) (gaps : List CapGap) : List CapGap × Bool :=
  let inside := (gaps.map (fun g => { g with firstN := max g.firstN a, lastN := min g.lastN (e - 1) })).filter
    (fun g => decide (g.firstN ≤ g.lastN) && decide (g.firstN < e))
  inside.foldl (fun acc g =>
    if acc.1.length < cap then (acc.1 ++ [g], acc.2)
    else match acc.1.getLast? with
      | some l => (acc.1.dropLast ++ [{ l with lastN := max l.lastN g.lastN, sect := l.sect ||| g.sect }], true)
      | none => (acc.1, true)) ([], false)

/-- The words of a gap record (09 Table 9.6). -/
def gapWords (s : State) (t : CapSet) (g : CapGap) : List Word :=
  wd (g.cause.toNat * 268435456 + g.sect.toNat * 16777216) :: split64 (windowStart s t g.firstN) ++ [wd (g.lastN + 1 - g.firstN)]

/-- Some row of the record carries the STALE of holdover: a window of the span, or a block that intersects it (09 R378,
Table 9.5). -/
def recordHeld (t : CapSet) (s : State) : Bool :=
  let c := capCfg t.config
  let a := t.trigK - c.pre
  decide (a < t.holdover)
    || (c.blocks && t.holdover != 0 && decide (blockOfWindow s t a ≤ blockOfWindow s t (t.holdover - 1)))

/-- The 40 words of a record header (09 Table 9.5). -/
def headerOf (i : Fin 16) (entries : List CapGap) (ovf : Bool) (s : State) : List Word :=
  let t := getSet s i
  let c := capCfg t.config
  let a := t.trigK - c.pre
  let first := windowStart s t a
  let last := windowStart s t t.spanEnd - 1
  let m := momentAt first s
  let out := momentAt (windowStart s t (t.trigK + 1) - 1) s
  let stepped := s.cap.moments.any (fun x => decide (first < x.tick) && decide (x.tick ≤ last)
    && (x.anchorTick != m.anchorTick || x.anchorTime != m.anchorTime))
  [wd (0x09010000 + i.val * 4096 + t.fn.toNat * 256 + hubNum s), t.ridx,
   wd (0x80000000 + b01 (t.truncCause != 0) * 1073741824 + b01 (recordHeld t s) * 536870912 + b01 m.valid * 268435456
     + b01 stepped * 134217728 + b01 ovf * 67108864 + b01 out.auth * 33554432 + b01 (t.wlen == 0) * 16777216
     + c.branch * 8388608 + b01 c.tickEn * 4194304 + c.red * 262144 + t.truncCause * 16384 + t.trigCause.toNat),
   wd (entries.length * 16777216 + c.gapCap * 65536 + c.chans.length), wd c.pre, wd c.post, wd t.nwin,
   wd ((c.blk - 1) * 65536), wd t.wlen, wd c.slotPages]
  ++ split64 first ++ split64 t.trigTick ++ split64 last ++ split64 m.anchorTick ++ split64 m.anchorTime
  ++ [t.generation, out.epoch, wd (m.gen.toNat * 65536), wd (a % c.rows), wd (blockOfWindow s t a % c.blockRows)]
  ++ (List.range 8).map (fun j => vgetD t.config (7 + j) 0) ++ List.replicate 7 0

/-- The record of a set closes: gap table, header, READY, the event and the owner's interrupt, and what follows (09 R361,
R363, R379, R380). -/
def closeRecord (i : Fin 16) (s : State) : State :=
  let s0 := closeGaps (fun _ => true) i s
  let t := getSet s0 i
  let c := capCfg t.config
  let (entries, ovf) := gapTable c.gapCap (t.trigK - c.pre) t.spanEnd t.gaps
  let s1 := writeSlot i 160 (entries.flatMap (gapWords s0 t)) s0
  let s2 := writeSlot i 0 (headerOf i entries ovf s1) s1
  let s3 := modSet i (fun t =>
    { t with ready := t.ready ++ [t.ridx], ridx := t.ridx + 1, closedRun := t.closedRun + 1,
             gapCount := satAdd t.gapCount entries.length }) s2
  let s4 := raiseEvent .informational 0x0902 t.fn i.val
    [wd i.val, t.ridx, wd (t.ridx.toNat % max c.slots 1), wd t.nwin, wd t.truncCause] s3
  let s5 := match fnOfCode t.fn with
    | some f => setCause f 6 s4
    | none => s4
  if t.truncCause = 0 then nextSlot i (now s + 1) s5
  else if t.after = .arming then
    let s6 := nextSlot i t.since s5
    let u := getSet s6 i
    if u.state = .arming ∨ u.state = .armed then
      raiseEvent .informational 0x0905 u.fn i.val ([wd i.val, wd t.truncCause] ++ split64 u.openTick) s6
    else s6
  else settleSet i t.truncCause t.after (now s) s5

/-- The set may close its record: every row of the span has been written and the last block has ended (09 R361, R362). -/
def mayClose (i : Fin 16) (s : State) : Bool :=
  let t := getSet s i
  t.state == .closing && t.chans.all (fun c => c.blockDone t.spanEnd (capCfg t.config).blocks) && !rowsPending i s

/-! ## Trigger events -/

/-- What the hub drives on the ball of pin `n`; nothing without VDDIO1 (09 R370; 18 Table 18.4). -/
def pinDrive (n : Fin 4) (s : State) : Option Bool := if vget s.pwr.rails 8 then (vget s.cap.pins n).level (now s) else none

/-- TRIGGER_PIN_EDGE (09 R366): an edge whose new level persists for PIN_MIN SCLK periods; without VDDIO1 the pin reads low, and
has no rising edge (18 Table 18.4). -/
def execTriggerPinEdge (n : Fin 4) (rising : Bool) (tick persist : Nat) (s : State) : Out :=
  let w := (vget s.cap.pins n).word
  .next (if w.bit 31 ∨ persist < w.field 15 0 ∨ (rising ∧ !vget s.pwr.rails 8) then s
    else triggerSets (fun t => (vget t.trigger 0).bit (27 + n.val) &&
      (vget t.trigger 0).bit (2 * n.val + (if rising then 0 else 1))) (1 + n.val) tick (advanceTo tick s))

/-- COMMAND_TRIGGER_DUE (09 R368): a held command trigger is decided when its tick is reached. -/
def execCommandTriggerDue (set : Fin 16) (s : State) : Out :=
  let t := getSet s set
  .next (if t.pendingTick = 0 ∨ !dueSoon t.pendingTick s then s
    else
      let s1 := { s with tb := { s.tb with tick := max s.tb.tick t.pendingTick } }
      let s2 := modSet set (fun t => { t with pendingTick := 0 }) (settlePatterns (now s1) s1)
      if (vget t.trigger 0).bit 25 then decideTrigger set 6 t.pendingTick (now s2) s2 else s2)

/-- TRIG_SHARE (09 R369): every set with RING_EN of the group, at any hub but the originator. -/
def execTrigShare (group : Nat) (tick : Nat) (origin : HubId) (s : State) : Out :=
  .next (if origin = s.ring.hubId then s
    else triggerSets (fun t => (vget t.trigger 0).bit 24 && (vget t.trigger 0).field 22 19 == group) 7 tick s)

/-- OUTPUT_PULSE_END (09 R370). -/
def execOutputPulseEnd (n : Fin 4) (s : State) : Out :=
  .next (match (vget s.cap.pins n).pulseEnd with
    | none => s
    | some e => atDue e (fun t =>
        { t with cap := { t.cap with pins := vmod t.cap.pins n (fun p => { p with pulseEnd := none }) } }) s)

/-! ## Staged changes -/

/-- CAP_ARM takes effect at `f` (09, "Commands and parameter blocks"). -/
def applyCapArm (i : Fin 16) (arm : Bool) (f : Nat) (s : State) : State :=
  let t := getSet s i
  if !arm then truncateSet i 1 .idle f s
  else if t.state = .idle ∨ t.state = .done then nextSlot i f (modSet i (fun t => { t with closedRun := 0 }) s)
  else s

/-- CAP_DELETE takes effect at `f` (09 Table 9.7). -/
def applyCapDelete (i : Fin 16) (f : Nat) (s : State) : State := truncateSet i 1 .free f s

/-- CAP_SET_TRIGGER takes effect: the pattern's present value is its previous one (09 R365). -/
def applyCapTrigger (i : Fin 16) (ws : Vector Word 6) (s : State) : State :=
  let s1 := modSet i (fun t => { t with trigger := ws }) s
  modSet i (fun t => { t with patternPrev := patternHolds s1 t }) s1

/-- The boundary after CAP_RELEASE has freed a slot that a FULL set waits for (09 R355). -/
def applyCapRelease (i : Fin 16) (f : Nat) (s : State) : State :=
  let t := getSet s i
  if t.state = .full ∧ t.ready.length < (capCfg t.config).slots then openSlot i (f + 1) s else s

/-- CAP_SET_PINS takes effect (09 Table 9.11). -/
def applyCapPins (ws : Vector Word 4) (s : State) : State :=
  { s with cap := { s.cap with pins := Vector.ofFn (fun n : Fin 4 =>
      let p := vget s.cap.pins n
      { p with word := vget ws n, pulseEnd := if (vget ws n).bit 31 then p.pulseEnd else none }) } }

/-! ## Commands -/

/-- The set a command names in bits [3:0] of word `i`. -/
def setNamed (p : Packet) (i : Nat) : Fin 16 := fin 16 ((p.w i).field 3 0)

/-- Only the owner or PF0 may name a set (09 R349). -/
def setClaim (i : Nat) (p : Packet) (s : State) : Option Rejection := holderCheck p [(getSet s (setNamed p i)).owner] s

/-- The first function whose command configures a set owns it (09 R349). -/
def claimSet (i : Fin 16) (p : Packet) (s : State) : State :=
  modSet i (fun t => { t with owner := if t.owner.isNone then some (ownerOf p s) else t.owner }) s

/-- Local channels as global channels of this hub. -/
def globals (s : State) (cs : List Nat) : List Nat := cs.map (fun c => hubNum s * 256 + c)

/-- Local channels as global channels of every hub that a packet names (09 R350; 15 Table 15.3, step 6). -/
def packetChannels (p : Packet) (cs : List Nat) (s : State) : List Nat :=
  (packetHubs p p.target.toNat s).flatMap (fun h => cs.map (fun c => h * 256 + c))

/-- The first capture address of `pages` pages from `page` outside a function's range (14, "Function rights"). -/
def rangeCheck (p : Packet) (page pages : Nat) (s : State) : Option Rejection :=
  match fnOfCode p.func with
  | none => some ⟨.outsideRange, [wd (4096 * page)]⟩
  | some f =>
    let x := getFn s f
    if page < x.rangePage ∨ x.rangePage + x.rangePages ≤ page then some ⟨.outsideRange, [wd (4096 * page)]⟩
    else if x.rangePage + x.rangePages < page + pages then some ⟨.outsideRange, [wd (4096 * (x.rangePage + x.rangePages))]⟩
    else none

/-- The regions of two sets overlap. -/
def CapCfg.overlaps (a b : CapCfg) : Bool := decide (a.base < b.base + b.size) && decide (b.base < a.base + a.size)

/-- The form of a CAP_SET_CONFIG block (09 R373, R388). -/
def capConfigForm (p : Packet) (s : State) : Option Nat :=
  let c := capCfg (blockOf 15 0 p)
  let lc := c.chans.any (fun x => (branchCfg (getBranch s (2 * x + c.branch)).words).lc)
  firstBad ([(0, rsv (p.w 0) 0x0300FFF0 && c.red != 0 && c.gapCap != 0 && !(lc && !c.tickEn)),
    (1, !(c.blocks && c.blk == 1)), (2, rsv (p.w 2) 0xFF000000 && decide (c.pre + c.post ≤ 16777215)),
    (3, rsv (p.w 3) 0xFF000000 && c.post != 0), (4, rsv (p.w 4) 0xFF000000), (5, rsv (p.w 5) 0xFFF00000),
    (6, rsv (p.w 6) 0xFFF00000 && decide (c.slotPages ≤ c.size)), (7, !c.chans.isEmpty)])

/-- CAP_SET_CONFIG (09 R349 to R351, R387, R388). -/
def rulesCapSetConfig : Rules :=
  { op := .capSetConfig, minLen := 15, maxLen := 15, issuers := anyFn, configures := true,
    rights := fun p s =>
      let c := capCfg (blockOf 15 0 p)
      match viewCheck p (packetChannels p c.chans s) s with
      | some r => some r
      | none => rangeCheck p c.base c.size s,
    form := capConfigForm,
    claims := setClaim 0,
    run := fun p s =>
      let i := setNamed p 0
      let ws := blockOf 15 0 p
      let c := capCfg ws
      let t := getSet s i
      let others := (List.finRange 16).filter (fun j => j != i && (getSet s j).state != .free)
      if t.state ≠ .free ∧ t.state ≠ .idle then .reject .precondition []
      else if c.chans.any (fun x => !(branchCfg (getBranch s (2 * x + c.branch)).words).en
          || !(branchCfg (getBranch s (2 * x + c.branch)).accepted).en) then .reject .precondition []
      else if others.any (fun j => c.overlaps (capCfg (getSet s j).config)) then .reject .precondition []
      else .done (modSet i (fun t =>
        { CapSet.reset with state := .idle, owner := t.owner, config := ws, trigger := t.trigger, patternPrev := t.patternPrev,
                            pendingTick := t.pendingTick }) (claimSet i p s)) [] (now s) }

/-- CAP_SET_CONFIG. -/
def execCapSetConfig (p : Packet) (s : State) : Out := .next (takeCommand rulesCapSetConfig p s)

/-- The form of a CAP_SET_TRIGGER block (09 R389, Table 9.10). -/
def capTriggerForm (p : Packet) : Option Nat :=
  let w := p.w 0
  let pin := fun (n : Nat) => if w.bit (27 + n) then w.field (2 * n + 1) (2 * n) != 0 else w.field (2 * n + 1) (2 * n) == 0
  let base := (p.w 1).field 11 4
  let pat := w.bit 31
  let mask := join64 (p.w 2) (p.w 3)
  firstBad [(0, rsv w 0x00007F00 && pin 0 && pin 1 && pin 2 && pin 3 && (w.bit 26 || w.field 18 15 == 0)
      && (w.bit 24 || w.bit 23 || w.field 22 19 == 0)),
    (1, rsv (p.w 1) 0xFFFFF000 && decide (base ≤ 192) && (pat || base == 0)),
    (2, if pat then mask != 0 else p.w 2 == 0), (3, pat || p.w 3 == 0),
    (4, p.w 4 &&& ~~~ p.w 2 == 0), (5, p.w 5 &&& ~~~ p.w 3 == 0)]

/-- CAP_SET_TRIGGER (09 R350, R389). -/
def rulesCapSetTrigger : Rules :=
  { op := .capSetTrigger, minLen := 6, maxLen := 6, issuers := anyFn, configures := true,
    rights := fun p s =>
      let mask := join64 (p.w 2) (p.w 3)
      viewCheck p (packetChannels p (((List.range 64).filter (fun i => mask.testBit i)).map (fun i => (p.w 1).field 11 4 + i)) s) s,
    form := fun p _ => capTriggerForm p,
    claims := setClaim 1,
    run := fun p s =>
      let i := setNamed p 1
      let f := defaultBoundary false p s
      .done (stage f (.capTrigger i (blockOf 6 0 p)) (claimSet i p s)) [] f }

/-- CAP_SET_TRIGGER. -/
def execCapSetTrigger (p : Packet) (s : State) : Out := .next (takeCommand rulesCapSetTrigger p s)

/-- CAP_ARM (09, "Commands and parameter blocks"). -/
def rulesCapArm : Rules :=
  { op := .capArm, minLen := 3, maxLen := 3, issuers := anyFn, configures := true,
    form := fun p _ => firstBad [(0, rsv (p.w 0) 0x7FFFFFF0), tickForm p 1],
    claims := setClaim 0,
    run := fun p s => match applyBoundary false p (p.w64 1) s with
      | .error r => .reject r.status r.detail
      | .ok f => .done (stage f (.capArm (setNamed p 0) ((p.w 0).bit 31)) s) [] f }

/-- CAP_ARM. -/
def execCapArm (p : Packet) (s : State) : Out := .next (takeCommand rulesCapArm p s)

/-- The command triggers of CAP_TRIGGER: to every named set that the issuer owns, or that PF0 names; one in the future is
held (09 R368). -/
def commandTriggers (p : Packet) (s : State) : State :=
  let tick := if p.w64 1 = 0 then now s else p.w64 1
  (List.finRange 16).foldl (fun u i =>
    if (p.w 0).bit (16 + i.val) ∧ (p.func = 0 ∨ (getSet u i).owner = some (ownerOf p u)) then
      if now u < tick then modSet i (fun t => { t with pendingTick := tick }) u
      else if (vget (getSet u i).trigger 0).bit 25 then decideTrigger i 6 tick (now u) u
      else u
    else u) (settlePatterns (now s) s)

/-- CAP_TRIGGER (09 R368). -/
def rulesCapTrigger : Rules :=
  { op := .capTrigger, minLen := 3, maxLen := 3, issuers := anyFn, configures := false,
    form := fun p _ => firstBad [(0, rsv (p.w 0) 0x0000FFFF)],
    run := fun p s => .done (commandTriggers p s) [] (now s) }

/-- CAP_TRIGGER. -/
def execCapTrigger (p : Packet) (s : State) : Out := .next (takeCommand rulesCapTrigger p s)

/-- CAP_RELEASE (09 R355, "Commands and parameter blocks"). -/
def rulesCapRelease : Rules :=
  { op := .capRelease, minLen := 1, maxLen := 1, issuers := anyFn, configures := false,
    form := fun p _ => firstBad [(0, rsv (p.w 0) 0xFF0000F0 && (p.w 0).field 23 8 != 0)],
    claims := setClaim 0,
    run := fun p s =>
      let i := setNamed p 0
      let n := (p.w 0).field 23 8
      let t := getSet s i
      if t.ready.length < n then .reject .precondition []
      else
        let s1 := modSet i (fun t => { t with ready := t.ready.drop n }) s
        .done (if t.state = .full then stage (nextFrame s) (.capRelease i) s1 else s1) [] (now s) }

/-- CAP_RELEASE. -/
def execCapRelease (p : Packet) (s : State) : Out := .next (takeCommand rulesCapRelease p s)

/-- CAP_DELETE (09 Table 9.7). -/
def rulesCapDelete : Rules :=
  { op := .capDelete, minLen := 1, maxLen := 1, issuers := anyFn, configures := true,
    form := fun p _ => firstBad [(0, rsv (p.w 0) 0xFFFFFFF0)],
    claims := setClaim 0,
    run := fun p s => let f := defaultBoundary false p s; .done (stage f (.capDelete (setNamed p 0)) s) [] f }

/-- CAP_DELETE. -/
def execCapDelete (p : Packet) (s : State) : Out := .next (takeCommand rulesCapDelete p s)

/-- Codes of set states (09 Table 9.2). -/
def SetState.code : SetState → Nat
  | .free => 0 | .idle => 1 | .arming => 2 | .armed => 3 | .post => 4 | .closing => 5 | .full => 6 | .done => 7

/-- The reply data of CAP_READ_STATUS (09 Table 9.12). -/
def capStatusWords (t : CapSet) : List Word :=
  let c := capCfg t.config
  let n := if t.state = .free then 0 else c.slots
  [wd (t.state.code * 536870912 + t.fn.toNat * 33554432 + n), t.ridx, wd (((t.ready.headD t.ridx).toNat) % max n 1),
   wd t.ready.length, halves t.ignPre.toNat t.ignLate.toNat, halves t.ignBusy.toNat t.forced.toNat,
   halves t.gapCount.toNat t.truncs.toNat]
  ++ split64 t.openTick ++ split64 t.pendingTick ++ [wd (if t.state = .free then 0 else c.slotPages), t.lastTrig]

/-- CAP_READ_STATUS (09 Table 9.12, R386). -/
def rulesCapReadStatus : Rules :=
  { op := .capReadStatus, minLen := 1, maxLen := 1, issuers := anyFn, configures := false,
    form := fun p _ => firstBad [(0, rsv (p.w 0) 0xFFFFFFF0)],
    run := fun p s =>
      let s1 := settlePatterns (now s) s
      .done s1 (capStatusWords (getSet s1 (setNamed p 0))) (now s) }

/-- CAP_READ_STATUS. -/
def execCapReadStatus (p : Packet) (s : State) : Out := .next (takeCommand rulesCapReadStatus p s)

/-- CAP_SET_PINS (09 R390, Table 9.11). -/
def rulesCapSetPins : Rules :=
  { op := .capSetPins, minLen := 4, maxLen := 4, issuers := pf0, configures := true,
    form := fun p _ => firstBad ((List.range 4).map (fun n =>
      let w := p.w n
      (n, rsv w 0x3F0F0000 && (if w.bit 31 then w.field 15 0 != 0 else !w.bit 30 && w.field 23 20 == 0)))),
    run := fun p s => let f := defaultBoundary false p s; .done (stage f (.capPins (blockOf 4 0 p)) s) [] f }

/-- CAP_SET_PINS. -/
def execCapSetPins (p : Packet) (s : State) : Out := .next (takeCommand rulesCapSetPins p s)

end Sys2Proof.Machine
end

