-- ==== Sys2Proof/Machine/Calibrate.lean ====
section
/-!
DEFINITION. Calibration (05): estimation and decision (R174 to R182), the loading of trims and the H064 ramps (R171, R172,
R178, R179, R197, R198), background cycles (R184 to R190), foreground calibration (R191 to R196, R775), and the class
0x05 commands (R199, R764).
-/
namespace Sys2Proof.Machine
open Sys2Proof

/-! ## Basins, gains and trims -/

/-- The calibration of basin `b`. -/
def calBasin (s : State) (b : Nat) : CalBasin := vgetD s.cal.basins b CalBasin.reset

/-- Change the calibration of basin `b`. -/
def modCal (b : Nat) (f : CalBasin → CalBasin) (s : State) : State :=
  { s with cal := { s.cal with basins := vsetD s.cal.basins b (f (calBasin s b)) } }

/-- The gain code of local channel `k` of basin `b` (03 Table 3.9). -/
def gainCode (s : State) (b k : Nat) : Nat := (vgetD s.cv.chanWord b 0).field (3 * k + 2) (3 * k)

/-- Local channel `k` of basin `b` is parked (03 R106). -/
def parked (s : State) (b k : Nat) : Bool := (vgetD s.cv.chanWord b 0).bit (24 + k)

/-- The next channel: the lowest-numbered unparked one after the channel visited last, cyclically (05, "Background
calibration"). -/
def nextChannel (s : State) (b : Nat) : Option Nat :=
  let from_ := match (calBasin s b).lastVisited with
    | some k => k.val + 1
    | none => 0
  ((List.range 8).map (fun i => (from_ + i) % 8)).find? (fun k => !parked s b k)

/-- The gain code of the next channel; with every channel parked, that of the last calibration of index `i` (05 R185). -/
def nextGain (s : State) (b i : Nat) : Nat :=
  match nextChannel s b with
  | some k => gainCode s b k
  | none => (vgetD s.cal.lastGain (9 * b + i) 0).val

/-- The trim word of a modulator at a gain code (05 Table 5.8). -/
def trimWord (s : State) (m g : Nat) : Word := vgetD (vgetD s.cal.trims m (vall 8 0)) g 0

/-- OTRIM and GTRIM of a trim word. -/
def otrim (w : Word) : Int := signedField 12 (w.field 11 0)

/-- GTRIM of a trim word. -/
def gtrim (w : Word) : Int := signedField 10 (w.field 25 16)

/-- A trim word of codes (05 Table 5.8). -/
def makeTrim (ot gt : Int) (calibrated : Bool) : Word :=
  wd (b01 calibrated * 2147483648 + toField 10 gt * 65536 + toField 12 ot)

/-- The channel a modulator serves, if it is SERVING or FAILED_SERVING. -/
def servedChannel (s : State) (m : Nat) : Option Nat :=
  let b := m / 9
  if modState s b (m % 9) = .serving ∨ modState s b (m % 9) = .failedServing then
    (channelOf s b (m % 9)).map (fun k => 8 * b + k)
  else none

/-- Write a trim entry at boundary `f`: CALADJ where it is in force on a served channel (05 R171). -/
def writeTrim (m g f : Nat) (w : Word) (s : State) : State :=
  let s1 := { s with cal := { s.cal with trims := vsetD s.cal.trims m (vsetD (vgetD s.cal.trims m (vall 8 0)) g w) } }
  match servedChannel s m with
  | some c => if gainCode s (c / 8) (c % 8) = g ∧ trimWord s m g &&& 0x03FF0FFF ≠ w &&& 0x03FF0FFF then
      mark .caladj (BitVec.ofNat 256 (2 ^ c)) f f s1 else s1
  | none => s1

/-- Set a digital trim at boundary `f`: CALADJ on a served channel where it changes (04 R140). -/
def writeDigital (m f : Nat) (d : Digital) (s : State) : State :=
  let s1 := { s with cal := { s.cal with digital := vsetD s.cal.digital m d } }
  match servedChannel s m with
  | some c => if vgetD s.cal.digital m Digital.neutral = d then s1 else mark .caladj (BitVec.ofNat 256 (2 ^ c)) f f s1
  | none => s1

/-- A new trim entry with its digital trim: at once, or in the H064 personality by a ramp on a modulator that serves
(05 R197, R198). `serves` is whether the modulator serves a channel, or will at E. What is written at once ends an older
ramp of that entry. -/
def newTrim (m g f : Nat) (w : Word) (d : Option Digital) (serves : Bool) (s : State) : State :=
  if s.host.compat && serves then
    { s with cal := { s.cal with ramps := s.cal.ramps.filter (fun r => !(r.m.val == m && r.gain.val == g)) ++
      [{ m := fin 288 m, gain := fin 8 g, target := w, digital := d }] } }
  else
    let s0 := { s with cal := { s.cal with ramps := s.cal.ramps.filter (fun r => !(r.m.val == m && r.gain.val == g)) } }
    let s1 := writeTrim m g f w s0
    match d with
    | some d => writeDigital m f d s1
    | none => s1

/-- One code toward a target. -/
def toward (x target : Int) : Int := if x < target then x + 1 else if target < x then x - 1 else x

/-- One step of a ramp at boundary `f`; it ends, and brings its digital trim into force, when both codes have arrived
(05 R197, R198). -/
def stepRamp (f : Nat) (r : Ramp) (s : State) : State :=
  if (runningForeground s (r.m.val / 9)).isSome && ownershipHeld s (r.m.val / 9) f then s
  else
    let w := trimWord s r.m.val r.gain.val
    let ot := toward (otrim w) (otrim r.target)
    let gt := toward (gtrim w) (gtrim r.target)
    let s1 := writeTrim r.m.val r.gain.val f (makeTrim ot gt (r.target.bit 31)) s
    if ot = otrim r.target ∧ gt = gtrim r.target then
      let s2 := { s1 with cal := { s1.cal with ramps := s1.cal.ramps.filter (fun x => x != r) } }
      match r.digital with
      | some d => writeDigital r.m.val f d s2
      | none => s2
    else s1

/-- Every ramp steps at boundary `f`. -/
def stepRamps (f : Nat) (s : State) : State := s.cal.ramps.foldl (fun t r => stepRamp f r t) s

/-! ## The dither generator (05 R774) -/

/-- One chip: the new bit is r[6] xor r[5] and enters r[0]. -/
def ditherStep (r : BitVec 7) : BitVec 7 := (r <<< 1) ||| (if r.getLsbD 6 != r.getLsbD 5 then 1 else 0)

/-- `n` chips on. -/
def ditherSteps : Nat → BitVec 7 → BitVec 7
  | 0, r => r
  | n + 1, r => ditherSteps n (ditherStep r)

/-- The sign s of each of `n` chips from the register `r`. -/
def ditherChips : Nat → BitVec 7 → List Int
  | 0, _ => []
  | n + 1, r => (if (ditherStep r).getLsbD 0 then 1 else -1) :: ditherChips n (ditherStep r)

/-- The signs of `n` chips of basin `b` from tick `t`, a multiple of 256; the sequence repeats every 127 chips. -/
def chipsFrom (s : State) (b t n : Nat) : List Int :=
  let k := (t / 256 + 127 * (s.tb.frameTick / 256) + 127 - s.tb.frameTick / 256) % 127
  ditherChips n (ditherSteps k (calBasin s b).dither)

/-! ## Estimation (05 R174) -/

/-- os, eps and p of a run. -/
structure Estimate where
  os : Rat
  eps : Rat
  p : Rat

/-- The sum of a list of rationals. -/
def sumRat (l : List Rat) : Rat := l.foldl (· + ·) 0

/-- The estimates of a run of `np` pairs and `nc` chips with the signs `sg` (05 R174). -/
def estimate (np nc : Nat) (sg : List Int) (o : RunObs) : Estimate :=
  let acc : Int := (o.pairs.take np).foldl (fun a x => a + x.1 + x.2) 0
  let os : Rat := (acc : Rat) / (512 * np)
  let y : List Rat := (o.chips.take nc).map (fun x : Int => (x : Rat) / 256 - os)
  let ybar := sumRat y / nc
  let z : List Rat := sg.map (fun x : Int => (x : Rat))
  let sbar := sumRat z / nc
  let num := sumRat ((z.zip y).map (fun x => (x.1 - sbar) * x.2))
  let den := sumRat (z.map (fun x => (x - sbar) * x))
  let eps := 32 * num / den - 1
  { os := os, eps := eps, p := ybar / (1 + eps) }

/-- rnd of a rational: to nearest, ties toward +∞. -/
def rndRat (x : Rat) : Int := (x + 1 / 2).floor

/-- The absolute value of a rational. -/
def absRat (x : Rat) : Rat := if x < 0 then -x else x

/-- A rational rounded and saturated to a signed 32-bit value (05 R176). -/
def sat32 (x : Rat) : Word :=
  let v := rndRat x
  wd (toField 32 (if 2147483647 < v then 2147483647 else if v < -2147483648 then -2147483648 else v))

/-- What a calibration decides (05 R175, R180). -/
inductive Verdict where
  | reject (cause : Nat) (quantity : Word)
  | beyond
  | accept (ot gt : Int) (p : Rat)

/-- Accept or reject (05 R175, R180). `g` is the gain, `history` the node history at its code. -/
def verdict (cb : CalBasin) (g : Rat) (w : Word) (suspect : Bool) (history : List Rat) (clamped : Nat) (a b : Estimate) :
    Verdict :=
  let tolOfs : Rat := cb.tolerance.field 23 16
  let tolGain : Rat := cb.tolerance.field 31 24
  let eqLimit : Rat := cb.tolerance.field 15 8
  let dOs := absRat (a.os - b.os)
  if clamped ≠ 0 then .reject 4 (wd clamped)
  else if tolOfs * g / 25000000 < dOs then .reject 1 (sat32 (dOs * 25000000 / g))
  else if tolGain / 1000000 < absRat (a.eps - b.eps) then .reject 2 (sat32 (absRat (a.eps - b.eps) * 1000000))
  else
    let os := (a.os + b.os) / 2
    let eps := (a.eps + b.eps) / 2
    let p := (a.p + b.p) / 2
    let nref := sumRat (p :: history) / (history.length + 1 : Nat)
    let eq := p / nref - 1
    if eqLimit / 1000000 < absRat eq then .reject 3 (sat32 (eq * 1000000))
    else
      let k := (1 + eps) * (1 + eq)
      let ot := otrim w - rndRat (os * 5000000 / g)
      let gt := if suspect then gtrim w else gtrim w - rndRat ((k - 1) * 65536)
      if ot < -4096 ∨ 4095 < ot ∨ gt < -1024 ∨ 1023 < gt then .beyond else .accept ot gt p

/-- A code limited to a DAC's range. -/
def dacClip (lo hi x : Int) : Int := if x < lo then lo else if hi < x then hi else x

/-- The digital trim that unclipped codes leave (05 R178, R179, R182). -/
def digitalFor (old : Digital) (g : Rat) (ot gt : Int) (suspect : Bool) : Digital :=
  let otc := dacClip (-2048) 2047 ot
  let gtc := dacClip (-512) 511 gt
  let dofs := BitVec.ofInt 24 (rndRat (16 * ((otc - ot : Int) : Rat) * g * 8388608 / 5000000))
  let dgain := if suspect then old.dgain
    else if gtc = gt then 0x400000 else BitVec.ofInt 24 (rndRat (4194304 / (1 + ((gtc - gt : Int) : Rat) / 65536)))
  let engaged := if suspect then dofs != 0 || dgain != 0x400000 else decide (otc ≠ ot) || decide (gtc ≠ gt)
  { dofs := dofs, dgain := dgain, engaged := engaged }

/-- The boundary at which trims accepted by a foreground calibration begin to take effect: S + 7 frames, or in the H064
personality E for a modulator that serves (05 R193, R197). -/
def foregroundEffect (s : State) (g : Foreground) (i : Nat) : Nat :=
  let serves := match vgetD g.taken i none with
    | some .serving | some .failedServing => true
    | _ => false
  g.start + (if s.host.compat && serves then 8 else 7) * frameLen

/-- The calibration in progress on modulator `m`: gain code, numbers of pairs and chips, the ticks at which the chips of
runs A and B begin, the boundary its trims are for, and whether it is foreground (05 Tables 5.2, 5.3, R174). A foreground
calibration takes no result of a modulator whose failure has been declared (R775). -/
def calibrationOf (s : State) (m : Nat) : Option (Nat × Nat × Nat × Nat × Nat × Nat × Bool) :=
  let b := m / 9
  let i := m % 9
  match runningForeground s b with
  | some g => if (vgetD g.taken i none).isSome && (vgetD g.failed i none).isNone then
      some ((vgetD g.gains i 0).val, 8, 32, g.start + 2 * frameLen, g.start + 5 * frameLen, foregroundEffect s g i, true)
    else none
  | none => match vgetD s.cal.visits b none with
    | some v => if v.index.val = i then
        some (v.gain.val, 32, 64, v.began + 5 * frameLen, v.began + 13 * frameLen, v.began + 18 * frameLen, false)
      else none
    | none => none

/-- Successive rejections of a modulator at a gain code. -/
def setRejRun (m g n : Nat) (s : State) : State :=
  { s with cal := { s.cal with rejRun := vsetD s.cal.rejRun m (vsetD (vgetD s.cal.rejRun m (vall 8 0)) g n) } }

/-- The tick of the last accepted calibration of a modulator at a gain code, if the engine still builds on it (05 R184). -/
def setCalTick (m g : Nat) (t : Option Nat) (s : State) : State :=
  { s with cal := { s.cal with calTick := vsetD s.cal.calTick m (vsetD (vgetD s.cal.calTick m (vall 8 none)) g t) } }

/-- A rejected calibration (05 R176, R177). A rejection that ends a cycle makes the next cycle recalibrate the modulator: the
engine builds on no older calibration of it at that gain code (R189, R184). -/
def rejectCalibration (m g cause : Nat) (q : Word) (s : State) : State :=
  let b := m / 9
  let n := vgetD (vgetD s.cal.rejRun m (vall 8 0)) g 0 + 1
  let limit := (calBasin s b).policy.field 19 16
  let s1 := countFraction 14 1 16 (info 0x0502 m [wd m, wd g, wd cause, q]
    (setRejRun m g n (modCal b (fun c => { c with rejCount := satInc c.rejCount }) s)))
  let s1 := if (runningForeground s b).isSome then s1 else setCalTick m g none s1
  if limit ≠ 0 ∧ limit ≤ n then failModulator b (m % 9) 2 (now s) s1 else s1

/-- CALIBRATION_DECISION: estimates of both runs, the verdict, and what follows from it (05 R174 to R182, R193). -/
def execCalibrationDecision (m : Fin 288) (a b : RunObs) (s : State) : Out :=
  .next (match calibrationOf s m.val with
  | none => s
  | some (g, np, nc, ta, tb, f, fg) =>
    let bas := m.val / 9
    let cb := calBasin s bas
    let gain : Rat := (2 ^ g : Nat)
    let hist := vgetD cb.history g []
    let w := trimWord s m.val g
    let old := vgetD s.cal.digital m.val Digital.neutral
    let ea := estimate np nc (chipsFrom s bas ta nc) a
    let eb := estimate np nc (chipsFrom s bas tb nc) b
    match verdict cb gain w s.cal.suspect hist (a.clamped + b.clamped) ea eb with
    | .reject cause q => rejectCalibration m.val g cause q s
    | .beyond => failModulator bas (m.val % 9) 2 (now s) s
    | .accept ot gt p =>
      let d := digitalFor old gain ot gt s.cal.suspect
      let w' := makeTrim (dacClip (-2048) 2047 ot) (dacClip (-512) 511 gt) true
      let load : TrimLoad := { m := m, gain := fin 8 g, at_ := f, word := w', digital := d,
                               p := if s.cal.suspect then none else some p, foreground := fg }
      let s1 := countFraction 13 1 1024 (setRejRun m.val g 0 { s with cal := { s.cal with loads := s.cal.loads ++ [load] } })
      let s2 := modCal bas (fun c => { c with
        foreground := c.foreground.map (fun x => if fg then { x with accepted := setBit x.accepted (m.val % 9) } else x) }) s1
      let s3 := if ot < -2048 ∨ 2047 < ot ∨ gt < -512 ∨ 511 < gt then
          crit 0x0505 m.val [wd m.val, wd g, wd d.dofs.toNat, wd d.dgain.toNat] s2 else s2
      if cb.policy.bit 30 then info 0x0501 m.val ([wd m.val, wd g, w'] ++ split64 f) s3 else s3)

/-- Load accepted trims at their boundary (05 R171, R181, R193). -/
def applyLoad (f : Nat) (l : TrimLoad) (s : State) : State :=
  let b := l.m.val / 9
  let i := l.m.val % 9
  let failed := match runningForeground s b with
    | some g => l.foreground && (vgetD g.failed i none).isSome
    | none => false
  if failed then s
  else
    let serves := match runningForeground s b with
      | some g => match vgetD g.taken i none with
        | some .serving | some .failedServing => true
        | _ => false
      | none => (servedChannel s l.m.val).isSome
    let before : TrimUndo :=
      { word := trimWord s l.m.val l.gain.val, digital := vgetD s.cal.digital l.m.val Digital.neutral,
        tick := vgetD (vgetD s.cal.calTick l.m.val (vall 8 none)) l.gain.val none, p := l.p }
    let s1 := newTrim l.m.val l.gain.val f l.word (some l.digital) (serves && l.foreground) s
    let s2 := setCalTick l.m.val l.gain.val (some f) s1
    modCal b (fun c => { c with
      foreground := c.foreground.map (fun g => if l.foreground then { g with undo := vsetD g.undo i (some before) } else g)
      calCount := c.calCount + 1, lastTime := structTime s f, lastTick := f,
      history := match l.p with
        | some p => vset c.history l.gain ((vget c.history l.gain ++ [p]).reverse.take 8).reverse
        | none => c.history }) s2

/-- The loads due at boundary `f`, in ascending modulator order (05 R193). -/
def applyLoads (f : Nat) (s : State) : State :=
  let due := (List.finRange 288).flatMap (fun m => s.cal.loads.filter (fun l => l.m == m && decide (l.at_ ≤ f)))
  due.foldl (fun t l => applyLoad f l t)
    { s with cal := { s.cal with loads := s.cal.loads.filter (fun l => !decide (l.at_ ≤ f)) } }

/-! ## Stimuli (05 R173, R174) -/

/-- The stimulus of each frame of a background calibration: one of settling, then two runs of four frames of chopped pairs at
COMMON and four of dither at HALF, then one with both off (05 Table 5.2, R174). -/
def visitStimulus (d : Nat) : Stimulus :=
  if d = 0 ∨ 17 ≤ d then { Stimulus.off with node := true }
  else if (d - 1) % 8 < 4 then { Stimulus.off with node := true, chopper := true }
  else { Stimulus.off with node := true, half := true, dither := true }

/-- The stimulus of each frame of a foreground calibration, whose runs take one frame of pairs and two of chips (05 Table 5.3,
R174). -/
def foregroundStimulus (d : Nat) : Stimulus :=
  if d = 0 ∨ 7 ≤ d then { Stimulus.off with node := true }
  else if (d - 1) % 3 = 0 then { Stimulus.off with node := true, chopper := true }
  else { Stimulus.off with node := true, half := true, dither := true }

/-- The stimulus of each frame of test 3: settling, offset, half scale and clamp at each gain code, then one frame with both
off (17 R677). -/
def testStimulus (d : Nat) : Stimulus :=
  { node := true, half := decide (d < 8) && decide (2 ≤ d % 4), chopper := decide (d < 8) && d % 4 == 1, dither := false }

/-- What is operated at modulator `m` from boundary `f` on: only in CALIBRATING, by the calibration or test that has it (05
R173). -/
def stimulusOf (s : State) (f m : Nat) : Stimulus :=
  let b := m / 9
  let frames := fun (t : Nat) => (f - t) / frameLen
  if modState s b (m % 9) != .calibrating then Stimulus.off
  else match runningForeground s b with
    | some g => if (vgetD g.taken (m % 9) none).isSome then foregroundStimulus (frames g.start) else Stimulus.off
    | none => match (vgetD s.cal.visits b none).filter (fun v => v.index.val == m % 9) with
      | some v => visitStimulus (frames v.began)
      | none => match s.ts.modTests.find? (fun t => t.m.val == m) with
        | some t => if t.back.isSome then { Stimulus.off with node := true } else testStimulus (frames t.began)
        | none => Stimulus.off

/-- Every modulator's stimulus from boundary `f` on. -/
def setStimuli (f : Nat) (s : State) : State :=
  { s with cal := { s.cal with stimuli := Vector.ofFn (fun m : Fin 288 => stimulusOf s f m.val) } }

/-! ## Background cycles (05 R184 to R190) -/

/-- The lowest-index modulator in state SPARE. -/
def spareOf (s : State) (b : Nat) : Option Nat := (List.range 9).find? (fun i => modState s b i == .spare)

/-- Begin a background calibration of index `i` at gain code `g` at boundary `f` (05 Table 5.2). -/
def beginVisit (b i g f : Nat) (s : State) : State :=
  let v : Visit := { index := fin 9 i, gain := fin 8 g, began := f }
  setMod b i .calibrating { s with cal := { s.cal with
    visits := vsetD s.cal.visits b (some v), lastGain := vsetD s.cal.lastGain (9 * b + i) (fin 8 g) } }

/-- The spare holds an accepted calibration at a gain code, made since the channel's gain code last changed (05 R184). -/
def spareReady (s : State) (b i k : Nat) : Bool :=
  match vgetD (vgetD s.cal.calTick (9 * b + i) (vall 8 none)) (gainCode s b k) none with
  | some t => decide (vgetD (calBasin s b).gainTick k 0 ≤ t)
  | none => false

/-- A cycle may begin now: BG_EN, a cycle boundary, no cycle, test or foreground calibration in the way (05 R187, R190,
17 R676). -/
def cycleDue (s : State) (b : Nat) : Bool :=
  let c := calBasin s b
  c.policy.bit 31 && s.tb.started && (match c.base with
    | some t => decide (t < s.tb.frameTick + 1) && (s.tb.frameTick - t) % (frameLen * c.policy.field 15 0) == 0
    | none => false)
  && (vgetD s.cv.overlaps b none).isNone && (vgetD s.cal.visits b none).isNone && c.foreground.isNone
  && !s.ts.modTests.any (fun t => t.m.val / 9 == b)

/-- CALIBRATION_CYCLE_START (05 R184, R185): a visit, or a recalibration of the spare. -/
def execCalibrationCycleStart (b : Fin 32) (s : State) : Out :=
  .next (if cycleDue s b.val then
    setStimuli s.tb.frameTick <|
    let f := s.tb.frameTick
    let s0 := { s with ts := { s.ts with
      runs := s.ts.runs.map (fun r => if r.test = 3 ∧ r.started then { r with cycles := r.cycles ++ [b.val] } else r) } }
    match spareOf s0 b.val with
    | none => s0
    | some i =>
      let first := (calBasin s0 b.val).first
      let s1 := modCal b.val (fun c => { c with first := false }) s0
      match nextChannel s0 b.val with
      | some k =>
        if !first && spareReady s0 b.val i k then
          beginOverlap b.val k i f (modCal b.val (fun c => { c with lastVisited := some (fin 8 k) }) s1)
        else beginVisit b.val i (gainCode s0 b.val k) f s1
      | none => beginVisit b.val i (nextGain s0 b.val i) f s1
  else s)

/-- At boundary `f`: an overlap that ends swaps and the freed modulator is calibrated, or taken by a channel that waits for one
(03 R102); a calibration whose time is up
returns its modulator to SPARE (05 Table 5.2, R189). -/
def stepCycle (f : Nat) (b : Fin 32) (s : State) : State :=
  let s1 := match vgetD s.cv.overlaps b.val none with
    | some o => if o.swapAt ≤ f then
        let old := assigned s b.val o.chan.val
        offerFree b.val (beginVisit b.val old (nextGain s b.val old) f (swapOverlap b.val f o s))
      else s
    | none => s
  match vgetD s1.cal.visits b.val none with
  | some v => if v.began + 18 * frameLen ≤ f then
      let s2 := { s1 with cal := { s1.cal with visits := vsetD s1.cal.visits b.val none } }
      if modState s2 b.val v.index.val = .calibrating then offerFree b.val (setMod b.val v.index.val .spare s2) else s2
    else s1
  | none => s1

/-- What calibration does at boundary `f`: loads, cycles, ramps, and 16 chips of each dither generator (05 R171, R186,
R197, R774). -/
def calibrationFrame (f : Nat) (s : State) : State :=
  let s1 := (List.finRange 32).foldl (fun t b => stepCycle f b t) (applyLoads f s)
  let s2 := stepRamps f s1
  { s2 with cal := { s2.cal with basins := s2.cal.basins.map (fun c => { c with dither := ditherSteps 16 c.dither }) } }

/-- The timebase starts at tick `t`: dither generators are set, background calibration counts from the next boundary, and a
foreground calibration accepted before has S = T0 (05 R191, R200, R774; 18 R721). -/
def startCalibration (t : Nat) (s : State) : State :=
  { s with cal := { s.cal with basins := s.cal.basins.map (fun c =>
      { c with
        foreground := c.foreground.map (fun g => if g.running then g else { g with start := max g.start t })
        dither := 0x7F, base := if c.policy.bit 31 then some (frameLen * (t / frameLen + 1)) else none }) } }

/-- A channel word comes into force at boundary `f`: assignments and parks (03 R105 to R107), and the trims of changed
gain codes (05 R172, R184). -/
def applyChannelWord (b : Fin 32) (w : Word) (f : Nat) (s : State) : State :=
  let old := vgetD s.cv.chanWord b.val 0
  let changed := fun (k : Nat) => w.field (3 * k + 2) (3 * k) != old.field (3 * k + 2) (3 * k)
  let adj := maskOf 8 (fun k =>
    let i := assigned s b.val k
    let m := 9 * b.val + i
    changed k && decide (i < 9) &&
      (trimWord s m (old.field (3 * k + 2) (3 * k)) &&& 0x03FF0FFF) != (trimWord s m (w.field (3 * k + 2) (3 * k)) &&& 0x03FF0FFF))
  let s1 := modCal b.val (fun c => { c with
    gainTick := Vector.ofFn (fun k : Fin 8 => if changed k.val then f else vget c.gainTick k) }) s
  mark .caladj (basinMask b.val adj) f f (applyChannels b.val w f s1)

/-! ## Foreground calibration (05 R191 to R196, R775) -/

/-- FOREGROUND_START (05 R191, R775): at S the taken modulators leave their terminals and their channels are held. -/
def execForegroundStart (b : Fin 32) (s : State) : Out :=
  .next (match (calBasin s b.val).foreground with
  | none => s
  | some g =>
    if g.running ∨ !dueSoon g.start s then s
    else
      let s := returnShadows g.start s
      let takes := fun (i : Nat) => modState s b.val i != .retired
        && !s.cv.subs.any (fun x => x.chan.val / 8 == b.val && x.chosen.val == i)
      let gainOf := fun (i : Nat) => match channelOf s b.val i with
        | some k => gainCode s b.val k
        | none => nextGain s b.val i
      let g' : Foreground := { g with
        running := true,
        taken := Vector.ofFn (fun i : Fin 9 => if takes i.val then some (modState s b.val i.val) else none),
        gains := Vector.ofFn (fun i : Fin 9 => fin 8 (gainOf i.val)) }
      let s1 := (List.range 9).foldl (fun t i => if takes i then
          setMod b.val i .calibrating { t with cal := { t.cal with lastGain := vsetD t.cal.lastGain (9 * b.val + i) (fin 8 (gainOf i)) } }
          else t)
        { s with tb := { s.tb with tick := max s.tb.tick g.start } }
      let s2 := modCal b.val (fun c => { c with foreground := some g', fgCount := satInc c.fgCount }) s1
      let s3 := mark .stale (basinMask b.val 255) g.start (g.start + 8 * frameLen - 1) s2
      setStimuli g.start (countLedger 15 1 (info 0x0503 b.val (wd b.val :: split64 g.start) s3)))

/-- The results of a taken modulator that has failed are discarded: its trims, its digital trim, the time of its calibration and
its p are as before S, and a load that still waits is dropped (05 R775). The basin's counters and its last time stand
(DESIGN CHOICE, assumption 149). -/
def discardResults (b i : Nat) (g : Foreground) (s : State) : State :=
  let m := 9 * b + i
  let k := (vgetD g.gains i 0).val
  let s1 := { s with cal := { s.cal with
    loads := s.cal.loads.filter (fun l => l.m.val != m), ramps := s.cal.ramps.filter (fun r => !(r.m.val == m && r.gain.val == k)) } }
  match vgetD g.undo i none with
  | none => s1
  | some u =>
    let s2 := setCalTick m k u.tick { s1 with cal := { s1.cal with
      trims := vsetD s1.cal.trims m (vsetD (vgetD s1.cal.trims m (vall 8 0)) k u.word), digital := vsetD s1.cal.digital m u.digital } }
    match u.p with
    | some p => modCal b (fun c => { c with history := vsetD c.history k ((vgetD c.history k []).erase p) }) s2
    | none => s2

/-- The indices of `0` to `8` whose failure waits for E. -/
def failedTaken (g : Foreground) : List Nat := (List.range 9).filter (fun i => (vgetD g.failed i none).isSome)

/-- FOREGROUND_END (05 R194, R775): at E the modulators return to their channels and states, and failures declared
meanwhile are handled. -/
def execForegroundEnd (b : Fin 32) (s : State) : Out :=
  .next (match runningForeground s b.val with
  | none => s
  | some g =>
    let e := g.start + 8 * frameLen
    if !dueSoon e s then s
    else
    let s0 := { s with tb := { s.tb with tick := max s.tb.tick e } }
    let s1 := (List.range 9).foldl (fun t i => match vgetD g.taken i none with
      | some x => setMod b.val i x t
      | none => t) ((failedTaken g).foldl (fun t i => discardResults b.val i g t) s0)
    let accepted := (failedTaken g).foldl (fun m i => clearBit m i) g.accepted
    let s2 := modCal b.val (fun c => { c with foreground := none }) s1
    let s3 := mark .settle (basinMask b.val 255) e e s2
    let s4 := info 0x0504 b.val (wd b.val :: split64 e ++ [wd accepted.toNat]) s3
    setStimuli e (keepPast e s ((List.range 9).foldl (fun t i => match vgetD g.failed i none with
      | some r => failNow b.val i r e t
      | none => t) s4)))

/-! ## The reference check (05 R182, R183) -/

/-- The named survey entry's comparator is OUT, RC_EN and CMP_EN being 1. -/
def referenceSuspect (s : State) : Bool :=
  let w := s.cal.refcheck
  let sv := vgetD s.cv.surveys (w.field 5 4) Survey.reset
  let e := w.field 3 0
  w.bit 31 && (vgetD (vgetD sv.entries e surveyEntryReset) 2 0).bit 31 && (vgetD sv.results e SurveyResult.reset).cmpOut

/-- The reference check follows its comparator after a block mean (05 R182). -/
def followReference (mean : Int) (s : State) : State :=
  let x := referenceSuspect s
  let w := s.cal.refcheck
  let d := [wd (w.field 5 4), wd (w.field 3 0)]
  let s1 := { s with cal := { s.cal with suspect := x } }
  if x && !s.cal.suspect then crit 0x0506 (w.field 5 4) (d ++ [wd (toField 32 mean)]) s1
  else if !x && s.cal.suspect then info 0x0507 (w.field 5 4) d s1
  else s1

/-! ## Staged changes -/

/-- A policy and tolerance word take effect at `f` (05 Tables 5.5, 5.6, R185). -/
def applyCalPolicy (b : Fin 32) (policy tolerance : Word) (f : Nat) (s : State) : State :=
  modCal b.val (fun c =>
    let rise := policy.bit 31 && !c.policy.bit 31
    let restart := rise || policy.field 15 0 != c.policy.field 15 0
    { c with policy := policy, tolerance := tolerance, first := c.first || rise,
             base := if !policy.bit 31 then none else if restart then some f else c.base }) s

/-- A CAL_WRITE_TRIM entry takes effect at `f`; a calibration in progress of that modulator at that gain code is
abandoned (05, "Commands and parameter blocks"). -/
def applyTrim (m : Fin 288) (g : Fin 8) (w : Word) (f : Nat) (s : State) : State :=
  let b := m.val / 9
  let s1 := match vgetD s.cal.visits b none with
    | some v => if v.index.val = m.val % 9 ∧ v.gain = g then setMod b v.index.val .spare (dropVisit b v.index.val s) else s
    | none => s
  newTrim m.val g.val f (w ||| 0x80000000) none (servedChannel s m.val).isSome s1

/-- The reference-check word takes effect (05 Table 5.9, R183). -/
def applyRefcheck (w : Word) (s : State) : State :=
  let s1 := { s with cal := { s.cal with refcheck := w } }
  { s1 with cal := { s1.cal with suspect := referenceSuspect s1 } }

/-! ## Commands of class 0x05 -/

/-- CAL_SET_POLICY (05 Tables 5.5, 5.6, R199). -/
def rulesCalSetPolicy : Rules :=
  { op := .calSetPolicy, minLen := 3, maxLen := 3, issuers := pf0, configures := true, authority := fun _ => true,
    mirrored := fun _ => true,
    form := fun p _ => firstBad [(0, rsv (p.w 0) 0xFFFFC0E0 && within ((p.w 0).field 13 8) 1 32
        && decide ((p.w 0).field 4 0 + (p.w 0).field 13 8 ≤ 32)),
      (1, rsv (p.w 1) 0x3FF00000 && decide (20 ≤ (p.w 1).field 15 0)),
      (2, rsv (p.w 2) 0x000000FF && (p.w 2).field 31 24 != 0 && (p.w 2).field 23 16 != 0 && (p.w 2).field 15 8 != 0)],
    run := fun p s =>
      let f := defaultBoundary true p s
      .done ((List.range ((p.w 0).field 13 8)).foldl
        (fun t i => stage f (.calPolicy (fin 32 ((p.w 0).field 4 0 + i)) (p.w 1) (p.w 2)) t) s) [] f }

/-- CAL_SET_POLICY. -/
def execCalSetPolicy (p : Packet) (s : State) : Out := .next (takeCommand rulesCalSetPolicy p s)

/-- Accept a foreground calibration for S (05 R191): overlap aborted, background calibration and test abandoned. -/
def stageForeground (b start : Nat) (s : State) : State :=
  let s1 := abortOverlap b 3 s
  let s2 := match vgetD s1.cal.visits b none with
    | some v =>
      let t := dropVisit b v.index.val s1
      if modState t b v.index.val = ModState.calibrating then setMod b v.index.val .spare t else t
    | none => s1
  let s3 := (s2.ts.modTests.filter (fun t => t.m.val / 9 == b)).foldl
    (fun t x => abandonTest x.m.val (setMod b (x.m.val % 9) .spare t)) s2
  let g : Foreground := { start := start, running := false, taken := vall 9 none, gains := vall 9 0, failed := vall 9 none,
                          accepted := 0, undo := vall 9 none }
  modCal b (fun c => { c with foreground := some g }) s3

/-- CAL_FOREGROUND (05 R191, R195, R196). -/
def rulesCalForeground : Rules :=
  { op := .calForeground, minLen := 3, maxLen := 3, issuers := pf0, configures := true, authority := fun _ => true,
    mirrored := fun p => (p.w 0).bit 8, mirrorAt := fun _ c => c + 8 * frameLen,
    form := fun p _ => firstBad [(0, rsv (p.w 0) 0xFFFFFEE0), tickForm p 1],
    run := fun p s =>
      let b := (p.w 0).field 4 0
      let fresh := match p.source with
        | .mirror _ => false
        | _ => (p.w 0).bit 8
      match applyBoundary ((p.w 0).bit 8) p (p.w64 1) s with
      | .error r => .reject r.status r.detail
      | .ok f =>
        if s.cv.subs.any (fun x => x.chan.val / 8 == b) then .reject .precondition []
        else if (calBasin s b).foreground.isSome then .reject .busy []
        else if fresh && !(mirroring s && mirrorWorks s) then .reject .noPairPath []
        else .done (stageForeground b f s) [] f }

/-- CAL_FOREGROUND. -/
def execCalForeground (p : Packet) (s : State) : Out := .next (takeCommand rulesCalForeground p s)

/-- The reply data of CAL_READ_BASIN (05 Table 5.7). -/
def readBasinData (b : Nat) (s : State) : List Word :=
  let c := calBasin s b
  let running := (vgetD s.cv.overlaps b none).isSome || (vgetD s.cal.visits b none).isSome
  let next := match nextChannel s b with
    | some k => k
    | none => 0xF
  let index := match vgetD s.cal.visits b none with
    | some v => v.index.val
    | none => 0xF
  let dig := maskOf 9 (fun i => (vgetD s.cal.digital (9 * b + i) Digital.neutral).engaged)
  [wd (b01 running * 2147483648 + b01 c.foreground.isSome * 1073741824 + b01 s.cal.suspect * 536870912
      + b01 (noSpare s b) * 268435456 + next * 16777216 + index * 1048576 + dig),
   c.calCount, halves c.rejCount.toNat c.fgCount.toNat] ++ split64 c.lastTime ++ split64 c.lastTick

/-- CAL_READ_BASIN (05 Table 5.7). -/
def rulesCalReadBasin : Rules :=
  { op := .calReadBasin, minLen := 1, maxLen := 1, issuers := anyFn, configures := false,
    form := fun p _ => firstBad [(0, rsv (p.w 0) 0xFFFFFFE0)],
    run := fun p s => .done s (readBasinData ((p.w 0).field 4 0) s) (now s) }

/-- CAL_READ_BASIN. -/
def execCalReadBasin (p : Packet) (s : State) : Out := .next (takeCommand rulesCalReadBasin p s)

/-- CAL_READ_TRIMS (05 Table 5.8). -/
def rulesCalReadTrims : Rules :=
  { op := .calReadTrims, minLen := 1, maxLen := 1, issuers := anyFn, configures := false,
    form := fun p _ => firstBad [(0, rsv (p.w 0) 0xFFFFF0E0 && decide ((p.w 0).field 11 8 ≤ 8))],
    run := fun p s =>
      let m := 9 * (p.w 0).field 4 0 + (p.w 0).field 11 8
      let d := vgetD s.cal.digital m Digital.neutral
      .done s ((List.range 8).map (fun g => trimWord s m g) ++ [wd d.dofs.toNat, wd d.dgain.toNat]) (now s) }

/-- CAL_READ_TRIMS. -/
def execCalReadTrims (p : Packet) (s : State) : Out := .next (takeCommand rulesCalReadTrims p s)

/-- CAL_WRITE_TRIM (05, "Commands and parameter blocks", R199). -/
def rulesCalWriteTrim : Rules :=
  { op := .calWriteTrim, minLen := 4, maxLen := 4, issuers := pf0, configures := true, authority := fun _ => true,
    form := fun p _ => firstBad [(0, rsv (p.w 0) 0xFFF8F0E0 && decide ((p.w 0).field 11 8 ≤ 8)), tickForm p 1,
      (3, rsv (p.w 3) 0xFC00F000)],
    run := fun p s => match applyBoundary false p (p.w64 1) s with
      | .error r => .reject r.status r.detail
      | .ok f => .done (stage f (.trim (fin 288 (9 * (p.w 0).field 4 0 + (p.w 0).field 11 8))
          (fin 8 ((p.w 0).field 18 16)) (p.w 3)) s) [] f }

/-- CAL_WRITE_TRIM. -/
def execCalWriteTrim (p : Packet) (s : State) : Out := .next (takeCommand rulesCalWriteTrim p s)

/-- CAL_SET_REFCHECK (05 Table 5.9). -/
def rulesCalSetRefcheck : Rules :=
  { op := .calSetRefcheck, minLen := 1, maxLen := 1, issuers := pf0, configures := true, authority := fun _ => true,
    mirrored := fun _ => true, form := fun p _ => firstBad [(0, rsv (p.w 0) 0x7FFFFFC0)],
    run := fun p s =>
      let f := defaultBoundary true p s
      .done (stage f (.refcheck (p.w 0)) s) [] f }

/-- CAL_SET_REFCHECK. -/
def execCalSetRefcheck (p : Packet) (s : State) : Out := .next (takeCommand rulesCalSetRefcheck p s)

end Sys2Proof.Machine
end

