-- ==== Sys2Proof/Machine/Survey.lean ====
section
/-!
DEFINITION. Event timers (03 R108 to R111), survey converters (R113 to R122), the mains tracker (06 R239 to R241), and the
class 0x03 commands.
-/
namespace Sys2Proof.Machine
open Sys2Proof

/-! ## Survey converters -/

/-- LAST of a sequence word. -/
def svLast (w : Word) : Nat := w.field 25 22

/-- START_SRC of a sequence word. -/
def svSource (w : Word) : Nat := w.field 21 16

/-- The lowest-numbered converter whose sequence feeds the mains tracker (06 R239). -/
def mainsSv (s : State) : Option (Fin 4) := (List.finRange 4).find? (fun v => (getSv s v).seqWord.bit 30)

/-- Clear the accumulators, trackers and counters of a converter; the comparators keep their state (03 R119), and so does the
block mean in progress (DESIGN CHOICE, assumption 142). -/
def clearSurvey (x : Survey) : Survey :=
  let keep := fun (r : SurveyResult) =>
    { SurveyResult.reset with cmpOut := r.cmpOut, cmpHigh := r.cmpHigh, blockSum := r.blockSum, blockCount := r.blockCount }
  { x with results := x.results.map keep, firstTick := 0, lastTick := 0, sequences := 0, missed := 0 }

/-- A waiting sequence takes effect: results clear, comparators IN (03 R121), the block means in progress start anew. -/
def installSequence (w : Word) (es : Vector (Vector Word 5) 16) (x : Survey) : Survey :=
  { x with seqWord := w, entries := es, next := none, results := vall 16 SurveyResult.reset, firstTick := 0, lastTick := 0,
           sequences := 0, missed := 0 }

/-- The slot of entry `e` begins at `at_`, in SCLK periods from tick 0 (03 R113). -/
def beginEntry (v : Fin 4) (e : Fin 16) (at_ : Nat) (s : State) : State :=
  modSv v (fun x => { x with running := some e, slotAt := at_, skip := none }) s

/-- SETTLE × 16 and INT_CYC of an entry, in cycles. -/
def entryTimes (ws : Vector Word 5) : Nat × Nat := (16 * (vget ws 0).field 7 0, (vget ws 1).field 19 0)

/-- The length D of an entry's slot in cycles (03, "Survey converters"). -/
def slotLength (ws : Vector Word 5) : Nat :=
  let (settle, int) := entryTimes ws
  settle + int + ceilDiv int 8 + 64

/-- Shedding level 3 spares the converter that feeds the mains tracker and the one of the reference check (16
Table 16.8). -/
def svSpared (v : Fin 4) (s : State) : Bool :=
  mainsSv s == some v || (s.cal.refcheck.bit 31 && s.cal.refcheck.field 5 4 == v.val)

/-- A start event of the sequence in force (03 R113, R114): missed while it runs, otherwise its first slot begins START_DELAY
later; shedding lets every fourth through. -/
def startSequence (v : Fin 4) (s : State) : State :=
  let x := getSv s v
  if !x.seqWord.bit 31 then s
  else
    let shed := decide (3 ≤ s.hl.level) && !svSpared v s
    let s1 := modSv v (fun y => { y with shedCount := if shed then y.shedCount + 1 else 0 }) s
    if shed && x.shedCount % 4 != 3 then s1
    else if x.running.isSome then
      let n := satInc x.missed
      info 0x0307 v.val [wd v.val, wd n.toNat] (modSv v (fun y => { y with missed := n }) s1)
    else beginEntry v 0 (4 * now s + x.seqWord.field 15 0) s1

/-- The waiting sequence of converter `v` takes effect. The reference check that names the converter follows its comparator,
which is IN again (03 R121; 05 R182, R183). -/
def takeSequence (v : Fin 4) (w : Word) (es : Vector (Vector Word 5) 16) (s : State) : State :=
  let s1 := modSv v (installSequence w es) s
  if s1.cal.refcheck.field 5 4 = v.val then followReference 0 s1 else s1

/-- A start event of source `src` (Table 3.11) at converter `v`: a waiting sequence takes effect at the first start event of
either sequence that finds no sequence running (03 R114, R121; DEDUCED, assumption 50). A frame tick at the boundary that brings a
sequence to wait counts as one after it (DESIGN CHOICE, assumption 143). -/
def svStartEvent (src : Nat) (v : Fin 4) (s : State) : State :=
  let x := getSv s v
  match x.next with
  | some (w, es) =>
    if x.running.isNone && (src == svSource w || src == svSource x.seqWord) then
      let s1 := takeSequence v w es s
      if src = svSource w then startSequence v s1 else s1
    else if src = svSource x.seqWord then startSequence v s else s
  | none => if src = svSource x.seqWord then startSequence v s else s

/-- A start source fires for every converter. -/
def svStart (src : Nat) (s : State) : State := (List.finRange 4).foldl (fun t v => svStartEvent src v t) s

/-- SURVEY_START_EVENT (03 R114): the start source of a converter fires now. -/
def execSurveyStartEvent (sv : Fin 4) (s : State) : Out :=
  let x := getSv s sv
  .next (svStartEvent (svSource (match x.next with
    | some (w, _) => if x.running.isNone then w else x.seqWord
    | none => x.seqWord)) sv s)

/-! ## The mains tracker (06 R239 to R241) -/

/-- A mode-1 reading of `d` SCLK periods that ends at crossing time `x`, in SCLK periods (06 R240). The step of X̂ is
rounded to the 1/256 period that X̂ is held to (DEDUCED, assumption 38). -/
def mainsReading (d x : Nat) (s : State) : State :=
  let m := s.tb.mains
  let w := s.tb.mains0
  let put := fun (m : Mains) => { s with tb := { s.tb with mains := m } }
  if d * w.field 23 16 < 49152000 ∨ 49152000 < d * w.field 31 24 then put { m with rejected := satInc m.rejected }
  else if !m.started then
    put { m with accepted := satInc m.accepted, phat := 256 * d, xhat := 256 * x, started := true, run := 0 }
  else
    let n := rndDiv (256 * (x : Int) - m.xhat) (max m.phat 1)
    let e := 256 * (x : Int) - (m.xhat + n * m.phat)
    let good := decide (e.natAbs * 100 ≤ m.phat)
    let run := if good then m.run + 1 else 0
    put { m with accepted := satInc m.accepted, xhat := (m.xhat + n * m.phat + rndDiv e (2 ^ w.field 3 0)).toNat,
                 phat := (m.phat + rndDiv (256 * (d : Int) - m.phat) (2 ^ w.field 7 4)).toNat, run := run,
                 lastGood := if good then x / 4 else m.lastGood, tracking := m.tracking || decide (4 ≤ run) }

/-- MAINS_TRACKER_LOSS (06 R241; 04 R150): a tracking tracker has had no good reading for LOSS_FRAMES frames. -/
def execMainsTrackerLoss (s : State) : Out :=
  .next (if s.tb.mains.tracking && dueSoon (s.tb.mains.lastGood + frameLen * s.tb.mains1.field 15 0) s then
    let s1 := advanceTo (s.tb.mains.lastGood + frameLen * s.tb.mains1.field 15 0) s
    crit 0x0402 0 (split64 (now s1) ++ [wd s1.tb.mains.phat])
      { s1 with tb := { s1.tb with mains := { s1.tb.mains with tracking := false } }, fl := { s1.fl with lcLost := true } }
  else s)

/-! ## Readings (03 R115 to R122) -/

/-- Change the result of entry `e`. -/
def modResult (v : Fin 4) (e : Fin 16) (f : SurveyResult → SurveyResult) (s : State) : State :=
  modSv v (fun x => { x with results := vmod x.results e f }) s

/-- A block mean reaches the comparator of an entry, and the reference check that names it (03 Table 3.6; 05 R182). -/
def blockMean (v : Fin 4) (e : Fin 16) (mean : Int) (s : State) : State :=
  let w := vget (getSv s v).entries e
  let r := vget (getSv s v).results e
  let (out, high, ev) := bandStep (signedField 24 ((vget w 2).field 23 0)) (signedField 24 ((vget w 3).field 23 0))
    ((vget w 4).field 22 0 : Nat) r.cmpOut r.cmpHigh mean
  let s1 := modResult v e (fun r => { r with cmpOut := out, cmpHigh := high, blockSum := 0, blockCount := 0 }) s
  let s2 := if ev then crit 0x0306 (16 * v.val + e.val) [wd v.val, wd e.val, wd (b01 high), wd (toField 32 mean)] s1 else s1
  if s.cal.refcheck.field 5 4 = v.val ∧ s.cal.refcheck.field 3 0 = e.val then followReference mean s2 else s2

/-- A reading joins the accumulator, or is counted as clipped; the trackers take it in either case (03 R118). -/
def addReading (r : SurveyResult) (x : Int) (clipped : Bool) : SurveyResult :=
  let t := { r with min := min r.min x, max := max r.max x }
  if clipped then { t with ovr := satInc t.ovr }
  else if r.full then t
  else { t with sum := t.sum + x, count := t.count + 1, full := t.count + 1 == 0xFFFFFF }

/-- One reading of an entry (03 R115, R117, R118, R120). -/
def takeReading (v : Fin 4) (e : Fin 16) (mode1 : Bool) (endTick : Nat) (outside : Bool) (r : SurveyReading) (s : State) : State :=
  let (x, clip) := if mode1 then (r.value, false) else clip24 r.value
  let clipped := clip || (outside && !mode1)
  let old := vget (getSv s v).results e
  let new := addReading old x clipped
  let s1 := modResult v e (fun _ => new) s
  let s2 := if clipped || old.full then s1
    else modSv v (fun y => { y with firstTick := if y.firstTick = 0 then endTick else y.firstTick, lastTick := endTick }) s1
  let s3 := if new.full && !old.full then info 0x0308 (16 * v.val + e.val) [wd v.val, wd e.val] s2 else s2
  let w := vget (getSv s v).entries e
  if (vget w 2).bit 31 then
    let n := (vget w 1).field 31 24 + 1
    let s4 := modResult v e (fun r => { r with blockSum := r.blockSum + x, blockCount := r.blockCount + 1 }) s3
    let b := vget (getSv s4 v).results e
    if n ≤ b.blockCount then blockMean v e (Int.tdiv b.blockSum n) s4 else s4
  else s3

/-- SURVEY_SLOT_END (03 R113, R116 to R122): the slot's readings are taken, and the next entry's slot or the end of the
sequence follows. Integration ends INT_CYC after the settling of the slot. -/
def execSurveySlotEnd (sv : Fin 4) (readings : List SurveyReading) (outside : Bool) (s : State) : Out :=
  .next (match (getSv s sv).running with
  | none => s
  | some e =>
    let x := getSv s sv
    let w := vget x.entries e
    let mode1 := (vget w 0).field 11 10 == 1
    let (settle, int) := entryTimes w
    let endTick := (x.slotAt + 4 * (settle + int)) / 4
    let slotEnd := x.slotAt + 4 * slotLength w
    if !dueSoon (slotEnd / 4) s then s
    else
    let s0 := advanceTo (slotEnd / 4) s
    let s1 := if x.skip.getD (entryIsolated sv e s) then modResult sv e (fun r => { r with skip := satInc r.skip }) s0
      else (if mode1 then readings else readings.take 1).foldl (fun t r =>
        let t1 := takeReading sv e mode1 endTick outside r t
        if mode1 && x.seqWord.bit 30 && x.seqWord.field 29 26 == e.val && mainsSv t == some sv then
          mainsReading r.value.toNat r.crossing t1
        else t1) s0
    if svLast x.seqWord ≤ e.val then modSv sv (fun y => { y with running := none, skip := none, sequences := y.sequences + 1 }) s1
    else beginEntry sv (e + 1) slotEnd s1)

/-! ## Event timers (03 R108 to R111) -/

/-- Timer `t`. -/
def getTimer (s : State) (t : Fin 8) : Timer := vget s.cv.timers t

/-- Change timer `t`. -/
def modTimer (t : Fin 8) (f : Timer → Timer) (s : State) : State := { s with cv := { s.cv with timers := vmod s.cv.timers t f } }

/-- Ball GP(24 + n) follows timer n: its output, inverted if INV is 1, while OUT_EN is 1 and its bank has power; the GPIO function
otherwise (03 R111; 18 Table 18.4). -/
def driveBall (t : Fin 8) (s : State) : State :=
  let x := getTimer s t
  { s with cv := { s.cv with
      balls := vset s.cv.balls t (if x.word.bit 30 && vget s.pwr.rails 9 then some (x.level != x.word.bit 29) else none) } }

/-- A timer's configuration takes effect at boundary `f`: its next tick is the first of its grid at or after it
(03 R108, R109). Until a tick of a timer with a PWM output its output is low (DESIGN CHOICE, assumption 141). -/
def applyTimer (t : Fin 8) (w : Word) (start : Nat) (period duty : Word) (f : Nat) (s : State) : State :=
  let next := if w.bit 28 ∨ f ≤ start then start
    else start + ceilDiv (f - start) (max period.toNat 1) * period.toNat
  driveBall t (modTimer t (fun _ => { word := w, start := start, period := period, duty := duty, effect := f, next := next, ticks := 0,
                                      level := false }) s)

/-- A timer has a PWM output (03 R110); any other output stays low (DESIGN CHOICE, assumption 141). -/
def Timer.pwm (x : Timer) : Bool := decide (0 < x.duty.toNat) && decide (x.duty.toNat < x.period.toNat)

/-- TIMER_TICK (03 R108, R110, R111, R114; 09 R367): the tick raises the output, starts survey sequences and triggers sets. A
one-shot keeps its one tick as NEXT_TICK (DESIGN CHOICE, assumption 140). A tick whose frame has not begun waits (assumption
178), as do the fall of the output and the end of a slot. -/
def execTimerTick (t : Fin 8) (s : State) : Out :=
  let x := getTimer s t
  .next (if !x.word.bit 31 || !s.tb.started || (x.word.bit 28 && x.ticks != 0) || !dueSoon x.next s then s
  else
    let s1 := driveBall t <| modTimer t (fun y =>
      { y with ticks := y.ticks + 1, level := y.pwm, next := if y.word.bit 28 then y.next else y.next + y.period.toNat })
      (advanceTo x.next s)
    timerTrigger t.val x.next (svStart (1 + t.val) s1))

/-- PWM_EDGE (03 R110, R111): the output falls DUTY cycles after the tick. -/
def execPwmEdge (t : Fin 8) (s : State) : Out :=
  let x := getTimer s t
  let e := (if x.word.bit 28 then x.next else x.next - x.period.toNat) + x.duty.toNat
  .next (if !x.level || !dueSoon e s then s
  else
    let s1 := driveBall t (modTimer t (fun y => { y with level := false }) (advanceTo e s))
    timerTrigger (8 + t.val) e (svStart (9 + t.val) s1))

/-! ## Commands (03, "Commands and parameter blocks") -/

/-- The channel word of basin `b` that every accepted command up to boundary `f` leaves. -/
def stagedChannels (b f : Nat) (s : State) : Word :=
  (inOrder s.staged).foldl (fun w x => match x.change with
    | .channels c v => if c.val = b ∧ x.at_ ≤ f then v else w
    | _ => w) (vgetD s.cv.chanWord b 0)

/-- Channels of basin `b` that a segment or capture set of any function has enabled (03 R106). -/
def channelInUse (s : State) (c : Nat) : Bool :=
  s.st.segments.any (fun g => g.chans.any (fun x => x.val == c))
  || s.cap.sets.toList.any (fun t => t.state != .free && (vgetD t.config (7 + c / 32) 0).bit (c % 32))

/-- Parking local channel `k` frees a healthy modulator: the one that serves it, or the one chosen to (03 R106). -/
def parkFrees (s : State) (b k : Nat) : Bool :=
  s.cv.subs.any (fun x => x.chan.val == 8 * b + k)
    || (heldState s b (assigned s b k) == .serving && !declaredFailed s b (assigned s b k))

/-- Modulators of basin `b` free at boundary `f`, as accepted changes leave them: those free now, the one that an overlap frees
by its swap or its abort before `f`, and the parks, unparks and retirements accepted (03 R107). -/
def freeAt (b f : Nat) (s : State) : Int :=
  let nowW := vgetD s.cv.chanWord b 0
  let then_ := stagedChannels b f s
  let free : Nat := ((List.range 9).filter (fun i => isFree s b i)).length
  let swapped : Nat := match vgetD s.cv.overlaps b none with
    | some o => b01 (decide (o.swapAt < f))
    | none => 0
  let returned : Nat := (s.cv.returning.filter (fun x => x.1.val == b && decide (x.2.2 ≤ f))).length
  let parked : Nat := ((List.range 8).filter (fun k => then_.bit (24 + k) && !nowW.bit (24 + k) && parkFrees s b k)).length
  let unparked : Nat := ((List.range 8).filter (fun k => !then_.bit (24 + k) && nowW.bit (24 + k))).length
  let retired : Nat := ((List.range 9).filter (fun i => s.staged.any (fun x => match x.change with
    | .retire m => m.val == 9 * b + i && decide (x.at_ ≤ f)
    | _ => false))).length
  (free : Int) + swapped + returned + parked - unparked - retired

/-- CV_SET_CHANNELS (03 R105 to R107). -/
def rulesCvSetChannels : Rules :=
  { op := .cvSetChannels, minLen := 4, maxLen := 4, issuers := pf0, configures := true, authority := fun _ => true,
    mirrored := fun _ => true,
    form := fun p _ => firstBad [(0, rsv (p.w 0) 0xFFFFFFE0), tickForm p 1],
    run := fun p s => match applyBoundary true p (p.w64 1) s with
      | .error r => .reject r.status r.detail
      | .ok f =>
        let b := (p.w 0).field 4 0
        let old := stagedChannels b f s
        let w := p.w 3
        let parks := (List.range 8).filter (fun k => w.bit (24 + k) && !old.bit (24 + k))
        let unparks := (List.range 8).filter (fun k => !w.bit (24 + k) && old.bit (24 + k))
        let freed : Nat := (parks.filter (parkFrees s b)).length
        if parks.any (fun k => channelInUse s (8 * b + k)) then .reject .precondition []
        else if freeAt b f s + freed < (unparks.length : Int) then .reject .precondition []
        else .done (stage f (.channels (fin 32 b) w) s) [] f }

/-- CV_SET_CHANNELS. -/
def execCvSetChannels (p : Packet) (s : State) : Out := .next (takeCommand rulesCvSetChannels p s)

/-- Codes of modulator states (03 Table 3.4). -/
def ModState.code : ModState → Nat
  | .serving => 0 | .shadow => 1 | .spare => 2 | .calibrating => 3 | .retired => 4 | .failedServing => 5

/-- CV_READ_MAP (03 Table 3.10). -/
def rulesCvReadMap : Rules :=
  { op := .cvReadMap, minLen := 1, maxLen := 1, issuers := pf0, configures := false,
    form := fun p _ => firstBad [(0, rsv (p.w 0) 0xFFFFFFE0)],
    run := fun p s =>
      let b := (p.w 0).field 4 0
      .done s [wd ((List.range 8).foldl (fun a k => a + assigned s b k * 16 ^ k) 0),
        wd ((List.range 9).foldl (fun a i => a + (modState s b i).code * 8 ^ i) 0),
        halves (vgetD s.cv.swaps b 0).toNat 0] (now s) }

/-- CV_READ_MAP. -/
def execCvReadMap (p : Packet) (s : State) : Out := .next (takeCommand rulesCvReadMap p s)

/-- CV_RETIRE_MODULATOR: a failure of reason 4, before the timebase starts at T0 (03 R98; 18 R721). -/
def rulesCvRetireModulator : Rules :=
  { op := .cvRetireModulator, minLen := 1, maxLen := 1, issuers := pf0, configures := true, authority := fun _ => true,
    form := fun p _ => firstBad [(0, rsv (p.w 0) 0xFFFFF0E0 && decide ((p.w 0).field 11 8 ≤ 8))],
    run := fun p s =>
      let b := (p.w 0).field 4 0
      let i := (p.w 0).field 11 8
      if s.tb.started then .done (failModulator b i 4 (now s) s) [] (now s)
      else .done (stage 0 (.retire (fin 288 (9 * b + i))) s) [] 0 }

/-- CV_RETIRE_MODULATOR. -/
def execCvRetireModulator (p : Packet) (s : State) : Out := .next (takeCommand rulesCvRetireModulator p s)

/-- The local channel whose terminals index `i` is joined to: the one it serves, or in SHADOW the one of its overlap or
substitution (03 R95, R98, R99). -/
def joinedChannel (s : State) (b i : Nat) : Option Nat :=
  match modState s b i with
  | .serving => channelOf s b i
  | .shadow => match (vgetD s.cv.overlaps b none).filter (fun o => o.shadow.val == i) with
    | some o => some o.chan.val
    | none => (s.cv.subs.find? (fun x => x.chan.val / 8 == b && x.chosen.val == i)).map (fun x => x.chan.val % 8)
  | _ => none

/-- A port that holds a terminal of local channel `k` of basin `b` is isolated (03 R98). -/
def channelIsolated (s : State) (b k : Nat) : Bool :=
  (List.range 16).any (fun j => hasBit s.fe.isolated (4 * b + j / 4)
    && Nat.testBit (inputBits (switchWord s (16 * b + j))) k)

/-- CLAMP_FAILURE_DETECT (03 R98 reason 1): the clamp and the amplitude detector are observed; the state and the isolation that
the rule asks for are checked. -/
def execClampFailureDetect (m : Fin 288) (s : State) : Out :=
  let b := m.val / 9
  .next (match joinedChannel s b (m.val % 9) with
    | some k => if channelIsolated s b k then s else failModulator b (m.val % 9) 1 (now s) s
    | none => s)

/-- The entries of an SV_SET_SEQUENCE block. -/
def svEntries (p : Packet) : Vector (Vector Word 5) 16 := Vector.ofFn (fun e : Fin 16 => blockOf 5 (2 + 5 * e.val) p)

/-- An input code is listed in 03 Table 3.5. -/
def svCodeOk (c : Nat) : Bool := decide (c ≤ 0x86) || within c 0x88 0x97

/-- The word checks of entry `e` of a block (03 R125, Table 3.12). A check over two words is laid to the word that holds its
first field named: LOW > HIGH to word 2, HYST to word 4 (DESIGN CHOICE, assumption 144). -/
def entryForm (p : Packet) (e : Nat) : List (Nat × Bool) :=
  let i := 2 + 5 * e
  let w := fun (j : Nat) => p.w (i + j)
  let low := signedField 24 ((w 2).field 23 0)
  let high := signedField 24 ((w 3).field 23 0)
  let used := decide (e ≤ svLast (p.w 1))
  let cmp := (w 2).bit 31
  if used then
    [(i, rsv (w 0) 0x00008300 && (w 0).field 7 0 != 0 && decide ((w 0).field 11 10 ≤ 1) && svCodeOk ((w 0).field 31 24)
        && svCodeOk ((w 0).field 23 16)),
     (i + 1, rsv (w 1) 0x00F00000 && decide (64 ≤ (w 1).field 19 0)), (i + 2, rsv (w 2) 0x7F000000 && !(cmp && decide (high < low))),
     (i + 3, rsv (w 3) 0xFF000000),
     (i + 4, rsv (w 4) 0xFF800000 && !(cmp && decide (low ≤ high) && decide (high - low < 2 * ((w 4).field 22 0 : Int))))]
  else (List.range 5).map (fun j => (i + j, w j == 0))

/-- SV_SET_SEQUENCE (03 R121, R125). -/
def rulesSvSetSequence : Rules :=
  { op := .svSetSequence, minLen := 82, maxLen := 82, issuers := pf0, configures := true, authority := fun _ => true,
    mirrored := fun _ => true,
    form := fun p _ =>
      let w := p.w 1
      let m := w.field 29 26
      firstBad ([(0, rsv (p.w 0) 0xFFFFFFFC),
        (1, decide (svSource w ≤ 17) && !(w.bit 30 && (decide (svLast w < m) || (p.w (2 + 5 * m)).field 11 10 != 1)))]
        ++ (List.range 16).flatMap (entryForm p)),
    run := fun p s =>
      let f := defaultBoundary true p s
      .done (stage f (.surveySequence (fin 4 ((p.w 0).field 1 0)) (p.w 1) (svEntries p)) s) [] f }

/-- SV_SET_SEQUENCE. -/
def execSvSetSequence (p : Packet) (s : State) : Out := .next (takeCommand rulesSvSetSequence p s)

/-- A staged sequence waits, from its boundary on, for a start event (03 R121). -/
def applySequence (v : Fin 4) (w : Word) (es : Vector (Vector Word 5) 16) (s : State) : State :=
  modSv v (fun x => { x with next := some (w, es) }) s

/-- SV_START (03 R114, R126; 08 R334). While a new sequence waits, its START_SRC is the one judged (DESIGN CHOICE, assumption
145). -/
def rulesSvStart : Rules :=
  { op := .svStart, minLen := 1, maxLen := 1, issuers := pf0, configures := false, authority := fun _ => true,
    mirrored := fun _ => true,
    form := fun p _ => firstBad [(0, rsv (p.w 0) 0xFFFFFFFC)],
    run := fun p s =>
      let v := fin 4 ((p.w 0).field 1 0)
      let x := getSv s v
      let src := svSource (match x.next with
        | some (w, _) => w
        | none => x.seqWord)
      if src ≠ 17 ∨ x.running.isSome then .reject .precondition []
      else if waitsForMirror p s then let f := defaultBoundary true p s; .done (stage f (.surveyStart v) s) [] f
      else .done (svStartEvent 17 v s) [] (now s) }

/-- SV_START. -/
def execSvStart (p : Packet) (s : State) : Out := .next (takeCommand rulesSvStart p s)

/-- Words A0 to A5 of an entry (03 Table 3.13). -/
def resultWords (r : SurveyResult) : List Word :=
  split64 (toField 64 r.sum) ++ [wd (b01 r.full * 2147483648 + b01 r.cmpOut * 1073741824 + b01 r.cmpHigh * 536870912 + r.count),
    wd (toField 24 r.min), wd (toField 24 r.max), halves r.ovr.toNat r.skip.toNat]

/-- SV_READ_ACCUM (03 R119, Table 3.13). -/
def rulesSvReadAccum : Rules :=
  { op := .svReadAccum, minLen := 1, maxLen := 1, issuers := pf0, configures := false,
    form := fun p _ => firstBad [(0, rsv (p.w 0) 0x7FFFFFFC)],
    run := fun p s =>
      let v := fin 4 ((p.w 0).field 1 0)
      let x := getSv s v
      .done (if (p.w 0).bit 31 then modSv v clearSurvey s else s)
        (split64 x.firstTick ++ split64 x.lastTick ++ [halves x.sequences.toNat x.missed.toNat]
          ++ x.results.toList.flatMap resultWords) (now s) }

/-- SV_READ_ACCUM. -/
def execSvReadAccum (p : Packet) (s : State) : Out := .next (takeCommand rulesSvReadAccum p s)

/-- TMR_SET (03 R109, R125). -/
def rulesTmrSet : Rules :=
  { op := .tmrSet, minLen := 5, maxLen := 5, issuers := pf0, configures := true, authority := fun _ => true,
    mirrored := fun _ => true,
    form := fun p _ =>
      let periodic := !(p.w 0).bit 28
      firstBad [(0, rsv (p.w 0) 0x0FFFFFF8), (3, !periodic || decide (2 ≤ (p.w 3).toNat)),
        (4, !periodic || decide ((p.w 4).toNat ≤ (p.w 3).toNat))],
    run := fun p s =>
      let f := defaultBoundary true p s
      if (p.w 0).bit 28 ∧ p.w64 1 < f then .reject .tickExpired []
      else .done (stage f (.timer (fin 8 ((p.w 0).field 2 0)) (p.w 0) (p.w64 1) (p.w 3) (p.w 4)) s) [] f }

/-- TMR_SET. -/
def execTmrSet (p : Packet) (s : State) : Out := .next (takeCommand rulesTmrSet p s)

/-- TMR_READ (03, "Commands and parameter blocks"). NEXT_TICK of a timer that ticks no more, or never did, is the value held
(DESIGN CHOICE, assumption 140). -/
def rulesTmrRead : Rules :=
  { op := .tmrRead, minLen := 1, maxLen := 1, issuers := pf0, configures := false,
    form := fun p _ => firstBad [(0, rsv (p.w 0) 0xFFFFFFF8)],
    run := fun p s =>
      let t := fin 8 ((p.w 0).field 2 0)
      let x := getTimer s t
      .done s ([x.word] ++ split64 x.start ++ [x.period, x.duty] ++ split64 x.next ++ [x.ticks]) (now s) }

/-- TMR_READ. -/
def execTmrRead (p : Packet) (s : State) : Out := .next (takeCommand rulesTmrRead p s)

end Sys2Proof.Machine
end

