-- ==== Sys2Proof/Machine/Timebase.lean ====
section
/-!
DEFINITION. The timebase and structure time (06): time steps, qualification and selection of phase references at frame
boundaries, LOCKED and HOLDOVER with its marking and bound, the drift model, leap seconds, and the commands of class 0x06
but for the beacon's.
-/
namespace Sys2Proof.Machine
open Sys2Proof

/-! ## Codes -/

/-- Code of a role (06 Table 6.1). -/
def Role.code : Role → Nat
  | .root => 0 | .ringFollower => 1 | .pairFollower => 2

/-- Code of a phase reference (06 Table 6.18). -/
def Ref.code : Ref → Nat
  | .none => 0 | .refclk => 1 | .beacon => 2 | .ring => 3 | .peer => 4

/-- Code of a time source (06 Table 6.18). -/
def TimeSrc.code : TimeSrc → Nat
  | .none => 0 | .host => 1 | .beacon => 2 | .ring => 3 | .peer => 4

/-- Code of a timebase state (06 Table 6.3). -/
def TbState.code : TbState → Nat
  | .stopped => 0 | .freerun => 1 | .acquiring => 2 | .locked => 3 | .holdover => 4 | .mismatch => 5

/-- A signed number in 32 bits, saturating (06 Tables 6.18, 6.21). -/
def satInt (z : Int) : Word := wd (toField 32 (max (-2147483648) (min 2147483647 z)))

/-- A count in 32 bits, saturating. -/
def satWord (n : Nat) : Word := wd (min n 4294967295)

/-- BCN_PHASE. -/
def bcnPhase (s : State) : Bool := s.tb.sources0.bit 31

/-- TIME_EN. -/
def timeEn (s : State) : Bool := s.tb.bcnWord.bit 30

/-- The beacon is ACQUIRED. -/
def beaconAcquired (s : State) : Bool := s.tb.beacon.state == .acquired

/-- LOCK_THR in ps. -/
def lockThr (s : State) : Nat := 125 * s.tb.sources0.field 7 0

/-- Picoseconds as 1/64 modulator cycles, a cycle being 81,380.21 ps (07 R260), toward zero. -/
def offset64 (ps : Rat) : Int :=
  let x := ps * 6400 / 8138021
  if x < 0 then -((-x).floor) else x.floor

/-- The time source of the present role (06 Table 6.1). -/
def timeSource (s : State) : TimeSrc :=
  match s.tb.role with
  | .root => if timeEn s && beaconAcquired s then .beacon else .host
  | .ringFollower => match s.tb.ref with
    | .ring => .ring
    | .peer => .peer
    | _ => .none
  | .pairFollower => .peer

/-! ## Time steps (06 R205 to R211, R245) -/

/-- A time step takes effect at boundary `f` (06 R206, R208, R210). -/
def applyTimeStep (t : TimeStep) (f : Nat) (s : State) : State :=
  let at_ := t.anchor.getD f
  let old := structTime s at_
  let gen := t.gen.getD (s.tb.timeGen + 1)
  let s1 := { s with tb := { s.tb with anchorTick := at_, anchorTime := t.time, timeGen := gen, timeValid := t.valid } }
  let s2 := match t.leap with
    | some (ins, del, utc) => { s1 with tb := { s1.tb with leapIns := ins, leapDel := del, utcOffset := utc } }
    | none => s1
  info 0x0606 0 (split64 at_ ++ split64 old ++ split64 t.time ++ [wd gen.toNat, wd t.src.code]) s2

/-- Of the time steps that fall on boundary `f`, the one that applies: one ordered by TB_SET_TIME before any other, and
among equals the last accepted (06 R245, 02 R51). -/
def chooseStep (ts : List TimeStep) : Option TimeStep :=
  match (ts.filter (fun t => t.leap.isSome)).getLast? with
  | some t => some t
  | none => ts.getLast?

/-- The second of structure time at the present instant, which is a whole second where one is asked for. -/
def wholeSecond (s : State) : Nat := (structTime s (now s) + 2147483648) / 4294967296

/-- The calendar follows structure time: CAL_AUTO and TIME_VALID (16 R627). -/
def calendarFollows (s : State) : Bool := s.ao.calendar.auto && s.tb.timeValid && s.tb.started

/-- A leap second of the calendar: it steps back, and repeats the second, or forward (16 R628, R629). -/
def calendarLeap (back : Bool) (s : State) : State :=
  if calendarFollows s then
    let c := s.ao.calendar
    { s with
      hl := { s.hl with leapSecond := wholeSecond s }
      ao := { s.ao with calendar := { c with sec := if back then c.sec - 1 else c.sec + 1, repeated := back } } }
  else s

/-- Day of the month, 1 to 31, of a day counted from 2000-01-01, in the Gregorian calendar: years are counted from March, so
that a leap day ends its year (06 R211). -/
def dayOfMonth (days : Nat) : Nat :=
  let era := (days + 146097 - 60) % 146097
  let year := (era - era / 1460 + era / 36524 - era / 146096) / 365
  let day := era - (365 * year + year / 4 - year / 100)
  day - (153 * ((5 * day + 2) / 153) + 2) / 5 + 1

/-- UTC has come to the end of the last day of a month: the first second of the next one (06 R211). -/
def monthEnds (s : State) : Bool :=
  let utc := ((wholeSecond s : Int) - s.tb.utcOffset.toInt).toNat
  decide (utc % 86400 = 0) && decide (dayOfMonth (utc / 86400) = 1)

/-- LEAP_SECOND: UTC reaches the end of the month with a leap second pending (06 R211, 16 R628). -/
def execLeapSecond (s : State) : Out :=
  .next (if !monthEnds s then s
    else if s.tb.leapIns then
      calendarLeap true { s with tb := { s.tb with leapIns := false, utcOffset := s.tb.utcOffset + 1 } }
    else if s.tb.leapDel then
      calendarLeap false { s with tb := { s.tb with leapDel := false, utcOffset := s.tb.utcOffset - 1 } }
    else s)

/-! ## Staged configuration at its boundary -/

/-- TB_SET_SOURCES (06 Table 6.13). -/
def applySources (w0 w1 : Word) (s : State) : State := { s with tb := { s.tb with sources0 := w0, sources1 := w1 } }

/-- TB_SET_HOLDOVER; MODEL_CLEAR empties the model (06 R225). -/
def applyHoldover (w0 w1 w2 : Word) (s : State) : State :=
  { s with tb := { s.tb with
      holdover0 := w0 &&& 0xBFFFFFFF, holdover1 := w1, holdover2 := w2,
      model := if w0.bit 30 then { DriftModel.empty with tf := s.tb.model.tf } else s.tb.model } }

/-- P̂ for F_NOM (06 R241). -/
def nominalPhat (w0 : Word) : Nat := (rndDiv (256 * 49152000) (max (w0.field 15 8) 1)).toNat

/-- TB_SET_MAINS (06 R241, R242). -/
def applyMains (w0 w1 : Word) (s : State) : State :=
  let m := s.tb.mains
  let outside : Bool := decide (m.phat * w0.field 23 16 < 256 * 49152000) || decide (256 * 49152000 < m.phat * w0.field 31 24)
  let m1 := if !m.started then { m with phat := nominalPhat w0 } else m
  { s with tb := { s.tb with
      mains0 := w0, mains1 := w1,
      mains := if outside then { m1 with run := 0, tracking := false } else m1 } }

/-- BCN_SET: enabling starts SEARCH, disabling leaves OFF (06, "Acquisition and loss"). -/
def applyBeaconWord (w : Word) (s : State) : State :=
  let b := s.tb.beacon
  let b1 := if !w.bit 31 then { b with state := .off, badRun := 0, run := [], slotGood := false }
    else if b.state = .off then { b with state := .search, run := [] } else b
  { s with tb := { s.tb with bcnWord := w, beacon := b1 } }

/-! ## Qualification of REFCLK (06 R213, Table 6.2) -/

/-- REFCLK is disqualified (06 Table 6.21). -/
def loseRefclk (s : State) : State :=
  let s1 := { s with tb := { s.tb with refclkInRun := 0, refclkOutRun := 0 } }
  if s.tb.refclkOk then crit 0x0608 0 (split64 (now s)) { s1 with tb := { s1.tb with refclkOk := false } } else s1

/-- REFCLK over the frame that ends; none is read without VDDIO3 (06 Table 6.2; 18 Table 18.4). -/
def qualifyRefclk (o : TimebaseObs) (s : State) : State :=
  let s1 := { s with tb := { s.tb with refclk25 := o.refclk25 } }
  match o.refclk.filter (fun x => decide (x.natAbs ≤ 100000000) && vget s.pwr.rails 10) with
  | some x =>
    let run := s1.tb.refclkInRun + 1
    { s1 with tb := { s1.tb with
        refclkInRun := run, refclkOutRun := 0, refclkOfs := x, refclkOk := s1.tb.refclkOk || decide (16 ≤ run) } }
  | none =>
    let run := s1.tb.refclkOutRun + 1
    let s2 := { s1 with tb := { s1.tb with refclkInRun := 0, refclkOutRun := run } }
    if 2 ≤ run then loseRefclk s2 else s2

/-- REFCLK_LOSS: no edge for 1 µs (06 Table 6.2). -/
def execRefclkLoss (s : State) : Out := .next (loseRefclk s)

/-! ## The drift model (06 R223, R224) -/

/-- MODEL_VALID (06 R223). -/
def modelValid (s : State) : Bool := decide (3600 ≤ s.tb.model.learned)

/-- Age in days since learning began. -/
def modelAge (m : DriftModel) (t : Nat) : Rat :=
  match m.began with
  | some b => ((t - b : Nat) : Rat) / (86400 * 12288000)
  | none => 0

/-- u of the model: the filtered temperature from 25 °C in 100 °C. -/
def modelU (m : DriftModel) : Rat := (m.tf - 1600) / 6400

/-- The prediction c0 + c1·u + c2·u² + c3·a. -/
def predictY (m : DriftModel) (u a : Rat) : Rat := vget m.c 0 + vget m.c 1 * u + vget m.c 2 * u * u + vget m.c 3 * a

/-- The forgetting factor (06 R223). -/
def forgetting : Rat := 86399 / 86400

/-- x of the model: 1, u, u², a (06 R223). -/
def regressor (u a : Rat) : Vector Rat 4 := vset (vset (vset (vset (vall 4 0) 0 1) 1 u) 2 (u * u)) 3 a

/-- The sum of four products. -/
def dot4 (f g : Fin 4 → Rat) : Rat := f 0 * g 0 + f 1 * g 1 + f 2 * g 2 + f 3 * g 3

/-- One recursive least-squares update of the model with `x` and `ybar` (06 R223): the gain P·x / (λ + xᵀ·P·x) moves c, and P
loses what the gain explains and is divided by λ. -/
def leastSquares (m : DriftModel) (x : Vector Rat 4) (ybar : Rat) : DriftModel :=
  let p := m.cov.getD Config.driftCovariance
  let px := fun (i : Fin 4) => dot4 (fun j => vgetD p (4 * i.val + j.val) 0) (fun j => vget x j)
  let d := forgetting + dot4 (fun j => vget x j) px
  let e := ybar - dot4 (fun j => vget m.c j) (fun j => vget x j)
  { m with
    c := Vector.ofFn (fun i : Fin 4 => vget m.c i + px i / d * e)
    cov := some (Vector.ofFn (fun k : Fin 16 =>
      (vget p k - px ⟨k.val / 4, by omega⟩ / d * px ⟨k.val % 4, by omega⟩) / forgetting)) }

/-- DRIFT_MODEL_LEARN: one second of learning while LEARN_EN is 1 and the hub has been LOCKED to one reference for 60 s
(06 R223). `ybar` is the mean correction in 10^-12, `tdie` the reading beside the PLL in 1/64 °C. -/
def execDriftModelLearn (ybar tdie : Int) (s : State) : Out :=
  .next (if s.tb.holdover0.bit 31 && s.tb.state == .locked && decide (s.tb.lockedSince + 60 * ticksPerSecond ≤ now s) then
    let m := s.tb.model
    let m1 := { m with
      tf := m.tf + ((tdie : Rat) - m.tf) / (s.tb.holdover0.field 15 0 : Nat)
      began := some (m.began.getD (now s)) }
    let u := modelU m1
    let a := modelAge m1 (now s)
    let m2 := leastSquares m1 (regressor u a) (ybar : Rat)
    let r := (ybar : Rat) - predictY m2 u a
    let rs := (r :: m.residuals).take 86400
    let sq := rs.foldl (fun (x : Rat) y => x + y * y) 0
    { s with tb := { s.tb with
        model := { m2 with residuals := rs, rms24 := isqrt (sq / (rs.length : Nat)).floor.toNat, learned := m.learned + 1 } } }
  else s)

/-- The mean of y over the last 60 s of lock (06 R224). -/
def lockedMean (s : State) : Int :=
  match s.tb.lockedFreqs with
  | [] => s.tb.freq
  | xs => Int.fdiv (xs.foldl (· + ·) 0) (xs.length : Nat)

/-- R216 limits a frequency correction: within 10 ppm of `centre`, the selected reference or the prediction, and before that
0.05 ppm of change per frame (DESIGN CHOICE, assumption 156: the rate stands where both cannot). -/
def limitFreq (centre old y : Int) : Int :=
  max (old - 50000) (min (old + 50000) (max (centre - 10000000) (min (centre + 10000000) y)))

/-- The oscillator's setting for a correction y to the flywheel of the lock: on a change of flywheel it carries REFCLK's last
measured offset, so that SCLK keeps its frequency (06 R224). -/
def oscillatorFor (y : Int) (s : State) : Int :=
  if s.tb.flyRef = s.tb.refclkOk then y
  else if s.tb.flyRef then y + s.tb.refclkOfs
  else y - s.tb.refclkOfs

/-- HOLDOVER at boundary `f`: the oscillator goes to the prediction, or to the mean of y over the last 60 s of lock, at the
rate of R216, and the bound is worked out (06 R216, R224). -/
def holdoverFrameStep (f : Nat) (s : State) : State :=
  let d := f - s.tb.hoTick
  let sigma := if modelValid s then 3 * s.tb.model.rms24 else if s.tb.refclkOk then 1000000 else 2000000
  let drift : Rat := ((sigma * d : Nat) : Rat) / (12288000 * 1000)
  let aging : Rat := ((s.tb.holdover2.field 15 0 * d * d : Nat) : Rat) / (2 * 1000 * 86400 * 12288000 * 12288000)
  let bound := min (s.tb.ph0 + (drift + aging).floor.toNat) 4294967295
  let goal := if modelValid s then (predictY s.tb.model (modelU s.tb.model) (modelAge s.tb.model f)).floor else lockedMean s
  let y := limitFreq goal s.tb.freq goal
  let s1 := { s with tb := { s.tb with freq := y, osc := oscillatorFor y s, hoBound := bound } }
  if !s.tb.degraded && decide (s.tb.holdover1.toNat < bound) then
    crit 0x0604 0 [wd bound, satWord (d / ticksPerSecond)] { s1 with tb := { s1.tb with degraded := true } }
  else s1

/-! ## Selection and state changes at a frame boundary (06 R214 to R218) -/

/-- The time transfer of the selected reference: the ring side in use, or the pair lanes. -/
def refTransfer (s : State) : Option SideState :=
  match s.tb.ref with
  | .ring => match s.ring.refSide with
    | some .east => some s.ring.east
    | some .west => some s.ring.west
    | none => none
  | .peer => some s.pair.side
  | _ => none

/-- A reference qualifies (06 Table 6.2). -/
def refQualifies (s : State) (r : Ref) : Bool :=
  match r with
  | .none => false
  | .refclk => s.tb.refclkOk
  | .beacon => beaconAcquired s && s.tb.refclkOk
  | .ring => s.tb.ringOk
  | .peer => s.tb.peerOk

/-- The references of the present role, in order (06 Table 6.1). -/
def refOrder (s : State) : List Ref :=
  match s.tb.role with
  | .root => if bcnPhase s then [.beacon] else [.refclk]
  | .ringFollower => if s.pair.en then [.ring, .peer] else [.ring]
  | .pairFollower => [.peer]

/-- The first qualified reference in the role's order (06 R214). -/
def selectedRef (s : State) : Ref := ((refOrder s).find? (refQualifies s)).getD .none

/-- The phase error and frequency correction of the selected reference: measured by the loop for REFCLK and BEACON, the
time transfer's for RING and PEER (06 Table 6.18, 07 R260). -/
def phaseOf (o : TimebaseObs) (s : State) : Int × Int :=
  match refTransfer s with
  | some t => (t.thetaAvg.floor, s.tb.freq)
  | none => (o.phaseErr, o.freq)

/-- The offset of a newly selected reference in ps (06 R215). -/
def newOffset (o : TimebaseObs) (s : State) : Rat :=
  match refTransfer s with
  | some t => t.thetaAvg
  | none => o.newOffset

/-- The magnitude of a rational. -/
def ratAbs (x : Rat) : Rat := if x < 0 then -x else x

/-- An offset of more than 65,536 cycles (06 R215). -/
def beyondSlew (offset : Rat) : Bool := decide (65536 * 8138021 < ratAbs offset * 100)

/-- The state ACQUIRING is entered with an offset in ps (06 Table 6.21). -/
def enterAcquiring (offset : Rat) (s : State) : State :=
  info 0x0602 0 [wd s.tb.ref.code, satInt (offset64 offset)]
    { s with tb := { s.tb with
        state := .acquiring, lockRun := 0, exceedRun := 0, beacon := { s.tb.beacon with within2us := 0, beyond8us := 0 } } }

/-- The state LOCKED is entered at boundary `f` (06 Table 6.21). -/
def enterLocked (f : Nat) (s : State) : State :=
  info 0x0601 0 (wd s.tb.ref.code :: split64 f)
    { s with tb := { s.tb with
        state := .locked, exceedRun := 0, lockedSince := f, beacon := { s.tb.beacon with beyond8us := 0 } } }

/-- The state MISMATCH is entered, or kept (06 R218). -/
def enterMismatch (offset : Rat) (s : State) : State :=
  if s.tb.state = .mismatch then s
  else crit 0x0607 0 [wd s.tb.ref.code, satInt (Int.tdiv (offset64 offset) 64)] { s with tb := { s.tb with state := .mismatch } }

/-- HOLDOVER is entered at boundary `f` (06 R214, R224). -/
def enterHoldover (f : Nat) (s : State) : State :=
  let last := s.tb.ref
  crit 0x0603 0 (wd last.code :: split64 f ++ [satInt s.tb.phaseErr])
    { s with tb := { s.tb with
        state := .holdover, hoTick := f, ph0 := ceilDiv s.tb.phaseErr.natAbs 1000, degraded := false } }

/-- The offset of a reference newly selected at boundary `f` leads on: within LOCK_THR of a LOCKED hub it stays LOCKED, now to
this one reference (06 R223), beyond 65,536 cycles of a reference that carries a tick count it is a MISMATCH, otherwise
ACQUIRING (06 R215). -/
def followOffset (offset : Rat) (f : Nat) (s : State) : State :=
  let counted := s.tb.ref = .ring ∨ s.tb.ref = .peer
  if s.tb.state = .locked ∧ ratAbs offset ≤ (lockThr s : Nat) then { s with tb := { s.tb with lockedSince := f } }
  else if counted ∧ beyondSlew offset then enterMismatch offset s
  else enterAcquiring offset s

/-- The selected reference changes at boundary `f` (06 R215). -/
def changeRef (o : TimebaseObs) (r : Ref) (f : Nat) (s : State) : State :=
  let old := s.tb.ref
  let s1 := { s with tb := { s.tb with ref := r } }
  let off := newOffset o s1
  followOffset off f (info 0x0605 0 [wd old.code, wd r.code, satInt (offset64 off)] s1)

/-- ACQUIRING under the selected reference (06 R217). -/
def acquiringStep (f : Nat) (s : State) : State :=
  let near : Bool := decide (s.tb.phaseErr.natAbs ≤ lockThr s)
  let run := if near then s.tb.lockRun + 1 else 0
  let s1 := { s with tb := { s.tb with lockRun := run } }
  if s.tb.ref = .beacon then (if 0 < s.tb.beacon.within2us then enterLocked f s1 else s1)
  else if 16 ≤ run then enterLocked f s1 else s1

/-- LOCKED under the selected reference (06 R217). -/
def lockedStep (s : State) : State :=
  let far : Bool := decide (4 * lockThr s < s.tb.phaseErr.natAbs)
  let run := if far then s.tb.exceedRun + 1 else 0
  let s1 := { s with tb := { s.tb with exceedRun := run } }
  let off : Rat := s.tb.phaseErr
  if s.tb.ref = .beacon then (if 2 ≤ s.tb.beacon.beyond8us then enterAcquiring off s1 else s1)
  else if 4 ≤ run then enterAcquiring off s1 else s1

/-- The reference that stays selected is followed (06 R217, R218). -/
def followRef (o : TimebaseObs) (f : Nat) (s : State) : State :=
  match s.tb.state with
  | .mismatch =>
    let off := newOffset o s
    if beyondSlew off then s else enterAcquiring off s
  | st =>
    let (e, y0) := phaseOf o s
    let y := limitFreq (if s.tb.ref = .refclk then 0 else y0) s.tb.freq y0
    let s1 := { s with tb := { s.tb with phaseErr := e, freq := y, osc := y } }
    match st with
    | .acquiring => acquiringStep f s1
    | .locked => lockedStep s1
    | _ => s1

/-- The selected reference reports that its own frame is a holdover frame (06 R221, 07 Table 7.2). -/
def refInHoldover (s : State) : Bool :=
  match s.tb.role, refTransfer s with
  | .root, _ => false
  | _, some t => (vget t.record 1).getLsbD 5
  | _, none => false

/-- The frame that begins at `f` is a holdover frame: it and its windows are marked (06 R221, R222). -/
def markHoldover (f : Nat) (s : State) : State :=
  let h := s.tb.state != .locked || refInHoldover s
  let s1 := { s with tb := { s.tb with holdoverFrame := h } }
  if h then mark .holdover (BitVec.allOnes 256) f (f + frameLen - 1) s1 else s1

/-- The notches and the background of the receiver as the idle gap has left them (06 R230). -/
def adaptNotches (o : TimebaseObs) (s : State) : State :=
  match o.idleGap with
  | some g => if s.tb.beacon.state = .off then s
    else { s with tb := { s.tb with beacon := { s.tb.beacon with bgUa := g.bgUa, notch0 := g.notch0, notch1 := g.notch1 } } }
  | none => s

/-- The timebase at frame boundary `f`: the selection, the state that follows, and the marking of the frame (06 R214 to
R224). `moved` says that the ring reference has moved to the other side (07 R264). -/
def timebaseFrame (o : TimebaseObs) (moved : Bool) (f : Nat) (s : State) : State :=
  let r := selectedRef s
  let s1 := if r = .none then
      (let t := if s.tb.state = .acquiring ∨ s.tb.state = .locked then enterHoldover f s else s
       { t with tb := { t.tb with ref := .none } })
    else if r ≠ s.tb.ref ∨ (r = .ring ∧ moved) then changeRef o r f s
    else followRef o f s
  let s2 := match s1.tb.state with
    | .holdover => holdoverFrameStep f s1
    | .locked => { s1 with tb := { s1.tb with
      lockedFreqs := (s1.tb.freq :: s1.tb.lockedFreqs).take 180000, hoBound := 0, flyRef := s1.tb.refclkOk } }
    | _ => { s1 with tb := { s1.tb with hoBound := 0 } }
  let s3 := { s2 with tb := { s2.tb with timeSrc := timeSource s2 } }
  markHoldover f (adaptNotches o s3)

/-! ## The timebase start (06 R203, R204) -/

/-- The origin and reference of a start that the hub's role admits. A hub has role ROOT once the ring has named it (07
R275). -/
def startOf (c : StartCase) (s : State) : Option (Nat × Ref) :=
  match c, s.tb.role with
  | .refclkLocked, .root => if s.ring.master.isSome then some (0, .refclk) else none
  | .rootTimeout, .root => if s.ring.master.isSome then some (0, .none) else none
  | .adoptRing t, .ringFollower => some (frameLen * (t / frameLen), .ring)
  | .adoptPeer t, .pairFollower => some (frameLen * (t / frameLen), .peer)
  | .adoptPeer t, .ringFollower => if s.pair.en then some (frameLen * (t / frameLen), .peer) else none
  | .followerTimeout, .ringFollower => some (0, .none)
  | .followerTimeout, .pairFollower => some (0, .none)
  | _, _ => none

/-- The timebase starts at origin `t0` with reference `r`: LOCKED to REFCLK, FREERUN, or ACQUIRING the reference whose
count it has adopted, at an offset below a cycle that no operand gives (06 R203, R208; 18 "Start-up"). -/
def startTimebase (t0 : Nat) (r : Ref) (s : State) : State :=
  let s1 := { s with
    tb := { s.tb with started := true, tick := t0, frameTick := t0, t0 := t0, ref := r, anchorTick := t0, anchorTime := 0,
                      timeValid := false } }
  let s2 := match r with
    | .refclk => enterLocked t0 { s1 with tb := { s1.tb with refclkOk := true, refclkInRun := 16, refclkOutRun := 0 } }
    | .none => { s1 with tb := { s1.tb with state := .freerun } }
    | _ => enterAcquiring (((Config.freeWord s1.freeCtr).toNat % 81380 : Nat) : Rat) { s1 with freeCtr := s1.freeCtr + 1 }
  { s2 with tb := { s2.tb with timeSrc := timeSource s2 } }

/-! ## Commands (06, "Commands and parameter blocks") -/

/-- TB_SET_SOURCES (06 R246, Table 6.13). -/
def rulesTbSetSources : Rules :=
  { op := .tbSetSources, minLen := 2, maxLen := 2, issuers := pf0, configures := true, authority := fun _ => true,
    mirrored := fun _ => true,
    form := fun p _ => firstBad [(0, rsv (p.w 0) 0x7CFFFF00 && (p.w 0).field 7 0 != 0),
      (1, rsv (p.w 1) 0xFFF00000 && within (p.w 1).toNat 1 1000000)],
    run := fun p s => let f := defaultBoundary true p s; .done (stage f (.tbSources (p.w 0) (p.w 1)) s) [] f }

/-- TB_SET_SOURCES. -/
def execTbSetSources (p : Packet) (s : State) : Out := .next (takeCommand rulesTbSetSources p s)

/-- TB_SET_TIME (06 R244, R246, Table 6.14). -/
def rulesTbSetTime : Rules :=
  { op := .tbSetTime, minLen := 5, maxLen := 5, issuers := pf0, configures := true, authority := fun _ => true,
    form := fun p _ => firstBad [(0, rsv (p.w 0) 0x3FFF0000 && !((p.w 0).bit 31 && (p.w 0).bit 30)), tickForm p 1],
    run := fun p s => match applyBoundary false p (p.w64 1) s with
      | .error r => .reject r.status r.detail
      | .ok f =>
        if s.tb.role ≠ .root ∨ (timeEn s && beaconAcquired s) = true then .reject .precondition []
        else .done (stage f (.timeStep
          { anchor := none, time := p.w64 3, gen := none, valid := true, src := .host,
            leap := some ((p.w 0).bit 31, (p.w 0).bit 30, BitVec.ofNat 16 ((p.w 0).field 15 0)) }) s) [] f }

/-- TB_SET_TIME. -/
def execTbSetTime (p : Packet) (s : State) : Out := .next (takeCommand rulesTbSetTime p s)

/-- The words of TB_READ_STATUS (06 Table 6.18). -/
def tbStatusWords (s : State) : List Word :=
  let t := s.tb
  let ho : Bool := t.state == .holdover
  let f := t.frameTick
  [wd (t.state.code * 268435456 + t.ref.code * 16777216 + t.role.code * 1048576 + t.timeSrc.code * 65536
      + b01 t.timeValid * 32768 + b01 t.holdoverFrame * 16384 + b01 (modelValid s) * 8192 + b01 t.refclkOk * 4096
      + b01 t.refclk25 * 2048 + b01 t.leapIns * 1024 + b01 t.leapDel * 512),
    halves t.timeGen.toNat t.utcOffset.toNat]
  ++ split64 f ++ split64 (if t.started then structTime s f else 0) ++ split64 t.anchorTick ++ split64 t.anchorTime
  ++ [satInt t.phaseErr, satInt t.freq, wd (if ho then t.hoBound else 0),
      if ho then satWord ((f - t.hoTick) / ticksPerSecond) else 0] ++ split64 t.t0

/-- TB_READ_STATUS. -/
def rulesTbReadStatus : Rules :=
  { op := .tbReadStatus, minLen := 0, maxLen := 0, issuers := anyFn, configures := false,
    run := fun _ s => .done s (tbStatusWords s) (now s) }

/-- TB_READ_STATUS. -/
def execTbReadStatus (p : Packet) (s : State) : Out := .next (takeCommand rulesTbReadStatus p s)

/-- TB_SET_HOLDOVER (06 R246, Table 6.15). -/
def rulesTbSetHoldover : Rules :=
  { op := .tbSetHoldover, minLen := 3, maxLen := 3, issuers := pf0, configures := true,
    form := fun p _ => firstBad [(0, rsv (p.w 0) 0x3FFF0000 && within ((p.w 0).field 15 0) 10 3600),
      (2, rsv (p.w 2) 0xFFFF0000)],
    run := fun p s =>
      let f := defaultBoundary false p s
      .done (stage f (.tbHoldover (p.w 0) (p.w 1) (p.w 2)) s) [] f }

/-- TB_SET_HOLDOVER. -/
def execTbSetHoldover (p : Packet) (s : State) : Out := .next (takeCommand rulesTbSetHoldover p s)

/-- TB_SET_MAINS (06 R246, Table 6.16). -/
def rulesTbSetMains : Rules :=
  { op := .tbSetMains, minLen := 2, maxLen := 2, issuers := pf0, configures := true, mirrored := fun _ => true,
    form := fun p _ =>
      let w := p.w 0
      firstBad [(0, decide (10 ≤ w.field 31 24) && decide (w.field 23 16 ≤ 100)
          && within (w.field 15 8) (w.field 31 24) (w.field 23 16) && within (w.field 7 4) 1 8 && within (w.field 3 0) 1 8),
        (1, rsv (p.w 1) 0xFFFF0000 && decide (300 ≤ (p.w 1).toNat))],
    run := fun p s => let f := defaultBoundary true p s; .done (stage f (.tbMains (p.w 0) (p.w 1)) s) [] f }

/-- TB_SET_MAINS. -/
def execTbSetMains (p : Packet) (s : State) : Out := .next (takeCommand rulesTbSetMains p s)

/-- The words of TB_READ_MAINS (06 Table 6.19): X̂ in 1/256 SCLK period is 1/1,024 modulator cycle. -/
def mainsWords (s : State) : List Word :=
  let m := s.tb.mains
  let src := mainsSv s
  [wd (b01 m.tracking * 2147483648 + b01 m.started * 1073741824 + (match src with | some v => v.val | none => 0) * 268435456
      + b01 src.isSome * 134217728), wd m.phat]
  ++ split64 (m.xhat / 1024) ++ [wd (m.xhat % 1024), halves m.accepted.toNat m.rejected.toNat]

/-- TB_READ_MAINS. -/
def rulesTbReadMains : Rules :=
  { op := .tbReadMains, minLen := 0, maxLen := 0, issuers := anyFn, configures := false,
    run := fun _ s => .done s (mainsWords s) (now s) }

/-- TB_READ_MAINS. -/
def execTbReadMains (p : Packet) (s : State) : Out := .next (takeCommand rulesTbReadMains p s)

end Sys2Proof.Machine
end

