-- ==== Sys2Proof/Machine/Ring.lean ====
section
/-!
DEFINITION. The cascade ring (07): time transfer and state records on each side, membership and mastership, wraps and
unwraps, the asymmetry measurement, and the commands of class 0x07 but for those of a mode change.
-/
namespace Sys2Proof.Machine
open Sys2Proof

/-! ## Sides and links of time transfer -/

/-- The time transfer of a lane group: 0 EAST, 1 WEST, 2 PAIR. -/
def transferOf (s : State) (g : Fin 3) : SideState :=
  if g = 0 then s.ring.east else if g = 1 then s.ring.west else s.pair.side

/-- Change the time transfer of a lane group. -/
def modTransfer (g : Fin 3) (f : SideState → SideState) (s : State) : State :=
  if g = 0 then { s with ring := { s.ring with east := f s.ring.east } }
  else if g = 1 then { s with ring := { s.ring with west := f s.ring.west } }
  else { s with pair := { s.pair with side := f s.pair.side } }

/-- The number of a side. -/
def sideNum : Side → Nat
  | .east => 0 | .west => 1

/-- The other side. -/
def otherSide : Side → Side
  | .east => .west | .west => .east

/-- The place of a lane in its group: its k, and 4 for the AUX lane (07 R249, RING_SET_HOP). -/
def laneIndex (l : Nat) : Nat := if l < 8 then l % 4 else if l < 10 then l - 8 else 4

/-- The timing lane of a group: its UP lane with the lowest logical index (13 R507). -/
def timingLaneOf (s : State) (g : Fin 3) : Option (Fin 16) :=
  (upLanes s g).foldl (fun a l => match a with
    | none => some l
    | some b => if (getLane s l).logical < (getLane s b).logical then some l else some b) none

/-- The logical index of the timing lane, to which ASYM values refer (13 R507). -/
def timingLane (s : State) (g : Fin 3) : Nat :=
  match timingLaneOf s g with
  | some l => (getLane s l).logical.toNat
  | none => 0

/-- ASYM of a group's timing lane in ps: of RING_SET_HOP, or of PAIR_SET_LINK. -/
def asymPs (s : State) (g : Fin 3) : Int :=
  if g = 2 then signedField 16 (s.pair.asym.field (16 * timingLane s g + 15) (16 * timingLane s g))
  else (vgetD (transferOf s g).asym (timingLane s g) 0).toInt

/-- A time stamp as a TS48 field (07, "Time transfer"). -/
def ts48 (t : Nat) : Nat := t % 281474976710656

/-- A time-transfer payload (07 Table 7.1). -/
def ttPayload (msg seq data : Nat) : BitVec 56 :=
  BitVec.ofNat 56 (msg * 4503599627370496 + seq * 281474976710656 + ts48 data)

/-- A TIME or HEART block is due on a lane, twice in consecutive block slots (13 R491). -/
def sendTiming (l : Fin 16) (type : Byte) (x : BitVec 56) (s : State) : State :=
  modLane l (fun y => { y with timing := y.timing ++ [(type, x), (type, x)] }) s

/-- The hub sends a time-transfer payload on a group's timing lane, in a TIME block. -/
def sendControl (g : Fin 3) (x : BitVec 56) (s : State) : State :=
  match timingLaneOf s g with
  | some l => sendTiming l 0x35 x s
  | none => s

/-! ## Exchanges (07 R256 to R260) -/

/-- A signed difference of two TS48 time stamps, in 1/65,536 cycle; the upper bits are the receiver's own. -/
def stampDiff (a b : Nat) : Int := signedField 48 ((a + 281474976710656 - ts48 b) % 281474976710656)

/-- A difference of time stamps in ps (07 R260). -/
def stampPs (z : Int) : Rat := (z : Rat) * 8138021 / 6553600

/-- The servo steers on a completed exchange of the selected RING or PEER reference (07 R260). -/
def steerOn (g : Fin 3) (theta : Rat) (s : State) : State :=
  let selected : Bool := match s.tb.ref with
    | .ring => (g == 0 && s.ring.refSide == some .east) || (g == 1 && s.ring.refSide == some .west)
    | .peer => g == 2
    | _ => false
  if selected && s.tb.state != .mismatch then
    let bw := s.ring.policy0.field 14 13
    let w := Config.servoW bw
    let i := (transferOf s g).integ + w * w * theta
    let y := limitFreq (rndRat (-i)) s.tb.freq (rndRat (-(i + 2 * w * theta)))
    modTransfer g (fun t => { t with integ := i }) { s with tb := { s.tb with freq := y } }
  else s

/-- An exchange of group `g` completes: t1 to t4 are known (07 R260). -/
def completeExchange (g : Fin 3) (t1 t4 : Nat) (s : State) : State :=
  let x := transferOf s g
  let d1 := stampPs (stampDiff x.t2 t1)
  let d2 := stampPs (stampDiff t4 x.t3)
  let theta : Rat := (d1 - d2 - (asymPs s g : Rat)) / 2
  let rtt : Rat := d1 + d2
  let x0 := { x with rxDone := true, measured := true }
  if x.n < 16 then
    let n := x.n + 1
    modTransfer g (fun _ => { x0 with
      n := n, rttSum := x.rttSum + rtt, thetaSum := x.thetaSum + theta, rttAvg := (x.rttSum + rtt) / (n : Nat)
      thetaAvg := (x.thetaSum + theta) / (n : Nat) }) s
  else if 2000 < ratAbs (rtt - x.rttAvg) ∨ 10000 < ratAbs (theta - x.thetaAvg) then
    modTransfer g (fun _ => { x0 with outliers := satInc x.outliers }) s
  else
    steerOn g theta (modTransfer g (fun _ => { x0 with
      rttAvg := x.rttAvg + (rtt - x.rttAvg) / 64, thetaAvg := x.thetaAvg + (theta - x.thetaAvg) / 64 }) s)

/-- Exchanges voided before SYNC `seq`: the one in progress if it is not complete, and those whose SYNC was lost. -/
def voidedBefore (x : SideState) (seq : BitVec 4) : Nat :=
  match x.rxSeq with
  | some p => b01 (!x.rxDone) + (seq - p - 1).toNat
  | none => 0

/-- SYNC_RECEIVE: the hub is responder; it stamps the arrival and sends DREQ, whose departure it stamps (07 R258). -/
def execSyncReceive (side : Fin 3) (seq : BitVec 4) (stamp departure : Nat) (s : State) : Out :=
  .next (sendControl side (ttPayload 3 seq.toNat 0) (modTransfer side (fun x =>
    { x with ttLost := satAdd x.ttLost (voidedBefore x seq)
             cleanSince := if voidedBefore x seq = 0 then x.cleanSince else now s
             rxSeq := some seq, rxDone := false, t1 := none, t2 := stamp, t3 := departure }) s))

/-- FOLLOW_RECEIVE: the departure of the SYNC (07 R257). -/
def execFollowReceive (side : Fin 3) (seq : BitVec 4) (t1 : Nat) (s : State) : Out :=
  .next (if (transferOf s side).rxSeq = some seq then modTransfer side (fun x => { x with t1 := some (ts48 t1) }) s else s)

/-- DREQ_RECEIVE: the hub is sender; it stamps the arrival and sends DRESP (07 R258). -/
def execDreqReceive (side : Fin 3) (seq : BitVec 4) (stamp : Nat) (s : State) : Out :=
  .next (if (transferOf s side).txSeq = seq then sendControl side (ttPayload 4 seq.toNat stamp) s else s)

/-- DRESP_RECEIVE: the exchange completes if its SYNC and FOLLOW have arrived (07 R258, R260). -/
def execDrespReceive (side : Fin 3) (seq : BitVec 4) (t4 : Nat) (s : State) : Out :=
  let x := transferOf s side
  .next (match x.t1 with
  | some t1 => if x.rxSeq = some seq ∧ x.rxDone = false then completeExchange side t1 (ts48 t4) s else s
  | none => s)

/-- STATE_RECEIVE: one word of the neighbour's state record of this frame (07 R261). -/
def execStateReceive (side : Fin 3) (index : Fin 8) (data : BitVec 48) (s : State) : Out :=
  .next (modTransfer side (fun x => { x with incoming := vset x.incoming index data, arrived := setBit x.arrived index.val }) s)

/-! ## State records (07 R261, R262) -/

/-- Bits `[hi:lo]` of a record word. -/
def recField (r : Vector (BitVec 48) 8) (i : Fin 8) (hi lo : Nat) : Nat := ((vget r i).toNat / 2 ^ lo) % 2 ^ (hi + 1 - lo)

/-- TIME_GEN, TIME_VALID, flags, UTC_OFFSET, ANCHOR_PEND and the anchor of a record. -/
def recTimeGen (r : Vector (BitVec 48) 8) : Nat := recField r 1 31 16
/-- TIME_VALID of a record. -/
def recTimeValid (r : Vector (BitVec 48) 8) : Bool := recField r 1 4 4 == 1
/-- ANCHOR_TICK of a record. -/
def recAnchorTick (r : Vector (BitVec 48) 8) : Nat := recField r 4 47 32 * 281474976710656 + recField r 3 47 0
/-- ANCHOR_TIME of a record. -/
def recAnchorTime (r : Vector (BitVec 48) 8) : Nat := recField r 5 47 16 * 4294967296 + recField r 4 31 0
/-- HOPS of a record. -/
def recHops (r : Vector (BitVec 48) 8) : Nat := recField r 1 10 6
/-- SENDER_ID of a record. -/
def recSender (r : Vector (BitVec 48) 8) : HubId := BitVec.ofNat 5 (recField r 5 15 11)
/-- ROOT_LED of a record. -/
def recRootLed (r : Vector (BitVec 48) 8) : Bool := recField r 5 8 8 == 1

/-- The hub is master of its ring, or segment master. -/
def isMaster (s : State) : Bool := s.ring.mrole == .master || s.ring.mrole == .segmentMaster

/-- ROOT_LED as the hub sends it (07 Table 7.2). -/
def rootLed (s : State) : Bool :=
  match s.tb.role with
  | .root => true
  | .ringFollower => s.tb.ref != .none && refQualifies s s.tb.ref && (match refTransfer s with
      | some t => recRootLed t.record
      | none => false)
  | .pairFollower => recRootLed s.pair.side.record

/-- The hub's own next rising mains crossing after tick `f`, as a tick (07 Table 7.2): X̂ + n·P̂/256 in SCLK periods. -/
def nextCrossing (f : Nat) (s : State) : Nat :=
  let m := s.tb.mains
  if !m.started ∨ m.phat = 0 then 0
  else if f * 1024 < m.xhat then m.xhat / 1024
  else (m.xhat + ((f * 1024 - m.xhat) / m.phat + 1) * m.phat) / 1024

/-- The step that waits for its boundary, if any, the earliest and of equals the one that applies: boundary and new time (06
R245). -/
def pendingStep (s : State) : Option (Nat × Nat) :=
  let steps := s.staged.filterMap (fun x => match x.change with
    | .timeStep t => some (x.at_, t)
    | _ => none)
  match steps with
  | [] => none
  | x :: xs =>
    let b := xs.foldl (fun a y => min a y.1) x.1
    (chooseStep ((steps.filter (fun y => y.1 == b)).map (fun y => y.2))).map (fun t => (t.anchor.getD b, t.time))

/-- The state record for the frame at `f` on lane group `g`: the time and mains fields from the reference's record, or
from the hub itself in role ROOT and without a reference (07 R262). -/
def stateRecord (g : Fin 3) (f : Nat) (s : State) : Vector (BitVec 48) 8 :=
  let fwd := if s.tb.role = .root then none else refTransfer s
  let toRef := match s.tb.ref, s.ring.refSide with
    | .ring, some d => decide (g = sideGroup d)
    | .peer, _ => decide (g = 2)
    | _, _ => false
  let t := s.tb
  let (anchor, time, pend) := match pendingStep s with
    | some (a, x) => (a, x, true)
    | none => (t.anchorTick, t.anchorTime, false)
  let own : Vector (BitVec 48) 8 := Vector.ofFn (fun i : Fin 8 => BitVec.ofNat 48 (match i with
    | 1 => t.timeGen.toNat * 65536 + b01 t.timeValid * 16 + b01 t.leapIns * 4 + b01 t.leapDel * 2 + b01 pend
    | 2 => t.utcOffset.toNat * 4294967296
    | 3 => anchor
    | 4 => anchor / 281474976710656 * 4294967296 + time % 4294967296
    | 5 => time / 4294967296 * 65536
    | 6 => nextCrossing f s
    | 7 => t.mains.phat % 4294967296 * 65536 + b01 t.mains.tracking * 32768
    | _ => 0))
  let r := match fwd with
    | some x => x.record
    | none => own
  let keep := fun (i : Fin 8) (hi lo : Nat) => recField r i hi lo * 2 ^ lo
  Vector.ofFn (fun i : Fin 8 => BitVec.ofNat 48 (match i with
    | 0 => f
    | 1 => f / 281474976710656 * 4294967296 + keep 1 31 16 + (s.ring.master.getD 0).toNat * 2048
        + (if isMaster s then 0 else s.ring.hops.toNat) * 64 + b01 t.holdoverFrame * 32 + keep 1 4 4 + b01 t.started * 8
        + keep 1 2 0
    | 2 => keep 2 47 32 + s.ring.generation.toNat
    | 5 => keep 5 47 16 + hubNum s * 2048 + b01 s.host.compat * 1024 + b01 toRef * 512 + b01 (rootLed s) * 256
    | 7 => keep 7 47 15
    | _ => (vget r i).toNat))

/-- A group carries time transfer: a side that is up, or the pair lanes. -/
def transferUp (s : State) (g : Fin 3) : Bool := if g = 2 then s.pair.lanesUp else (transferOf s g).up

/-- The exchange and the state record that the hub begins on a group in the frame at `f`; the SYNC departs between 256 and
511 cycles after the boundary (07 R258, Table 7.3). -/
def beginExchange (g : Fin 3) (f : Nat) (s : State) : State :=
  if transferUp s g then
    let q := (transferOf s g).txSeq + 1
    let t1 := f * 65536 + 16777216 + (Config.freeWord s.freeCtr).toNat % 16777216
    let s1 := modTransfer g (fun x => { x with txSeq := q, txT1 := t1 }) { s with freeCtr := s.freeCtr + 1 }
    let s2 := sendControl g (ttPayload 2 q.toNat t1) (sendControl g (ttPayload 1 q.toNat 0) s1)
    let r := stateRecord g f s2
    (List.finRange 8).foldl (fun t i => sendControl g (ttPayload 5 i.val (vget r i).toNat) t) s2
  else s

/-! ## Qualification of the RING and PEER references (07 R263, R264; 06 Table 6.2) -/

/-- The frame of a group's time transfer ends at `f`: the record that has arrived whole is the neighbour's. -/
def closeTransferFrame (f : Nat) (x : SideState) : SideState :=
  let whole : Bool := x.arrived == 0xFF
  { x with
    complete := whole, record := if whole then x.incoming else x.record, arrived := 0
    missed := if x.measured && whole then 0 else x.missed + 1, measured := false
    cleanSince := if x.measured then x.cleanSince else f }

/-- A neighbour whose record has arrived, whose timebase has started and whose measurements arrive. -/
def transferGood (x : SideState) : Bool := x.complete && decide (x.missed < 3) && recField x.record 1 3 3 == 1

/-- The hub coasts: the reference's link is down, or its record or measurement has not arrived, for fewer than 3 frames (06
R213; 07, the example of 4 frames). -/
def coasts (linkUp : Bool) (x : SideState) : Bool := (!linkUp || !x.complete) && decide (x.missed < 3)

/-- A side qualifies as RING reference (07 R263). -/
def sideQualifies (x : SideState) (s : State) : Bool :=
  x.up && transferGood x && s.ring.master == some (BitVec.ofNat 5 (recField x.record 1 15 11))
    && decide (recHops x.record ≤ 30) && recField x.record 5 9 9 == 0 && (recField x.record 5 10 10 == 1) == s.host.compat

/-- The reference side (07 R264): the present one while it qualifies, unless the other has qualified 16 frames with HOPS at
least 2 lower; else the one that qualifies; EAST before WEST. -/
def chooseSide (cur : Option Side) (east west : SideState) : Option Side :=
  match cur with
  | some .east => if east.qualified then (if 16 ≤ west.lowerRun then some .west else some .east)
      else if west.qualified then some .west else some .east
  | some .west => if west.qualified then (if 16 ≤ east.lowerRun then some .east else some .west)
      else if east.qualified then some .east else some .west
  | none => if east.qualified then some .east else if west.qualified then some .west else none

/-- The run of frames in which a side other than the reference has qualified with HOPS at least 2 lower (07 R264). -/
def lowerRunOf (x other : SideState) : Nat :=
  if x.qualified && decide (recHops x.record + 2 ≤ recHops other.record) then x.lowerRun + 1 else 0

/-- The ring's time transfer at a frame boundary: records, qualification, the reference side, and HOPS. A reference side
that has stopped qualifying is kept through an interruption shorter than 3 frames (06 R213). -/
def ringReference (s : State) : State :=
  let e0 := closeTransferFrame (now s) s.ring.east
  let w0 := closeTransferFrame (now s) s.ring.west
  let e1 := { e0 with qualified := sideQualifies e0 s }
  let w1 := { w0 with qualified := sideQualifies w0 s }
  let e := { e1 with lowerRun := lowerRunOf e1 w1 }
  let w := { w1 with lowerRun := lowerRunOf w1 e1 }
  let side := chooseSide s.ring.refSide e w
  let any := e.qualified || w.qualified
  let last := match s.ring.refSide with
    | some .west => w
    | _ => e
  let ok := any || (s.tb.ringOk && s.ring.refSide.isSome && coasts last.up last)
  let hops := match side with
    | some .east => recHops e.record + 1
    | some .west => recHops w.record + 1
    | none => 0
  { s with
    tb := { s.tb with ringMissing := if any then 0 else last.missed, ringOk := ok }
    ring := { s.ring with
      east := e, west := w, refSide := if ok then side else none
      hops := if isMaster s then 0 else if ok then BitVec.ofNat 5 hops else s.ring.hops } }

/-- The pair lanes' time transfer at a frame boundary (08, "The timebase in a pair"; 06 Table 6.2). -/
def peerReference (s : State) : State :=
  let x := closeTransferFrame (now s) s.pair.side
  let q := s.pair.lanesUp && transferGood x
  { s with
    tb := { s.tb with
      peerMissing := if q then 0 else x.missed, peerOk := q || (s.tb.peerOk && coasts s.pair.lanesUp x) }
    pair := { s.pair with side := { x with qualified := q } } }

/-- A follower adopts the time of the reference it has selected: an announced step at its boundary, an anchor already in
force at the first boundary at which the hub holds it, and TIME_VALID, the leap flags and UTC_OFFSET (06 R208, R210; 07
R262). A step that TB_SET_TIME has ordered for this boundary stands (06 R245). -/
def followTime (f : Nat) (s : State) : State :=
  if s.tb.role = .root then s
  else match refTransfer s with
  | none => s
  | some x =>
    let r := x.record
    if recField r 1 3 3 = 0 then s
    else
      let s1 := { s with tb := { s.tb with
          leapIns := recField r 1 2 2 == 1, leapDel := recField r 1 1 1 == 1
          utcOffset := BitVec.ofNat 16 (recField r 2 47 32) } }
      let pend := recField r 1 0 0 = 1
      let a := recAnchorTick r
      let gen := BitVec.ofNat 16 (if pend then recTimeGen r + 1 else recTimeGen r)
      let src : TimeSrc := if s.tb.ref = .peer then .peer else .ring
      let step : TimeStep := { anchor := some a, time := recAnchorTime r, gen := some gen,
                               valid := pend || recTimeValid r, src := src, leap := none }
      if a = s.tb.anchorTick ∧ recAnchorTime r = s.tb.anchorTime then
        (if pend then s1 else { s1 with tb := { s1.tb with timeGen := gen, timeValid := recTimeValid r } })
      else if f < a then
        (if pendingStep s1 = some (a, recAnchorTime r) then s1 else stage a (.timeStep step) s1)
      else if s1.tb.hostStep = some f then s1
      else applyTimeStep step f s1

/-! ## Identity and ring state (07 R252 to R255, Table 7.5) -/

/-- MASTER_PREF as strapped (14 Table 14.6). -/
def masterPref (s : State) : Bool := s.pwr.straps.bit 18

/-- The hub is eligible for mastership (07 R269). -/
def eligible (s : State) : Bool :=
  isMaster s
    || (s.ring.master.isNone && (s.tb.started || s.ring.rstate == .forming))
    || (s.tb.started && s.tb.state == .locked
        && decide (s.tb.lockedSince + ticksPerSecond * s.ring.policy0.field 31 16 ≤ now s))

/-- The hub's own ANNOUNCE (07 Table 7.6). -/
def ownAnnounce (s : State) : Announce :=
  { id := s.ring.hubId, uid := Config.uid, incarnation := s.ao.incarnation, masterPref := masterPref s,
    eligible := eligible s, rootLed := rootLed s, isMaster := isMaster s, compat := s.host.compat,
    refused := s.ring.mrole == .refused, tbState := BitVec.ofNat 4 s.tb.state.code, generation := s.ring.generation,
    prepared := if s.ring.mc.state = .prepared then some (s.ring.mc.g, s.ring.mc.c) else none, stable := s.ring.stable,
    hops := 0, transitNs := 0 }

/-- The payload of an ANNOUNCE message (its words, DESIGN CHOICE, assumption 26). -/
def announceWords (a : Announce) : List Word :=
  let (g, c) := a.prepared.getD (0, 0)
  [wd (a.id.toNat + b01 a.masterPref * 32 + b01 a.eligible * 64 + b01 a.rootLed * 128 + b01 a.isMaster * 256
      + b01 a.compat * 512 + b01 a.refused * 1024 + b01 a.prepared.isSome * 2048 + a.tbState.toNat * 4096
      + a.incarnation.toNat * 65536)]
  ++ split64 a.uid.toNat ++ [a.generation, g] ++ split64 c ++ [a.stable, wd a.hops, a.transitNs]

/-- An ANNOUNCE arrives within 3 periods of 4 frames (07, "Membership and mastership"). -/
def heardWithin (t nowTick : Nat) : Bool := decide (nowTick ≤ t + 12 * frameLen)

/-- Every hop of the ring is up: both sides of this hub, no hop reported down, and every member heard on both sides as far in
all as the hub's own ANNOUNCE comes, less this hub. In a chain what arrives on the far side has been looped past it and has come
further (07 R251, Table 7.5; DEDUCED, assumption 161). -/
def hopsClosed (s : State) : Bool :=
  s.ring.east.up && s.ring.west.up && s.ring.downHops.isEmpty && s.ring.members.all (fun m => match m.hopsEast, m.hopsWest with
    | some e, some w => s.ring.ownHops == some (e + w + 1)
    | _, _ => false)

/-- The ring state (07 Table 7.5). -/
def ringStateOf (s : State) : RState :=
  if !s.ring.east.up && !s.ring.west.up then .alone
  else if s.ring.master.isNone then .forming
  else if s.ring.stable.toNat &&& memberMask s ≠ s.ring.stable.toNat then .segmented
  else if hopsClosed s then .closed
  else .wrapped

/-- The numbers below 32 whose bit is set in a mask. -/
def bitsSet (m : Nat) : List Nat := (List.range 32).filter (fun i => m.testBit i)

/-- A segment of members `mask` holds the majority of the last stable membership: more than half, or exactly half with
its lowest ID (07 R274). Without a stable membership every segment does. -/
def majority (mask stable : Nat) : Bool :=
  let all := bitsSet stable
  let mine := all.filter (fun i => mask.testBit i)
  decide (all.length < 2 * mine.length) || (decide (all.length = 2 * mine.length) && all.head? == mine.head?)

/-- The ring state is worked out anew; entering SEGMENTED is reported (07 Tables 7.5, 7.17). Until FORMING is left a hub
with a side up stays in it. -/
def updateRingState (s : State) : State :=
  let new := if s.ring.rstate = .forming ∧ s.ring.master.isNone then .forming else ringStateOf s
  let s1 := { s with ring := { s.ring with rstate := new } }
  if new = .segmented ∧ s.ring.rstate ≠ .segmented then
    crit 0x0705 0 [wd (memberMask s), wd (b01 (majority (memberMask s) s.ring.stable.toNat))] s1
  else s1

/-- The membership as it stands; it becomes the last stable one when it has held for 1 s in CLOSED or WRAPPED (07). -/
def updateStable (s : State) : State :=
  let m := wd (memberMask s)
  let steady := m = s.ring.memberMask ∧ (s.ring.rstate = .closed ∨ s.ring.rstate = .wrapped)
  if ¬ steady then { s with ring := { s.ring with memberMask := m, heldSince := now s } }
  else if s.ring.heldSince + ticksPerSecond ≤ now s then { s with ring := { s.ring with stable := m } }
  else s

/-- The hub is refused for a cause, with the unique identifier in conflict (07 R255). -/
def refuseHub (cause : BitVec 2) (uid : Nat) (s : State) : State :=
  if s.ring.mrole = .refused then s
  else crit 0x0706 cause.toNat (wd cause.toNat :: split64 uid)
    { s with
      ring := { s.ring with mrole := .refused, refuse := cause }
      tb := { s.tb with role := .ringFollower } }

/-! ## Mastership (07 R269 to R276) -/

/-- One candidate ranks before another (07 R270). -/
def outranks (a b : Announce) : Bool :=
  if a.rootLed != b.rootLed then a.rootLed
  else if a.masterPref != b.masterPref then a.masterPref
  else if a.id != b.id then decide (a.id.toNat < b.id.toNat)
  else decide (a.uid.toNat < b.uid.toNat)

/-- The candidates: the eligible of the members and, unless it is refused, the hub itself; while no master is known, a member
is one whose timebase has started, or which is in FORMING and says that it is eligible (07 R255, R269). -/
def candidates (s : State) : List Announce :=
  let all := (if s.ring.mrole = .refused then [] else [ownAnnounce s]) ++ s.ring.members.map (fun m => m.announce)
  all.filter (fun a => a.eligible || a.isMaster || (s.ring.master.isNone && a.tbState != 0))

/-- The master that R270 names. -/
def namedMaster (s : State) : Option Announce :=
  (candidates s).foldl (fun best a => match best with
    | none => some a
    | some b => if outranks a b then some a else best) none

/-- The role that mastership gives (07 R276; 08 R340). A segment master keeps RING_FOLLOWER (07 R274). -/
def roleOf (s : State) : Role :=
  if s.ring.mrole = .master then (if s.pair.en && s.pair.peer.rmaster && s.pair.peer.auth then .pairFollower else .root)
  else .ringFollower

/-- Mastership passes: MASTER_ID, its identifier, and the hub's own part. `lost` says that R273 elects, so that a new master
without the majority of R274 is a segment master. -/
def takeMaster (a : Announce) (lost : Bool) (s : State) : State :=
  let own := a.id = s.ring.hubId ∧ a.uid = Config.uid
  let part := if s.ring.mrole = .refused then .refused
    else if own then (if lost && !majority (memberMask s) s.ring.stable.toNat then .segmentMaster else .master)
    else .member
  let s1 := { s with ring := { s.ring with
      master := some a.id, masterUid := a.uid, mrole := part, handover := none
      hops := if own then 0 else s.ring.hops } }
  if s1.tb.started then s1 else { s1 with tb := { s1.tb with role := roleOf s1 } }

/-- The master changes: counted, and reported with its cause (07 R271, R273). -/
def changeMaster (a : Announce) (cause : Nat) (s : State) : State :=
  let old := s.ring.master.getD s.ring.hubId
  let s1 := takeMaster a (cause == 2) s
  info 0x0702 0 ([wd old.toNat, wd a.id.toNat] ++ split64 (now s) ++ [wd cause])
    { s1 with ring := { s1.ring with elections := satInc s1.ring.elections } }

/-- FORMING is left with a master known (07 R275). -/
def formRing (a : Announce) (s : State) : State :=
  let s1 := takeMaster a false s
  let s2 := { s1 with ring := { s1.ring with rstate := ringStateOf s1 } }
  info 0x0701 0 [wd (memberMask s2), wd a.id.toNat] s2

/-- The boundary of a HANDOVER: at least 16 frames ahead, and as far past the commit tick of a generation that this hub or a
member, by its ANNOUNCE, has prepared (07 R271, R272). -/
def handoverBoundary (s : State) : Nat :=
  let mine := match s.ring.mc.pending with
    | some m => if !m.aborting then m.c else 0
    | none => if s.ring.mc.state = .prepared then s.ring.mc.c else 0
  let cs := mine :: s.ring.members.filterMap (fun m => m.announce.prepared.map (fun x => x.2))
  frameLen * ceilDiv ((cs.filter (fun c => decide (now s < c))).foldl max (now s) + 16 * frameLen) frameLen

/-- The present master hands over to the member that R270 names (07 R271). -/
def offerHandover (s : State) : State :=
  if isMaster s ∧ s.ring.handover.isNone then
    match namedMaster s with
    | some a =>
      if a.id = s.ring.hubId ∨ a.isMaster then s
      else
        let h := handoverBoundary s
        send { kind := 0x02, cls := 1, target := none, side := none, payload := wd a.id.toNat :: split64 h }
          { s with ring := { s.ring with handover := some (a.id, h) } }
    | none => s
  else s

/-- A member has sent an ANNOUNCE since tick `t`. -/
def Member.heardSince (m : Member) (t : Nat) : Bool := decide (t ≤ max m.lastEast m.lastWest)

/-- The master compares the generations that its members have announced since its own came into force with it (07 R290, the
example's round after C). -/
def compareGenerations (s : State) : State :=
  if isMaster s then
    let m := wd (s.ring.members.foldl (fun a x =>
      if x.announce.generation = s.ring.generation ∨ !x.heardSince s.ring.genSince then a else a ||| 2 ^ x.announce.id.toNat) 0)
    let s1 := { s with ring := { s.ring with genMixed := m } }
    if m ≠ s.ring.genMixed ∧ m ≠ 0 then crit 0x070A 0 [m] s1 else s1
  else s

/-- Hubs leave the membership (12 R455). -/
def leaveRing (gone : List HubId) (s : State) : State :=
  { s with ring := { s.ring with absent := s.ring.absent.filter (fun x => !gone.contains x.1) ++ gone.map (fun h => (h, now s)) } }

/-- An ANNOUNCE of another hub enters the membership, that of a refused member takes it out. A hub is known by its unique
identifier, so that a refused one takes no other with it (07 R253, R255, "Membership and mastership"). -/
def noteMember (d : Side) (a : Announce) (s : State) : State :=
  let old := s.ring.members.find? (fun m => m.announce.uid == a.uid)
  let rest := s.ring.members.filter (fun m => m.announce.uid != a.uid)
  if a.refused then
    (if old.isNone then s
     else leaveRing [a.id] { s with ring := { s.ring with members := rest, refusedIds := a.id :: s.ring.refusedIds } })
  else
    let m : Member := match old with
      | some m => { m with announce := a }
      | none => { announce := a, lastEast := 0, lastWest := 0, hopsEast := none, hopsWest := none }
    let m1 : Member := match d with
      | .east => { m with lastEast := now s, hopsEast := some a.hops }
      | .west => { m with lastWest := now s, hopsWest := some a.hops }
    { s with ring := { s.ring with
        members := rest ++ [m1], absent := s.ring.absent.filter (fun x => x.1 != a.id)
        refusedIds := s.ring.refusedIds.filter (fun h => h != a.id) } }

/-- Causes 1 and 2 of R255, which an ANNOUNCE can show. -/
def refusalCheck (a : Announce) (s : State) : State :=
  if a.id = s.ring.hubId ∧ a.uid.toNat < Config.uid.toNat ∧ !a.refused then refuseHub 1 a.uid.toNat s
  else if s.host.compat ∧ 7 < hubNum s then refuseHub 2 Config.uid.toNat s
  else s

/-- Cause 3 of R255: the master that the hub holds announces the other personality. -/
def personalityCheck (a : Announce) (s : State) : State :=
  if s.ring.master = some a.id ∧ s.ring.masterUid = a.uid ∧ a.compat ≠ s.host.compat then refuseHub 3 a.uid.toNat s else s

/-- A master's ANNOUNCE: a hub in FORMING takes it, and where two masters meet the one that ranks first stands (07 R275,
R276). -/
def heedMaster (a : Announce) (s : State) : State :=
  if !a.isMaster || a.refused || a.id == s.ring.hubId then s
  else match s.ring.master with
  | none => formRing a s
  | some m =>
    if m = a.id then { s with ring := { s.ring with masterUid := a.uid } }
    else
      let present := if m = s.ring.hubId then some (ownAnnounce s)
        else (s.ring.members.find? (fun x => x.announce.id == m)).map (fun x => x.announce)
      let stands := match present with
        | some b => outranks a b
        | none => true
      if stands then
        let s1 := takeMaster a true s
        { s1 with ring := { s1.ring with elections := satInc s1.ring.elections } }
      else s

/-- ANNOUNCE: membership, refusal, mastership, ring state (07 R255, R270 to R276, R290). The hub's own ANNOUNCE, back from
around the members, gives the transit time and the length of the ring. -/
def execAnnounce (side : Side) (a : Announce) (s : State) : Out :=
  .next (if a.id = s.ring.hubId ∧ a.uid = Config.uid then
    updateRingState { s with ring := { s.ring with latencyNs := a.transitNs, ownHops := some a.hops } }
  else
    let s1 := refusalCheck a s
    let s2 := if a.id = s.ring.hubId then s1 else noteMember side a s1
    let s3 := offerHandover (personalityCheck a (heedMaster a s2))
    compareGenerations (updateStable (updateRingState s3)))

/-- Members not heard for 3 ANNOUNCE periods leave, and a side on which one has not been heard stops counting as its
route. -/
def pruneMembers (s : State) : State :=
  let t := now s
  let ms := s.ring.members.map (fun m => { m with
    hopsEast := if heardWithin m.lastEast t then m.hopsEast else none
    hopsWest := if heardWithin m.lastWest t then m.hopsWest else none })
  let kept := ms.filter (fun m => m.hopsEast.isSome || m.hopsWest.isSome)
  let gone := (ms.filter (fun m => m.hopsEast.isNone && m.hopsWest.isNone)).map (fun m => m.announce.id)
  leaveRing gone { s with ring := { s.ring with
      members := kept, downHops := s.ring.downHops.filter (fun h => kept.any (fun m => m.announce.id == h)) } }

/-- ANNOUNCE_PERIOD: every 4 frames the hub sends its ANNOUNCE on both sides and drops members it no longer hears (07,
"Membership and mastership"). A hub of the H064 personality whose ID exceeds 7 is refused (07 R255). -/
def execAnnouncePeriod (s : State) : Out :=
  let s0 := if s.host.compat ∧ 7 < hubNum s then refuseHub 2 Config.uid.toNat s else s
  let s1 := pruneMembers s0
  let gone := match s1.ring.master with
    | some m => m != s1.ring.hubId && !s1.ring.members.any (fun x => x.announce.id == m)
    | none => false
  let s2 := if gone then { s1 with ring := { s1.ring with electDue := true } } else s1
  .next (compareGenerations (updateStable (updateRingState (offerHandover
    (send { kind := 0x01, cls := 1, target := none, side := none, payload := announceWords (ownAnnounce s2) } s2)))))

/-- The members elect a new master at a frame boundary without the lost one; no master is known then, so that every started
member is eligible (07 R269, R273, R274). -/
def electMaster (s : State) : State :=
  if s.ring.electDue then
    let lost := s.ring.master
    let s1 := leaveRing lost.toList { s with ring := { s.ring with
        electDue := false, members := s.ring.members.filter (fun m => some m.announce.id != lost) } }
    let s2 := { s1 with ring := { s1.ring with master := none } }
    match namedMaster s2 with
    | some a => updateRingState (changeMaster a 2 s1)
    | none => updateRingState s2
  else s

/-- MASTER_LOST: the next frame boundary elects; before the timebase starts there is none, and the election is held at
once (07 R273). -/
def execMasterLost (s : State) : Out :=
  .next (match s.ring.master with
  | some m =>
    if m = s.ring.hubId then s
    else
      let s1 := { s with ring := { s.ring with electDue := true } }
      if s1.tb.started then s1 else electMaster s1
  | none => s)

/-- FORMING_TIMEOUT: 2 s of FORMING without a master; R270 names one of the membership (07 R275). -/
def execFormingTimeout (s : State) : Out :=
  .next (if s.ring.rstate = .forming ∧ s.ring.master.isNone ∧ s.ring.mrole ≠ .refused then
    match namedMaster s with
    | some a => formRing a s
    | none => s
  else s)

/-- HANDOVER: the master announces its successor and the boundary (07 R271). -/
def execHandover (newMaster : HubId) (h : Nat) (s : State) : Out :=
  .next { s with ring := { s.ring with handover := some (newMaster, h) } }

/-- RING_HANDOVER_BOUNDARY: at H the new master takes ROOT, and the old one follows on the side toward it (07 R271). -/
def execRingHandoverBoundary (s : State) : Out :=
  .next (match s.ring.handover with
  | none => s
  | some (id, h) =>
    let s1 := advanceTo h s
    let old := isMaster s
    let who := if id = s.ring.hubId then some (ownAnnounce s)
      else (s.ring.members.find? (fun m => m.announce.id == id)).map (fun m => m.announce)
    match who with
    | none => { s1 with ring := { s1.ring with handover := none } }
    | some a =>
      let s2 := changeMaster a 1 s1
      let s3 := { s2 with tb := { s2.tb with role := roleOf s2 } }
      if old ∧ id ≠ s.ring.hubId then { s3 with ring := { s3.ring with refSide := some (routeSide s3 id) } } else s3)

/-! ## Breaks, wraps and unwraps (07 R278 to R281) -/

/-- Change the state of a side. -/
def modSide (d : Side) (f : SideState → SideState) (s : State) : State := modTransfer (sideGroup d) f s

/-- The state of a side. -/
def sideOf (s : State) (d : Side) : SideState := transferOf s (sideGroup d)

/-- A side comes up: its exchanges begin anew. The first side of a hub carries traffic at once while the other loops; one
that comes up beside it loops until it is unwrapped (07 R250, R251, R281). -/
def sideUp (d : Side) (s : State) : State :=
  let alone := !(sideOf s (otherSide d)).up
  let s1 := modSide d (fun x => { x with
    up := true, upSince := now s, cleanSince := now s, unwrapped := false, n := 0, rttSum := 0, thetaSum := 0, integ := 0
    rxSeq := none, t1 := none, rxDone := false
    arrived := 0, complete := false, measured := false, looping := if alone then false else x.looping }) s
  updateRingState (if alone then modSide (otherSide d) (fun x => { x with looping := true }) s1 else s1)

/-- A side goes down: the hub sends WRAP on the other side, loops, and reports it (07 R278, Table 7.7). -/
def sideDown (d : Side) (s : State) : State :=
  let neighbour := recSender (sideOf s d).record
  let other := (sideOf s (otherSide d)).up
  let s1 := modSide d (fun x => { x with
    up := false, qualified := false, complete := false, unwrapAt := none, looping := other }) s
  let s2 := { s1 with ring := { s1.ring with members := s1.ring.members.map (fun m => match d with
    | .east => { m with hopsEast := none }
    | .west => { m with hopsWest := none }) } }
  let s3 := if other then
      crit 0x0703 (sideNum d) ([wd (sideNum d), wd neighbour.toNat] ++ split64 (now s))
        (send { kind := 0x03, cls := 0, target := none, side := some (otherSide d)
                payload := wd (hubNum s * 2 + (sideNum d)) :: split64 (now s) }
          (countLedger 18 1 { s2 with ring := { s2.ring with wraps := satInc s2.ring.wraps } }))
    else modSide (otherSide d) (fun x => { x with looping := false }) s2
  updateRingState s3

/-- WRAP: a hub reports its side down; the two ends of a hop wrap together, so its EAST end counts the hop (07 Tables 7.6,
7.7). -/
def execWrap (reporter : HubId) (side : Side) (s : State) : Out :=
  .next (updateRingState (if side = .west ∨ reporter = s.ring.hubId ∨ s.ring.downHops.contains reporter then s
    else { s with ring := { s.ring with downHops := s.ring.downHops ++ [reporter] } }))

/-- SIDE_STABLE: a side up for 1 s with every exchange completed; the hub on the hop's EAST end announces the boundary, once
for each time the side has come up, whether or not it loops itself: its neighbour may (07 R281). -/
def execSideStable (side : Side) (s : State) : Out :=
  let x := sideOf s side
  .next (if side = .east ∧ x.up ∧ !x.unwrapped ∧ x.unwrapAt.isNone ∧ x.cleanSince + ticksPerSecond ≤ now s then
    let u := frameLen * ceilDiv (now s + 16 * frameLen) frameLen
    send { kind := 0x04, cls := 0, target := none, side := none, payload := wd (hubNum s * 2 + (sideNum side)) :: split64 u }
      (modSide side (fun x => { x with unwrapAt := some u }) s)
  else s)

/-- UNWRAP: the hub on a hop's EAST end names the boundary; its neighbour on that hop takes it for its WEST side, and
every hub ends the report of the hop (07 R281). -/
def execUnwrap (reporter : HubId) (side : Side) (u : Nat) (s : State) : Out :=
  let west := s.ring.west
  let mine := side = .east ∧ west.up ∧ west.looping ∧ recSender west.record = reporter
  let s1 := if mine then modSide .west (fun x => { x with unwrapAt := some u }) s else s
  .next (updateRingState { s1 with ring := { s1.ring with downHops := s1.ring.downHops.filter (fun h => h != reporter) } })

/-- UNWRAP_BOUNDARY: at U the side stops looping (07 R281). -/
def execUnwrapBoundary (side : Side) (s : State) : Out :=
  .next (match (sideOf s side).unwrapAt with
  | none => s
  | some u =>
    let s1 := modSide side (fun x => { x with looping := false, unwrapped := true, unwrapAt := none }) (advanceTo u s)
    updateRingState (info 0x0704 (sideNum side) (wd (sideNum side) :: split64 u) s1))

/-! ## Asymmetry (07 R266, R267) -/

/-- The measurement of a side. -/
def asymOf (s : State) : Side → Option AsymMeasure
  | .east => s.ring.asymEast
  | .west => s.ring.asymWest

/-- Replace the measurement of a side. -/
def setAsym (d : Side) (m : Option AsymMeasure) (s : State) : State :=
  match d with
  | .east => { s with ring := { s.ring with asymEast := m } }
  | .west => { s with ring := { s.ring with asymWest := m } }

/-- After N pairs the measurement reports the mean and its standard deviation, and applies the mean if asked to
(07 R266). -/
def finishAsym (d : Side) (m : AsymMeasure) (s : State) : State :=
  let mean : Rat := m.sum / (m.count : Nat)
  let var : Rat := m.sumSq / (m.count : Nat) - mean * mean
  let lane := timingLane s (sideGroup d)
  let mu := rndRat mean
  let s1 := info 0x070B (8 * (sideNum d) + lane) [wd (sideNum d), wd lane, satInt mu, wd (isqrt var.floor.toNat), wd m.count]
    (setAsym d none s)
  if m.apply then
    modSide d (fun x => { x with asym := vsetD x.asym lane (BitVec.ofInt 16 (max (-32768) (min 32767 mu))) }) s1
  else s1

/-- A pair of equal SRC_ID and EDGE_TIME gives one estimate, ASYM + 2 (theta_avg − θ_b) (07 R266). -/
def pairFlash (d : Side) (own other : Flash) (m : AsymMeasure) (s : State) : State :=
  let g := sideGroup d
  let thetaB : Rat := (((own.edge64 : Int) - (other.edge64 : Int) : Int) : Rat) * 8138021 / 6400 - (m.pathPs : Rat)
  let e : Rat := (asymPs s g : Rat) + 2 * ((transferOf s g).thetaAvg - thetaB)
  let m1 := { m with count := m.count + 1, sum := m.sum + e, sumSq := m.sumSq + e * e }
  if m1.n ≤ m1.count then finishAsym d m1 s else setAsym d (some m1) s

/-- Two frames are of one flash. -/
def Flash.matches (a b : Flash) : Bool := a.srcId == b.srcId && a.edgeTime == b.edgeTime

/-- EDGE_REPORT of a frame to the neighbour of a side (07 Table 7.6). -/
def sendEdge (d : Side) (f : Flash) (s : State) : State :=
  send { kind := 0x09, cls := 2, target := some (recSender (sideOf s d).record), side := some d
         payload := f.srcId :: (split64 f.edgeTime ++ split64 (f.edge64 / 64) ++ [wd (f.edge64 % 64)]) } s

/-- What the neighbour of a side has asked. -/
def askedOf (s : State) : Side → Option EdgeAsk
  | .east => s.ring.askedEast
  | .west => s.ring.askedWest

/-- Replace what the neighbour of a side has asked. -/
def setAsked (d : Side) (q : Option EdgeAsk) (s : State) : State :=
  match d with
  | .east => { s with ring := { s.ring with askedEast := q } }
  | .west => { s with ring := { s.ring with askedWest := q } }

/-- The last valid time frame of this hub, if it has received one. -/
def lastFlash (s : State) : Option Flash :=
  let b := s.tb.beacon
  if b.validTime = 0 then none
  else some { srcId := b.srcId, edgeTime := b.edgeTime, edge64 := b.edgeTick * 64 + b.edgeSub.toNat }

/-- A valid time frame of this hub's own: it joins a running measurement, which reports it to the neighbour and so asks for the
neighbour's; or it answers what the neighbour has asked (07 R266; the asking, which no message of Table 7.6 is for, DESIGN
CHOICE, assumption 158). -/
def ownFlash (d : Side) (f : Flash) (s : State) : State :=
  match asymOf s d, askedOf s d with
  | some m, _ =>
    let s1 := sendEdge d f s
    (match m.neighbour.find? (fun x => x.matches f) with
    | some x => pairFlash d f x { m with neighbour := m.neighbour.erase x } s1
    | none => setAsym d (some { m with own := m.own ++ [f] }) s1)
  | none, some q =>
    if q.flash.matches f && !q.answered then sendEdge d f (setAsked d (some { q with answered := true }) s) else s
  | none, none => s

/-- The neighbour of a side asks about a frame: this hub answers with its own, now or when it arrives, and once. -/
def askEdge (d : Side) (f : Flash) (s : State) : State :=
  if ((askedOf s d).map (fun q => q.answered && q.flash.matches f)).getD false then s
  else match (lastFlash s).filter (fun x => x.matches f) with
    | some x => sendEdge d x (setAsked d (some { flash := f, answered := true }) s)
    | none => setAsked d (some { flash := f, answered := false }) s

/-- EDGE_REPORT: the neighbour's frame joins a running measurement, or asks for this hub's (07 R266). -/
def execEdgeReport (side : Side) (srcId : Word) (edgeTime edge64 : Nat) (s : State) : Out :=
  let f : Flash := { srcId := srcId, edgeTime := edgeTime, edge64 := edge64 }
  .next (match asymOf s side with
  | none => askEdge side f s
  | some m => match m.own.find? (fun x => x.matches f) with
    | some x => pairFlash side x f { m with own := m.own.erase x } s
    | none => setAsym side (some { m with neighbour := m.neighbour ++ [f] }) s)

/-! ## The frame boundary -/

/-- The hub is a ring of one that has no master yet (07 R251). -/
def isLone (s : State) : Bool :=
  !s.ring.east.up && !s.ring.west.up && s.ring.master.isNone && s.ring.mrole != .refused

/-- The ring at frame boundary `f`, before the timebase selects its reference: records and reference side, an election
that is due, a ring of one (07 R251), the role of 08 R340, and the time spent in MISMATCH (07 R277). -/
def ringFrame (f : Nat) (s : State) : State :=
  let s0 := electMaster (peerReference (ringReference s))
  let s1 := if isLone s0 then formRing (ownAnnounce s0) s0 else s0
  let s2 := { s1 with tb := { s1.tb with role := roleOf s1 } }
  updateStable { s2 with ring := { s2.ring with
    mismatchSince := if s2.tb.state = .mismatch ∧ s2.tb.ringOk then (if s2.ring.mismatchSince = 0 then f else s2.ring.mismatchSince)
      else 0 } }

/-- R277 applies: MISMATCH for MISMATCH_S while a RING reference qualifies, with AUTO_RESET. -/
def mismatchDue (s : State) : Bool :=
  s.tb.state == .mismatch && s.tb.ringOk && s.ring.policy0.bit 15 && decide (0 < s.ring.mismatchSince)
    && decide (s.ring.mismatchSince + ticksPerSecond * s.ring.policy1.field 31 16 ≤ now s)

/-! ## Commands (07, "Commands and parameter blocks") -/

/-- RING_SET_POLICY (07 R293, Table 7.12). -/
def rulesRingSetPolicy : Rules :=
  { op := .ringSetPolicy, minLen := 2, maxLen := 2, issuers := pf0, configures := true,
    form := fun p _ => firstBad [(0, rsv (p.w 0) 0x00001F00 && decide (4 ≤ (p.w 0).field 7 0) && (p.w 0).field 31 16 != 0),
      (1, rsv (p.w 1) 0x0000FFFF && (p.w 1).field 31 16 != 0)],
    run := fun p s => let f := defaultBoundary false p s; .done (stage f (.ringPolicy (p.w 0) (p.w 1)) s) [] f }

/-- RING_SET_POLICY. -/
def execRingSetPolicy (p : Packet) (s : State) : Out := .next (takeCommand rulesRingSetPolicy p s)

/-- The side that bit 0 of a word names. -/
def sideBit (w : Word) : Side := if w.bit 0 then .west else .east

/-- RING_SET_HOP (07, "Commands and parameter blocks"). -/
def rulesRingSetHop : Rules :=
  { op := .ringSetHop, minLen := 4, maxLen := 4, issuers := pf0, configures := true,
    form := fun p _ => firstBad [(0, rsv (p.w 0) 0xFFFFFFFE), (3, rsv (p.w 3) 0xFFFF0000)],
    run := fun p s =>
      let f := defaultBoundary false p s
      let a : Vector (BitVec 16) 5 := Vector.ofFn (fun i : Fin 5 =>
        BitVec.ofNat 16 ((p.w (1 + i.val / 2)).field (16 * (i.val % 2) + 15) (16 * (i.val % 2))))
      .done (stage f (.ringHop (sideBit (p.w 0)) a) s) [] f }

/-- RING_SET_HOP. -/
def execRingSetHop (p : Packet) (s : State) : Out := .next (takeCommand rulesRingSetHop p s)

/-- RING_SET_IDENTITY: the record is written at once and takes effect at the next chip reset (07 R254, R293). -/
def rulesRingSetIdentity : Rules :=
  { op := .ringSetIdentity, minLen := 1, maxLen := 1, issuers := pf0, configures := true,
    form := fun p s => firstBad [(0, rsv (p.w 0) 0x3FFFFFE0 && !(s.host.compat && decide (7 < (p.w 0).field 4 0)))],
    run := fun p s => .done { s with ao := { s.ao with identity := p.w 0 } } [] (now s) }

/-- RING_SET_IDENTITY. -/
def execRingSetIdentity (p : Packet) (s : State) : Out := .next (takeCommand rulesRingSetIdentity p s)

/-- Code of a ring state (07 Table 7.5). -/
def RState.code : RState → Nat
  | .alone => 0 | .forming => 1 | .closed => 2 | .wrapped => 3 | .segmented => 4

/-- Code of the hub's place in the ring (07 Table 7.14). -/
def MRole.code : MRole → Nat
  | .member => 0 | .master => 1 | .segmentMaster => 2 | .refused => 3

/-- The words of RING_READ_STATUS (07 Table 7.14). -/
def ringStatusWords (s : State) : List Word :=
  let r := s.ring
  [wd (r.rstate.code * 536870912 + r.mrole.code * 134217728 + r.refuse.toNat * 33554432
      + (r.master.getD 0).toNat * 1048576 + hubNum s * 32768 + r.hops.toNat * 1024 + b01 (r.refSide == some .west) * 512),
    wd (memberMask s), r.stable, r.generation, halves r.wraps.toNat r.elections.toNat, r.latencyNs]
  ++ split64 r.masterUid.toNat

/-- RING_READ_STATUS. -/
def rulesRingReadStatus : Rules :=
  { op := .ringReadStatus, minLen := 0, maxLen := 0, issuers := anyFn, configures := false,
    run := fun _ s => .done s (ringStatusWords s) (now s) }

/-- RING_READ_STATUS. -/
def execRingReadStatus (p : Packet) (s : State) : Out := .next (takeCommand rulesRingReadStatus p s)

/-- The words of RING_READ_HOP (07 Table 7.15). -/
def ringHopWords (d : Side) (s : State) : List Word :=
  let x := sideOf s d
  let a := fun (i : Nat) => (vgetD x.asym i 0).toNat
  [wd (b01 x.up * 2147483648 + b01 x.qualified * 1073741824 + (recSender x.record).toNat * 33554432
      + timingLane s (sideGroup d) * 4194304),
    satInt (x.rttAvg / 2).floor, satInt x.thetaAvg.floor, halves x.ttLost.toNat x.outliers.toNat, halves (a 1) (a 0),
    halves (a 3) (a 2), halves 0 (a 4)]

/-- RING_READ_HOP. -/
def rulesRingReadHop : Rules :=
  { op := .ringReadHop, minLen := 1, maxLen := 1, issuers := anyFn, configures := false,
    form := fun p _ => firstBad [(0, rsv (p.w 0) 0xFFFFFFFE)],
    run := fun p s => .done s (ringHopWords (sideBit (p.w 0)) s) (now s) }

/-- RING_READ_HOP. -/
def execRingReadHop (p : Packet) (s : State) : Out := .next (takeCommand rulesRingReadHop p s)

/-- RING_ASYM_MEASURE: a new measurement replaces one that runs on the side (07 R266, R293). -/
def rulesRingAsymMeasure : Rules :=
  { op := .ringAsymMeasure, minLen := 2, maxLen := 2, issuers := pf0, configures := false,
    form := fun p _ => firstBad [(0, rsv (p.w 0) 0x7F0000FE && decide (16 ≤ (p.w 0).field 23 8))],
    run := fun p s =>
      .done (setAsym (sideBit (p.w 0)) (some
        { apply := (p.w 0).bit 31, n := (p.w 0).field 23 8, pathPs := (p.w 1).toInt, count := 0, sum := 0, sumSq := 0,
          own := [], neighbour := [] }) s) [] (now s) }

/-- RING_ASYM_MEASURE. -/
def execRingAsymMeasure (p : Packet) (s : State) : Out := .next (takeCommand rulesRingAsymMeasure p s)

end Sys2Proof.Machine
end

