-- ==== Sys2Proof/Machine/Beacon.lean ====
section
/-!
DEFINITION. The optical beacon (06, "The optical beacon"): frame acceptance, time frames with acquisition and time steps,
commands with their counter, slots and loss, BCN_SET and BCN_READ.
-/
namespace Sys2Proof
open Sys2Proof.Machine

/-! ## The fields of a frame (06 Tables 6.8 to 6.11) -/

/-- TYPE of a frame. -/
def BeaconFrame.type (f : BeaconFrame) : Nat := ((f.bytes[0]?).getD 0).toNat

/-- LEN of a frame. -/
def BeaconFrame.len (f : BeaconFrame) : Nat := ((f.bytes[1]?).getD 0).toNat

/-- PAYLOAD of a frame. -/
def BeaconFrame.payload (f : BeaconFrame) : List Byte := (f.bytes.drop 2).take (f.bytes.length - 6)

/-- Payload bytes `i` to `j` as a little-endian number. -/
def BeaconFrame.num (f : BeaconFrame) (i j : Nat) : Nat := leNat ((f.payload.drop i).take (j + 1 - i))

/-- The check value is correct (06 Table 6.8). -/
def BeaconFrame.checked (f : BeaconFrame) : Bool :=
  decide (f.bytes.length = f.len + 6)
    && (crc32c (f.bytes.take (f.len + 2))).toNat == leNat (f.bytes.drop (f.len + 2))

/-- A TIME frame carries AUTH. -/
def BeaconFrame.authed (f : BeaconFrame) : Bool := (f.num 10 10).testBit 3

/-- The number of argument bytes of a command of Table 6.11. -/
def beaconArgs (opcode : Nat) : Option Nat :=
  if opcode = 1 then some 0 else if opcode = 2 then some 4 else if opcode = 3 then some 1 else none

/-- LEN suits TYPE (06 Tables 6.9, 6.10), a command's arguments those of Table 6.11. -/
def BeaconFrame.suits (f : BeaconFrame) : Bool :=
  if f.type = 1 then f.len == (if f.authed then 24 else 16)
  else decide (20 ≤ f.len) && f.len == 20 + f.num 9 9 && decide (f.num 9 9 ≤ 16)
    && (match beaconArgs (f.num 8 8) with
      | some n => f.num 9 9 == n
      | none => true)

/-- Every reserved field is 0 (06 Tables 6.9 to 6.11). -/
def BeaconFrame.reservedZero (f : BeaconFrame) : Bool :=
  if f.type = 1 then f.num 10 10 < 16
  else f.num 10 11 == 0 && (f.num 8 8 != 3 || decide (f.num 12 12 < 32))

/-- COUNTER of a frame, 0 of a TIME frame. -/
def BeaconFrame.counter (f : BeaconFrame) : Nat := if f.type = 2 then f.num 4 7 else 0

end Sys2Proof

namespace Sys2Proof.Machine
open Sys2Proof

/-! ## Frames (06 Tables 6.8 to 6.11, R232, R233) -/

/-- The beacon key (16 R631): the HMAC of MLDX-BEACON under the slot-0 key. -/
def beaconKey (s : State) : Option (List Byte) :=
  (vget s.ao.keys 0).key.map (fun k => hmac (keyBytes k) [0x4D, 0x4C, 0x44, 0x58, 0x2D, 0x42, 0x45, 0x41, 0x43, 0x4F, 0x4E])

/-- The MAC is correct; without a beacon key every check fails (06 Tables 6.9, 6.10; 16 R631). -/
def beaconMac (f : BeaconFrame) (s : State) : Bool :=
  match beaconKey s with
  | none => false
  | some k => mac64 k (f.bytes.take (f.len - 6)) == BitVec.ofNat 64 (f.num (f.len - 8) (f.len - 1))

/-- Change the beacon. -/
def modBeacon (f : Beacon → Beacon) (s : State) : State := { s with tb := { s.tb with beacon := f s.tb.beacon } }

/-- A MAC failure or a stale counter: counted and reported (06 Tables 6.20, 6.21). -/
def beaconAuthFail (type counter : Nat) (s : State) : State :=
  crit 0x060E 0 [wd type, wd counter] (modBeacon (fun b => { b with authFail := satInc b.authFail }) s)

/-! ## Time frames (06 R235, R236, R219, R238) -/

/-- E of a valid time frame in ns (06, "Acquisition and loss"): the structure time of the epoch edge under the anchor in force
at it (06 R205), extended to the fraction of a cycle, less EDGE_TIME and DELAY_NS. -/
def beaconOffset (f : BeaconFrame) (s : State) : Rat :=
  let m := momentAt f.edgeTick s
  let d : Int := ((f.edgeTick : Int) - (m.anchorTick : Int)) * 64 + (f.edgeSub.toNat : Int)
  let x : Int := signedField 64 (toField 64 ((m.anchorTime : Int) - (f.num 0 7 : Int)))
  (x : Rat) * 1000000000 / 4294967296 + (d : Rat) * 1000000000 / (64 * 12288000) - (s.tb.bcnWord.field 15 0 : Nat)

/-- The anchor that makes E of a frame zero, at boundary `f0` (06 R219). -/
def beaconAnchor (f : BeaconFrame) (f0 : Nat) (s : State) : Nat :=
  let d : Int := ((f0 : Int) - (f.edgeTick : Int)) * 64 - (f.edgeSub.toNat : Int)
  let x : Rat := (f.num 0 7 : Nat) + (s.tb.bcnWord.field 15 0 : Nat) * 4294967296 / 1000000000 + (d : Rat) * 4294967296 / (64 * 12288000)
  toField 64 x.floor

/-- The first frame boundary at least 16 frames ahead (06 R209). -/
def stepBoundary (s : State) : Nat := frameLen * ceilDiv (now s + 16 * frameLen) frameLen

/-- Root of the timebase, the acquired transmitter's frame steps structure time or steers the phase (06 R219); with
TIME_EN it also brings UTC_OFFSET and the leap flags (06 R211). -/
def beaconSteer (f : BeaconFrame) (e : Rat) (s : State) : State :=
  if s.tb.role ≠ .root then s
  else
    let s1 := if timeEn s then { s with tb := { s.tb with
        utcOffset := BitVec.ofNat 16 (f.num 8 9), leapIns := (f.num 10 10).testBit 0, leapDel := (f.num 10 10).testBit 1 } } else s
    if (bcnPhase s || timeEn s) && s.tb.started
        && (!s.tb.timeValid || decide ((s.tb.sources1.field 19 0 * 1000 : Nat) < ratAbs e)) then
      let b := stepBoundary s
      stage b (.timeStep { anchor := none, time := beaconAnchor f b s, gen := none, valid := true, src := .beacon, leap := none }) s1
    else s1

/-- The last three of a run of valid time frames carry one SRC_ID and lie within 2 µs of one another (06 R235). -/
def beaconRunGood (run : List (Word × Int)) : Bool :=
  match run with
  | [a, b, c] => a.1 == b.1 && b.1 == c.1 && decide (max a.2 (max b.2 c.2) - min a.2 (min b.2 c.2) ≤ 2000)
  | _ => false

/-- PERIOD in 1/64 cycle (06 R236). -/
def slotPeriod (s : State) : Nat := s.tb.bcnWord.field 23 16 * 64 * ticksPerSecond

/-- The closing of the slot that a frame's epoch edge centres (06 R236). -/
def slotClose (f : BeaconFrame) (s : State) : Nat := f.edgeTick * 64 + f.edgeSub.toNat + slotPeriod s / 2

/-- A valid time frame in SEARCH or ACQUIRED (06 R235 to R238, R217). -/
def beaconTime (f : BeaconFrame) (s : State) : State :=
  let e := beaconOffset f s
  let ns := rndRat e
  let src := wd (f.num 12 15)
  let s1 := modBeacon (fun b => { b with
    validTime := satInc b.validTime, edgeTick := f.edgeTick, edgeSub := f.edgeSub, edgeTime := f.num 0 7, offsetNs := ns
    srcId := src }) s
  let flash : Flash := { srcId := src, edgeTime := f.num 0 7, edge64 := f.edgeTick * 64 + f.edgeSub.toNat }
  let s2 := ownFlash .west flash (ownFlash .east flash s1)
  match s2.tb.beacon.state with
  | .off => s2
  | .search =>
    let run := ((src, ns) :: s2.tb.beacon.run).take 3
    if beaconRunGood run then
      beaconSteer f e (info 0x0609 0 [src, satInt ns] (modBeacon (fun b => { b with
        state := .acquired, run := [], badRun := 0, acquiredId := src, slotGood := true, slotEnd := slotClose f s,
        within2us := 0, beyond8us := 0 }) s2))
    else modBeacon (fun b => { b with run := run }) s2
  | .acquired =>
    if src ≠ s2.tb.beacon.acquiredId then s2
    else
      let near : Bool := decide (ns.natAbs ≤ 2000) && decide (0 < s2.tb.lockRun)
      let far : Bool := decide (8000 < ns.natAbs)
      beaconSteer f e (modBeacon (fun b => { b with
        slotGood := true, slotEnd := slotClose f s, within2us := if near then b.within2us + 1 else b.within2us
        beyond8us := if far then b.beyond8us + 1 else 0 }) s2)

/-! ## Commands of the beacon (06 R234, Table 6.11) -/

/-- A valid COMMAND: an unknown opcode and a stale counter are counted whomever it addresses, and one that CMD_EN and TARGET
admit is executed: the counter, and the action (06 R234; 07 R254; 16 R630). -/
def beaconCommand (f : BeaconFrame) (s : State) : State :=
  let target := f.num 0 3
  let c := f.num 4 7
  if (beaconArgs (f.num 8 8)).isNone then modBeacon (fun b => { b with unknown := satInc b.unknown }) s
  else if c ≤ s.ao.bcnCounter.toNat then beaconAuthFail 2 c s
  else if !s.tb.bcnWord.bit 29 || !(target == 0xFFFFFFFF || target == Config.uid.toNat % 4294967296) then s
  else
    let s1 := { s with ao := { s.ao with
        bcnCounter := wd c, bcnRes := if s.ao.bcnRes.toNat ≤ c then wd (c + 65536) else s.ao.bcnRes } }
    let s2 := modBeacon (fun b => { b with validCmd := satInc b.validCmd }) s1
    if f.num 8 8 = 1 then info 0x060B 0 [s2.tb.beacon.srcId, wd c] s2
    else if f.num 8 8 = 2 then
      info 0x060C 0 (wd (f.num 12 15) :: split64 f.edgeTick ++ [wd f.edgeSub.toNat]) s2
    else
      let id := f.num 12 12
      info 0x060D 0 [wd id]
        (if s2.ao.identity.bit 30 then
          { s2 with ao := { s2.ao with identity := (s2.ao.identity &&& 0x7FFFFFE0) ||| wd (2147483648 + id) } } else s2)

/-! ## Reception (06 R232, R233) -/

/-- A frame received whole: bad under the first cause that holds, in the order of R232, or applied by its type. -/
def beaconReceive (f : BeaconFrame) (s : State) : State :=
  if s.tb.beacon.state = .off then s
  else
    let s0 := modBeacon (fun b => { b with bgUa := f.bgUa, notch0 := f.notch0, notch1 := f.notch1 }) s
    if !f.checked then modBeacon (fun b => { b with crcErr := satInc b.crcErr }) s0
    else if f.manchester then modBeacon (fun b => { b with manchErr := satInc b.manchErr }) s0
    else if !f.linear then modBeacon (fun b => { b with satAbort := satInc b.satAbort }) s0
    else if f.type ≠ 1 ∧ f.type ≠ 2 then modBeacon (fun b => { b with unknown := satInc b.unknown }) s0
    else if !f.suits then modBeacon (fun b => { b with lenErr := satInc b.lenErr }) s0
    else if !f.reservedZero then modBeacon (fun b => { b with rsvErr := satInc b.rsvErr }) s0
    else if (f.type = 2 ∨ f.authed) ∧ !beaconMac f s0 then beaconAuthFail f.type f.counter s0
    else if f.type = 2 then beaconCommand f s0
    else if s0.tb.bcnWord.bit 28 && !f.authed then s0
    else beaconTime f s0

/-- BEACON_TIME_FRAME (06 R232 to R238). -/
def execBeaconTimeFrame (f : BeaconFrame) (s : State) : Out := .next (beaconReceive f s)

/-- BEACON_COMMAND_FRAME (06 R232, R234). -/
def execBeaconCommandFrame (f : BeaconFrame) (s : State) : Out := .next (beaconReceive f s)

/-- A slot closes in the frame in progress, and the next one begins (06 R236). -/
def slotCloses (s : State) : Bool :=
  s.tb.beacon.state == .acquired && decide (s.tb.beacon.slotEnd < 64 * (s.tb.frameTick + frameLen))

/-- BEACON_SLOT_CLOSE: the slot that closes in the frame in progress is bad without a valid time frame of the acquired
transmitter, and three in a row lose the beacon (06 R236, R237). -/
def execBeaconSlotClose (s : State) : Out :=
  .next (if !slotCloses s then s
  else
    let b := s.tb.beacon
    let s0 := modBeacon (fun b => { b with slotEnd := b.slotEnd + slotPeriod s }) (advanceTo (ceilDiv b.slotEnd 64) s)
    if b.slotGood then modBeacon (fun b => { b with slotGood := false, badRun := 0 }) s0
    else
    let run := b.badRun + 1
    let s1 := modBeacon (fun b => { b with badSlots := satInc b.badSlots, badRun := run }) s0
    if run < 3 then s1
    else
      let c := s1.tb.beacon
      crit 0x060A 0 [wd c.satAbort.toNat, wd c.crcErr.toNat, wd c.badSlots.toNat]
        (modBeacon (fun b => { b with state := .search, run := [] }) s1))

/-! ## Commands (06, "Commands and parameter blocks") -/

/-- BCN_SET (06 R246, Table 6.17). -/
def rulesBcnSet : Rules :=
  { op := .bcnSet, minLen := 1, maxLen := 1, issuers := pf0, configures := true, mirrored := fun _ => true,
    form := fun p _ => firstBad [(0, rsv (p.w 0) 0x0F000000 && (p.w 0).field 23 16 != 0)],
    run := fun p s => let f := defaultBoundary true p s; .done (stage f (.bcnSet (p.w 0)) s) [] f }

/-- BCN_SET. -/
def execBcnSet (p : Packet) (s : State) : Out := .next (takeCommand rulesBcnSet p s)

/-- Code of a beacon state (06 Table 6.20). -/
def BState.code : BState → Nat
  | .off => 0 | .search => 1 | .acquired => 2

/-- The words of BCN_READ (06 Table 6.20). -/
def bcnWords (s : State) : List Word :=
  let b := s.tb.beacon
  [wd (b.state.code * 1073741824 + min b.badRun 3 * 268435456 + b.notch0.toNat * 1024 + b.notch1.toNat),
    halves b.validTime.toNat b.validCmd.toNat, halves b.crcErr.toNat b.manchErr.toNat,
    halves b.satAbort.toNat b.authFail.toNat, halves b.badSlots.toNat b.unknown.toNat]
  ++ split64 b.edgeTick ++ [wd b.edgeSub.toNat] ++ split64 b.edgeTime
  ++ [satInt b.offsetNs, b.srcId, wd b.bgUa.toNat]

/-- BCN_READ. -/
def rulesBcnRead : Rules :=
  { op := .bcnRead, minLen := 0, maxLen := 0, issuers := anyFn, configures := false,
    run := fun _ s => .done s (bcnWords s) (now s) }

/-- BCN_READ. -/
def execBcnRead (p : Packet) (s : State) : Out := .next (takeCommand rulesBcnRead p s)

end Sys2Proof.Machine
end

