-- ==== Sys2Proof/Machine/Codec.lean ====
section
/-!
DEFINITION. The compressed block (11): prediction, Rice codes, flag sections and the choice of a block (R426 to R430,
R432), and their inverse (R426, R438), over whole tiers.
-/
namespace Sys2Proof.Machine
open Sys2Proof

/-! ## Prediction (11 R426) -/

/-- A reset state (11, "Prediction and coding"). -/
def ColState.fresh : ColState := { x1 := 0, x2 := 0, hist := 0, a := 256, n := 1 }

/-- clamp (11 R426). -/
def clamp24 (x : Int) : Int := if 8388607 < x then 8388607 else if x < -8388608 then -8388608 else x

/-- tp1 of the next sample (11 R426). -/
def ColState.tp1 (c : ColState) : Int := if c.hist = 0 then 0 else c.x1

/-- tp2 of the next sample (11 R426). -/
def ColState.tp2 (c : ColState) : Int := if c.hist = 0 then 0 else if c.hist = 1 then c.x1 else 2 * c.x1 - c.x2

/-- predict (11 R426); `sum` is the weighted sum of the neighbours' differences at this sample. -/
def ColState.predict (c : ColState) (pred : Nat) (sum : Int) : Int :=
  if pred = 0 then clamp24 c.tp1 else if pred = 1 then clamp24 c.tp2 else clamp24 (c.tp2 + Int.fdiv sum 64)

/-- kparam (11 R426). -/
def ColState.kparam (c : ColState) : Nat := ((List.range 25).find? (fun k => decide (c.a ≤ c.n * 2 ^ k))).getD 24

/-- update (11 R426). -/
def ColState.update (c : ColState) (u : Nat) : ColState :=
  if c.n + 1 = 16 then { c with a := (c.a + u) / 2, n := 8 } else { c with a := c.a + u, n := c.n + 1 }

/-- A value enters the history; X2 takes the last value only where that is valid (11 R426). -/
def ColState.push (c : ColState) (v : Int) : ColState := { c with x1 := v, x2 := if c.hist = 0 then c.x2 else c.x1, hist := min 2 (c.hist + 1) }

/-- zigzag (11 R426). -/
def zigzag (r : Int) : Nat := if 0 ≤ r then (2 * r).toNat else (-2 * r - 1).toNat

/-- The inverse of zigzag (11 R426). -/
def unzigzag (u : Nat) : Int := if u % 2 = 0 then ((u / 2 : Nat) : Int) else -(((u + 1) / 2 : Nat) : Int)

/-! ## Bits (11 R427, R429) -/

/-- The low `n` bits of a number, most significant first. -/
def bitsOf (n v : Nat) : List Bool := (List.range n).map (fun i => v.testBit (n - 1 - i))

/-- The number that bits spell, most significant first. -/
def natOfBits (bs : List Bool) : Nat := bs.foldl (fun a b => 2 * a + b01 b) 0

/-- The Rice code of `u` with parameter `k` (11 R427). -/
def riceCode (k u : Nat) : List Bool :=
  let q := u / 2 ^ k
  if q < 32 then List.replicate q true ++ [false] ++ bitsOf k u else List.replicate 32 true ++ bitsOf 25 u

/-- Read a Rice code: the residual and the bits left (11 R427). -/
def readRice (k : Nat) (bs : List Bool) : Option (Nat × List Bool) :=
  let q := (bs.take 32).takeWhile id |>.length
  if q = 32 then
    if bs.length < 57 then none else some (natOfBits ((bs.drop 32).take 25), bs.drop 57)
  else if bs.length < q + 1 + k then none
  else some (q * 2 ^ k + natOfBits ((bs.drop (q + 1)).take k), bs.drop (q + 1 + k))

/-- Words of a bit string, bit 31 first, padded with zeros (11 R429), `n` of them. -/
def packWords : Nat → List Bool → List Word
  | 0, _ => []
  | n + 1, bs => wd (natOfBits ((bs.take 32) ++ List.replicate (32 - min 32 bs.length) false)) :: packWords n (bs.drop 32)

/-- The bits of words, bit 31 first. -/
def unpackWords (ws : List Word) : List Bool := ws.flatMap (fun w => bitsOf 32 w.toNat)

/-! ## Flag sections (11 Table 11.2) -/

/-- Runs of equal bytes. -/
def runsOf : List Nat → List (Nat × Nat)
  | [] => []
  | x :: xs => match runsOf xs with
    | (y, n) :: rest => if x = y then (y, n + 1) :: rest else (x, 1) :: (y, n) :: rest
    | [] => [(x, 1)]

/-- The flag section of fewest bits, the lower FMODE on a tie: its FMODE and bits (11 R430). -/
def flagSection (fs : List Nat) : Nat × List Bool :=
  let runs := runsOf fs
  if runs.length ≤ 1 then (0, bitsOf 8 (fs.headD 0))
  else if 8 + 16 * runs.length ≤ 8 * fs.length then
    (1, bitsOf 8 (runs.length - 1) ++ runs.flatMap (fun r => bitsOf 8 r.1 ++ bitsOf 8 (r.2 - 1)))
  else (2, fs.flatMap (bitsOf 8))

/-- Read the runs of a flag section: `r` of them, for `ns` samples. -/
def readRuns : Nat → Nat → List Bool → Option (List Nat × List Bool)
  | 0, ns, bs => if ns = 0 then some ([], bs) else none
  | r + 1, ns, bs =>
    let len := natOfBits ((bs.drop 8).take 8) + 1
    if bs.length < 16 ∨ ns < len then none
    else match readRuns r (ns - len) (bs.drop 16) with
      | some (fs, rest) => some (List.replicate len (natOfBits (bs.take 8)) ++ fs, rest)
      | none => none

/-- Read a flag section: the flag bytes and the bits left. -/
def readFlags (fmode ns : Nat) (bs : List Bool) : Option (List Nat × List Bool) :=
  if fmode = 0 then
    if bs.length < 8 then none else some (List.replicate ns (natOfBits (bs.take 8)), bs.drop 8)
  else if fmode = 1 then
    if bs.length < 8 then none else readRuns (natOfBits (bs.take 8) + 1) ns (bs.drop 8)
  else if bs.length < 8 * ns then none
  else some ((List.range ns).map (fun i => natOfBits ((bs.drop (8 * i)).take 8)), bs.drop (8 * ns))

/-! ## Encoding a block (11 R428 to R430, R432) -/

/-- Encode values under a predictor: the codes and the state left behind; `sums` are the neighbours' weighted sums. -/
def encodeValues (pred : Nat) : ColState → List Int → List Int → List Bool × ColState
  | c, v :: vs, sums =>
    let u := zigzag (v - c.predict pred (sums.headD 0))
    let (bits, c') := encodeValues pred ((c.update u).push v) vs (sums.drop 1)
    (riceCode c.kparam u ++ bits, c')
  | c, [], _ => ([], c)

/-- The state a raw block leaves behind: as though coded under PRED 1 (11 R426). -/
def rawState : ColState → List Int → ColState
  | c, v :: vs => rawState ((c.update (zigzag (v - c.predict 1 0))).push v) vs
  | c, [] => c

/-- The differences v - tp2 of a column over a tier (11 R426, predictor 2 of later columns). -/
def columnDiffs : ColState → List Int → List Int
  | c, v :: vs => (v - c.tp2) :: columnDiffs (c.push v) vs
  | _, [] => []

/-- The weighted sums of a column's neighbours over a tier. -/
def weightedSums (ns : Nat) (neighbours : List (Nat × Int)) (diffs : List (List Int)) : List Int :=
  (List.range ns).map (fun i => neighbours.foldl (fun a n => a + n.2 * (((diffs[n.1]?).getD [])[i]?).getD 0) 0)

/-- The predictors an effort tries (11 Table 11.3). -/
def effortPreds (effort : Nat) : List Nat :=
  if effort = 0 then [] else if effort = 1 then [1] else if effort = 2 then [1, 2] else [0, 1, 2]

/-- An encoded block: its words, the state it leaves, whether it is raw, and whether verification failed. -/
structure Block where
  words : List Word
  state : ColState
  raw : Bool
  failed : Bool

/-- The header of a block (11 Table 11.1). -/
def blockHeader (type pred fmode ns len : Nat) : Word :=
  wd (type * 1073741824 + pred * 268435456 + fmode * 67108864 + (ns - 1) * 262144 + len * 256)

/-- Encode a block of sample words at an effort (11 R430); one whose verification fails is written raw (11 R432). -/
def encodeBlock (effort : Nat) (fault : Bool) (c : ColState) (ws : List Word) (sums : List Int) : Block :=
  let vs := ws.map sampleValue
  let ns := ws.length
  let (fmode, flags) := flagSection (ws.map (fun w => w.field 7 0))
  let cands := (effortPreds effort).map (fun p => (p, encodeValues p c vs sums))
  let best := cands.foldl (fun (acc : Option (Nat × List Bool × ColState)) x => match acc with
    | none => some x
    | some y => if x.2.1.length < y.2.1.length then some x else some y) none
  let raw := fun (failed : Bool) => ({ words := blockHeader 1 1 0 ns ns :: ws, state := rawState c vs, raw := true, failed := failed } : Block)
  match best with
  | none => raw false
  | some (pred, bits, c') =>
    let len := ceilDiv (flags.length + bits.length) 32
    if ns ≤ len then raw false
    else if fault then raw true
    else { words := blockHeader 0 pred fmode ns len :: packWords len (flags ++ bits), state := c', raw := false, failed := false }

/-- A tier encoded: the words of its blocks in column order, the states left, the columns written raw and those whose
verification failed. -/
structure Tier where
  words : List Word
  states : List ColState
  diffs : List (List Int)
  raws : Nat
  failed : List Nat

/-- Encode a tier: `cols` are the columns with their state and their sample words (11 R426, R430). -/
def encodeTier (effort : Nat) (faults : List Nat) (cols : List (Column × ColState × List Word)) : Tier :=
  (cols.zip (List.range cols.length)).foldl (fun t x =>
    let ((col, st, ws), i) := x
    let b := encodeBlock effort (faults.contains i) st ws (weightedSums ws.length col.neighbours t.diffs)
    { words := t.words ++ b.words, states := t.states ++ [b.state], diffs := t.diffs ++ [columnDiffs st (ws.map sampleValue)],
      raws := t.raws + b01 b.raw, failed := if b.failed then t.failed ++ [i] else t.failed })
    { words := [], states := [], diffs := [], raws := 0, failed := [] }

/-! ## Decoding a block (11 R426, R438) -/

/-- Decode the values of a coded block. -/
def decodeValues (pred : Nat) : Nat → ColState → List Int → List Bool → Option (List Int × ColState × List Bool)
  | 0, c, _, bs => some ([], c, bs)
  | n + 1, c, sums, bs => match readRice c.kparam bs with
    | none => none
    | some (u, rest) =>
      let v := c.predict pred (sums.headD 0) + unzigzag u
      if v < -8388608 ∨ 8388607 < v then none
      else match decodeValues pred n ((c.update u).push v) (sums.drop 1) rest with
        | some (vs, c', left) => some (v :: vs, c', left)
        | none => none

/-- Decode a block of `ns` samples from the words that follow: its sample words, the state left, and the words left; none
where the block is malformed. -/
def decodeBlock (ns : Nat) (c : ColState) (sums : List Int) (ws : List Word) : Option (List Word × ColState × List Word) :=
  match ws with
  | [] => none
  | h :: rest =>
    let type := h.field 31 30
    let pred := h.field 29 28
    let fmode := h.field 27 26
    let len := h.field 17 8
    let payload := rest.take len
    if h.field 25 18 + 1 ≠ ns ∨ h.field 7 0 ≠ 0 ∨ payload.length ≠ len then none
    else if type = 1 then
      if pred = 1 ∧ fmode = 0 ∧ len = ns then some (payload, rawState c (payload.map sampleValue), rest.drop len) else none
    else if type ≠ 0 ∨ pred = 3 ∨ fmode = 3 then none
    else match readFlags fmode ns (unpackWords payload) with
      | none => none
      | some (fs, bits) => match decodeValues pred ns c sums bits with
        | none => none
        | some (vs, c', left) =>
          if 32 ≤ left.length ∨ left.any id then none
          else some ((vs.zip fs).map (fun x => wd (toField 24 x.1 * 256 + x.2)), c', rest.drop len)

/-- A tier decoded: the sample words of each column, the states left, and the words left. -/
structure Untier where
  cols : List (List Word)
  states : List ColState
  diffs : List (List Int)
  rest : List Word

/-- Decode a tier of `ns` samples; none where it is malformed. -/
def decodeTier (ns : Nat) (cols : List (Column × ColState)) (ws : List Word) : Option Untier :=
  cols.foldl (fun acc x => match acc with
    | none => none
    | some t => match decodeBlock ns x.2 (weightedSums ns x.1.neighbours t.diffs) t.rest with
      | none => none
      | some (out, c', rest) =>
        some { cols := t.cols ++ [out], states := t.states ++ [c'], diffs := t.diffs ++ [columnDiffs x.2 (out.map sampleValue)], rest := rest })
    (some { cols := [], states := [], diffs := [], rest := ws })

end Sys2Proof.Machine
end

