-- ==== Sys2Proof/Machine/MemoryPath.lean ====
section
/-!
DEFINITION. The requests of the capture memory (10): the capture writer's rows (R406, R407), the completion of writes and
reads (R408, R409, R417, R418) for the capture writer (09 R376), the host's capture window (14 R555, R556), the
refresh timer's rows (R411 to R415) and MEM_INJECT_ERROR.
-/
namespace Sys2Proof.Machine
open Sys2Proof

/-! ## Host accesses (14 R556, Table 14.10) -/

/-- An access of function `f` through BAR2 fails with a code at a capture address (14 R556). -/
def hostMemError (f : Fn) (code : Nat) (write : Bool) (addr : Nat) (s : State) : State :=
  setCause f 9 (raiseEvent .critical 0x0E04 (fnCode f) 0 [wd f.val, wd code, wd addr]
    (modFn s f (fun x => { x with hmeInfo := wd (b01 write * 8 + code), hmeAddr := wd addr })))

/-- A completion of a read goes to the host: the data, or a failure. -/
def hostCompletion (f : Fn) (status : Completion) (data : List Byte) (s : State) : State :=
  { s with out := { s.out with host := s.out.host ++ [.completion f status data] } }

/-- CAPTURE_WINDOW_ACCESS (14 R555, Table 14.10): an access of `len` bytes at an offset of the window of a function. -/
def execCaptureWindowAccess (fn : Fn) (write : Bool) (offset len : Nat) (data : List Byte) (s : State) : Out :=
  .next (
    let x := getFn s fn
    let n := if write then data.length else len
    let inRange := if fn.val = 0 then decide (offset + n ≤ 4294967296) else decide (offset + n ≤ 4096 * x.rangePages)
    let base := if fn.val = 0 then 0 else 4096 * x.rangePage
    if !fnExists s fn || fn.val == 9 || n == 0 then s
    else
      let code := if !inRange then 3 else memCheck (base + offset) n s
      if code ≠ 0 then
        let s1 := hostMemError fn code write (base + offset) s
        if write then s1 else hostCompletion fn .unsupportedRequest [] s1
      else acceptRequest { requester := 2, fn := fnCode fn, write := write, addr := base + offset, len := n,
                           data := if write then data else [], use := .host } s)

/-! ## The refresh timer (10 R411 to R415) -/

/-- REFRESH_INTERVAL (10 R411 to R413): a tREFI of a rank ends. -/
def execRefreshInterval (ch rank : Fin 2) (perBank : Nat) (s : State) : Out :=
  .next (if s.mem.mstate = .ready ∧ (rank.val = 0 ∨ s.mem.rank2 = true) then
    atDue (ceilDiv (refreshEnd ch.val rank.val s) 1000000) (fun t => refreshRank ch.val rank.val perBank (nextRefresh ch.val rank.val t)) s
  else s)

/-- REFRESH_WINDOW_RESTART (10 R415). -/
def execRefreshWindowRestart (s : State) : Out :=
  .next (atDue (ceilDiv (s.mem.windowAt + windowLen s) 1000000) nextWindow s)

/-! ## The capture writer (10 R406, R407) -/

/-- A row's write is answered with an error response: the row is absent, with cause 3 (09 R376). -/
def rowAbsent (set : Fin 16) (sect : Fin 4) (a b : Nat) (s : State) : State :=
  if (getSet s set).open_ then noteGap set 3 (BitVec.ofNat 4 (2 ^ sect.val)) a b s else s

/-- A row leaves the capture writer's buffer as a write request; one the controller cannot serve is absent. -/
def issueRow (r : CapRow) (s : State) : State :=
  if memCheck r.addr r.data.length s ≠ 0 then rowAbsent r.set r.sect r.firstN r.lastN s
  else acceptRequest { requester := 0, fn := r.fn, write := true, addr := r.addr, len := r.data.length, data := r.data,
                       use := .capture r.set r.sect r.firstN r.lastN } s

/-- A row held by the capture writer lies in the same row of the device as group `g`, or touches that group. -/
def CapRow.sameRow (rows g : Nat) (r : CapRow) : Bool :=
  (groupsOf r.addr r.data.length).any (fun a =>
    let p := placeOf rows a
    let q := placeOf rows (256 * g)
    a == 256 * g || (p.ch == q.ch && p.rank == q.rank && p.bank == q.bank && p.row == q.row))

/-- CAPTURE_GROUP_FLUSH (10 R407): every pending group of the device row that holds the group is written, in order. -/
def execCaptureGroupFlush (group : Nat) (s : State) : Out :=
  let here := s.mem.capture.filter (CapRow.sameRow (rowsPerBank s) group)
  .next (here.foldl (fun t r => issueRow r t)
    { s with mem := { s.mem with capture := s.mem.capture.filter (fun r => !CapRow.sameRow (rowsPerBank s) group r) } })

/-! ## Completion -/

/-- A request that the scheduler takes leaves the controller. -/
def dropRequest (r : MemReq) (s : State) : State :=
  let t := chargeRequest r s
  { t with mem := { t.mem with requests := t.mem.requests.erase r } }

/-- The write back of MEM_INJECT_ERROR: the word read and written back with codeword bits inverted; an uncorrectable word
is not written (10, "Commands and parameter blocks"; Table 10.7). -/
def injectError (a : Nat) (m : BitVec 72) (s : State) : State :=
  match readWord 1 3 0 (a / 8) (touchRow 3 0 (a / 256 * 256) s) with
  | (t, some bytes) => setFlip (a / 8) m { t with mem := { t.mem with bytes := putBytes t.mem.bytes (8 * (a / 8)) bytes } }
  | (t, none) => t

/-- A write drains: its bytes reach the device, and a refused word is answered to its requester (10 R403, Table 10.7). -/
def drainWrite (r : MemReq) (s : State) : State :=
  let s1 := dropRequest r s
  match r.use with
  | .inject m => injectError r.addr m s1
  | .capture set sect a b =>
    let (t, bad) := performWrite r.requester r.fn r.addr r.data s1
    if bad then rowAbsent set sect a b t else t
  | .host =>
    let (t, bad) := performWrite r.requester r.fn r.addr r.data s1
    match bad, fnOfCode r.fn with
    | true, some f => hostMemError f 2 true r.addr t
    | _, _ => t
  | .test => (performWrite r.requester r.fn r.addr r.data s1).1

/-- A read returns: its data, or the error response of an uncorrectable word (10 R417, Table 10.7). -/
def returnRead (r : MemReq) (s : State) : State :=
  let (t, d) := performRead r.requester r.fn r.addr r.len (dropRequest r s)
  match r.use, fnOfCode r.fn with
  | .host, some f => match d with
    | some bytes => hostCompletion f .success bytes t
    | none => hostCompletion f .completerAbort [] (hostMemError f 1 false r.addr t)
  | _, _ => t

/-- MEM_WRITE_DRAIN (10 R408, R409): the oldest request of a requester drains, if it is a write and no older request
forbids it. -/
def execMemWriteDrain (requester : Fin 6) (soft : SoftErrors) (s : State) : Out :=
  let s1 := applySoft soft s
  .next (match completable requester s1 with
    | some r => if r.write then drainWrite r s1 else s1
    | none => s1)

/-- MEM_READ_RETURN (10 R408, R409): the oldest request of a requester returns, if it is a read. -/
def execMemReadReturn (requester : Fin 6) (soft : SoftErrors) (s : State) : Out :=
  let s1 := applySoft soft s
  .next (match completable requester s1 with
    | some r => if r.write then s1 else returnRead r s1
    | none => s1)

/-- Complete, oldest first, the requests that a direct access to `len` bytes from `a` must follow (10 R408): writes that
meet it, and for a write the reads that meet it too, each with what precedes it. -/
def settleRange (write : Bool) (a len : Nat) : Nat → State → State
  | 0, s => s
  | n + 1, s =>
    let probe : MemReq := { requester := 1, fn := 0, write := write, addr := a, len := len, data := [], use := .test }
    if s.mem.requests.any (fun r => r.meets probe && (r.write || write)) then
      match s.mem.requests with
      | r :: _ => settleRange write a len n (if r.write then drainWrite r s else returnRead r s)
      | [] => s
    else s

/-- A read of capture memory by the hub itself at this moment, after what must precede it: the error code and the data. -/
def readMemory (requester : Fin 6) (fn : BitVec 4) (a len : Nat) (s : State) : State × Nat × List Byte :=
  let s1 := spendDram fn.toNat len (settleRange false a len s.mem.requests.length s)
  if memCheck a len s1 ≠ 0 then (s1, memCheck a len s1, [])
  else match performRead requester fn a len s1 with
    | (t, some bytes) => (t, 0, bytes)
    | (t, none) => (t, 1, [])

/-- A write of capture memory by the hub itself at this moment, after what must precede it; answers the error code. -/
def writeMemory (requester : Fin 6) (fn : BitVec 4) (a : Nat) (data : List Byte) (s : State) : State × Nat :=
  let s1 := spendDram fn.toNat data.length (settleRange true a data.length s.mem.requests.length s)
  if memCheck a data.length s1 ≠ 0 then (s1, memCheck a data.length s1)
  else match performWrite requester fn a data s1 with
    | (t, true) => (t, 2)
    | (t, false) => (t, 0)

end Sys2Proof.Machine
end

