-- ==== Sys2Proof/Machine/Compress.lean ====
section
/-!
DEFINITION. Memory jobs of the compression engine (11): neighbour resolution (R424, R425), starts, tiers and ends
(R433 to R442), and the class 0x0B commands (R443, R445, R446). The engine's accesses to capture memory take place at the
row that names them, after what must precede them (10 R408; DESIGN CHOICE, assumption 34).
-/
namespace Sys2Proof.Machine
open Sys2Proof

/-! ## Neighbours (11 R425) -/

/-- The neighbours a map entry names, with their weights (11 Table 11.8). -/
def entryNeighbours (e : Vector Word 4) : List (Nat × Int) :=
  ((List.range ((vget e 0).field 14 13)).map (fun j =>
    let w := vgetD e (j + 1) 0
    (w.field 12 0, signedField 8 (w.field 31 24))))

/-- The columns of global channels `gs`, neighbours resolved against the map (11 R425). -/
def resolveColumns (map : Vector (Vector Word 4) 512) (gs : List Nat) : List Column :=
  (gs.zip (List.range gs.length)).map (fun x =>
    let ns := match map.toList.find? (fun e => (vget e 0).bit 31 && (vget e 0).field 12 0 == x.1) with
      | some e => (entryNeighbours e).filterMap (fun n =>
          let c := (gs.takeWhile (fun g => g != n.1)).length
          if c < x.2 then some (c, n.2) else none)
      | none => []
    { gch := BitVec.ofNat 13 x.1, neighbours := ns })

/-- The two header words of a column (11 Table 11.4). -/
def columnWords (c : Column) : List Word :=
  let p := fun (i : Nat) => ((c.neighbours[i]?).getD (0, 0)).1
  let w := fun (i : Nat) => toField 8 ((c.neighbours[i]?).getD (0, 0)).2
  [wd (w 0 * 16777216 + p 0 * 65536 + c.neighbours.length * 16384 + c.gch.toNat),
   wd (w 2 * 16777216 + p 2 * 65536 + w 1 * 256 + p 1)]

/-- The column table of a job. -/
def columnTable (cs : List Column) : List Word := cs.flatMap columnWords

/-! ## Job fields (11 Table 11.9) -/

/-- Word `i` of a job's block. -/
def Job.w (j : Job) (i : Nat) : Word := wordAt j.words i

/-- Decompression. -/
def Job.inflates (j : Job) : Bool := (j.w 0).bit 31

/-- NCH of the job: of the block, or of the header a decompression has read. -/
def Job.nch (j : Job) : Nat := if j.inflates then j.columns.length else (j.w 0).field 8 0

/-- The effort of the job's next tier (11 R433). -/
def Job.nextEffort (j : Job) (capped : Bool) : Nat := if capped then min 1 ((j.w 0).field 25 24) else (j.w 0).field 25 24

/-- The regions of a job, each with whether it is written: input, output, CTX_IN, CTX_OUT (11 R443). A decompression's
context is taken at its least size, since its block does not give NCH (DESIGN CHOICE, assumption 35). -/
def jobRegions (ws : List Word) : List (Nat × Nat × Bool) :=
  let w := wordAt ws
  let nch := (w 0).field 8 0
  let ctx := 4 * (5 + 3 * nch)
  [((w 1).toNat, if (w 0).bit 31 then (w 2).toNat else 4 * nch * (w 2).toNat, false), ((w 5).toNat, (w 6).toNat, true)]
  ++ (if (w 0).bit 30 then [((w 7).toNat, ctx, false)] else [])
  ++ (if (w 0).bit 29 then [((w 8).toNat, ctx, true)] else [])

/-- Two regions clash: they overlap and one of them is written. -/
def regionsClash (a b : Nat × Nat × Bool) : Bool :=
  (a.2.2 || b.2.2) && a.2.1 != 0 && b.2.1 != 0 && decide (a.1 < b.1 + b.2.1) && decide (b.1 < a.1 + a.2.1)

/-! ## The running job -/

/-- The running job of function `fn`. -/
def runningJob (fn : BitVec 4) (s : State) : Option Job := s.cmp.jobs.find? (fun j => j.fn == fn && j.running)

/-- Replace a job, by its JOB_ID. -/
def putJob (j : Job) (s : State) : State :=
  { s with cmp := { s.cmp with jobs := s.cmp.jobs.map (fun x => if x.id == j.id then j else x) } }

/-- A job is to end with a result and a response code. -/
def failJob (j : Job) (result resp : Nat) (s : State) : State := putJob { j with result := some (result, resp) } s

/-- Read words of capture memory for a job: RESULT 2 where an error response comes (11 R439). -/
def jobRead (j : Job) (a n : Nat) (s : State) : State × Nat × List Word :=
  let (t, code, bytes) := readMemory 1 j.fn a (4 * n) s
  (t, code, wordsOf bytes)

/-- Write words of capture memory for a job; answers the error response. -/
def jobWrite (j : Job) (a : Nat) (ws : List Word) (s : State) : State × Nat := writeMemory 1 j.fn a (bytesOf ws) s

/-- The states of a context record: none where it is not of the job's columns or its CHECK is wrong (11 R437). -/
def contextStates (ws : List Word) (nch : Nat) (listCrc : Word) : Option (List ColState) :=
  let head := wordAt ws 0
  if head = wd (0x0C010000 + nch) ∧ wordAt ws 1 = listCrc ∧ crc32cWords (ws.take (4 + 3 * nch)) = wordAt ws (4 + 3 * nch) then
    some ((List.range nch).map (fun c =>
      let a := wordAt ws (4 + 3 * c)
      let b := wordAt ws (5 + 3 * c)
      { x1 := signedField 24 (a.field 23 0), x2 := signedField 24 (b.field 23 0), hist := b.field 25 24,
        a := (wordAt ws (6 + 3 * c)).toNat, n := a.field 28 24 }))
  else none

/-- The words of a context record, CHECK last (11 Table 11.5). -/
def contextWords (j : Job) : List Word :=
  let ws := [wd (0x0C010000 + j.nch), j.listCrc] ++ split64 (j.samples + j.nsamp) ++ j.states.flatMap (fun c =>
    [wd (c.n * 16777216 + toField 24 c.x1), wd (c.hist * 16777216 + toField 24 c.x2), wd c.a])
  ws ++ [crc32cWords ws]

/-- Write 0 to word 0 of the output region and of the CTX_OUT region at the start of a job (11 R435). -/
def clearHeads (j : Job) (s : State) : State × Nat :=
  let (s1, c1) := if (j.w 6).toNat < 4 then (s, 0) else jobWrite j (j.w 5).toNat [0] s
  if c1 ≠ 0 then (s1, c1)
  else if (j.w 0).bit 29 then jobWrite j (j.w 8).toNat [0] s1 else (s1, 0)

/-- Load the states a job starts from: reset states, or those of its context record (11 R437). -/
def loadStates (j : Job) (s : State) : State :=
  if (j.w 0).bit 30 then
    let (t, code, ws) := jobRead j (j.w 7).toNat (5 + 3 * j.nch) s
    if code ≠ 0 then failJob j 2 code t
    else
      let check := wordAt ws (4 + 3 * j.nch)
      match contextStates ws j.nch j.listCrc with
      | none => failJob j 4 0 t
      | some st =>
        if j.inflates ∧ j.ctxCrc ≠ some check then failJob j 4 0 t
        else putJob { j with states := st, ctxCrc := some check, samples := join64 (wordAt ws 2) (wordAt ws 3) } t
  else if j.inflates ∧ j.ctxCrc.isSome then failJob j 4 0 s
  else putJob { j with states := List.replicate j.nch ColState.fresh, ctxCrc := none, samples := 0 } s

/-- Start a compression job (11 R425, R435, R437). -/
def startDeflate (j : Job) (s : State) : State :=
  let gs := (List.range ((j.w 0).field 8 0)).map (fun c => (j.w (9 + c / 2)).field (16 * (c % 2) + 12) (16 * (c % 2)))
  let cols := resolveColumns s.cmp.map gs
  let j1 := { j with columns := cols, listCrc := crc32cWords (columnTable cols), nsamp := (j.w 4).toNat,
                     used := 6 + 2 * cols.length, effort := j.nextEffort s.cmp.capped, effortMin := 3 }
  match clearHeads j1 s with
  | (t, 0) => loadStates j1 t
  | (t, code) => failJob j1 3 code t

/-- A column of a header's table, if its fields are in range (11 Table 11.4). -/
def readColumn (c : Nat) (a b : Word) : Option Column :=
  let nn := a.field 15 14
  let p := [(a.field 23 16, signedField 8 (a.field 31 24)), (b.field 7 0, signedField 8 (b.field 15 8)),
            (b.field 23 16, signedField 8 (b.field 31 24))]
  if a.bit 13 ∨ (p.take nn).any (fun x => decide (c ≤ x.1)) ∨ (p.drop nn).any (fun x => x.1 != 0 || x.2 != 0) then none
  else some { gch := a.extractLsb' 0 13, neighbours := p.take nn }

/-- Start a decompression job: its header is read and checked (11 R434 to R438). -/
def startInflate (j : Job) (s : State) : State :=
  let bound := (j.w 2).toNat / 4
  if bound < 8 then failJob j 5 0 s
  else
    let (s1, code, h) := jobRead j (j.w 1).toNat 6 s
    let w := wordAt h
    let nch := (w 0).field 8 0
    if code ≠ 0 then failJob j 2 code s1
    else if (w 0).field 31 16 ≠ 0x0B01 ∨ (w 0).field 14 9 ≠ 0 ∨ nch = 0 ∨ 256 < nch ∨ w 1 = 0 ∨ (w 5).field 31 4 ≠ 0
        ∨ (¬ (w 0).bit 15 ∧ w 3 ≠ 0) ∨ bound < 8 + 2 * nch + (w 4).toNat then failJob j 5 0 s1
    else
      let (s2, code2, tab) := jobRead j ((j.w 1).toNat + 24) (2 * nch) s1
      let cols := (List.range nch).map (fun c => readColumn c (wordAt tab (2 * c)) (wordAt tab (2 * c + 1)))
      if code2 ≠ 0 then failJob j 2 code2 s2
      else if cols.any (fun c => c.isNone) ∨ crc32cWords tab ≠ w 2 then failJob j 5 0 s2
      else
        let j1 := { j with columns := cols.filterMap id, listCrc := w 2, nsamp := (w 1).toNat, payload := (w 4).toNat, used := 0,
                           ctxCrc := if (w 0).bit 15 then some (w 3) else none }
        if (j.w 6).toNat < 4 * nch * (w 1).toNat then failJob j1 1 0 s2
        else match clearHeads j1 s2 with
          | (t, 0) => loadStates j1 t
          | (t, c3) => failJob j1 3 c3 t

/-- JOB_START (11 R425, R442): the oldest queued job of a function starts, if none of its jobs runs. -/
def execJobStart (fn : Fin 9) (s : State) : Out :=
  let f := BitVec.ofNat 4 fn.val
  .next (if (runningJob f s).isSome then s
    else match s.cmp.jobs.find? (fun j => j.fn == f) with
      | none => s
      | some j =>
        let j1 := { j with running := true, crc := 0xFFFFFFFF }
        let s1 := putJob j1 s
        if j.inflates then startInflate j1 s1 else startDeflate j1 s1)

/-! ## Tiers (11 R442) -/

/-- CMP_VERIFY_FAIL for each column of a tier that failed (11 R432). -/
def raiseVerify (fn : BitVec 4) (inst : Nat) (id : Word) (tier : Nat) (failed : List Nat) (s : State) : State :=
  failed.foldl (fun t c => raiseEvent .critical 0x0B02 fn inst [id, wd c, wd tier]
    { t with cmp := { t.cmp with verifyFail := satInc t.cmp.verifyFail } }) s

/-- Read the rows of a compression job's tier: the sample words of each row. -/
def readRows (j : Job) (ns : Nat) (s : State) : State × Nat × List (List Word) :=
  (List.range ns).foldl (fun (acc : State × Nat × List (List Word)) i =>
    if acc.2.1 ≠ 0 then acc
    else
      let row := ((j.w 3).toNat + j.done + i) % max (j.w 2).toNat 1
      let (t, code, ws) := jobRead j ((j.w 1).toNat + 4 * j.nch * row) j.nch acc.1
      (t, code, acc.2.2 ++ [ws])) (s, 0, [])

/-- A tier of a compression job (11 R430, R432, R436). -/
def deflateTier (j : Job) (faults : List Nat) (s : State) : State :=
  let ns := min 256 (j.nsamp - j.done)
  let (s1, code, rows) := readRows j ns s
  if code ≠ 0 then failJob j 2 code s1
  else
    let cols := (List.range j.nch).map (fun c => rows.map (fun r => wordAt r c))
    let t := encodeTier j.effort faults ((j.columns.zip (j.states.zip cols)).map (fun x => (x.1, x.2.1, x.2.2)))
    let s2 := raiseVerify j.fn j.id.toNat (wd j.id.toNat) j.tiers t.failed s1
    let j1 := { j with verifyFail := satAdd j.verifyFail t.failed.length }
    let last := decide (j.nsamp ≤ j.done + ns)
    if (j.w 6).toNat < 4 * (j.used + t.words.length + (if last then 2 else 0)) then failJob j1 1 0 s2
    else
      let (s3, wcode) := jobWrite j ((j.w 5).toNat + 4 * j.used) t.words s2
      if wcode ≠ 0 then failJob j1 3 wcode s3
      else putJob { j1 with states := t.states, done := j.done + ns, tiers := j.tiers + 1, used := j.used + t.words.length,
                            crc := crc32cFeed j.crc (bytesOf cols.flatten), rawBlocks := satAdd j.rawBlocks t.raws,
                            effortMin := min j.effortMin j.effort } s3

/-- The words of a decompression job's next tier: as many as the payload still holds. -/
def readPayload (j : Job) (ns : Nat) (s : State) : State × Nat × List Word :=
  jobRead j ((j.w 1).toNat + 4 * (6 + 2 * j.nch + j.used)) (min (j.payload - j.used) (j.nch * (ns + 1))) s

/-- A tier of a decompression job (11 R426, R438). -/
def inflateTier (j : Job) (s : State) : State :=
  let ns := min 256 (j.nsamp - j.done)
  let (s1, code, ws) := readPayload j ns s
  if code ≠ 0 then failJob j 2 code s1
  else match decodeTier ns (j.columns.zip j.states) ws with
    | none => failJob j 5 0 s1
    | some t =>
      let rows := (List.range ns).flatMap (fun i => t.cols.map (fun c => wordAt c i))
      let (s2, wcode) := jobWrite j ((j.w 5).toNat + 4 * j.nch * j.done) rows s1
      if wcode ≠ 0 then failJob j 3 wcode s2
      else putJob { j with states := t.states, done := j.done + ns, tiers := j.tiers + 1,
                           used := j.used + (ws.length - t.rest.length), crc := crc32cFeed j.crc (bytesOf t.cols.flatten) } s2

/-- At a tier boundary: a cancelled job is to end, and the effort in force follows shedding (11 R433, R442). -/
def tierBoundary (fn : BitVec 4) (s : State) : State :=
  match runningJob fn s with
  | none => s
  | some j =>
    if j.result.isNone ∧ j.cancelled then failJob j 8 0 s
    else putJob { j with effort := j.nextEffort s.cmp.capped } s

/-- The running job of a function that has a tier left. -/
def tierDue (fn : Nat) (s : State) : Option Job :=
  (runningJob (BitVec.ofNat 4 fn) s).filter (fun j => j.result.isNone && decide (j.done < j.nsamp))

/-- TIER_END (11 R426, R442): one tier of the running job of the function whose turn it is; `faults` are the columns whose coded
block does not decode to its input (11 R432). -/
def execTierEnd (fn : Fin 9) (faults : List Nat) (s : State) : Out :=
  .next (match tierDue fn.val s with
    | none => s
    | some j =>
      if s.cmp.turn.pick 9 (fun f => (tierDue f s).isSome) ≠ some fn.val then s
      else
        let s1 := { s with cmp := { s.cmp with turn := s.cmp.turn.served fn.val 1 } }
        tierBoundary (BitVec.ofNat 4 fn.val) (if j.inflates then inflateTier j s1 else deflateTier j faults s1))

/-! ## Ends (11 R435, R438 to R441) -/

/-- The result words of a job (11 Table 11.10). -/
def jobWords (j : Job) (jstate result resp out : Nat) (tick : Nat) : List Word :=
  [wd (result * 268435456 + j.fn.toNat * 16777216 + jstate * 4194304 + resp * 524288 + j.id.toNat), wd out,
   halves j.rawBlocks.toNat j.verifyFail.toNat, wd j.tiers] ++ split64 tick

/-- Keep an ended job's result words among its function's last 16 (11 R446). -/
def keepResult (j : Job) (ws : List Word) (s : State) : State :=
  let all : List JobResult := { id := j.id, fn := j.fn, words := ws } :: s.cmp.ended
  let own := all.filter (fun r => r.fn == j.fn)
  { s with cmp := { s.cmp with jobs := s.cmp.jobs.filter (fun x => x.id != j.id),
                               ended := all.filter (fun r => r.fn != j.fn || (own.take 16).contains r) } }

/-- A job ends: its result is kept, counted and reported (11 R440, Tables 11.10 to 11.12). -/
def endJob (j : Job) (result resp out : Nat) (s : State) : State :=
  let ws := jobWords j 2 result resp out (now s)
  let s1 := keepResult j ws s
  let s2 := if result = 0 then { s1 with cmp := { s1.cmp with jobsDone := satInc s1.cmp.jobsDone } }
    else if result ≤ 6 then { s1 with cmp := { s1.cmp with jobsFailed := satInc s1.cmp.jobsFailed } } else s1
  let s3 := raiseEvent .informational 0x0B01 j.fn j.id.toNat (ws.take 2) s2
  match fnOfCode j.fn with
  | some f => setCause f 7 s3
  | none => s3

/-- A reset abandons the jobs that `which` selects, with RESULT 7 and no report (11 R441). -/
def abandonJobs (which : Job → Bool) (s : State) : State :=
  (s.cmp.jobs.filter which).foldl (fun t j => keepResult j (jobWords j 2 7 0 0 (now s)) t) s

/-- Writes in order, up to the first error response. -/
def jobWrites (j : Job) (ws : List (Nat × List Word)) (s : State) : State × Nat :=
  ws.foldl (fun (acc : State × Nat) x => if acc.2 ≠ 0 then acc else jobWrite j x.1 x.2 acc.1) (s, 0)

/-- The header words of a compressed job (11 Table 11.4). -/
def jobHeader (j : Job) : List Word :=
  let payload := j.used - 6 - 2 * j.nch
  [wd (0x0B010000 + b01 j.ctxCrc.isSome * 32768 + j.nch), wd j.nsamp, j.listCrc, j.ctxCrc.getD 0, wd payload,
   wd (min j.effortMin 3 * 4 + (j.w 0).field 25 24)]

/-- The context record's writes at the end of a job: all but its word 0, then word 0 (11 R435). -/
def contextWrites (j : Job) : List (Nat × List Word) :=
  if (j.w 0).bit 29 then [((j.w 8).toNat + 4, (contextWords j).drop 1)] else []

/-- Word 0 of the context record (11 R435). -/
def contextHead (j : Job) : List (Nat × List Word) :=
  if (j.w 0).bit 29 then [((j.w 8).toNat, (contextWords j).take 1)] else []

/-- A compression job commits (11 R435). -/
def commitDeflate (j : Job) (s : State) : State :=
  let a := (j.w 5).toNat
  let total := j.used + 2
  let head := jobHeader j
  let (t, code) := jobWrites j
    ([(a + 4, head.drop 1 ++ columnTable j.columns), (a + 4 * j.used, [~~~ j.crc, wd total])] ++ contextWrites j ++ contextHead j
      ++ [(a, head.take 1)]) s
  if code ≠ 0 then endJob j 3 code 0 t else endJob j 0 0 (4 * total) t

/-- A decompression job's trailer is checked, and it commits (11 R435, R438). -/
def commitInflate (j : Job) (s : State) : State :=
  if j.used ≠ j.payload then endJob j 5 0 0 s
  else
    let (s1, code, ws) := jobRead j ((j.w 1).toNat + 4 * (6 + 2 * j.nch + j.payload)) 2 s
    if code ≠ 0 then endJob j 2 code 0 s1
    else if wordAt ws 1 ≠ wd (8 + 2 * j.nch + j.payload) then endJob j 5 0 0 s1
    else if wordAt ws 0 ≠ ~~~ j.crc then endJob j 6 0 0 s1
    else
      let (t, wcode) := jobWrites j (contextWrites j ++ contextHead j) s1
      if wcode ≠ 0 then endJob j 3 wcode 0 t else endJob j 0 0 (4 * j.nch * j.nsamp) t

/-- JOB_END (11 R435, R440): the running job of a function ends, once it has failed or given its last tier. -/
def execJobEnd (fn : Fin 9) (s : State) : Out :=
  .next (match runningJob (BitVec.ofNat 4 fn.val) s with
    | none => s
    | some j => match j.result with
      | some (r, resp) => endJob j r resp 0 s
      | none => if j.done < j.nsamp then s else if j.inflates then commitInflate j s else commitDeflate j s)

/-- Compression effort is shed at level 1 (16 Table 16.8): CMP_EFFORT_SHED and CMP_EFFORT_RESTORED (11 R433). -/
def followEffortShed (s : State) : State :=
  let shed := decide (1 ≤ s.hl.level)
  if shed = s.cmp.capped then s
  else info (if shed then 0x0B03 else 0x0B04) 0 (split64 (now s)) { s with cmp := { s.cmp with capped := shed } }

/-! ## Commands (11 R443, R445, R446) -/

/-- Neighbour-map entry `i`. -/
def mapEntry (s : State) (i : Nat) : Vector Word 4 := vgetD s.cmp.map i (vall 4 0)

/-- The form of map entry `k` of a CMP_SET_MAP block: reserved fields, neighbours, and one VALID entry per channel
(11 R446, Table 11.8). -/
def mapEntryForm (p : Packet) (s : State) (k : Nat) : List (Nat × Bool) :=
  let i := (p.w 0).field 8 0
  let n := (p.w 0).field 21 16
  let e := blockOf 4 (1 + 4 * k) p
  let g := (vget e 0).field 12 0
  let nn := (vget e 0).field 14 13
  let dup := (vget e 0).bit 31 &&
    ((List.range 512).any (fun x => (x < i || i + n ≤ x) && (vget (mapEntry s x) 0).bit 31 && (vget (mapEntry s x) 0).field 12 0 == g)
     || (List.range k).any (fun x => (p.w (1 + 4 * x)).bit 31 && (p.w (1 + 4 * x)).field 12 0 == g))
  (1 + 4 * k, rsv (vget e 0) 0x7FFF8000 && !dup) ::
    (List.range 3).map (fun j =>
      let w := vgetD e (j + 1) 0
      (2 + 4 * k + j, if j < nn then rsv w 0x00FFE000 && w.field 12 0 != g else w == 0))

/-- CMP_SET_MAP (11 R424, R446). -/
def rulesCmpSetMap : Rules :=
  { op := .cmpSetMap, minLen := 5, maxLen := 253, issuers := pf0, configures := true,
    form := fun p s =>
      let n := (p.w 0).field 21 16
      if p.params.length ≠ 1 + 4 * n then some 0xFFFF
      else firstBad ((0, rsv (p.w 0) 0xFFC0FE00 && n != 0 && decide ((p.w 0).field 8 0 + n ≤ 512))
        :: (List.range n).flatMap (mapEntryForm p s)),
    run := fun p s =>
      let i := (p.w 0).field 8 0
      .done ((List.range ((p.w 0).field 21 16)).foldl (fun t k =>
        { t with cmp := { t.cmp with map := vsetD t.cmp.map (i + k) (blockOf 4 (1 + 4 * k) p) } }) s) [] (now s) }

/-- CMP_SET_MAP. -/
def execCmpSetMap (p : Packet) (s : State) : Out := .next (takeCommand rulesCmpSetMap p s)

/-- CMP_READ_MAP. -/
def rulesCmpReadMap : Rules :=
  { op := .cmpReadMap, minLen := 1, maxLen := 1, issuers := anyFn, configures := false,
    form := fun p _ => firstBad [(0, rsv (p.w 0) 0xFFFFFE00)],
    run := fun p s => .done s (mapEntry s ((p.w 0).field 8 0)).toList (now s) }

/-- CMP_READ_MAP. -/
def execCmpReadMap (p : Packet) (s : State) : Out := .next (takeCommand rulesCmpReadMap p s)

/-- The global channels a CMP_SUBMIT block names. -/
def submitChannels (p : Packet) : List Nat :=
  (List.range ((p.w 0).field 8 0)).map (fun c => (p.w (9 + c / 2)).field (16 * (c % 2) + 12) (16 * (c % 2)))

/-- The form of a CMP_SUBMIT block (11 R446, Table 11.9). -/
def submitForm (p : Packet) : Option Nat :=
  let w := p.w
  let nch := (w 0).field 8 0
  let gs := submitChannels p
  if (w 0).bit 31 then
    if p.params.length ≠ 9 then some 0xFFFF
    else firstBad [(0, rsv (w 0) 0x1CFFFE00 && nch == 0 && (w 0).field 25 24 == 0), (1, (w 1).toNat % 4 == 0),
      (3, w 3 == 0), (4, w 4 == 0), (5, (w 5).toNat % 4 == 0), (6, (w 6).toNat % 4 == 0), (7, (w 7).toNat % 4 == 0),
      (8, (w 8).toNat % 4 == 0)]
  else if p.params.length ≠ 9 + ceilDiv nch 2 then some 0xFFFF
  else firstBad ([(0, rsv (w 0) 0x1CFFFE00 && within nch 1 256), (1, (w 1).toNat % 4 == 0), (2, w 2 != 0),
    (3, decide ((w 3).toNat < (w 2).toNat)), (4, w 4 != 0), (5, (w 5).toNat % 4 == 0),
    (6, (w 6).toNat % 4 == 0), (7, (w 7).toNat % 4 == 0), (8, (w 8).toNat % 4 == 0)]
    ++ (List.range (ceilDiv nch 2)).map (fun j =>
      (9 + j, rsv (w (9 + j)) 0xE000E000 && (decide (2 * j + 1 < nch) || (w (9 + j)).field 28 16 == 0)
        && !(gs.take (2 * j)).contains ((w (9 + j)).field 12 0)
        && !(decide (2 * j + 1 < nch) && (gs.take (2 * j + 1)).contains ((w (9 + j)).field 28 16)))))

/-- The first capture address of a region outside the issuing function's range. -/
def regionCheck (p : Packet) (a len : Nat) (s : State) : Option Rejection :=
  match fnOfCode p.func with
  | none => some ⟨.outsideRange, [wd a]⟩
  | some f =>
    let lo := 4096 * (getFn s f).rangePage
    let hi := lo + 4096 * (getFn s f).rangePages
    if a < lo ∨ hi ≤ a then some ⟨.outsideRange, [wd a]⟩ else if hi < a + len then some ⟨.outsideRange, [wd hi]⟩ else none

/-- Any function but AF (14 R534). -/
def notAf : Packet → State → Bool := fun p _ => p.func != 0xA

/-- CMP_SUBMIT (11 R443, R446). -/
def rulesCmpSubmit : Rules :=
  { op := .cmpSubmit, minLen := 9, maxLen := 137, issuers := notAf, configures := false,
    rights := fun p s => match viewCheck p (submitChannels p) s with
      | some r => some r
      | none => (jobRegions p.params).findSome? (fun r => if r.2.1 = 0 then none else regionCheck p r.1 r.2.1 s),
    form := fun p _ => submitForm p,
    run := fun p s =>
      let id := s.cmp.nextId
      if s.cmp.jobs.any (fun j => (jobRegions j.words).any (fun a => (jobRegions p.params).any (regionsClash a))) then
        .reject .precondition []
      else if 8 ≤ (s.cmp.jobs.filter (fun j => j.fn == p.func)).length then .reject .busy []
      else if s.mem.mstate ≠ .ready then .reject .precondition []
      else .done { s with cmp := { s.cmp with nextId := id + 1, jobs := s.cmp.jobs ++
          [{ id := id, fn := p.func, words := p.params, running := false, columns := [], states := [], ctxCrc := none, samples := 0,
             nsamp := 0, done := 0, tiers := 0, effort := 0, effortMin := 0, used := 0, payload := 0, crc := 0, listCrc := 0,
             rawBlocks := 0, verifyFail := 0, cancelled := false, result := none }] } } [wd id.toNat] (now s) }

/-- CMP_SUBMIT. -/
def execCmpSubmit (p : Packet) (s : State) : Out := .next (takeCommand rulesCmpSubmit p s)

/-- The function of the job a packet names, queued, running or kept. -/
def jobFn (p : Packet) (s : State) : Option (BitVec 4) :=
  let id := (p.w 0).extractLsb' 0 16
  match s.cmp.jobs.find? (fun j => j.id == id) with
  | some j => some j.fn
  | none => (s.cmp.ended.find? (fun r => r.id == id)).map (fun r => r.fn)

/-- A function may name only its own jobs, PF0 any (11 R445; the status, DEDUCED, assumption 36). -/
def ownJob (p : Packet) (s : State) : Bool :=
  p.func == 0 || (match jobFn p s with
    | some f => f == p.func
    | none => true)

/-- CMP_READ_JOB (11 R446, Table 11.10). -/
def rulesCmpReadJob : Rules :=
  { op := .cmpReadJob, minLen := 1, maxLen := 1, issuers := ownJob, configures := false,
    form := fun p _ => firstBad [(0, rsv (p.w 0) 0xFFFF0000)],
    run := fun p s =>
      let id := (p.w 0).extractLsb' 0 16
      match s.cmp.jobs.find? (fun j => j.id == id) with
      | some j => .done s (jobWords j (b01 j.running) 0 0 0 0) (now s)
      | none => match s.cmp.ended.find? (fun r => r.id == id) with
        | some r => .done s r.words (now s)
        | none => .reject .precondition [] }

/-- CMP_READ_JOB. -/
def execCmpReadJob (p : Packet) (s : State) : Out := .next (takeCommand rulesCmpReadJob p s)

/-- CMP_CANCEL (11 R442, R446): a queued job ends at once, a running one at its next tier boundary. -/
def rulesCmpCancel : Rules :=
  { op := .cmpCancel, minLen := 1, maxLen := 1, issuers := fun p s => notAf p s && ownJob p s, configures := false,
    form := fun p _ => firstBad [(0, rsv (p.w 0) 0xFFFF0000)],
    run := fun p s =>
      let id := (p.w 0).extractLsb' 0 16
      match s.cmp.jobs.find? (fun j => j.id == id) with
      | some j => .done (if j.running then putJob { j with cancelled := true } s else endJob j 8 0 0 s) [] (now s)
      | none => if s.cmp.ended.any (fun r => r.id == id) then .done s [] (now s) else .reject .precondition [] }

/-- CMP_CANCEL. -/
def execCmpCancel (p : Packet) (s : State) : Out := .next (takeCommand rulesCmpCancel p s)

/-- CMP_READ_STATUS (11 Table 11.11). -/
def rulesCmpReadStatus : Rules :=
  { op := .cmpReadStatus, minLen := 0, maxLen := 0, issuers := anyFn, configures := false,
    run := fun _ s => .done s [halves s.cmp.jobsDone.toNat s.cmp.jobsFailed.toNat, halves s.cmp.verifyFail.toNat s.cmp.jobs.length,
      wd ((if s.cmp.capped then 1 else 3) * 1073741824 + s.cmp.streamTiers.toNat)] (now s) }

/-- CMP_READ_STATUS. -/
def execCmpReadStatus (p : Packet) (s : State) : Out := .next (takeCommand rulesCmpReadStatus p s)

end Sys2Proof.Machine
end

