-- ==== Sys2Proof/Machine/Pair.lean ====
section
/-!
DEFINITION. The redundant pair (08): heartbeats and liveness, authority and its epoch, the states and transitions of Table
8.5, split excitation with its witnesses, and the commands of class 0x08 but for PAIR_MIRROR_APPLY.
-/
namespace Sys2Proof.Machine
open Sys2Proof

/-! ## Epochs (08 R300 to R303) -/

/-- Epoch `x` is higher than `y` among `n`-bit epochs (08 R303). -/
def epochHigher (n x y : Nat) : Bool :=
  let d := (x + 2 ^ n - y % 2 ^ n) % 2 ^ n
  decide (1 ≤ d) && decide (d < 2 ^ (n - 1))

/-- Change the pair. -/
def modPair (f : Pair → Pair) (s : State) : State := { s with pair := f s.pair }

/-- The epoch becomes `e` at an event that Table 8.5 marks with an increment (08 R300). -/
def bumpEpoch (e : Word) (s : State) : State :=
  countLedger 19 1 { s with
    ao := { s.ao with epoch := e }
    pair := { s.pair with transfers := satInc s.pair.transfers, lastTransfer := now s } }

/-! ## Split excitation (08 R311 to R318) -/

/-- What source `i` of a pair delivers. -/
def halfOf (s : State) (i : Nat) : Half := vgetD s.pair.split i .off

/-- The configuration that the switches hold (02 R67, R72). -/
def liveConfig (s : State) : FeConfig := (feConfig s).live s.fe.isolated

/-- The source is enabled and joined to a terminal. -/
def sourceOn (s : State) (i : Nat) : Bool := (liveConfig s).delivers i

/-- SRC_OFF: split halves are off until a split restore (08 R316, Table 8.1). -/
def splitsOff (s : State) : Bool := s.pair.srcOff || s.pair.stopped != 0

/-- RAMPED: some source is at I_SET under R312 or R314 (08 Table 8.10). -/
def pairRamped (s : State) : Bool := s.pair.preRamp.toList.any Option.isSome

/-- The XSTEP marks of sources `is` whose current changes from tick `d` on, which is a change to their witnesses too (08 R311,
R313, R314). -/
def markRamps (is : List Nat) (d : Nat) (s : State) : State :=
  let c := liveConfig s
  disturb is s.tb.frameTick (mark .xstep (is.foldl (fun m i => m ||| c.fedBy i) 0) (d - 64) (d + 615) s)

/-- The sources of a state of delivery. -/
def sourcesAt (h : Half) (s : State) : List Nat := (List.range 128).filter (fun i => halfOf s i == h)

/-- Set what sources deliver. -/
def setHalves (is : List Nat) (h : Half) (s : State) : State :=
  modPair (fun p => { p with split := is.foldl (fun v i => vsetD v i h) p.split }) s

/-- Sources `is` ramp to I_SET from tick `d` on; the references they had are those of R315 (08 R312, R314). -/
def rampSources (is : List Nat) (d : Nat) (s : State) : State :=
  modPair (fun p => { p with preRamp := is.foldl (fun v i => vsetD v i (some ((vgetD p.refs i none).getD 0))) p.preRamp })
    (setHalves is .full (markRamps is d s))

/-- Every source still at half steps to I_SET, counted from tick `d` (08 R314). -/
def rampAll (d : Nat) (s : State) : State :=
  let is := sourcesAt .half s
  if is.isEmpty then s else rampSources is d s

/-- The split at a frame boundary after the changes staged for it: a source disabled is off, one newly enabled delivers
its half, or I_SET while the unit is alone, and none while the unit's sources are off or that source has stopped (08 R316,
R318). -/
def splitFrame (s : State) : State :=
  if !s.pair.en then s
  else
    let c := liveConfig s
    let alone := s.pair.pstate == .activeAlone || (s.pair.pstate == .hold && s.pair.peer.srcOff)
    let halves := Vector.ofFn (fun i : Fin 128 =>
      if !c.delivers i.val || s.pair.srcOff || hasBit s.pair.stopped i.val then .off
      else match vget s.pair.split i with
        | .off => if alone then .full else .half
        | h => h)
    modPair (fun p => { p with
      split := halves
      stopped := (List.range 128).foldl (fun m i => if (feConfig s).delivers i then m else clearBit m i) p.stopped
      preRamp := Vector.ofFn (fun i : Fin 128 => if vget halves i == .off then none else vget p.preRamp i) }) s

/-! ## Witnesses (08 R311) -/

/-- No change to source `i` took effect in the frame that begins at `b` or in the one before (08 R311). -/
def undisturbed (i b : Nat) (s : State) : Bool :=
  match vgetD s.pair.disturbed i none with
  | some x => decide (x + frameLen < b)
  | none => true

/-- The witness of source `i` may be armed in the frame that begins at `b`: all of R311 but the size of its reference. -/
def witnessReady (i b : Nat) (s : State) : Bool :=
  let c := feConfig s
  sourceOn s i && undisturbed i b s
    && (c.joined i).all (fun t => !hasBit s.fe.isolated (t / 4)
      && match s.fe.diagRunning with
        | some r => r.req.port != some (t / 4)
        | none => true)

/-- The witness of source `i` is armed (08 R311). -/
def witnessArmed (i : Nat) (s : State) : Bool :=
  witnessReady i s.tb.frameTick s && (match vgetD s.pair.refs i none with
    | some r => decide (50000 ≤ r.natAbs)
    | none => false)

/-- The references of the frame that ends at `f`, over which a witness was ready (08, "Split excitation and the witness"): a
frame in which only the reference's own size keeps the witness unarmed gives one too, or none would ever arm (DEDUCED,
assumption 163). -/
def witnessFrame (f : Nat) (obs : List (Fin 128 × Int)) (s : State) : State :=
  if s.pair.en then
    modPair (fun p => { p with refs := obs.foldl (fun v x =>
      if witnessReady x.1.val (f - frameLen) s then vset v x.1 (some x.2) else v) p.refs }) s
  else s

/-- Split restore at boundary `f`: every source at I_SET steps to I_SET/2, and every half that was off resumes (08 R317). -/
def splitRestore (f : Nat) (s : State) : State :=
  let c := liveConfig s
  let on := (List.range 128).filter (fun i => c.delivers i)
  let changed := on.filter (fun i => halfOf s i != .half)
  let s1 := disturb changed f (mark .xstep (changed.foldl (fun m i => m ||| c.fedBy i) 0) f (settleEnd f) s)
  info 0x080D 0 (split64 f)
    (modPair (fun p => { p with srcOff := false, stopped := 0, preRamp := vall 128 none, splitRestoreAt := none })
      (setHalves on .half s1))

/-! ## States (08 Table 8.5) -/

/-- Channels fed by BIAS or GUARD. -/
def fedByDrivers (s : State) : BitVec 256 :=
  let c := liveConfig s
  (List.range 32).foldl (fun m b => m ||| c.fedByDriver b 22 ||| c.fedByDriver b 23) 0

/-- The unit's state becomes `st`; what holds from now on is noted for stamps (08 R302). Leaving authority puts the drivers
in follow mode, and taking it takes them out, with XSTEP on the windows that contain the takeover (02 R62). RESYNC begins
without an image, and a unit that is alone has no source held off (08 R316, R328; DESIGN CHOICE, assumption 162). -/
def setPState (st : PState) (s : State) : State :=
  let follow := match st with
    | .active | .activeAlone | .solo => false
    | .joining | .resync | .standby | .hold => true
  let s1 := modPair (fun p => { p with
    pstate := st, nextState := none, forced := false, followMode := follow, mergeLost := p.mergeLost && st == .resync
    stopped := if st = .activeAlone then 0 else p.stopped, recordsAhead := []
    rseqTaken := if st = .resync ∨ st = .active then none else p.rseqTaken
    image := if st = .resync then [] else p.image, imageComplete := p.imageComplete && st != .resync, imageSent := false
    resyncAt := if st = .resync then none else p.resyncAt }) s
  let s2 := if holdsAuthority s1 = holdsAuthority s then s1 else mark .xstep (fedByDrivers s1) (now s) (now s) s1
  noteMoment s2

/-- PAIR_HOLD with its cause: 1 no evidence, 2 AUTO_FAILOVER 0, 3 JOIN_S passed (08 Table 8.11; the numbers, DESIGN CHOICE,
assumption 39). -/
def enterHold (cause : Nat) (s : State) : State :=
  crit 0x0807 0 (split64 (now s) ++ [wd cause]) (setPState .hold s)

/-- Authority is taken alone at tick `d` on a peer failure or a witness (08 Table 8.5, R314). -/
def takeAlone (d : Nat) (s : State) : State := rampAll d (setPState .activeAlone (bumpEpoch (s.ao.epoch + 1) s))

/-- Some path carries valid beats. -/
def peerHeard (s : State) : Bool := s.pair.link.alive || s.pair.hbx.alive

/-- The epoch of a unit that becomes ACTIVE_ALONE from JOINING beside a peer: the higher of both, plus 1. -/
def joinEpoch (s : State) : Word :=
  if peerHeard s && epochHigher 32 s.pair.peerEpoch.toNat s.ao.epoch.toNat then s.pair.peerEpoch + 1 else s.ao.epoch + 1

/-- A transition whose condition has been met takes effect at a frame boundary (08 R321, Table 8.5). A role conflict keeps a
unit in JOINING, whatever was due (08 R297). -/
def applyTransition (s : State) : State :=
  match s.pair.nextState with
  | none => s
  | some st =>
    if s.pair.conflict && s.pair.pstate == .joining then modPair (fun p => { p with nextState := none, forced := false }) s
    else
    let forced := s.pair.forced
    match st with
    | .activeAlone =>
      let e := if s.pair.pstate = .joining ∧ ¬ forced then joinEpoch s else s.ao.epoch + 1
      let s1 := modPair (fun p => { p with srcOff := false }) (setPState .activeAlone (bumpEpoch e s))
      if forced then crit 0x080A 0 [e] s1 else s1
    | .hold => enterHold 3 s
    | st => setPState st s

/-- What is due at the next frame boundary: the latest decision counts (DESIGN CHOICE, assumption 164), but for a forced one. -/
def dueState (st : Option PState) (s : State) : State :=
  if s.pair.forced then s else modPair (fun p => { p with nextState := st }) s

/-! ## Beats (08 R304 to R310) -/

/-- The fields that both kinds of beat carry (08 Tables 8.1, 8.2). -/
structure BeatInfo where
  seq : Nat
  pstate : BitVec 3
  unitB : Bool
  auth : Bool
  healthy : Bool
  srcOff : Bool
  mirrorSeq : BitVec 8
  epoch : Nat
  /-- Width of the epoch: 12 or 32. -/
  width : Nat
  rmaster : Bool
  ready : Bool

/-- READY: the unit holds the whole image and its timebase is LOCKED (08 R328). -/
def imageReady (s : State) : Bool := s.pair.imageComplete && s.tb.state == .locked

/-- The HBX beat that the unit sends (08 Table 8.1). -/
def hbxBeat (s : State) : BitVec 48 :=
  let body := s.pair.beatSeq.toNat * 268435456 + s.pair.pstate.code * 33554432 + b01 s.pair.unitB * 16777216
    + b01 (holdsAuthority s) * 8388608 + b01 (reportsHealthy s) * 4194304 + b01 s.pair.link.alive * 2097152
    + b01 (splitsOff s) * 1048576 + s.pair.rseqApplied.toNat % 256 * 4096 + s.ao.epoch.toNat % 4096
  let c := crc8 ((List.range 4).map (fun i => BitVec.ofNat 8 (body / 256 ^ (3 - i))))
  BitVec.ofNat 48 (0xD5 * 1099511627776 + body * 256 + c.toNat)

/-- The pair-lane heartbeat that the unit sends (08 Table 8.2). -/
def pairBeat (s : State) : BitVec 56 :=
  BitVec.ofNat 56 (s.pair.beatSeq.toNat * 4503599627370496 + s.pair.pstate.code * 562949953421312
    + b01 s.pair.unitB * 281474976710656 + b01 (holdsAuthority s) * 140737488355328 + b01 (reportsHealthy s) * 70368744177664
    + b01 s.pair.hbx.alive * 35184372088832 + b01 (splitsOff s) * 17592186044416 + b01 (isMaster s) * 8796093022208
    + b01 (imageReady s) * 4398046511104 + s.pair.rseqApplied.toNat % 256 * 4294967296 + s.ao.epoch.toNat)

/-- The tick at which the unit's next beat begins, after its latest one: unit B's 61 cycles after the last beat it received, or
on its own grid once it has received none for 123 cycles (08 R304). -/
def nextBeat (s : State) : Nat :=
  let t := match s.pair.lastBeat with
    | some x => max (now s) (x + 1)
    | none => now s
  let grid := fun (t : Nat) => ceilDiv (t - 61) 123 * 123 + 61
  if !s.pair.unitB then ceilDiv t 123 * 123
  else match s.pair.peerBeat with
    | some b => if t ≤ b + 61 then b + 61 else grid (max t (b + 123))
    | none => grid t

/-- One beat on both paths, begun at tick `t` (08 R304 to R306); without VDDIO2 none goes out on HBX (18 Table 18.4). -/
def beatAt (t : Nat) (s : State) : State :=
  let s1 := modPair (fun p => { p with beatSeq := p.beatSeq + 1, lastBeat := some t }) s
  let s2 := { s1 with out := { s1.out with hbx := if vget s1.pwr.rails 9 then s1.out.hbx ++ [hbxBeat s1] else s1.out.hbx } }
  if s2.pair.lanesUp then (upLanes s2 2).foldl (fun t l => sendTiming l 0x4C (pairBeat s1) t) s2 else s2

/-- HEARTBEAT_PERIOD: the unit beats on both paths (08 R304 to R306). -/
def execHeartbeatPeriod (s : State) : Out :=
  .next (if s.pair.en then beatAt (nextBeat s) (advanceTo (nextBeat s) s) else s)

/-- The beats of the 100 µs between a watchdog's expiry and safe-off: 1,229 cycles (08 R308; 16 R663). -/
def graceBeats (s : State) : State :=
  if s.pair.en then
    (List.range (ceilDiv (now s + 1229 - nextBeat s) 123)).foldl (fun t k => beatAt (nextBeat s + 123 * k) t) s
  else s

/-- Change a heartbeat path. -/
def modPath (hbx : Bool) (f : BeatPath → BeatPath) (s : State) : State :=
  if hbx then modPair (fun p => { p with hbx := f p.hbx }) s else modPair (fun p => { p with link := f p.link }) s

/-- A heartbeat path. -/
def pathOf (hbx : Bool) (s : State) : BeatPath := if hbx then s.pair.hbx else s.pair.link

/-- A well-formed beat that carries the unit's own UNIT: beats in three consecutive beat periods are a role conflict, and keep a
unit in JOINING where it is; a second beat of one period, as from the other pair lane, counts with the first (08 R297). -/
def conflictBeat (hbx : Bool) (s : State) : State :=
  let x := pathOf hbx s
  if 0 < x.conflictRun ∧ now s < x.conflictLast + 61 then s
  else
    let run := if 0 < x.conflictRun ∧ now s ≤ x.conflictLast + 2 * 123 then x.conflictRun + 1 else 1
    let s1 := modPath hbx (fun p => { p with conflictRun := run, conflictLast := now s }) s
    if run = 3 then
      crit 0x0810 0 [wd (b01 s.pair.unitB)]
        (modPair (fun p => { p with
          conflict := p.conflict || p.pstate == .joining, srcOff := p.srcOff || p.pstate == .joining }) s1)
    else s1

/-- A valid beat, begun at `start`, on a path: the path lives, and after 16 in a row is restored (08 R307, R310). -/
def aliveBeat (hbx : Bool) (start : Nat) (s : State) : State :=
  let x := pathOf hbx s
  let run := x.run + 1
  let s1 := modPath hbx (fun p => { p with alive := true, last := start, run := run }) s
  if x.lost ∧ 16 ≤ run then
    info (if hbx then 0x0805 else 0x0803) 0 (split64 (now s)) (modPath hbx (fun p => { p with lost := false }) s1)
  else s1

/-- The 32-bit epoch nearest to the unit's own whose low bits a beat carries. -/
def beatEpoch (b : BeatInfo) (s : State) : Word :=
  if b.width = 32 then wd b.epoch
  else BitVec.ofInt 32 ((s.ao.epoch.toNat : Int) + signedField 12 ((b.epoch + 4096 - s.ao.epoch.toNat % 4096) % 4096))

/-- Records of the unit that the peer has applied leave the list (08 R337, Table 8.10). -/
def acknowledgeRecords (seq : BitVec 8) (s : State) : State :=
  let done := s.pair.records.filter (fun r => (seq.toNat + 256 - r.rseq.toNat % 256) % 256 < 128)
  match done.getLast? with
  | none => s
  | some r => modPair (fun p => { p with
      records := p.records.filter (fun x => !done.contains x), rseqApplied := r.rseq }) s

/-- A peer that holds authority while the unit does too: the higher epoch wins, unit A on equal ones (08 Table 8.5,
R326, R327). -/
def mergeBeat (b : BeatInfo) (s : State) : State :=
  let peerE := beatEpoch b s
  let own := s.ao.epoch.toNat % 2 ^ b.width
  let peerWins := epochHigher b.width b.epoch own || (b.epoch == own && s.pair.unitB)
  let raise := fun (t : State) => info 0x0809 0 [s.ao.epoch, peerE, wd (b01 (if peerWins then !s.pair.unitB else s.pair.unitB))] t
  if peerWins then
    raise (setPState .resync (modPair (fun p => { p with records := [], mergeLost := !p.link.alive }) s))
  else if s.pair.mergeBump then s
  else raise (modPair (fun p => { p with mergeBump := true }) s)

/-- What a valid beat leads to in the unit's state (08 Table 8.5). -/
def beatTransition (b : BeatInfo) (s : State) : State :=
  let peerAuth := b.pstate = 3 ∨ b.pstate = 4
  match s.pair.pstate with
  | .joining =>
    if s.pair.conflict then s
    else dueState (if peerAuth then some .resync
      else if !s.pair.unitB ∧ (b.pstate = 0 ∨ b.pstate = 1 ∨ b.pstate = 5) then some .activeAlone else none) s
  | .hold => dueState (if b.auth then some .resync else none) s
  | .standby =>
    if 3 ≤ s.pair.unhealthyRun ∧ (reportsHealthy s) then
      crit 0x0808 0 (split64 (now s) ++ [wd b.pstate.toNat])
        (setPState .active (modPair (fun p => { p with unhealthyRun := 0, records := [] }) (bumpEpoch (s.ao.epoch + 1) s)))
    else s
  | .active => if b.auth then mergeBeat b s else s
  | .activeAlone =>
    if b.auth then mergeBeat b s else dueState (if b.pstate = 2 then some .active else none) s
  | _ => s

/-! ## The image (08 R328) -/

/-- A packet of the image, of function `func`. -/
def imagePacket (op : Op) (func : BitVec 4) (params : List Word) (s : State) : List Word :=
  packetWords op.code { source := .mirror 0, func := func, target := s.ring.hubId, params := params }

/-- The function that holds a claimable unit of a channel: PF0 where none does. -/
def unitFunc (s : State) (c u : Nat) : BitVec 4 :=
  match vgetD (vgetD s.fl.owners c (vall 3 none)) u none with
  | some o => o.fn
  | none => 0

/-- The selector of one local channel (04 Table 4.6). -/
def oneChannel (s : State) (c b : Nat) : Word := wd (4194304 * b + 8192 + 256 * hubNum s + c)

/-- What basin `b` has in force of Table 8.6: front end, channels, coefficients and calibration policy. -/
def basinImage (s : State) (b : Nat) : List (List Word) :=
  let at_ := [wd b, 0, 0]
  [imagePacket .feSetConnections 0 (at_ ++ (List.range 16).map (fun j => vgetD s.fe.conn (16 * b + j) 0)) s,
   imagePacket .feSetExcitation 0 (at_ ++ (List.range 4).map (fun j => vgetD s.fe.src (4 * b + j) 0)) s,
   imagePacket .feSetBiasGuard 0 (at_ ++ [vgetD s.fe.bias b 0]) s,
   imagePacket .cvSetChannels 0 (at_ ++ [vgetD s.cv.chanWord b 0]) s,
   imagePacket .flSetFir 0 (at_ ++ (vgetD s.fl.fir b (vall 8 0)).toList) s,
   imagePacket .calSetPolicy 0 [wd (256 + b), (vget s.cal.basins (fin 32 b)).policy, (vget s.cal.basins (fin 32 b)).tolerance] s]

/-- What channel `c` has in force: its branches, its detector and its comparator. -/
def channelImage (s : State) (c : Nat) : List (List Word) :=
  let d := vgetD s.fl.detectors c Detector.reset
  ([0, 1].map (fun b => imagePacket .flSetBranch (unitFunc s c b)
    ([oneChannel s c b, 0, 0] ++ (getBranch s (2 * c + b)).words.toList) s))
  ++ [imagePacket .flSetDetectors (unitFunc s c 2) [oneChannel s c 0, d.word] s,
      imagePacket .flSetComparator (unitFunc s c 2) (oneChannel s c 0 :: d.cmp.toList) s]

/-- What a survey converter and the timers have in force; a sequence that waits for its start event is the one set. -/
def surveyImage (s : State) (v : Fin 4) : List Word :=
  let x := vget s.cv.surveys v
  let (w, es) := x.next.getD (x.seqWord, x.entries)
  imagePacket .svSetSequence 0 (wd v.val :: w :: es.toList.flatMap (fun e => e.toList)) s

/-- The image: every configuration of Table 8.6 that is in force at the authority holder, as the commands that set it (08
R328; the form, DESIGN CHOICE, assumption 165). A timer that has never been set has none. -/
def imagePackets (s : State) : List (List Word) :=
  imagePacket .feSetOvervoltage 0 [s.fe.ovWord] s :: (List.range 32).flatMap (basinImage s)
  ++ (List.range 256).flatMap (channelImage s) ++ (List.finRange 4).map (surveyImage s)
  ++ ((s.cv.timers.toList.filter (fun x => x.period != 0 || x.word != 0)).map (fun x =>
    imagePacket .tmrSet 0 (x.word :: (split64 x.start ++ [x.period, x.duty])) s))
  ++ [imagePacket .calSetRefcheck 0 [s.cal.refcheck] s, imagePacket .tbSetSources 0 [s.tb.sources0, s.tb.sources1] s,
      imagePacket .tbSetMains 0 [s.tb.mains0, s.tb.mains1] s, imagePacket .bcnSet 0 [s.tb.bcnWord] s,
      imagePacket .pairSetPolicy 0 [s.pair.policy0, s.pair.policy1] s]

/-- A RESYNC_IMAGE message: flags for the last fragment and for a boundary, RSEQ, generation, the boundary, the packet (the
layout, DESIGN CHOICE, assumption 165). -/
def sendFragment (last : Bool) (rseq : BitVec 16) (r : Option Nat) (packet : List Word) (s : State) : State :=
  send { kind := 0x10, cls := 3, target := none, side := none
         payload := wd (b01 last * 2147483648 + b01 r.isSome * 1073741824 + rseq.toNat) :: s.ring.generation
           :: (split64 (r.getD 0) ++ packet) } s

/-- The words of a mirror record (08 Table 8.9). -/
def MirrorRec.words (r : MirrorRec) : List Word :=
  halves r.rseq.toNat r.packet.length :: (split64 r.f ++ [r.epoch] ++ r.packet)

/-- A peer in RESYNC has its image from the authority holder, once and over the pair lanes: what is in force, then the records
whose boundary is still to come (08 R328, R329, Table 8.5). -/
def sendImage (b : BeatInfo) (s : State) : State :=
  if !holdsAuthority s || b.pstate != 1 then modPair (fun p => { p with imageSent := p.imageSent && b.pstate == 1 }) s
  else if s.pair.imageSent || !s.pair.lanesUp then s
  else
    let left := s.pair.records.filter (fun r => now s < r.f)
    let base := match left with
      | r :: _ => r.rseq - 1
      | [] => s.pair.rseqSent
    let s1 := modPair (fun p => { p with imageSent := true, records := left, resyncAt := none }) s
    let s2 := sendFragment true base none [] ((imagePackets s).foldl (fun t x => sendFragment false base none x t) s1)
    left.foldl (fun t r => send { kind := 0x0F, cls := 2, target := none, side := none, payload := r.words } t) s2

/-- The authority holder answers READY with a resync boundary at least 16 frames ahead, and announces it (08 R328). -/
def announceResync (b : BeatInfo) (s : State) : State :=
  if b.ready ∧ b.pstate = 1 ∧ holdsAuthority s ∧ s.pair.resyncAt.isNone ∧ s.pair.lanesUp then
    let r := frameLen * ceilDiv (now s + 16 * frameLen) frameLen
    sendFragment true s.pair.rseqSent (some r) [] (modPair (fun p => { p with resyncAt := some r }) s)
  else s

/-- A valid beat on a path (08 R299 to R310). -/
def validBeat (hbx : Bool) (start : Nat) (b : BeatInfo) (s : State) : State :=
  let s1 := aliveBeat hbx start s
  let bad := b.auth && !b.healthy
  let e := beatEpoch b s1
  let s2 := modPair (fun p => { p with
    peerEpoch := e, peerBeat := if hbx then some start else p.peerBeat
    unhealthyRun := if bad then p.unhealthyRun + 1 else 0
    peer := { p.peer with
      pstate := b.pstate, auth := b.auth, healthy := b.healthy, srcOff := b.srcOff, mirrorSeq := b.mirrorSeq
      rmaster := if hbx then p.peer.rmaster else b.rmaster, ready := if hbx then p.peer.ready else b.ready } }) s1
  let s3 := if !hbx && b.auth && (s2.pair.pstate == .standby || s2.pair.pstate == .resync) then
      noteMoment { s2 with ao := { s2.ao with epoch := e } } else s2
  let s4 := if holdsAuthority s3 then acknowledgeRecords b.mirrorSeq s3 else s3
  announceResync b (sendImage b (beatTransition b s4))

/-- HBX_BEAT_RECEIVE: a beat that ends now and so began 48 cycles ago (08 R305, R307); `manchester` is a coding
violation. -/
def execHbxBeatReceive (beat : BitVec 48) (manchester : Bool) (s : State) : Out :=
  let n := beat.toNat
  let f := fun (hi lo : Nat) => n / 2 ^ lo % 2 ^ (hi + 1 - lo)
  let crc := crc8 ((List.range 4).map (fun i => BitVec.ofNat 8 (f (39 - 8 * i) (32 - 8 * i))))
  .next (if !s.pair.en || !vget s.pwr.rails 9 || manchester || f 47 40 != 0xD5 || crc.toNat != f 7 0 then s
  else if (f 32 32 == 1) == s.pair.unitB then conflictBeat true s
  else validBeat true (now s - 48)
    { seq := f 39 36, pstate := BitVec.ofNat 3 (f 35 33), unitB := f 32 32 == 1, auth := f 31 31 == 1,
      healthy := f 30 30 == 1, srcOff := f 28 28 == 1, mirrorSeq := BitVec.ofNat 8 (f 27 20), epoch := f 19 8, width := 12,
      rmaster := false, ready := false } s)

/-- PAIR_HEARTBEAT_RECEIVE: `checked` is that its block passed its checks (08 R306, R307). -/
def execPairHeartbeatReceive (beat : BitVec 56) (checked : Bool) (s : State) : Out :=
  let n := beat.toNat
  let f := fun (hi lo : Nat) => n / 2 ^ lo % 2 ^ (hi + 1 - lo)
  .next (if !s.pair.en || !checked then s
  else if (f 48 48 == 1) == s.pair.unitB then conflictBeat false s
  else validBeat false (now s)
    { seq := f 55 52, pstate := BitVec.ofNat 3 (f 51 49), unitB := f 48 48 == 1, auth := f 47 47 == 1,
      healthy := f 46 46 == 1, srcOff := f 44 44 == 1, mirrorSeq := BitVec.ofNat 8 (f 39 32), epoch := f 31 0, width := 32,
      rmaster := f 43 43 == 1, ready := f 42 42 == 1 } s)

/-- Evidence at declaration tick `d`: bit 0 a witness fired, bit 1 a follower engagement that EVIDENCE_BIAS counts, while the
peer held authority, within 40 µs before or 5 µs after it (08 R320). -/
def evidenceAt (d : Nat) (s : State) : Nat :=
  let near := fun (x : Nat) => decide (d ≤ x + 491) && decide (x ≤ d + 61)
  b01 (s.pair.lastWitness.any near) + 2 * b01 (s.pair.policy0.bit 29 && s.pair.engagements.any (fun e => e.2.2 && near e.1))

/-- PAIR_PEER_FAIL with its tick, the evidence and the state that follows (08 R309). -/
def peerFailed (d : Nat) (ev : Nat) (s : State) : State :=
  crit 0x0806 0 (split64 d ++ [wd ev, wd s.pair.pstate.code]) s

/-- What a unit does at the instant d of its peer's failure, by its state (08 Table 8.5). -/
def failPeer (d : Nat) (s : State) : State :=
  let ev := evidenceAt d s
  match s.pair.pstate with
  | .active => peerFailed d ev (rampAll d (setPState .activeAlone s))
  | .standby =>
    if ev ≠ 0 ∧ s.pair.policy0.bit 31 then peerFailed d ev (takeAlone d (modPair (fun p => { p with records := [] }) s))
    else peerFailed d ev (enterHold (if s.pair.policy0.bit 31 then 1 else 2) s)
  | _ => peerFailed d ev s

/-- Both paths silent from instant d on: what the peer's beats had made due, and what was agreed with it, lapses. -/
def pathsSilent (d : Nat) (s : State) : State :=
  advanceTo d (dueState none (modPair (fun p => { p with
    link := { p.link with alive := false, run := 0 }
    hbx := { p.hbx with alive := false, run := 0 }
    failedAt := some d, handoverAt := none, splitRestoreAt := none, imageSent := false
    resyncAt := if p.pstate = .resync then p.resyncAt else none }) s))

/-- PATH_ALIVE_EXPIRY: 377 cycles without a valid beat on a path: while the other lives its loss is reported, and otherwise the
peer has failed (08 R307, R309, R310). -/
def execPathAliveExpiry (hbx : Bool) (s : State) : Out :=
  let x := pathOf hbx s
  .next (if !x.alive then s
  else
    let s1 := advanceTo (x.last + 377) s
    if (pathOf (!hbx) s1).alive then
      crit (if hbx then 0x0804 else 0x0802) 0 (split64 (now s1))
        (modPath hbx (fun p => { p with alive := false, run := 0, lost := true }) s1)
    else failPeer (now s1) (pathsSilent (now s1) s1))

/-- PEER_FAILURE: the path or paths that still counted as alive have fallen silent (08 R309, R314, R320, Table 8.5). -/
def execPeerFailure (s : State) : Out :=
  let d := max (now s) (max s.pair.link.last s.pair.hbx.last + 377)
  .next (if s.pair.en && peerHeard s then failPeer d (pathsSilent d s) else s)

/-! ## Witnesses (08 R312, R315, R319) -/

/-- WITNESS_FIRE: the armed witness of a source at I_SET/2 sees half its reference; the source ramps, and in HOLD the unit takes
authority (08 R311 to R313, Table 8.5). -/
def execWitnessFire (source : Fin 128) (s : State) : Out :=
  .next (if !s.pair.en || halfOf s source.val != .half || !witnessArmed source.val s then s
  else
    let d := now s
    let s1 := rampSources [source.val] d
      (modPair (fun p => { p with lastWitness := some d, witnessRamps := satInc p.witnessRamps }) s)
    let s2 := crit 0x080B source.val (wd source.val :: split64 d) s1
    if s2.pair.pstate = .hold ∧ s2.pair.policy0.bit 31 then takeAlone d s2 else s2)

/-- WITNESS_RETURN: a ramped source finds, by its reference of before the ramp, the peer still delivering (08 R315). -/
def execWitnessReturn (source : Fin 128) (s : State) : Out :=
  .next (if !s.pair.en || halfOf s source.val != .full || (vget s.pair.preRamp source).getD 0 == 0 then s
  else
    let s1 := markRamps [source.val] (now s) (setHalves [source.val] .half
      (modPair (fun p => { p with witnessReturns := satInc p.witnessReturns, preRamp := vset p.preRamp source none }) s))
    crit 0x080C source.val (wd source.val :: split64 (now s1)) s1)

/-- FOLLOWER_ENGAGEMENT: a BIAS driver in follow mode departs by more than 20 mV; it is recorded, and one that comes within 5 µs
after a declaration and counts as evidence lets a unit in HOLD take authority (08 R319, R320; DEDUCED, assumption 166). -/
def execFollowerEngagement (basin : Fin 32) (s : State) : Out :=
  .next (if !s.pair.followMode then s
  else
    let recent := s.pair.engagements.filter (fun e => decide (now s ≤ e.1 + 552))
    let s1 := modPair (fun p => { p with engagements := recent ++ [(now s, basin, p.peer.auth)] }) s
    match s1.pair.failedAt with
    | some d => if s1.pair.pstate = .hold ∧ s1.pair.policy0.bit 31 ∧ now s1 ≤ d + 61 ∧ evidenceAt d s1 ≠ 0 then
        takeAlone (now s1) s1 else s1
    | none => s1)

/-! ## Joining, handover, restore (08 Table 8.5, R317, R325) -/

/-- JOIN_S seconds have not passed since the last valid beat. -/
def heardInJoin (s : State) : Bool :=
  let last := max s.pair.link.last s.pair.hbx.last
  peerHeard s || (last != 0 && decide (now s < last + ticksPerSecond * s.pair.policy0.field 23 16))

/-- JOIN_TIMEOUT: JOIN_S in JOINING without a valid beat (08 Table 8.5). -/
def execJoinTimeout (s : State) : Out :=
  .next (if s.pair.pstate = .joining ∧ !s.pair.conflict ∧ !heardInJoin s then
    dueState (some (if s.pair.unitB then .hold else .activeAlone)) s else s)

/-- Boundary `f` is the one in progress or the next. -/
def within1 (f : Nat) (s : State) : Bool := decide (f ≤ s.tb.frameTick + frameLen)

/-- At H authority passes: the Standby takes it under a new epoch, which the Active adopts; channels fed by BIAS or GUARD carry
XSTEP on the windows that contain H (08 R325, Table 8.5; 02 R62). -/
def handoverAt (h : Nat) (s : State) : State :=
  let t := modPair (fun p => { p with handoverAt := none, records := [] }) (advanceTo h s)
  match s.pair.pstate with
  | .standby => setPState .active (bumpEpoch (t.ao.epoch + 1) t)
  | _ => setPState .standby { t with ao := { t.ao with epoch := t.ao.epoch + 1 } }

/-- PAIR_HANDOVER_BOUNDARY: the boundary H that the Active has accepted; at the Standby, of an Active that the pair lanes reach
(08 R325, Table 8.5). -/
def execPairHandoverBoundary (s : State) : Out :=
  .next (match s.pair.pstate with
  | .standby => if s.pair.peer.pstate = 3 ∧ s.pair.lanesUp ∧ reportsHealthy s then
      handoverAt (frameLen * ceilDiv (now s) frameLen) s else s
  | .active => match s.pair.handoverAt with
    | some h => if within1 h s then handoverAt h s else s
    | none => s
  | _ => s)

/-- RESYNC_IMAGE: a part of the image over the pair lanes; with its last part the records that it includes are known, and the
holder's answer to READY names R (08 R328). -/
def execResyncImage (packets : List (List Word)) (last : Bool) (note : ImageNote) (s : State) : Out :=
  .next (if s.pair.pstate = .resync ∧ s.pair.lanesUp then
    modPair (fun p => match note.boundary with
      | some r => { p with resyncAt := if p.imageComplete then some r else p.resyncAt }
      | none => { p with
        image := p.image ++ packets, imageComplete := last
        imageGeneration := if last then note.generation else p.imageGeneration
        rseqTaken := if last then some note.rseq else p.rseqTaken }) s
  else s)

/-- Both units report HEALTHY and the pair lanes are up (08 R317). -/
def mayRestore (s : State) : Bool := reportsHealthy s && s.pair.peer.healthy && peerHeard s && s.pair.lanesUp

/-- SPLIT_RESTORE: the announced boundary: at the authority holder the one it announced, at its peer the next (08 R317). -/
def execSplitRestore (s : State) : Out :=
  .next (if s.pair.en && mayRestore s then
    if holdsAuthority s then (match s.pair.splitRestoreAt with
      | some f => if within1 f s then splitRestore f (advanceTo f s) else s
      | none => s)
    else
      let f := frameLen * ceilDiv (now s) frameLen
      splitRestore f (advanceTo f s)
  else s)

/-! ## The frame boundary -/

/-- R343: the pair offset against DIVERGE_NS over 16 frames. -/
def divergeFrame (s : State) : State :=
  if s.pair.side.n = 0 then s
  else
    let th := s.pair.side.thetaAvg
    let far := decide (((s.pair.policy1.field 15 0 * 1000 : Nat) : Rat) < ratAbs th)
    let run := if far = s.pair.diverged then 0 else s.pair.divergeRun + 1
    if run < 16 then modPair (fun p => { p with divergeRun := run }) s
    else
      let s1 := modPair (fun p => { p with divergeRun := 0, diverged := far }) s
      if far then crit 0x080F 0 [satInt th.floor] s1 else s1

/-- What the authority holder does at boundary `f` that it has announced: the handover H, the split restore of R and any other
(08 R317, R325, R328). At R a peer that has come to STANDBY or is on its way restores too; a boundary that cannot be kept
lapses. -/
def announcedFrame (f : Nat) (s : State) : State :=
  let due := fun (x : Option Nat) => x.any (fun t => decide (t ≤ f))
  if s.pair.pstate = .active ∧ due s.pair.handoverAt then handoverAt f s
  else if !holdsAuthority s then s
  else
    let resync := due s.pair.resyncAt
    let restore := due s.pair.splitRestoreAt
    let s1 := modPair (fun p => { p with
      resyncAt := if resync then none else p.resyncAt, splitRestoreAt := if restore then none else p.splitRestoreAt }) s
    if (restore || (resync && (s.pair.peer.pstate == 1 || s.pair.peer.pstate == 2))) && mayRestore s then splitRestore f s1 else s1

/-- A split restore is announced where some source of the pair is not at its half (08 R317). -/
def announceRestore (f : Nat) (s : State) : State :=
  if holdsAuthority s && mayRestore s && s.pair.peer.pstate == 2 && s.pair.splitRestoreAt.isNone
      && (pairRamped s || splitsOff s || s.pair.peer.srcOff) then
    modPair (fun p => { p with splitRestoreAt := some (f + 16 * frameLen) }) s
  else s

/-- RSEQ `x` comes after `y` (08 Table 8.9: the number wraps). -/
def rseqAfter (x y : BitVec 16) : Bool := x != y && decide ((x - y).toNat < 32768)

/-- Records whose boundary has come are applied: the last of them is acknowledged (08 R336, Table 8.10). -/
def recordsFrame (f : Nat) (s : State) : State :=
  if holdsAuthority s || s.pair.pstate == .resync then s
  else match (s.pair.records.filter (fun r => r.f ≤ f)).getLast? with
    | some r => modPair (fun p => { p with
        records := p.records.filter (fun x => f < x.f)
        rseqApplied := if rseqAfter r.rseq p.rseqApplied then r.rseq else p.rseqApplied }) s
    | none => s

/-- The pair at frame boundary `f`: a merge's increment, a transition that is due, the split of newly enabled sources, the
boundaries announced, and records whose boundary has come (08 R317, R318, R321, R326, R336, R343). -/
def pairFrame (f : Nat) (s : State) : State :=
  if !s.pair.en then s
  else
    let s1 := if s.pair.mergeBump then
        noteMoment (modPair (fun p => { p with mergeBump := false }) (bumpEpoch (s.ao.epoch + 1) s)) else s
    divergeFrame (recordsFrame f (announceRestore f (announcedFrame f (splitFrame (applyTransition s1)))))

/-! ## Commands (08, "Commands and parameter blocks") -/

/-- A class 0x08 command other than PAIR_READ_STATUS meets an unmet precondition in SOLO (08 R296). -/
def pairOnly (s : State) (r : Result) : Result := if s.pair.pstate = .solo then .reject .precondition [] else r

/-- PAIR_SET_POLICY (08 R347, Table 8.8). -/
def rulesPairSetPolicy : Rules :=
  { op := .pairSetPolicy, minLen := 2, maxLen := 2, issuers := pf0, configures := true, authority := fun _ => true,
    mirrored := fun _ => true,
    form := fun p _ => firstBad [(0, rsv (p.w 0) 0x1F000000 && (p.w 0).field 23 16 != 0 && decide (16 ≤ (p.w 0).field 15 0)),
      (1, rsv (p.w 1) 0xFFFF0000 && within (p.w 1).toNat 1 1000)],
    run := fun p s =>
      let f := defaultBoundary true p s
      pairOnly s (.done (stage f (.pairPolicy (p.w 0) (p.w 1)) s) [] f) }

/-- PAIR_SET_POLICY. -/
def execPairSetPolicy (p : Packet) (s : State) : Out := .next (takeCommand rulesPairSetPolicy p s)

/-- PAIR_SET_LINK. -/
def rulesPairSetLink : Rules :=
  { op := .pairSetLink, minLen := 1, maxLen := 1, issuers := pf0, configures := true,
    run := fun p s => let f := defaultBoundary false p s; pairOnly s (.done (stage f (.pairLink (p.w 0)) s) [] f) }

/-- PAIR_SET_LINK. -/
def execPairSetLink (p : Packet) (s : State) : Out := .next (takeCommand rulesPairSetLink p s)

/-- The host path is in use: HOST_MIRROR with the pair lanes down (08 R337). -/
def viaHost (s : State) : Bool := s.pair.en && s.pair.policy0.bit 30 && !s.pair.lanesUp && s.pair.hbx.alive

/-- The words of PAIR_READ_STATUS (08 Table 8.10). -/
def pairStatusWords (s : State) : List Word :=
  let p := s.pair
  [wd (p.pstate.code * 268435456 + b01 p.unitB * 134217728 + b01 (p.en && holdsAuthority s) * 67108864
      + b01 p.link.alive * 33554432 + b01 p.hbx.alive * 16777216 + b01 (p.en && mirrorWorks s) * 8388608
      + b01 (viaHost s) * 4194304 + b01 p.peer.healthy * 2097152 + b01 (reportsHealthy s) * 1048576 + b01 p.en * 524288
      + b01 (pairRamped s) * 262144 + b01 p.peer.rmaster * 131072 + b01 p.diverged * 65536),
    s.ao.epoch, p.peerEpoch, halves p.transfers.toNat p.mirrorLate.toNat, halves p.witnessRamps.toNat p.witnessReturns.toNat]
  ++ split64 p.lastTransfer ++ [satInt p.side.thetaAvg.floor, halves p.rseqSent.toNat p.rseqApplied.toNat]

/-- PAIR_READ_STATUS. -/
def rulesPairReadStatus : Rules :=
  { op := .pairReadStatus, minLen := 0, maxLen := 0, issuers := anyFn, configures := false,
    run := fun _ s => .done s (pairStatusWords s) (now s) }

/-- PAIR_READ_STATUS. -/
def execPairReadStatus (p : Packet) (s : State) : Out := .next (takeCommand rulesPairReadStatus p s)

/-- PAIR_HANDOVER (08 R325, R347). -/
def rulesPairHandover : Rules :=
  { op := .pairHandover, minLen := 2, maxLen := 2, issuers := pf0, configures := false, authority := fun _ => true,
    form := fun p _ => firstBad [tickForm p 0],
    run := fun p s =>
      let h := p.w64 0
      pairOnly s (if s.pair.pstate = .active ∧ s.pair.lanesUp ∧ s.pair.peer.pstate = 2 ∧ s.pair.peer.healthy
          ∧ now s + 4 * frameLen ≤ h then
        .done (modPair (fun p => { p with handoverAt := some h }) s) [] h
      else .reject .precondition []) }

/-- PAIR_HANDOVER. -/
def execPairHandover (p : Packet) (s : State) : Out := .next (takeCommand rulesPairHandover p s)

/-- PAIR_FORCE_AUTHORITY (08 R346, R347, Table 8.5). -/
def rulesPairForceAuthority : Rules :=
  { op := .pairForceAuthority, minLen := 1, maxLen := 1, issuers := pf0, configures := false,
    form := fun p _ => firstBad [(0, p.w 0 == 0x00000F0C)],
    run := fun _ s =>
      if s.pair.pstate = .joining ∨ s.pair.pstate = .hold then
        .done (modPair (fun p => { p with nextState := some .activeAlone, forced := true }) s) [] (nextFrame s)
      else .reject .precondition [] }

/-- PAIR_FORCE_AUTHORITY. -/
def execPairForceAuthority (p : Packet) (s : State) : Out := .next (takeCommand rulesPairForceAuthority p s)

/-- PAIR_MIRROR_READ: the oldest unacknowledged record at or after FROM_SEQ (08 R337). -/
def rulesPairMirrorRead : Rules :=
  { op := .pairMirrorRead, minLen := 1, maxLen := 1, issuers := pf0, configures := false,
    form := fun p _ => firstBad [(0, rsv (p.w 0) 0xFFFF0000)],
    run := fun p s =>
      let from_ := (p.w 0).field 15 0
      let found := if holdsAuthority s then
          s.pair.records.find? (fun r => (r.rseq.toNat + 65536 - from_) % 65536 < 32768) else none
      pairOnly s (.done s (match found with
        | some r => r.words
        | none => []) (now s)) }

/-- PAIR_MIRROR_READ. -/
def execPairMirrorRead (p : Packet) (s : State) : Out := .next (takeCommand rulesPairMirrorRead p s)

end Sys2Proof.Machine
end

