-- ==== Sys2Proof/Machine/Stream.lean ====
section
/-!
DEFINITION. Streams (12): segments and their rows (R448 to R459), the segment queue (R460 to R462), packets (R463 to R465,
R473 to R475), weir points (R466 to R470), delivery at the home hub (R472; 14 R545), set-up over the ring (R450 to R455)
and the class 0x0C commands.
-/
namespace Sys2Proof.Machine
open Sys2Proof

/-! ## Packets (12 Tables 12.3 to 12.7) -/

/-- The eight header words of a packet (12 Table 12.3). `flags` are bits 31 to 28 of word 1. -/
def packetHead (ptype prio origin home stream func flags cfg seq len nch nrow : Nat) (gen epoch : Word) (tick : Nat) : List Word :=
  [wd (ptype * 16777216 + 2 * 1048576 + prio % 8 * 131072 + origin * 4096 + home * 128 + stream * 32 + func * 2),
   wd (flags * 268435456 + cfg * 65536 + seq / 4294967296 % 65536), wd seq,
   wd (len * 1048576 + (nch - 1) * 2048 + nrow), gen, epoch] ++ split64 tick

/-- A whole packet: header, payload and CHECK (12 Table 12.3). -/
def sealPacket (head payload : List Word) : List Word := head ++ payload ++ [crc32cWords (head ++ payload)]

/-- PTYPE of a packet. -/
def ptypeOf (k : List Word) : Nat := (wordAt k 0).field 31 24

/-- SEQ of a packet's header. -/
def seqOf (k : List Word) : Nat := (wordAt k 1).field 15 0 * 4294967296 + (wordAt k 2).toNat

/-- NROW of a packet. -/
def nrowOf (k : List Word) : Nat := (wordAt k 3).field 10 0

/-- ORIGIN of a packet. -/
def originOf (k : List Word) : HubId := (wordAt k 0).extractLsb' 12 5

/-- HOME of a packet. -/
def homeOf (k : List Word) : HubId := (wordAt k 0).extractLsb' 7 5

/-- FUNC of a packet. -/
def packetFn (k : List Word) : BitVec 4 := (wordAt k 0).extractLsb' 1 4

/-- STREAM of a packet. -/
def packetStream (k : List Word) : Nat := (wordAt k 0).field 6 5

/-- CFG_SEQ of a packet. -/
def packetCfg (k : List Word) : Byte := (wordAt k 1).extractLsb' 16 8

/-- What R472 compares: ORIGIN, HOME, FUNC, STREAM, PTYPE, SEQ, CFG_SEQ and the fragment number. -/
def packetKey (k : List Word) : List Word :=
  [wordAt k 0 &&& 0xFF01FFFE, wordAt k 1 &&& 0x00FFFFFF, wordAt k 2,
   if ptypeOf k = 3 ∨ ptypeOf k = 6 then wordAt k 8 &&& 0xFFFF else 0]

/-- The packet with the version-1 header of the H064 personality (12 R475, Table 12.7). -/
def v1Packet (k : List Word) : List Word :=
  let w0 := wordAt k 0
  let w3 := wordAt k 3
  let payload := (k.drop 8).dropLast
  sealPacket
    [wd (w0.field 31 24 * 16777216 + 65536 + w0.field 16 12 * 2048 + w0.field 6 5 * 512 + b01 ((wordAt k 1).bit 31) * 256
       + w3.field 18 11),
     halves (wordAt k 2).toNat (w3.field 10 0), halves (w3.field 31 20) (wordAt k 4).toNat, wordAt k 6] payload

/-- AUTH and EPOCH at a tick; a hub outside a pair sets AUTH and stamps 0 (12 R473). -/
def stampAt (t : Nat) (s : State) : Bool × Word :=
  if s.pair.en then ((momentAt t s).auth, (momentAt t s).epoch) else (true, 0)

/-- The words of a weir mark's payload (12 Table 12.5). -/
def WeirMark.words (m : WeirMark) : List Word :=
  [wd m.firstSeq, halves (m.lastSeq / 4294967296) (m.firstSeq / 4294967296), wd m.lastSeq, wd (min m.count 4294967295),
   wd (m.point * 268435456)]

/-- The WEIR packet of a mark: the header of the first item it counts, with AUTH alone of its flags (12 Table 12.5). -/
def WeirMark.packet (m : WeirMark) : List Word :=
  let h := wordAt m.head
  sealPacket ([wd (0x04000000 + (h 0).field 23 0), (h 1 &&& 0x40FF0000) ||| wd (m.firstSeq / 4294967296), wd m.firstSeq,
    wd (5 * 1048576 + (h 3).field 19 11 * 2048)] ++ (m.head.drop 4)) m.words

/-- SEQ `x` is later than SEQ `y` (12 R458). -/
def seqLater (x y : Nat) : Bool :=
  let d := (x + 281474976710656 - y % 281474976710656) % 281474976710656
  decide (1 ≤ d) && decide (d < 140737488355328)

/-- One weir mark for both: counts add, the earlier FIRST_SEQ with its POINT and header, the later LAST_SEQ (12 R467, R458). -/
def WeirMark.merge (a b : WeirMark) : WeirMark :=
  let e := if seqLater a.firstSeq b.firstSeq then b else a
  { e with count := min (a.count + b.count) 4294967295, lastSeq := if seqLater a.lastSeq b.lastSeq then a.lastSeq else b.lastSeq,
           job := b.job }

/-! ## Weir points 3 and 4 (12 R466 to R470) -/

/-- The segment a packet belongs to, as a key. -/
def markKey (k : List Word) : Word := wordAt k 0 &&& 0x0001FFFE

/-- The pending mark of a packet's segment at a point. -/
def pendingMark (point : Nat) (k : List Word) (s : State) : Option WeirMark :=
  (s.st.marks.find? (fun m => m.1 == point && m.2.1 == markKey k)).map (fun m => m.2.2)

/-- Replace it. -/
def setPending (point : Nat) (k : List Word) (m : Option WeirMark) (s : State) : State :=
  { s with st := { s.st with marks := s.st.marks.filter (fun x => !(x.1 == point && x.2.1 == markKey k))
      ++ (m.map (fun y => (point, markKey k, y))).toList } }

/-- The mark that dropping an item leaves; a WEIR packet's own mark keeps its values (12 R467, R468). -/
def markOf (point : Nat) (k : List Word) (last : Nat) : WeirMark :=
  if ptypeOf k = 4 then
    let p := fun (i : Nat) => wordAt k (8 + i)
    { point := (p 4).field 31 28, firstSeq := (p 1).field 15 0 * 4294967296 + (p 0).toNat,
      lastSeq := (p 1).field 31 16 * 4294967296 + (p 2).toNat, count := (p 3).toNat, head := k.take 8, job := none }
  else { point := point, firstSeq := seqOf k, lastSeq := last, count := nrowOf k, head := k.take 8,
         job := if ptypeOf k = 3 then some (seqOf k) else none }

/-- FUNC of an event about a packet at this hub: its function at its home hub, none elsewhere. -/
def eventFn (home : HubId) (fn : BitVec 4) (s : State) : BitVec 4 := if home = s.ring.hubId then fn else 0xF

/-- ST_WEIR (12 Table 12.11). -/
def raiseWeir (home : HubId) (fn : BitVec 4) (stream : Nat) (origin : HubId) (m : WeirMark) (s : State) : State :=
  raiseEvent .critical 0x0C01 (eventFn home fn s) home.toNat
    ([wd home.toNat, wd fn.toNat, wd stream, wd origin.toNat, wd m.point] ++ split64 m.firstSeq ++ [wd m.count]) s

/-- A packet reaches a weir point that `fits` decides and `emit` passes on (12 R466 to R470): a data packet that does not
fit, or a later fragment of a job in loss, is dropped and counted; a weir mark that does not fit merges; CONTROL, GAP and
RECORD always pass, those that wait for space standing at the queue's end (12 R469; DEDUCED, assumption 173), and a pending
mark goes before the packet that passes. -/
def weirPass (point : Nat) (fits : Nat → State → Bool) (emit : List Word → Nat → State → State) (k : List Word)
    (last : Nat) (s : State) : State :=
  let pend := pendingMark point k s
  let t := ptypeOf k
  let passMark := fun (s : State) => match pend with
    | none => s
    | some m => emit m.packet m.lastSeq
        (raiseWeir (homeOf k) (packetFn k) (packetStream k) (originOf k) m (setPending point k none s))
  let room := fits (k.length + (if pend.isSome then 14 else 0)) s
  let sameJob := t == 3 && (match pend with
    | some m => m.job == some (seqOf k)
    | none => false)
  if 5 ≤ t then emit k last (passMark s)
  else if sameJob && (wordAt k 8).field 15 0 != 0 then s
  else if room then emit k last (passMark s)
  else
    let m := markOf point k last
    setPending point k (some (match pend with
      | some p => p.merge m
      | none => m)) s

/-- Words that a ring transmit queue of a side and class holds at least: 200 µs of full rate (07 R280), and what a part
adds. -/
def ringQueueWords : Nat := 6554 + Config.ringQueueExtra

/-- The ring transmit queue of a group and class takes `n` words more (12 Table 12.2 point 3); a group that is down takes none
(13 R503). -/
def queueFits (g : Fin 3) (cls : Nat) (n : Nat) (s : State) : Bool :=
  let waiting := (getLink s g (fin 4 cls)).waiting
  let held := (waiting.map (fun x => x.message.payload.length)).foldl (· + ·) 0
  !(upLanes s g).isEmpty && (decide (held + n ≤ 6554) || decide (held + n ≤ ringQueueWords))

/-- The ring transmit queue of the route to a hub takes `n` words more. -/
def ringFits (home : HubId) (cls : Nat) (n : Nat) (s : State) : Bool :=
  queueFits (loopedGroup s (sideGroup (routeSide s home))) cls n s

/-- A packet enters the ring at its class (12 R471). -/
def ringPacket (k : List Word) (last : Nat) (s : State) : State :=
  let cls := (wordAt k 0).field 19 17
  weirPass 3 (ringFits (homeOf k) cls)
    (fun k _ s => send { kind := 0x0E, cls := cls, target := some (homeOf k), side := none, payload := k } s) k last s

/-! ## Delivery at the home hub -/

/-- A stream of a function, by number. -/
def streamIndex (fn : BitVec 4) (stream : Nat) : Nat := 4 * fn.toNat + stream

/-- Stream `i`. -/
def getStream (s : State) (i : Nat) : Stream := vgetD s.st.streams i Stream.reset

/-- Change stream `i`. -/
def modStream (i : Nat) (f : Stream → Stream) (s : State) : State :=
  { s with st := { s.st with streams := vsetD s.st.streams i (f (getStream s i)) } }

/-- The delivery queue of stream `i` takes `n` words more: at least 64 KiB (14 R545). -/
def deliveryFits (i n : Nat) (s : State) : Bool :=
  let held := ((getStream s i).delivery.map (fun x => x.1.length)).foldl (· + ·) 0
  decide (held + n ≤ 16384) || decide (4 * (held + n) ≤ 65536 + Config.deliveryQueueExtra)

/-- The origin that a packet belongs to. -/
def Origin.matches (o : Origin) (k : List Word) : Bool := o.hub == originOf k && o.cfgSeq == packetCfg k

/-- A packet enters the delivery queue of stream `i`: from then on it counts as delivered (12 R472). -/
def deliver (i : Nat) (k : List Word) (last : Nat) (s : State) : State :=
  modStream i (fun x => { x with delivery := x.delivery ++ [(k, last)] })
    { s with st := { s.st with recent := s.st.recent ++ [(packetKey k, now s)] } }

/-- A packet arrives at its home hub: one of no segment in force is discarded, a duplicate within 1 ms is discarded and
counted, any other passes weir point 4 (12 R472, R466). An END of an earlier configuration ends its origin. The packets of a
record, which this hub forms itself, are no copies: R469 keeps them from being dropped (DEDUCED, assumption 191). -/
def receivePacket (k : List Word) (last : Nat) (s : State) : State :=
  let i := streamIndex (packetFn k) (packetStream k)
  let st := getStream s i
  let recent := s.st.recent.filter (fun r => decide (now s < r.2 + 12288))
  let s0 := { s with st := { s.st with recent := recent } }
  let record := 5 ≤ ptypeOf k && ptypeOf k ≤ 6
  if !record && !st.origins.any (fun o => o.matches k) then s0
  else if !record && recent.any (fun r => r.1 == packetKey k) then modStream i (fun x => { x with duplicates := satInc x.duplicates }) s0
  else weirPass 4 (deliveryFits i) (deliver i) k last s0

/-- SEQ of the last row of a packet from another hub: a SAMPLE or COMPRESSED packet's rows are consecutive; a DETECTOR
packet does not say by how much its rows' SEQs differ (free value). -/
def lastSeqOf (k : List Word) : Nat :=
  let n := nrowOf k
  if n = 0 then seqOf k
  else if ptypeOf k = 2 then (seqOf k + Config.detectorSpan (wordAt k 0) n) % 281474976710656
  else (seqOf k + n - 1) % 281474976710656

/-- A packet that this hub has formed, or forwards, goes to its home hub. -/
def handOver (k : List Word) (last : Nat) (s : State) : State :=
  if homeOf k = s.ring.hubId then receivePacket k last s else ringPacket k last s

/-- STREAM_PACKET_DELIVER (14 R545; 12 Table 12.10): the oldest packet of a stream's delivery queue goes to its SQ, or to
AF's SQ of the stream, while that has room. -/
def execStreamPacketDeliver (fn : Fin 9) (stream : Fin 4) (s : State) : Out :=
  let i := 4 * fn.val + stream.val
  let st := getStream s i
  let f : Fn := if st.word0.bit 19 then 9 else fin 10 fn.val
  let q := if st.word0.bit 19 then 3 + i else 3 + stream.val
  .next (match st.delivery with
    | [] => s
    | (k, last) :: rest =>
      let x := getQueue s f q
      let words := if s.host.compat then v1Packet k else k
      if !x.en || x.error || decide (queueRoom s f q < ceilDiv words.length 16) then s
      else
        let rows := nrowOf k
        let weir := ptypeOf k == 4
        let s1 := setQueue s f q { x with waiting := x.waiting ++ [words] }
        modStream i (fun t =>
          { t with delivery := rest, packets := satInc t.packets,
                   weirMarks := if weir then satInc t.weirMarks else t.weirMarks,
                   rowsDropped := if weir then satAdd t.rowsDropped (wordAt k 11).toNat else t.rowsDropped,
                   lastSeq := if rows = 0 then t.lastSeq else last,
                   origins := (t.origins.map (fun o => if o.matches k && rows != 0 then { o with lastSeq := last } else o)).filter
                     (fun o => !(o.ending && o.matches k && ptypeOf k == 7 && (wordAt k 8).field 31 24 == 2)) }) s1)

/-! ## Segments -/

/-- This hub's segments of a stream. -/
def Segment.of (g : Segment) (home : HubId) (fn : BitVec 4) (stream : BitVec 2) : Bool :=
  g.home == home && g.fn == fn && g.stream == stream

/-- Two segments are one: the same stream and configuration. -/
def Segment.same (a b : Segment) : Bool := a.of b.home b.fn b.stream && a.cfgSeq == b.cfgSeq

/-- Replace a segment. -/
def putSegment (g : Segment) (s : State) : State :=
  { s with st := { s.st with segments := s.st.segments.map (fun x => if x.same g then g else x) } }

/-- Remove a segment. -/
def dropSegment (g : Segment) (s : State) : State :=
  { s with st := { s.st with segments := s.st.segments.filter (fun x => !x.same g) } }

/-- The segment as it stands now. -/
def refetch (g : Segment) (s : State) : Segment := (s.st.segments.find? (fun x => x.same g)).getD g

/-- KIND of a segment. -/
def Segment.kind (g : Segment) : Nat := g.word0.field 30 29

/-- COMPRESS of a segment. -/
def Segment.compresses (g : Segment) : Bool := g.word0.bit 27

/-- The header of a packet of a segment, from the state at `tick` (12 R473). -/
def Segment.head (g : Segment) (ptype flags seq len nrow : Nat) (gen : Word) (auth : Bool) (epoch : Word) (tick : Nat)
    (s : State) : List Word :=
  packetHead ptype (g.word0.field 22 20) (hubNum s) g.home.toNat g.stream.toNat g.fn.toNat (flags + b01 auth * 4)
    g.cfgSeq.toNat seq len g.chans.length nrow gen epoch tick

/-- The header of a packet whose first row is `r`. -/
def Segment.rowHead (g : Segment) (ptype flags len nrow : Nat) (r : StreamRow) (s : State) : List Word :=
  g.head ptype flags r.seq len nrow r.gen r.auth r.epoch r.outTick s

/-- A CONTROL packet of a segment (12 Table 12.4). -/
def controlPacket (g : Segment) (code seq tick : Nat) (s : State) : List Word :=
  let (auth, epoch) := stampAt tick s
  sealPacket (g.head 7 0 seq 1 0 (momentAt tick s).generation auth epoch tick s) [wd (code * 16777216)]

/-! ## Packet formation (12 R459, R463 to R465) -/

/-- Bits 31, 29 and 28 of word 1 for rows: HOLDOVER, REGIME_START, SHED. -/
def rowFlags (rs : List StreamRow) : Nat :=
  b01 (rs.any (fun r => r.holdover)) * 8 + b01 ((rs.head?.map (fun r => r.first)).getD false) * 2 + b01 (rs.any (fun r => r.shed))

/-- STALE in the sample words of rows, where one of them was produced in holdover: then the packet's header marks holdover
(01 R29). The words before the last `n` of a row, its output tick, are no sample words. -/
def markStale (n : Nat) (rs : List StreamRow) : List StreamRow :=
  if rs.any (fun r => r.holdover) then
    rs.map (fun r => { r with words := r.words.take (r.words.length - n) ++ (r.words.drop (r.words.length - n)).map (fun w => w ||| 1) })
  else rs

/-- Sample words of a row of a segment: one per channel, or every word of a detector row (12 Table 12.1). -/
def Segment.sampleWords (g : Segment) (r : StreamRow) : Nat := if g.kind = 0 then g.chans.length else r.words.length

/-- Close the open packet of a segment. -/
def closePacket (g0 : Segment) (s : State) : State :=
  let g := refetch g0 s
  match g.open_ with
  | [] => s
  | r :: rest =>
    let words := (markStale (g.sampleWords r) g.open_).flatMap (fun x => x.words)
    let head := g.rowHead (if g.kind = 0 then 1 else 2) (rowFlags g.open_) words.length g.open_.length r s
    handOver (sealPacket head words) ((rest.getLast?.getD r).seq) (putSegment { g with open_ := [] } s)

/-- The tiers of a stream job encoded one after the other (11 R444, R430): payload words, sample CRC, effort used least,
columns that failed verification by tier. -/
def encodeTiers : Nat → List Nat → List (Column × ColState × List Word) → List Word × Word × List (Nat × List Nat) →
    List Word × Word × List (Nat × List Nat)
  | _, [], _, acc => acc
  | i, e :: es, cols, acc =>
    let part := cols.map (fun c => (c.1, c.2.1, c.2.2.take 256))
    let t := encodeTier e [] part
    encodeTiers (i + 1) es (((cols.zip t.states).map (fun x => (x.1.1, x.2, x.1.2.2.drop 256))))
      (acc.1 ++ t.words, crc32cFeed acc.2.1 (bytesOf (part.flatMap (fun c => c.2.2))), acc.2.2 ++ [(i, t.failed)])

/-- The words of a stream job (11 Table 11.4, R444). -/
def streamJobWords (j : StreamJob) (effort : Nat) (lead : Nat) : List Word :=
  let cols := (j.columns.zip (List.range j.columns.length)).map
    (fun c => (c.1, ColState.fresh, j.rows.map (fun r => wordAt r.words (lead + c.2))))
  let (payload, crc, _) := encodeTiers 0 j.efforts cols ([], 0xFFFFFFFF, [])
  let table := columnTable j.columns
  let body := [wd (0x0B010000 + j.columns.length), wd j.rows.length, crc32cWords table, 0, wd payload.length,
      wd (j.efforts.foldl min 3 * 4 + effort)] ++ table ++ payload
  body ++ [~~~ crc, wd (body.length + 2)]

/-- The fragments of some words: a fragment word and at most 1,023 words each (12 R465, Table 12.6). -/
def fragments : Nat → Nat → List Word → List (List Word)
  | 0, _, _ => []
  | fuel + 1, n, ws =>
    if ws.length ≤ 1023 then [wd (0x80000000 + n % 65536) :: ws]
    else (wd (n % 65536) :: ws.take 1023) :: fragments fuel (n + 1) (ws.drop 1023)

/-- End the stream job of a segment: its fragments leave as COMPRESSED packets (12 R465). -/
def closeJob (g0 : Segment) (s : State) : State :=
  let g := refetch g0 s
  match g.job with
  | none => s
  | some j => match j.rows with
    | [] => putSegment { g with job := none } s
    | r :: _ =>
      let lead := r.words.length - j.columns.length
      let ws := streamJobWords { j with rows := markStale j.columns.length j.rows } (g.word0.field 26 25) lead
      let s1 := putSegment { g with job := none }
        { s with cmp := { s.cmp with streamTiers := satAdd s.cmp.streamTiers j.efforts.length } }
      (fragments (ws.length / 1023 + 1) 0 ws).foldl (fun t f =>
        handOver (sealPacket (g.rowHead 3 (rowFlags j.rows) f.length j.rows.length r s) f) ((j.rows.getLast?.getD r).seq) t) s1

/-- A row breaks R459 with the rows before it. -/
def breaksRow (a b : StreamRow) : Bool := a.regime != b.regime || a.gen != b.gen || a.shed != b.shed

/-- The effort at which a stream job's next tier runs (11 R433). -/
def streamEffort (g : Segment) (s : State) : Nat :=
  if s.cmp.capped then min 1 (g.word0.field 26 25) else g.word0.field 26 25

/-- A row joins the stream job of a segment (12 R465, 11 R444). -/
def addToJob (g0 : Segment) (r : StreamRow) (s : State) : State :=
  let g := refetch g0 s
  let s1 := match g.job with
    | some j => if (j.rows.head?.map (fun a => breaksRow a r)).getD false then closeJob g s else s
    | none => s
  let g := refetch g s1
  let gs := g.chans.map (fun c => hubNum s * 256 + c.val)
  let j := g.job.getD { rows := [], columns := resolveColumns s1.cmp.map gs, efforts := [] }
  let j := { j with rows := j.rows ++ [r],
                    efforts := if j.rows.length % 256 = 0 then j.efforts ++ [streamEffort g s1] else j.efforts }
  let s2 := putSegment { g with job := some j } s1
  if 256 * (g.word0.field 24 23 + 1) ≤ j.rows.length then closeJob g s2 else s2

/-- A row joins the open packet of a segment (12 R459, R463). -/
def addToPacket (g0 : Segment) (r : StreamRow) (s : State) : State :=
  let g := refetch g0 s
  let held := (g.open_.map (fun x => x.words.length)).foldl (· + ·) 0
  let s1 := if (g.open_.head?.map (fun a => breaksRow a r)).getD false ∨ 1024 < held + r.words.length then closePacket g s else s
  let g := refetch g s1
  let s2 := putSegment { g with open_ := g.open_ ++ [r] } s1
  if g.word1.field 10 0 ≤ g.open_.length + 1 then closePacket g s2 else s2

/-- The core takes a row out of the segment queue: a START first, a weir mark in its place, then the row (12 R453, R466,
R470). -/
def takeRow (g0 : Segment) (r : StreamRow) (s : State) : State :=
  let g := refetch g0 s
  let seq := (r.weir.map (fun m => m.firstSeq)).getD r.seq
  let s1 := if g.begun then s
    else handOver (controlPacket g 1 seq g.start s) seq (putSegment { g with begun := true } s)
  let s2 := match r.weir with
    | none => s1
    | some m => handOver m.packet m.lastSeq (closeJob g (closePacket g s1))
  let g := refetch g s2
  let s3 := putSegment { g with lastSeq := r.seq, lastRow := now s } s2
  if g.compresses then addToJob g r s3 else addToPacket g r s3

/-! ## The segment queue (12 R460 to R462) -/

/-- Words of a list of rows. -/
def rowWords (rs : List StreamRow) : Nat := (rs.map (fun r => r.words.length)).foldl (· + ·) 0

/-- The rows whose words have all left the assembly register: a prefix of at most `n` words. -/
def committedRows : Nat → List StreamRow → List StreamRow
  | _, [] => []
  | n, r :: rs => if r.words.length ≤ n then r :: committedRows (n - r.words.length) rs else []

/-- The core reads what the queue shows it; while a droop stretches the core clock the rows wait (01 R22, 16 R645). -/
def drainQueue (g0 : Segment) (s : State) : State :=
  if s.hl.droop then s
  else
    let g := refetch g0 s
    let rows := committedRows (rowWords g.queue - g.assembly) g.queue
    let s1 := putSegment { g with queue := g.queue.drop rows.length, assembly := min g.assembly (rowWords (g.queue.drop rows.length)) } s
    rows.foldl (fun t r => takeRow g r t) s1

/-- Entries that the queue holds, a weir mark in an entry of its own. -/
def usedEntries (g : Segment) (extra : Nat) : Nat :=
  ceilDiv (rowWords g.queue + extra) 8 + (g.queue.filter (fun r => r.weir.isSome)).length

/-- A row is dropped at weir point 1 and counted (12 R466). -/
def dropRow (g0 : Segment) (r : StreamRow) (s : State) : State :=
  let g := refetch g0 s
  let m : WeirMark := { point := 1, firstSeq := r.seq, lastSeq := r.seq, count := 1,
                        head := g.rowHead (if g.kind = 0 then 1 else 2) 0 0 0 r s, job := none }
  putSegment { g with pend1 := some (match g.pend1 with
    | some p => p.merge m
    | none => m) } s

/-- A row reaches weir point 1: written whole with any pending mark before it, or dropped and counted (12 R462, R466). -/
def admitRow (g0 : Segment) (r : StreamRow) (s : State) : State :=
  let g := refetch g0 s
  if usedEntries g r.words.length + 1 ≤ g.depth then
    let r := { r with weir := g.pend1 }
    let s1 := putSegment
      { g with queue := g.queue ++ [r], assembly := (g.assembly + r.words.length) % 8, lastWord := now s, pend1 := none } s
    let s2 := match g.pend1 with
      | some m => raiseWeir g.home g.fn g.stream.toNat s.ring.hubId m s1
      | none => s1
    drainQueue g s2
  else dropRow g r s

/-- The words that a window gives a segment of its channel: its sample word, or the words of the detector block that
ends (12 Table 12.1); none if it gives no row, or one that began before the segment (12 R453). -/
def segmentWords (g : Segment) (f : Formed) : Option (List Word) :=
  if g.kind = 0 then
    if b01 (g.word0.bit 28) == f.branch && decide (g.start ≤ f.start) then some [f.word] else none
  else if decide (g.start ≤ f.blockStart) then f.block else none

/-- A row was produced in holdover: its windows, all the windows of the block for a detector row, contain a cycle of a
holdover frame (06 R222). -/
def heldRow (g : Segment) (f : Formed) (s : State) : Bool :=
  if g.kind = 0 then f.holdover else marked s .holdover f.chan f.blockStart f.out

/-- The oldest windows without a row, one per channel that has one, in channel order. -/
def partHeads (g : Segment) : List PartWindow := g.chans.filterMap (fun c => g.part.find? (fun p => p.chan == c))

/-- A head that ends before another channel's begins: no row can hold both. -/
def staleHead (hs : List PartWindow) (p : PartWindow) : Bool := hs.any (fun q => decide (p.out < q.start))

/-- The row of some windows: SEQ, output tick and regime of the lowest channel's, the words of all (12 R448, Table 12.1). -/
def rowOf (g : Segment) (lc : Bool) (hs : List PartWindow) (s : State) : StreamRow :=
  let lead := hs.head?
  let out := (lead.map (fun p => p.out)).getD 0
  let words := hs.flatMap (fun p => p.words)
  let (auth, epoch) := stampAt out s
  { seq := (lead.map (fun p => p.seq)).getD 0, outTick := out, words := if g.kind = 0 && lc then split64 out ++ words else words,
    regime := (lead.map (fun p => p.regime)).getD 0, first := (lead.map (fun p => p.first)).getD false
    holdover := hs.any (fun p => p.holdover), shed := hs.any (fun p => p.shed), auth := auth, epoch := epoch
    gen := (momentAt out s).generation, weir := none }

/-- Windows that no row can hold leave as rows dropped at weir point 1, one for each output tick, so that every window is
accounted (01 R32). -/
def dropStale (lc : Bool) : Nat → Segment → State → State
  | 0, _, s => s
  | n + 1, g0, s =>
    let g := refetch g0 s
    let hs := partHeads g
    match hs.filter (staleHead hs) with
    | [] => s
    | x :: _ =>
      let gone := (hs.filter (staleHead hs)).filter (fun p => p.out == x.out)
      dropStale lc n g (dropRow g (rowOf g lc gone s) (putSegment { g with part := g.part.filter (fun p => !gone.contains p) } s))

/-- The cadence of a channel in a segment's kind (12 R452). -/
def segmentCadence (w0 : Word) (s : State) (c : Fin 256) : Word × Word × Word :=
  let det := vgetD s.fl.detAccepted c.val 0
  let b := if w0.field 30 29 = 0 then b01 (w0.bit 28) else b01 (det.bit 27)
  let (a, d) := branchCadence (getBranch s (2 * c.val + b)).accepted
  (a, d, if w0.field 30 29 = 0 then 0 else detCadence det)

/-- Ticks between two rows of a segment, a line-cycle window taken at its shortest concern (12 R460). -/
def rowTicks (w0 : Word) (s : State) (c : Fin 256) : Nat :=
  let det := vgetD s.fl.detAccepted c.val 0
  let b := if w0.field 30 29 = 0 then b01 (w0.bit 28) else b01 (det.bit 27)
  let cfg := branchCfg (getBranch s (2 * c.val + b)).accepted
  let w := if cfg.lc then frameLen else cfg.window
  if w0.field 30 29 = 0 then w else w * (det.field 15 0 + 1)

/-- Words of a row (12 Table 12.1). -/
def rowLength (w0 : Word) (chans : List (Fin 256)) (s : State) : Nat :=
  match chans with
  | [] => 0
  | c :: _ =>
    let det := vgetD s.fl.detAccepted c.val 0
    if w0.field 30 29 = 0 then
      chans.length + (if (branchCfg (getBranch s (2 * c.val + b01 (w0.bit 28))).accepted).lc then 2 else 0)
    else chans.length * (2 * b01 (det.bit 31) + b01 (det.bit 30) + b01 (det.bit 29))

/-- Queue depth: the smallest power of two, 64 to 4,096, that holds 64 µs of output and the reserved entry (12 R460). -/
def queueDepth (w0 : Word) (chans : List (Fin 256)) (s : State) : Nat :=
  let ticks := (chans.head?.map (rowTicks w0 s)).getD frameLen
  let words := ceilDiv (rowLength w0 chans s * 786432) (1000 * max ticks 1)
  let need := ceilDiv words 8 + 1
  ((List.range 6).map (fun i => 64 * 2 ^ i)).find? (fun d => decide (need ≤ d)) |>.getD 4096

/-- The queue of a segment has the depth of its present cadence: it follows a change of rate, and the pool is judged at set-up
alone (01 R26, 12 R460; DESIGN CHOICE, assumption 151). -/
def followDepth (g : Segment) (first : Bool) (s : State) : Segment :=
  if first then { g with depth := queueDepth g.word0 g.chans s } else g

/-- A window enters a segment. A row forms of the windows of its channels that overlap, once every channel has given one; they
end together on the tick grid, and in line-cycle mode may end apart (12 R448; DESIGN CHOICE, assumption 152). -/
def segmentWindow (f : Formed) (g : Segment) (s : State) : State :=
  match g.chans.find? (fun c => c.val == f.chan), segmentWords g f with
  | some c, some ws =>
    if (g.endAt.map (fun e => decide (e ≤ f.out))).getD false then s
    else
      let g := refetch g s
      let p : PartWindow :=
        { chan := c, start := if g.kind = 0 then f.start else f.blockStart, out := f.out, seq := f.seq, regime := f.regime
          first := f.first, holdover := heldRow g f s, shed := f.shed, words := ws }
      let g1 := followDepth { g with part := g.part ++ [p] } f.first s
      let s1 := dropStale f.lc g1.part.length g1 (putSegment g1 s)
      let g2 := refetch g1 s1
      let hs := partHeads g2
      if hs.length < g2.chans.length then s1
      else admitRow g2 (rowOf g2 f.lc hs s1) (putSegment { g2 with part := g2.part.filter (fun p => !hs.contains p) } s1)
  | _, _ => s

/-- A window enters every segment of its channel (12 R448). -/
def streamWindow (f : Formed) (s : State) : State := s.st.segments.foldl (fun t g => segmentWindow f g t) s

/-- The partial entry of a segment is committed and what the queue then shows is read (12 R461). -/
def commitPartial (g : Segment) (s : State) : State := drainQueue g (putSegment { refetch g s with assembly := 0 } s)

/-- A flush of a segment (12 R464). -/
def flushSegment (g : Segment) (s : State) : State := closeJob g (closePacket g (commitPartial g s))

/-- PARTIAL_ENTRY_COMMIT (12 R461): 196 SCLK periods, 49 cycles, after the last word of an entry that is held. -/
def execPartialEntryCommit (home : HubId) (fn : BitVec 4) (stream : BitVec 2) (s : State) : Out :=
  .next ((s.st.segments.filter (fun g => g.of home fn stream && g.assembly != 0)).foldl
    (fun t g => commitPartial g (reach (g.lastWord + 49) t)) s)

/-- The tick at which the open packet of a segment has had no row for STALL_US (12 R463). -/
def Segment.stallsAt (g : Segment) : Nat := g.lastRow + usTicks (g.word1.field 31 16)

/-- PACKET_STALL_TIMEOUT (12 R463): no row for STALL_US while a packet holds one. -/
def execPacketStallTimeout (home : HubId) (fn : BitVec 4) (stream : BitVec 2) (s : State) : Out :=
  .next ((s.st.segments.filter (fun g => g.of home fn stream && !g.open_.isEmpty)).foldl (fun t g =>
    let t1 := closePacket g (reach g.stallsAt t)
    if home = t.ring.hubId then modStream (streamIndex fn stream.toNat) (fun x => { x with stallCloses := satInc x.stallCloses }) t1
    else t1) s)

/-! ## Ends (12 R454, R480) -/

/-- SEQ that a segment's first row would have had: of the window in progress of its lowest channel, or of the next. -/
def wouldSeq (g : Segment) (s : State) : Nat :=
  let c := (g.chans.head?.map (fun c => c.val)).getD 0
  let b := if g.kind = 0 then b01 (g.word0.bit 28) else b01 ((vgetD s.fl.detectors c Detector.reset).word.bit 27)
  let x := getBranch s (2 * c + b)
  let seq := windowSeq (branchCfg x.words) x.regime (windowNext x - 1) x.windows
  if g.start ≤ x.winStart then seq else (seq + 1) % 281474976710656

/-- The queue pool takes back the blocks of a segment that has ended: it is removed. -/
def endSegment (f : Nat) (g0 : Segment) (s : State) : State :=
  let s1 := flushSegment g0 s
  let g := refetch g0 s1
  let s2 := match g.pend1 with
    | some m => handOver m.packet m.lastSeq (raiseWeir g.home g.fn g.stream.toNat s.ring.hubId m s1)
    | none => s1
  let seq := if g.begun then g.lastSeq else wouldSeq g s2
  let s3 := if g.begun then s2 else handOver (controlPacket g 1 seq g.start s2) seq s2
  dropSegment g (handOver (controlPacket g 2 seq f s3) seq s3)

/-- An updated contract comes into force at the first frame boundary after the origin has received it (14 R568). -/
def Segment.takeContract (g : Segment) : Segment :=
  match g.newContract with
  | some (share, weight, cls) => { g with share := share, weight := weight, cls := cls, newContract := none }
  | none => g

/-- The segments whose stream ends at boundary `f` send their END packets; while a droop keeps rows of one waiting it ends at a
later boundary (12 R454; 16 R645). -/
def streamFrame (f : Nat) (s : State) : State :=
  let s := { s with st := { s.st with segments := s.st.segments.map Segment.takeContract } }
  (s.st.segments.filter (fun g => g.endAt.any (fun e => decide (e ≤ f)) && !(s.hl.droop && !g.queue.isEmpty))).foldl
    (fun t g => endSegment (g.endAt.getD f) g t) s

/-- ST_ABANDONED for an origin of a stream (12 R480, R455). -/
def raiseAbandoned (fn : BitVec 4) (stream : Nat) (origin : HubId) (seq : Nat) (func : BitVec 4) (s : State) : State :=
  raiseEvent .critical 0x0C04 func (streamIndex fn stream) ([wd fn.toNat, wd stream, wd origin.toNat] ++ split64 seq) s

/-- The packets of a segment of this hub, by word 0 of their header (12 Table 12.3). -/
def Segment.owns (g : Segment) (s : State) (w : Word) : Bool :=
  w.field 16 12 == hubNum s && w.field 11 7 == g.home.toNat && w.field 6 5 == g.stream.toNat && w.field 4 1 == g.fn.toNat

/-- Packets of a segment that no lane carries yet are discarded (12 R455, R480; 13 R503). -/
def discardWaiting (g : Segment) (s : State) : State :=
  { s with ln := { s.ln with links := s.ln.links.map (fun v => v.map (fun k =>
      { k with waiting := k.waiting.filter (fun x => !(x.message.kind == 0x0E && g.owns s (wordAt x.message.payload 0))) })) } }

/-- Remove a segment of this hub with its queued rows and packets (12 R480, R455). -/
def discardSegment (g : Segment) (s : State) : State :=
  dropSegment g (discardWaiting g { s with st := { s.st with marks := s.st.marks.filter (fun m => !g.owns s m.2.1) } })

/-! ## Set-up (12 R450 to R453) -/

/-- Global channels that range words name, in order (12 Table 12.9). -/
def rangeChannels (ws : List Word) : List Nat :=
  ws.flatMap (fun w => (List.range (w.field 24 16 + 1)).map (fun i => w.field 12 0 + i))

/-- The hub of a range. -/
def rangeHub (w : Word) : HubId := BitVec.ofNat 5 (w.field 12 0 / 256)

/-- Local channels of this hub that range words name, ascending. -/
def localChannels (ws : List Word) (s : State) : List (Fin 256) :=
  let gs := rangeChannels ws
  (List.finRange 256).filter (fun c => gs.contains (hubNum s * 256 + c.val))

/-- Entries of the segment queue pool: 512 KiB less the withdrawn blocks of 1 KiB (12 R451, 17 R673). -/
def poolEntries (s : State) : Nat := 16384 - 32 * s.ts.withdrawn.length

/-- Why this hub refuses a segment: its status, or none (12 R451, R452). -/
def segmentRefusal (w0 : Word) (chans : List (Fin 256)) (s : State) : Option Status :=
  let used := (s.st.segments.map (fun g => g.depth)).foldl (· + ·) 0
  if 64 ≤ s.st.segments.length ∨ poolEntries s < used + queueDepth w0 chans s then some .busy
  else match chans with
    | [] => none
    | c :: cs => if cs.all (fun d => segmentCadence w0 s d == segmentCadence w0 s c) then none else some .precondition

/-- The segments of a stream end at `f`, unless they end sooner. -/
def endSegments (home : HubId) (fn : BitVec 4) (stream : BitVec 2) (f : Nat) (s : State) : State :=
  { s with st := { s.st with segments := s.st.segments.map (fun g =>
      if g.of home fn stream then { g with endAt := some (min f (g.endAt.getD f)) } else g) } }

/-- The boundary at which a segment received now for `f` applies (12 R453). -/
def segmentStart (f : Nat) (s : State) : Nat :=
  if s.tb.started && decide (f < now s + 16) then frameLen * ceilDiv (now s + 16) frameLen else f

/-- The incarnation that a member announces (07 R253). -/
def memberOf (s : State) (h : HubId) : Option (BitVec 16) :=
  (s.ring.members.find? (fun m => m.announce.id == h)).map (fun m => m.announce.incarnation)

/-- A hub is lost to a segment set up with its incarnation `inc`: cause 1, absent from the membership for 1 s; cause 2, refused;
cause 3, restarted (12 R455). -/
def lostFor (h : HubId) (inc : BitVec 16) (cause : Fin 4) (s : State) : Bool :=
  match cause with
  | 1 => (memberOf s h).isNone && s.ring.absent.any (fun x => x.1 == h && decide (x.2 + ticksPerSecond ≤ now s))
  | 2 => (memberOf s h).isNone && s.ring.refusedIds.contains h
  | 3 => ((memberOf s h).map (fun i => i != inc)).getD false
  | _ => false

/-- This hub takes a segment: the earlier configuration ends where it begins; a late one is raised (12 R453). Answers
whether it was late. -/
def placeSegment (home : HubId) (x : SegmentSetup) (s : State) : State × Bool :=
  let chans := localChannels x.ranges s
  let f := segmentStart x.f s
  let g : Segment :=
    { home := home, fn := x.fn, stream := x.stream, cfgSeq := x.cfgSeq, word0 := x.word0, word1 := x.word1, chans := chans,
      start := f, begun := false, endAt := none, depth := queueDepth x.word0 chans s, part := [], queue := [],
      assembly := 0, lastWord := 0, pend1 := none, open_ := [], lastRow := 0, job := none, lastSeq := 0, share := x.share,
      weight := x.weight, cls := x.cls
      newContract := none, credit := { units := 0, at_ := 0 }, incarnation := (memberOf s home).getD 0 }
  let s1 := endSegments home x.fn x.stream f s
  let s2 := { s1 with st := { s1.st with segments := s1.st.segments ++ [g] } }
  if f ≠ x.f then
    (raiseEvent .informational 0x0C02 (eventFn home x.fn s) (streamIndex x.fn x.stream.toNat)
      ([wd home.toNat, wd x.fn.toNat, wd x.stream.toNat] ++ split64 x.f ++ split64 f) s2, true)
  else (s2, false)

/-- Withdraw a segment: cancelled before its boundary, its predecessor going on, or ended at `f` (12 R450, R454). -/
def withdrawSegment (home : HubId) (fn : BitVec 4) (stream : BitVec 2) (cfg : Byte) (f : Nat) (s : State) : State :=
  if f = 0 then
    match s.st.segments.find? (fun g => g.of home fn stream && g.cfgSeq == cfg) with
    | none => s
    | some g =>
      if now s < g.start ∧ s.tb.started ∨ ¬ s.tb.started then
        let s1 := dropSegment g s
        { s1 with st := { s1.st with segments := s1.st.segments.map (fun x =>
            if x.of home fn stream && x.endAt == some g.start then { x with endAt := none } else x) } }
      else putSegment { g with endAt := some (nextFrame s) } s
  else endSegments home fn stream (segmentStart f s) s

/-- The payload of a SEGMENT_SETUP message (15 Table 15.5; its words, DESIGN CHOICE, assumption 26). -/
def setupWords (x : SegmentSetup) : List Word :=
  let act := match x.action with
    | .setup => 0 | .withdraw => 1 | .contract => 2 | .flush => 3
  [wd (act * 16777216 + x.cfgSeq.toNat * 65536 + x.fn.toNat * 16 + x.stream.toNat), x.word0, x.word1] ++ split64 x.f
    ++ [wd (x.share * 65536 + x.weight * 256 + x.cls)] ++ x.ranges

/-- Send a segment message to an origin at class 1 (12 R450). -/
def sendSetup (hub : HubId) (x : SegmentSetup) (s : State) : State :=
  send { kind := 0x0C, cls := 1, target := some hub, side := none, payload := setupWords x } s

/-- Answer a segment message: its status code, bit 8 set where the segment applies late (its words, DESIGN CHOICE,
assumption 26). -/
def sendSegmentReply (home : HubId) (fn : BitVec 4) (stream : BitVec 2) (status : Nat) (s : State) : State :=
  send { kind := 0x0D, cls := 1, target := some home, side := none,
         payload := [wd (status * 65536 + fn.toNat * 16 + stream.toNat)] } s

/-- SEGMENT_SETUP at an origin (12 R450 to R454, R464; 14 R568). -/
def execSegmentSetup (home : HubId) (x : SegmentSetup) (s : State) : Out :=
  .next (match x.action with
    | .setup => match segmentRefusal x.word0 (localChannels x.ranges s) s with
      | some st => sendSegmentReply home x.fn x.stream st.code s
      | none =>
        let (t, late) := placeSegment home x s
        sendSegmentReply home x.fn x.stream (b01 late * 256) t
    | .withdraw =>
      sendSegmentReply home x.fn x.stream 0 (withdrawSegment home x.fn x.stream x.cfgSeq x.f s)
    | .flush =>
      sendSegmentReply home x.fn x.stream 0
        ((s.st.segments.filter (fun g => g.of home x.fn x.stream)).foldl (fun t g => flushSegment g t) s)
    | .contract =>
      { s with st := { s.st with segments := s.st.segments.map (fun g =>
          if g.of home x.fn x.stream then { g with newContract := some (x.share, x.weight, x.cls) } else g) } })

/-! ## The home hub -/

/-- The hubs other than this one that a channel list names. -/
def remoteHubs (ranges : List Word) (s : State) : List HubId :=
  ((ranges.map rangeHub).filter (fun h => h != s.ring.hubId)).eraseDups

/-- Channels of the segments in force of a function's streams but stream `stream` (14 R568). -/
def otherChannels (s : State) (fn : BitVec 4) (stream : Nat) : Nat :=
  (((List.range 4).filter (fun k => k != stream)).flatMap (fun k =>
    ((getStream s (streamIndex fn k)).origins.filter (fun o => !o.ending)).flatMap (fun o => rangeChannels o.ranges))).length

/-- The share of a function's ring minimum that an origin with `n` of all its segments' `total` channels takes (14 R568). The
segments set up before keep theirs until the next change of the contract (DEDUCED, assumption 176). -/
def ringShare (s : State) (fn : BitVec 4) (n total : Nat) : Nat :=
  match fnOfCode fn with
  | some f => (vgetD (getFn s f).contract 1 0).field 31 16 * n / max total 1
  | none => 0

/-- The set-up of one origin's segment. -/
def originSetup (action : SegmentAction) (fn : BitVec 4) (stream : Nat) (cfg : Byte) (w0 w1 : Word) (ranges : List Word) (f : Nat)
    (hub : HubId) (s : State) : SegmentSetup :=
  let own := ranges.filter (fun w => rangeHub w == hub)
  let contract := match fnOfCode fn with
    | some x => (getFn s x).contract
    | none => vall 4 0
  { action := action, fn := fn, stream := BitVec.ofNat 2 stream, cfgSeq := cfg, word0 := w0, word1 := w1, ranges := own, f := f,
    share := ringShare s fn (rangeChannels own).length ((rangeChannels ranges).length + otherChannels s fn stream),
    weight := (vgetD contract 1 0).field 15 8,
    cls := (vgetD contract 0 0).field 9 8 }

/-- Updated contracts go to every origin of a function's streams, and are applied here (14 R568). -/
def updateContracts (fn : BitVec 4) (s : State) : State :=
  (List.range 4).foldl (fun t k =>
    let st := getStream t (streamIndex fn k)
    let ranges := (st.origins.filter (fun o => !o.ending)).flatMap (fun o => o.ranges)
    (st.origins.filter (fun o => !o.ending)).foldl (fun u o =>
      let x := originSetup .contract fn k o.cfgSeq 0 0 ranges 0 o.hub u
      if o.hub = u.ring.hubId then
        { u with st := { u.st with segments := u.st.segments.map (fun g =>
            if g.of u.ring.hubId fn x.stream then { g with share := x.share, weight := x.weight, cls := x.cls } else g) } }
      else sendSetup o.hub { x with ranges := o.ranges } u) t) s

/-- A set-up is refused: withdrawn from every other origin and here (12 R450). -/
def cancelSetup (i : Nat) (refuser : Option HubId) (s : State) : State :=
  let st := getStream s i
  let fn := BitVec.ofNat 4 (i / 4)
  let k := i % 4
  let mine := st.origins.filter (fun o => !o.ending && o.cfgSeq == st.cfgSeq)
  let s1 := mine.foldl (fun t o =>
    if some o.hub = refuser then t
    else if o.hub = t.ring.hubId then withdrawSegment o.hub fn (BitVec.ofNat 2 k) st.cfgSeq 0 t
    else sendSetup o.hub { (originSetup .withdraw fn k st.cfgSeq 0 0 [] 0 o.hub t) with ranges := [] } t) s
  let s2 := { s1 with staged := s1.staged.filter (fun x => match x.change with
      | .stream a b _ _ _ => !(a == fn && b.toNat == k && x.at_ == st.setupF)
      | _ => true) }
  let kept := (st.origins.filter (fun o => o.ending || o.cfgSeq != st.cfgSeq)).map (fun o => { o with ending := false })
  modStream i (fun x => { x with awaits := [], origins := kept }) s2

/-- The reply that a stream command owes is due when no origin's is awaited. -/
def settleStream (i : Nat) (s : State) : State :=
  let fn := BitVec.ofNat 4 (i / 4)
  let st := getStream s i
  if st.awaits.isEmpty then
    settle (.streamFlush fn (i % 4)) .ok [] (now s)
      (settle (.streamDelete fn (i % 4)) .ok [] st.setupF (settle (.streamSetup fn (i % 4)) .ok [] st.setupF s))
  else s

/-- SEGMENT_REPLY at the home hub (12 R450). -/
def execSegmentReply (origin : HubId) (fn : BitVec 4) (stream : BitVec 2) (status : Nat) (s : State) : Out :=
  let i := streamIndex fn stream.toNat
  let st := getStream s i
  .next (if !st.awaits.contains origin then s
    else if status % 256 = 0 then
      settleStream i (modStream i (fun x =>
        { x with awaits := x.awaits.filter (fun h => h != origin), lateSegments := satAdd x.lateSegments (status / 256 % 2),
                 origins := x.origins.map (fun o => if o.hub == origin && !o.ending then { o with accepted := true } else o) }) s)
    else
      let s1 := raiseEvent .critical 0x0C03 fn origin.toNat [wd origin.toNat, wd (status % 256)] s
      settle (.streamSetup fn stream.toNat) (Status.ofCode (status % 256)) [wd origin.toNat] (now s) (cancelSetup i (some origin) s1))

/-- A LOST packet for an origin (12 R455, Table 12.4). -/
def lostPacket (i : Nat) (o : Origin) (cause : Nat) (s : State) : List Word :=
  let st := getStream s i
  let (auth, epoch) := stampAt (now s) s
  sealPacket (packetHead 7 (st.word0.field 22 20) o.hub.toNat (hubNum s) (i % 4) (i / 4) (b01 auth * 4) o.cfgSeq.toNat o.lastSeq 1
    (rangeChannels o.ranges).length 0 s.ring.generation epoch (now s)) [wd (3 * 16777216 + cause * 65536)]

/-- End the segments of one lost origin of stream `i` (12 R455); an origin lost before it has answered a set-up counts as one that
refuses with UNREACHABLE (DEDUCED, assumption 126). -/
def loseOrigin (i : Nat) (origin : HubId) (cause : Fin 4) (s : State) : State :=
  let gone := fun (o : Origin) => o.hub == origin && lostFor origin o.incarnation cause s
  let lost := (getStream s i).origins.filter (fun o => gone o && o.accepted)
  let fn := BitVec.ofNat 4 (i / 4)
  let s1 := lost.foldl (fun t o =>
    raiseEvent .critical 0x0C05 fn i ([wd (hubNum s), wd fn.toNat, wd (i % 4), wd origin.toNat, wd cause.val] ++ split64 o.lastSeq)
      (receivePacket (lostPacket i o cause.val t) o.lastSeq t)) s
  let st := getStream s i
  let unanswered := st.awaits.contains origin && st.origins.any (fun o => gone o && !o.accepted && !o.ending)
  let s2 := modStream i (fun x =>
    { x with origins := x.origins.filter (fun o => !gone o)
             awaits := if x.origins.any gone then x.awaits.filter (fun h => h != origin) else x.awaits }) s1
  if unanswered then
    settle (.streamSetup fn (i % 4)) .unreachable [wd origin.toNat] (now s)
      (cancelSetup i (some origin) (raiseEvent .critical 0x0C03 fn origin.toNat [wd origin.toNat, wd Status.unreachable.code] s2))
  else settleStream i s2

/-- SEGMENT_ORIGIN_LOST (12 R455): absent for 1 s, refused, or restarted. -/
def execSegmentOriginLost (origin : HubId) (cause : Fin 4) (s : State) : Out :=
  .next (if origin = s.ring.hubId then s else (List.range 36).foldl (fun t i => loseOrigin i origin cause t) s)

/-- SEGMENT_HOME_LOST (12 R455): this origin removes the segments of a lost home hub. -/
def execSegmentHomeLost (home : HubId) (cause : Fin 4) (s : State) : Out :=
  .next (if home = s.ring.hubId then s
    else (s.st.segments.filter (fun g => g.home == home && lostFor home g.incarnation cause s)).foldl (fun t g =>
      raiseAbandoned g.fn g.stream.toNat s.ring.hubId g.lastSeq 0xF (discardSegment g t)) s)

/-- A reset clears the streams of function `fn`: every segment is removed everywhere, queued rows and packets are
discarded, and ST_ABANDONED is raised for each origin (12 R480). The stream keeps its CFG_SEQ (12 R481). -/
def clearStreams (fn : BitVec 4) (s : State) : State :=
  (List.range 4).foldl (fun t k =>
    let i := streamIndex fn k
    let st := getStream t i
    let t1 := st.origins.foldl (fun u o =>
      let u1 := if o.hub = u.ring.hubId then
          (u.st.segments.filter (fun g => g.of o.hub fn (BitVec.ofNat 2 k))).foldl (fun v g => discardSegment g v) u
        else sendSetup o.hub { action := .withdraw, fn := fn, stream := BitVec.ofNat 2 k, cfgSeq := o.cfgSeq, f := nextFrame u } u
      raiseAbandoned fn k o.hub o.lastSeq fn u1) t
    let t2 := { t1 with staged := t1.staged.filter (fun x => match x.change with
      | .stream a b _ _ _ => !(a == fn && b.toNat == k)
      | _ => true) }
    let left := t2.st.marks.filter (fun m => !(m.1 == 4 && m.2.1.field 6 5 == k && m.2.1.field 4 1 == fn.toNat))
    let t3 := { t2 with st := { t2.st with marks := left } }
    modStream i (fun x => { Stream.reset with cfgSeq := x.cfgSeq }) t3) s

/-- The words of a stream come into force at its home hub. -/
def applyStream (fn : BitVec 4) (stream : BitVec 2) (w0 w1 w4 : Word) (s : State) : State :=
  modStream (streamIndex fn stream.toNat) (fun x => { x with word0 := w0, word1 := w1, word4 := w4 }) s

/-! ## Record streams (12 R474) -/

/-- Draw `n` free words. -/
def drawWords (n : Nat) (s : State) : State × List Word :=
  ({ s with freeCtr := s.freeCtr + n }, (List.range n).map (fun i => Config.freeWord (s.freeCtr + i)))

/-- `n` words of capture memory from `a`, for delivery of a record; words that cannot be read are free values. -/
def recordWords (fn : BitVec 4) (a n : Nat) (s : State) : State × List Word :=
  match readMemory 2 fn a (4 * n) s with
  | (t, 0, bytes) => (t, wordsOf bytes)
  | (t, _, _) => drawWords n t

/-- The GAP and RECORD packets of record `ridx` of set `i` on one stream (12 R474, Tables 12.4, 12.6). `tick` is the
record's first output tick and `gaps` the words of its gap table. -/
def sendRecord (k : Nat) (i : Fin 16) (t : CapSet) (tick : Nat) (holdover : Bool) (gaps : List (List Word)) (s : State) : State :=
  let st := getStream s k
  let (auth, epoch) := stampAt tick s
  let c := capCfg t.config
  let head := fun (ptype len : Nat) => packetHead ptype (st.word0.field 22 20) (hubNum s) (hubNum s) (k % 4) (k / 4)
    (b01 auth * 4 + b01 holdover * 8) st.cfgSeq.toNat t.ridx.toNat len c.chans.length 0 t.generation epoch tick
  let s1 := gaps.foldl (fun u g => receivePacket (sealPacket (head 5 6) (g ++ [wd i.val, t.ridx])) t.ridx.toNat u) s
  let total := ceilDiv (c.kindOffset 4) 4
  (List.range (ceilDiv total 1023)).foldl (fun u n =>
    let len := min 1023 (total - 1023 * n)
    let (v, ws) := recordWords t.fn (slotAddr c t.ridx + 4092 * n) len u
    let frag := wd ((if total ≤ 1023 * (n + 1) then 0x80000000 else 0) + n % 65536) :: ws
    receivePacket (sealPacket (head 6 (len + 1)) frag) t.ridx.toNat v) s1

/-- The streams of KIND 2 that name set `i`. -/
def recordStreams (i : Fin 16) (s : State) : List Nat :=
  (List.range 36).filter (fun k =>
    let st := getStream s k
    st.word0.bit 31 && st.word0.field 30 29 == 2 && st.word4.bit i.val && BitVec.ofNat 4 (k / 4) == (getSet s i).fn)

/-- RECORD_CLOSE (09 R361, R362; 12 R474): the record closes, and the streams that name its set carry it. -/
def execRecordClose (set : Fin 16) (s : State) : Out :=
  .next (if mayClose set s then
    let s0 := closeGaps (fun _ => true) set s
    let t := getSet s0 set
    let c := capCfg t.config
    let (entries, _) := gapTable c.gapCap (t.trigK - c.pre) t.spanEnd t.gaps
    let gaps := entries.map (gapWords s0 t)
    let tick := windowStart s0 t (t.trigK - c.pre + 1) - 1
    let streams := recordStreams set s
    streams.foldl (fun u k => sendRecord k set t tick (recordHeld t s0) gaps u) (closeRecord set s)
  else s)

/-! ## Commands (12 R482, R483) -/

/-- Only functions 0 to 8 have streams (14 Table 14.4). -/
def hasStreams : Packet → State → Bool := fun p _ => p.func != 0xA

/-- The ranges of an ST_SET_STREAM block. -/
def streamRanges (p : Packet) : List Word := (p.params.drop 5)

/-- Ranges stay in one hub's channels and do not overlap (12 R483). -/
def rangesOk (ws : List Word) : Bool :=
  ws.all (fun w => rsv w 0xFE00E000 && decide (w.field 12 0 % 256 + w.field 24 16 < 256)) && (rangeChannels ws).Nodup

/-- The first word of an ST_SET_STREAM block that is malformed (12 R483). -/
def streamForm (p : Packet) (s : State) : Option Nat :=
  let w := p.w 0
  let kind := w.field 30 29
  let n := w.field 9 2
  let own := (List.finRange 16).all (fun i => !(p.w 4).bit i.val ||
    ((getSet s i).owner == some (ownerOf p s)))
  if p.params.length ≠ 5 + n then some 0xFFFF
  else firstBad ([(0, rsv w 0x0007FC00 && kind != 3 && within (w.field 22 20) 2 3
      && (if kind = 2 then n == 0 else within n 1 240) && (kind == 0 || !w.bit 28) && !(w.bit 27 && (kind != 0 || w.field 26 25 == 0))
      && !(w.bit 19 && s.ln.auxMode != 2)),
    (1, rsv (p.w 1) 0x0000F800 && (p.w 1).field 31 16 != 0 && within ((p.w 1).field 10 0) 1 1024), tickForm p 2,
    (4, rsv (p.w 4) 0xFFFF0000 && (kind != 2 || ((p.w 4) != 0 && own)))]
    ++ (List.range n).map (fun j => (5 + j, rangesOk ((streamRanges p).take (j + 1)))))

/-- The boundary of a stream command: with remote origins at least 16 frames ahead (12 R450). -/
def streamBoundary (remote : Bool) (p : Packet) (a : Nat) (s : State) : Except Rejection Nat :=
  let given := match p.source with
    | .staged c => some c
    | .mirror f => some f
    | _ => none
  if !remote || given.isSome then applyBoundary false p a s
  else if a = 0 then .ok (if s.tb.started then frameLen * ceilDiv (now s + 16 * frameLen) frameLen else 0)
  else match applyBoundary false p a s with
    | .error r => .error r
    | .ok f => if f < now s + 16 * frameLen then .error ⟨.tickExpired, []⟩ else .ok f

/-- The origins of a stream that are to end, told or marked so. -/
def endOrigins (i : Nat) (f : Nat) (keep : List HubId) (s : State) : State :=
  let st := getStream s i
  let fn := BitVec.ofNat 4 (i / 4)
  let s1 := (st.origins.filter (fun o => !o.ending && o.hub != s.ring.hubId && !keep.contains o.hub)).foldl (fun t o =>
    sendSetup o.hub { action := .withdraw, fn := fn, stream := BitVec.ofNat 2 (i % 4), cfgSeq := o.cfgSeq, f := f } t) s
  modStream i (fun x => { x with origins := x.origins.map (fun o => { o with ending := true }) }) s1

/-- The channel ranges that ST_SET_STREAM asks for: none where EN is 0. -/
def wantedRanges (p : Packet) : List Word := if (p.w 0).bit 31 then streamRanges p else []

/-- ST_SET_STREAM takes effect for boundary `f`: the old regime of the stream ends there, the local segment is placed, and
every remote origin is asked to set up its own (12 R449 to R454). -/
def setStream (p : Packet) (f : Nat) (s : State) : State :=
  let k := (p.w 0).field 1 0
  let i := streamIndex p.func k
  let ranges := wantedRanges p
  let hubs := remoteHubs ranges s
  let chans := localChannels ranges s
  let cfg := (getStream s i).cfgSeq + 1
  let s1 := endOrigins i f hubs s
  let s2 := endSegments s.ring.hubId p.func (BitVec.ofNat 2 k) f s1
  let fresh : HubId → Origin := fun h =>
    { hub := h, cfgSeq := cfg, ranges := ranges.filter (fun w => rangeHub w == h), accepted := h == s.ring.hubId,
      ending := false, lastSeq := 0, incarnation := (memberOf s h).getD 0 }
  let s3 := modStream i (fun x =>
    { x with cfgSeq := cfg, setupF := f, awaits := hubs, packets := 0, weirMarks := 0, stallCloses := 0, rowsDropped := 0,
             duplicates := 0, lateSegments := 0, lastSeq := 0,
             origins := x.origins ++ ((if chans.isEmpty then [] else [s.ring.hubId]) ++ hubs).map fresh }) s2
  let (s4, late) := if chans.isEmpty then (s3, false)
    else placeSegment s.ring.hubId (originSetup .setup p.func k cfg (p.w 0) (p.w 1) ranges f s.ring.hubId s) s3
  let s5 := if late then modStream i (fun x => { x with lateSegments := satInc x.lateSegments }) s4 else s4
  let s6 := hubs.foldl (fun t h => sendSetup h (originSetup .setup p.func k cfg (p.w 0) (p.w 1) ranges f h s) t) s5
  stage f (.stream p.func (BitVec.ofNat 2 k) (p.w 0) (p.w 1) (p.w 4)) s6

/-- ST_SET_STREAM (12 R449 to R453, R482, R483; 14 R565). -/
def rulesStSetStream : Rules :=
  { op := .stSetStream, minLen := 5, maxLen := 245, issuers := hasStreams, configures := true,
    rights := fun p s => viewCheck p (rangeChannels (streamRanges p)) s,
    form := streamForm,
    run := fun p s =>
      let hubs := remoteHubs (wantedRanges p) s
      let leaving := ((getStream s (streamIndex p.func ((p.w 0).field 1 0))).origins.filter
        (fun o => o.hub != s.ring.hubId)).map (fun o => o.hub)
      let cls := (fnOfCode p.func).map (fun f => (vgetD (getFn s f).contract 0 0).field 9 8)
      let chans := localChannels (wantedRanges p) s
      if (p.w 0).field 22 20 < cls.getD 2 then .reject .precondition []
      else if hubs.any (fun h => !Nat.testBit (memberMask s) h.toNat) then .reject .unreachable []
      else match streamBoundary (!(hubs ++ leaving).isEmpty) p (p.w64 2) s with
        | .error r => .reject r.status r.detail
        | .ok f =>
          match (if chans.isEmpty then none else segmentRefusal (p.w 0) chans s) with
          | some st => .reject st []
          | none =>
            if hubs.isEmpty then .done (setStream p f s) [] f
            else .owe (setStream p f s) (.streamSetup p.func ((p.w 0).field 1 0)) }

/-- ST_SET_STREAM. -/
def execStSetStream (p : Packet) (s : State) : Out := .next (takeCommand rulesStSetStream p s)

/-- The remote origins that a flush of the stream asks. -/
def flushHubs (p : Packet) (s : State) : List HubId :=
  ((getStream s (streamIndex p.func ((p.w 0).field 1 0))).origins.filter (fun o => o.hub != s.ring.hubId && o.accepted)).map
    (fun o => o.hub)

/-- A flush of the stream: its local segments now, its remote ones asked over the ring (12 R464; DESIGN CHOICE, assumption
37). -/
def flushStream (p : Packet) (s : State) : State :=
  let k := (p.w 0).field 1 0
  let s1 := (s.st.segments.filter (fun g => g.of s.ring.hubId p.func (BitVec.ofNat 2 k))).foldl (fun t g => flushSegment g t) s
  if (flushHubs p s).isEmpty then s1
  else (flushHubs p s).foldl (fun t h => sendSetup h { action := .flush, fn := p.func, stream := BitVec.ofNat 2 k } t)
    (modStream (streamIndex p.func k) (fun x => { x with awaits := flushHubs p s }) s1)

/-- ST_FLUSH (12 R464). -/
def rulesStFlush : Rules :=
  { op := .stFlush, minLen := 1, maxLen := 1, issuers := hasStreams, configures := false,
    form := fun p _ => firstBad [(0, rsv (p.w 0) 0xFFFFFFFC)],
    run := fun p s =>
      if (flushHubs p s).isEmpty then .done (flushStream p s) [] (now s)
      else .owe (flushStream p s) (.streamFlush p.func ((p.w 0).field 1 0)) }

/-- ST_FLUSH. -/
def execStFlush (p : Packet) (s : State) : Out := .next (takeCommand rulesStFlush p s)

/-- The remote origins whose segments a deletion of the stream ends. -/
def deleteHubs (p : Packet) (s : State) : List HubId :=
  ((getStream s (streamIndex p.func ((p.w 0).field 1 0))).origins.filter (fun o => o.hub != s.ring.hubId && !o.ending)).map
    (fun o => o.hub)

/-- The stream ends at boundary `f` (12 R454). -/
def deleteStream (p : Packet) (f : Nat) (s : State) : State :=
  let k := (p.w 0).field 1 0
  let i := streamIndex p.func k
  let s1 := endSegments s.ring.hubId p.func (BitVec.ofNat 2 k) f (endOrigins i f [] s)
  stage f (.stream p.func (BitVec.ofNat 2 k) Stream.reset.word0 Stream.reset.word1 0)
    (modStream i (fun x => { x with setupF := f, awaits := deleteHubs p s }) s1)

/-- ST_DELETE (12 R454). -/
def rulesStDelete : Rules :=
  { op := .stDelete, minLen := 3, maxLen := 3, issuers := hasStreams, configures := true,
    form := fun p _ => firstBad [(0, rsv (p.w 0) 0xFFFFFFFC), tickForm p 1],
    run := fun p s =>
      match streamBoundary (!(deleteHubs p s).isEmpty) p (p.w64 1) s with
      | .error r => .reject r.status r.detail
      | .ok f =>
        if (deleteHubs p s).isEmpty then .done (deleteStream p f s) [] f
        else .owe (deleteStream p f s) (.streamDelete p.func ((p.w 0).field 1 0)) }

/-- ST_DELETE. -/
def execStDelete (p : Packet) (s : State) : Out := .next (takeCommand rulesStDelete p s)

/-- The reply data of ST_READ_STATUS (12 Table 12.10). -/
def streamStatusWords (x : Stream) : List Word :=
  let live := x.origins.filter (fun o => o.accepted)
  [wd ((x.word0.field 31 29) * 536870912 + x.cfgSeq.toNat * 65536 + live.length * 256),
   wd (live.foldl (fun a o => a ||| 2 ^ o.hub.toNat) 0), x.packets, halves x.weirMarks.toNat x.stallCloses.toNat, x.rowsDropped,
   halves x.duplicates.toNat x.lateSegments.toNat] ++ split64 x.lastSeq

/-- ST_READ_STATUS (12 R482). -/
def rulesStReadStatus : Rules :=
  { op := .stReadStatus, minLen := 1, maxLen := 1,
    issuers := fun p s => hasStreams p s && (p.func == 0 || (p.w 0).field 11 8 == p.func.toNat), configures := false,
    form := fun p _ => firstBad [(0, rsv (p.w 0) 0xFFFFF0FC && decide ((p.w 0).field 11 8 ≤ 8))],
    run := fun p s => .done s (streamStatusWords (getStream s (4 * (p.w 0).field 11 8 + (p.w 0).field 1 0))) (now s) }

/-- ST_READ_STATUS. -/
def execStReadStatus (p : Packet) (s : State) : Out := .next (takeCommand rulesStReadStatus p s)

end Sys2Proof.Machine
end

