-- ==== Sys2Proof/Machine/Lane.lean ====
section
/-!
DEFINITION. Serial lanes and the Rill link (13): bring-up and its refusals, the loss of a lane or a side and the traffic
it leaves, error counters and silence, messages in LSEQ order with acknowledgement and credits, electrical idle, rate
changes, test modes, and the lane commands.
-/
namespace Sys2Proof.Machine
open Sys2Proof

/-- Field `[hi:lo]` of a control payload. -/
def pfield (x : BitVec 56) (hi lo : Nat) : Nat := (x.toNat / 2 ^ lo) % 2 ^ (hi + 1 - lo)

/-- The lanes of a group. -/
def groupLanes (s : State) (g : Fin 3) : List (Fin 16) :=
  (List.finRange 16).filter (fun l => laneGroup s l.val == some g)

/-- A lane event: its place among those of 13, an object and its data. Codes and severities are free (13 gives none). -/
def laneEvent (i : Fin 8) (inst : Nat) (data : List Word) (s : State) : State :=
  raiseEvent (if Config.laneEventCritical i then .critical else .informational) (Config.laneEventCode i).toNat 0xF inst data s

/-! ## Error counters (13 R511 to R513) -/

/-- A 9-bit error counter moves by `d`, floored at 0. -/
def moveCounter (c : Nat) (d : Int) : Nat := min 511 (((c : Int) + d).toNat)

/-- TEC and REC of a lane move (13 R511). -/
def moveErrors (l : Fin 16) (dTec dRec : Int) (s : State) : State :=
  modLane l (fun x => { x with tec := moveCounter x.tec dTec, rec_ := moveCounter x.rec_ dRec }) s

/-- LN_CAUTIOUS at 96, LN_NORMAL when both are below 64 (13 R512). -/
def updateCautious (l : Fin 16) (s : State) : State :=
  let x := getLane s l
  if !x.cautious && decide (96 ≤ max x.tec x.rec_) then
    laneEvent 1 l.val [wd l.val] (modLane l (fun y => { y with cautious := true }) s)
  else if x.cautious && decide (max x.tec x.rec_ < 64) then
    laneEvent 2 l.val [wd l.val] (modLane l (fun y => { y with cautious := false }) s)
  else s

/-! ## Resending (13 R499, R515) -/

/-- Every unacknowledged message of a class for which `f` holds is resent, on the lane that takes the next message and before
that lane's new ones: TEC of its old lane counts its first resend, RESENT every one (13 R499, R502, R511). -/
def resend (g : Fin 3) (c : Fin 4) (f : Sent → Bool) (s : State) : State :=
  let hit := (getLink s g c).replay.filter f
  let s1 := hit.foldl (fun t x =>
    let t1 := if x.again then t else moveErrors x.lane 8 0 t
    modLane x.lane (fun y => { y with resent := satInc y.resent }) t1) s
  match placeLane s1 g c with
  | none => modLink g c (fun k => { k with replay := k.replay.map (fun x => if f x then { x with again := true } else x) }) s1
  | some l => placeOn l true hit (modLink g c (fun k => { k with replay := k.replay.map (fun x =>
      if f x then { x with again := true, lane := l, sentAt := now s } else x) }) s1)

/-! ## The spillway (13 R516, 16 R662) -/

/-- A held message keeps its slot until it is acknowledged; there are 32 (16, "Last words"). -/
def sameSent (a b : Sent) : Bool := a.src == b.src && a.message == b.message

/-- A class-0 message with no UP lane left on its side takes the spillway: the other ring side, the pair lanes, a held
slot; with every slot full it waits at its side. `l` is the lane it was on. -/
def spillOne (g : Fin 3) (l : Fin 16) (x : Sent) (s : State) : State :=
  let y := { x with spill := true, again := false }
  let count := fun (t : State) => laneEvent 4 l.val [wd l.val, wd x.message.kind] (modLane l (fun z => { z with spilled := satInc z.spilled }) t)
  let ring : List (Fin 3) := ([0, 1] : List (Fin 3)).filter (fun h => h != g && !(upLanes s h).isEmpty)
  match ring with
  | h :: _ => count (enqueue h 0 y s)
  | [] =>
    if g ≠ 2 ∧ !(upLanes s 2).isEmpty then count (enqueue 2 0 y s)
    else if s.ao.heldMessages.any (sameSent x) then s
    else if s.ao.heldMessages.length < 32 then
      laneEvent 5 l.val [wd l.val, wd x.message.kind]
        (count { s with ao := { s.ao with heldMessages := s.ao.heldMessages ++ [{ x with again := false }] } })
    else modLink g 0 (fun k => { k with waiting := k.waiting ++ [x] }) s

/-- Held messages that no link carries go first onto a group that comes up. -/
def releaseHeld (g : Fin 3) (s : State) : State :=
  let carried := (List.finRange 3).flatMap (fun h => (getLink s h 0).waiting ++ (getLink s h 0).replay)
  let out := s.ao.heldMessages.filter (fun x => !carried.any (sameSent x))
  modLink g 0 (fun k => { k with waiting := out ++ k.waiting }) s

/-! ## A group goes down or comes up (13 R503, R515, R516) -/

/-- The pending mark at point 3 counts the rows of this fragment's job already: a mark counts every row of a job once (12 R468). -/
def jobCounted (k : List Word) (s : State) : Bool :=
  ptypeOf k == 3 && ((pendingMark 3 k s).bind (fun m => m.job)) == some (seqOf k)

/-- A message of class 1 to 3 that has no side left: CONTROL, GAP and RECORD packets stay, a weir mark merges at point 3, a
data packet is counted there, anything else is discarded (13 R503). -/
def strandOne (g : Fin 3) (c : Fin 4) (x : Sent) (s : State) : State :=
  let k := x.message.payload
  if keptWhileDown c x.message then modLink g c (fun q => { q with waiting := q.waiting ++ [x] }) s
  else if x.message.kind = 0x0E ∧ ¬ jobCounted k s then
    let m := markOf 3 k (lastSeqOf k)
    setPending 3 k (some (match pendingMark 3 k s with
      | some p => p.merge m
      | none => m)) s
  else s

/-- The messages of a class of a group that has gone down, its unacknowledged ones first. -/
def takeClass (g : Fin 3) (c : Fin 4) (s : State) : List Sent × State :=
  let k := getLink s g c
  (k.replay.map (fun x => { x with again := false }) ++ k.waiting, modLink g c (fun _ => LinkClass.reset) s)

/-- The last lane of a group has left UP: class 0 takes the spillway, a ring side's other classes move to the other side,
or are stranded, mirror records stay with the pair logic, and the side goes down. -/
def groupDown (g : Fin 3) (l : Fin 16) (s : State) : State :=
  let (zero, s1) := takeClass g 0 s
  let s2 := zero.foldl (fun t x => spillOne g l x t) s1
  let s3 := ([1, 2, 3] : List (Fin 4)).foldl (fun t c =>
    let (xs, t1) := takeClass g c t
    if g = 2 then t1
    else
      let o : Fin 3 := if g = 0 then 1 else 0
      if (upLanes t1 o).isEmpty then xs.foldl (fun u x => strandOne g c x u) t1
      else modLink o c (fun k => { k with waiting := xs ++ k.waiting }) t1) s2
  if g = 0 then sideDown .east s3 else if g = 1 then sideDown .west s3
  else { s3 with pair := { s3.pair with lanesUp := false, imageSent := false } }

/-- What the down side of a ring still keeps waiting moves to the side that comes up (13 R503). -/
def adoptWaiting (g : Fin 3) (s : State) : State :=
  if g = 2 then s
  else
    let o : Fin 3 := if g = 0 then 1 else 0
    if (upLanes s o).isEmpty then (List.finRange 4).foldl (fun t c =>
      let xs := (getLink t o c).waiting
      modLink g c (fun k => { k with waiting := k.waiting ++ xs }) (modLink o c (fun k => { k with waiting := [] }) t)) s
    else s

/-- The records that the peer has not acknowledged go out over the pair lanes (08 R333, R337). -/
def resendRecords (s : State) : State :=
  s.pair.records.foldl (fun t r =>
    send { kind := 0x0F, cls := 2, target := none, side := none, payload := r.words } t) s

/-- The first lane of a group has entered UP: LSEQ and credits restart, held messages and what was kept go first (R503, R516),
and the side is up. -/
def groupUp (g : Fin 3) (s : State) : State :=
  let s1 := (List.finRange 4).foldl (fun t c => modLink g c (fun k => { LinkClass.reset with waiting := k.waiting }) t) s
  let s2 := (List.finRange 4).foldl (fun t c => modLink g c (fun k =>
    { k with waiting := k.waiting.map (fun x => { x with again := true }) }) t) (releaseHeld g (adoptWaiting g s1))
  if g = 0 then sideUp .east s2 else if g = 1 then sideUp .west s2
  else resendRecords { s2 with pair := { s2.pair with
    lanesUp := true
    side := { SideState.reset with ttLost := s2.pair.side.ttLost, outliers := s2.pair.side.outliers } } }

/-! ## Leaving UP and entering it (13 R508, R513, R518) -/

/-- A lane leaves UP for state `st`: its messages are resent on the group's remaining lanes, or the group goes down. -/
def takeDown (l : Fin 16) (st : LState) (idle : Bool) (s : State) : State :=
  let was := (getLane s l).lstate == .up
  let s1 := modLane l (fun x =>
    { x with lstate := st, idle := idle, rateIdle := false, agreed := 0, ready := 0, resumed := false, trainsSent := 0
             idleSince := if idle then now s else x.idleSince
             timing := [], flows := [], placed := [], opened := [], slot := .idle, receiving := [] }) s
  match laneGroup s l.val with
  | none => s1
  | some g =>
    if !was then s1
    else if (upLanes s1 g).isEmpty then groupDown g l s1
    else updateCautious l ((List.finRange 4).foldl (fun t c => resend g c (fun x => x.lane == l) t) s1)

/-- A cause for which lane `l` leaves UP, or would have: of several in one block time the first in the order of R514 is recorded
(13 R514; two rows at one tick count as one block time, DEDUCED, assumption 168). -/
def recordCause (l : Fin 16) (cause : DownCause) (s : State) : State :=
  modLane l (fun x =>
    if x.lstate = .up then { x with downCause := some cause, downAt := now s }
    else if x.downAt = now s ∧ x.downCause.any (fun k => decide (cause.rank < k.rank)) then { x with downCause := some cause }
    else x) s

/-- Silence: the lane leaves UP and stays silent for 10 ms; the fourth time within 10 s latches it (13 R513, R508). -/
def silence (l : Fin 16) (s : State) : State :=
  let s1 := takeDown l .silent true (recordCause l .silent s)
  let recent := ((getLane s1 l).silentTicks.filter (fun t => decide (now s < t + 10 * ticksPerSecond))) ++ [now s]
  let s2 := modLane l (fun x =>
    { x with silences := satInc x.silences, silentTicks := recent, latched := x.latched || decide (4 ≤ recent.length) }) s1
  countLedger 20 1 (laneEvent 3 l.val [wd l.val] s2)

/-- A counter that has risen to 256 or more silences a lane that is not silent, refused, disabled or under test (13 R513). -/
def checkSilence (l : Fin 16) (before : Lane) (s : State) : State :=
  let x := getLane s l
  let rose := (decide (256 ≤ x.tec) && decide (before.tec < x.tec)) || (decide (256 ≤ x.rec_) && decide (before.rec_ < x.rec_))
  if rose && (x.lstate == .up || x.lstate == .detect || x.lstate == .train || x.lstate == .sleep) then silence l s else s

/-- After the counters of a group have moved: caution and silence of each of its lanes. -/
def settleErrors (g : Fin 3) (before : State) (s : State) : State :=
  (groupLanes s g).foldl (fun t l => checkSilence l (getLane before l) (updateCautious l t)) s

/-- A lane leaves UP under R508: electrical idle for 10 µs, then bring-up anew. -/
def leaveUp (l : Fin 16) (s : State) : State :=
  checkSilence l (getLane s l) (modLane l (fun x => { x with rate := 0, peerIndex := none }) (takeDown l .detect true s))

/-- The rates of groups that wait for their turn: every lane of the first group that is UP or asleep goes through R508 at once,
the next follow when it is up again; a group with no such lane has nothing to take through (13 R509). -/
def takeTurns : Nat → State → State
  | 0, s => s
  | n + 1, s =>
    match s.ln.rateTurns with
    | [] => s
    | g :: rest =>
      let ups := (groupLanes s g).filter (fun l => (getLane s l).lstate == .up || (getLane s l).lstate == .sleep)
      let s1 := ups.foldl (fun t l => leaveUp l t) s
      if ups.isEmpty then takeTurns n { s1 with ln := { s1.ln with rateTurns := rest } } else s1

/-- A lane enters UP. -/
def enterUp (l : Fin 16) (s : State) : State :=
  match laneGroup s l.val with
  | none => s
  | some g =>
    let first := (upLanes s g).isEmpty
    let s1 := modLane l (fun x =>
      { x with lstate := .up, idle := false, agreed := 0, ready := 0, trainsSent := 0, bringups := satInc x.bringups
               upSince := now s, lastBlock := now s }) s
    let s2 := if first then groupUp g s1 else s1
    if first && s2.ln.rateTurns.head? == some g then
      takeTurns 3 { s2 with ln := { s2.ln with rateTurns := s2.ln.rateTurns.drop 1 } }
    else s2

/-! ## Bring-up (13 R504 to R507) -/

/-- SIDE that the peer of a group must send: the opposite ring side, or PAIR (13 R506). -/
def peerSide (g : Fin 3) : Nat := if g = 0 then 1 else if g = 1 then 0 else 2

/-- The reversed index of a lane (13 R506). -/
def reversedIndex (g : Fin 3) (i : Nat) : Nat := if g = 2 then 1 - i else 3 - i

/-- Whether lane `l` hearing index `j` stands in identity (false) or reversed order (true); none for neither, and the fifth
lane always maps to itself. -/
def laneOrder (g : Fin 3) (i j : Nat) : Option Bool :=
  if i = j then some false else if i < 4 ∧ j < 4 ∧ j = reversedIndex g i then some true else none

/-- The orders that the lanes of a group have heard, the fifth lane apart. -/
def groupOrders (s : State) (g : Fin 3) : List Bool :=
  (groupLanes s g).filterMap (fun l =>
    if laneIndex l.val = 4 then none
    else match (getLane s l).peerIndex with
      | some j => laneOrder g (laneIndex l.val) j.toNat
      | none => none)

/-- A TRAIN block shows a miswired lane (13 R506). -/
def miswired (g : Fin 3) (l : Fin 16) (x : BitVec 56) (s : State) : Bool :=
  let i := laneIndex l.val
  let j := pfield x 49 47
  let heard := pfield x 46 44
  pfield x 51 50 != peerSide g
    || (g == 2 && pfield x 32 32 == b01 s.pair.unitB)
    || (heard != 7 && heard != i)
    || (match laneOrder g i j with
        | none => true
        | some o => i != 4 && (groupOrders (modLane l (fun y => { y with peerIndex := none }) s) g).any (fun p => p != o))

/-- Lane rate is shed: at shedding level 4, and while PEAK_EN is 0 (16 Table 16.8, R650). -/
def shedsRate (s : State) : Bool := decide (4 ≤ s.hl.level) || !s.hl.peakWord.bit 31

/-- RATE_MAX that a group offers: its RATE, or 5 while rate is shed (13 Table 13.4, R510). -/
def offeredRate (s : State) (g : Fin 3) : Nat :=
  let r := (vget (vget s.ln.groups g) 0).field 29 27
  if shedsRate s && r == 6 then 5 else r

/-- What a TRAIN block tells of the peer: its index, hub, order, and the rate both propose (13 R504 to R507). -/
def notePeer (g : Fin 3) (l : Fin 16) (x : BitVec 56) (s : State) : State :=
  let j := pfield x 49 47
  let i := laneIndex l.val
  let logical := if g = 0 then i else if g = 1 then j else if s.pair.unitB then j else i
  modLane l (fun y =>
    { y with
      peerIndex := some (BitVec.ofNat 3 j), peerHub := BitVec.ofNat 5 (pfield x 37 33), logical := BitVec.ofNat 3 logical
      reversed := i != 4 && laneOrder g i j == some true
      rateSel := BitVec.ofNat 3 (min (offeredRate s g) (pfield x 43 41))
      trainsSent := if y.peerIndex.isSome && (y.resumed || y.rateSel.toNat == min (offeredRate s g) (pfield x 43 41))
        then y.trainsSent else 0
      agreed := if y.rateSel.toNat == min (offeredRate s g) (pfield x 43 41) then y.agreed else 0 }) s

/-- The TSTATE that a lane in bring-up sends: 0 until it has heard a TRAIN block, 1 once the rate is known, 2 after it has
resumed at that rate (13 R504, Table 13.4; the lock at the new rate comes with RATE_SEL_RESUME, DEDUCED, assumption 174). -/
def Lane.tstate (x : Lane) : Nat := if x.resumed then 2 else if x.peerIndex.isSome then 1 else 0

/-- The payload of the TRAIN blocks that lane `l` of group `g` sends (13 Table 13.4). -/
def trainPayload (g : Fin 3) (l : Fin 16) (s : State) : BitVec 56 :=
  let x := getLane s l
  let sel := if x.peerIndex.isSome then x.rateSel.toNat else offeredRate s g
  BitVec.ofNat 56 (x.tstate * 2 ^ 52 + g.val * 2 ^ 50 + laneIndex l.val * 2 ^ 47 + ((x.peerIndex.map (fun j => j.toNat)).getD 7) * 2 ^ 44
    + offeredRate s g * 2 ^ 41 + sel * 2 ^ 38 + hubNum s * 2 ^ 33 + b01 (g == 2 && s.pair.unitB) * 2 ^ 32 + b01 s.host.compat * 2 ^ 31)

/-- A step of bring-up is complete once enough TRAIN blocks have been received and sent: the transmitter idles before it resumes
at the agreed rate, or the lane is UP (13 R504 steps 2 and 5). -/
def settleBringup (l : Fin 16) (s : State) : State :=
  let x := getLane s l
  if x.lstate != .train || x.rateIdle then s
  else if x.resumed then (if 64 ≤ x.ready ∧ 64 ≤ x.trainsSent then enterUp l s else s)
  else if 32 ≤ x.agreed ∧ 32 ≤ x.trainsSent then modLane l (fun y => { y with rateIdle := true, idleSince := now s }) s
  else s

/-- A TRAIN block in a state of bring-up (13 R504 steps 2 and 5, R519). -/
def trainAdvance (l : Fin 16) (x : BitVec 56) (s : State) : State :=
  let y := getLane s l
  let ts := pfield x 55 52
  match y.lstate with
  | .sleep =>
    if ts = 3 then
      (if y.ready + 1 ≥ 32 then enterUp l s else modLane l (fun z => { z with ready := z.ready + 1 }) s)
    else s
  | .detect | .train =>
    let s0 := modLane l (fun z => { z with lstate := .train, trainAt := if z.lstate = .train then z.trainAt else now s }) s
    settleBringup l (
      if y.resumed then modLane l (fun z => { z with ready := if ts = 2 then z.ready + 1 else 0 }) s0
      else if ts = 1 ∧ pfield x 40 38 = y.rateSel.toNat then modLane l (fun z => { z with agreed := z.agreed + 1 }) s0
      else s0)
  | _ => s

/-- The lane analogue supplies VDDS and VDDSH are valid: without them every Rill lane stays in DETECT (18 Table 18.4). -/
def lanePower (s : State) : Bool := vget s.pwr.rails 1 && vget s.pwr.rails 2

/-- TRAIN_BLOCK_RECEIVE (13 R504 to R507): a block with a reserved bit set fails its checks (R490); an inverted one turns the
received polarity. -/
def execTrainBlockReceive (lane : Fin 16) (payload : BitVec 56) (inverted : Bool) (s : State) : Out :=
  .next (match laneGroup s lane.val with
  | none => s
  | some g =>
    let x := getLane s lane
    if x.lstate == .disabled || x.lstate == .refused || x.lstate == .silent || x.lstate == .test || x.idle || !lanePower s then s
    else if inverted then modLane lane (fun y => { y with rxInv := !y.rxInv, agreed := 0 }) s
    else if pfield payload 30 0 ≠ 0 then
      settleErrors g s (modLane lane (fun y => { y with shErr := satInc y.shErr, ready := 0 }) (moveErrors lane 0 8 s))
    else if miswired g lane payload s then
      laneEvent 0 lane.val [wd lane.val, wd (pfield payload 51 50), wd (pfield payload 49 47), wd (pfield payload 46 44)]
        (takeDown lane .refused false s)
    else
      let s1 := if x.lstate == .up then s else notePeer g lane payload s
      trainAdvance lane payload s1)

/-- BRINGUP_TIMEOUT (13 R504): a lane not UP within 20 ms of TRAIN. -/
def execBringupTimeout (lane : Fin 16) (s : State) : Out :=
  .next (if (getLane s lane).lstate = .train then
    atDue ((getLane s lane).trainAt + usTicks 20000) (modLane lane (fun x =>
      { x with lstate := .detect, rateIdle := false, agreed := 0, ready := 0, resumed := false, trainsSent := 0, rate := 0
               peerIndex := none })) s
  else s)

/-- RATE_SEL_RESUME (13 R504 steps 2 and 3): 1 µs after its transmitter idled the lane resumes at the agreed rate. -/
def execRateSelResume (lane : Fin 16) (s : State) : Out :=
  .next (let x := getLane s lane
    if x.lstate = .train ∧ x.rateIdle then
      atDue (x.idleSince + usTicks 1)
        (modLane lane (fun y => { y with rateIdle := false, resumed := true, ready := 0, trainsSent := 0, rate := y.rateSel })) s
    else s)

/-- ELECTRICAL_IDLE_END (13 R508): 10 µs after leaving UP the lane restarts bring-up; a silent or sleeping one does not. -/
def execElectricalIdleEnd (lane : Fin 16) (s : State) : Out :=
  .next (let x := getLane s lane
    if x.lstate = .silent ∨ x.lstate = .sleep ∨ x.idle = false then s
    else atDue (x.idleSince + usTicks 10) (modLane lane (fun x => { x with idle := false })) s)

/-! ## Loss of signal and of lock (13 R514, R520 to R522) -/

/-- LANE_LOSS_OF_SIGNAL (13 R520): outside SLEEP, where it is suppressed. -/
def execLaneLossOfSignal (lane : Fin 16) (s : State) : Out :=
  .next (let x := getLane s lane
    if x.lstate = .sleep then s
    else
      let s1 := recordCause lane .lossOfSignal (modLane lane (fun y => { y with los := true, losCount := satInc y.losCount }) s)
      if x.lstate = .up then leaveUp lane s1 else s1)

/-- LANE_LOSS_OF_LOCK (13 R521). -/
def execLaneLossOfLock (lane : Fin 16) (s : State) : Out :=
  .next (let x := getLane s lane
    let s1 := recordCause lane .lossOfLock (modLane lane (fun y => { y with lolCount := satInc y.lolCount }) s)
    if x.lstate = .up then leaveUp lane s1 else s1)

/-- LOS_CLEAR (13 R520). -/
def execLosClear (lane : Fin 16) (s : State) : Out := .next (modLane lane (fun x => { x with los := false }) s)

/-- SILENCE_END (13 R513): after 10 ms bring-up restarts, unless the lane is latched. -/
def execSilenceEnd (lane : Fin 16) (s : State) : Out :=
  .next (let x := getLane s lane
    if x.lstate = .silent ∧ !x.latched then
      atDue (x.idleSince + usTicks 10000)
        (modLane lane (fun y => { y with lstate := .detect, idle := false, rate := 0, peerIndex := none })) s
    else s)

/-! ## Messages (13 R490 to R500) -/

/-- The FLOW payload of a class (13 Table 13.7). -/
def flowPayload (g : Fin 3) (c : Fin 4) (nak : Bool) (s : State) : BitVec 56 :=
  let k := getLink s g c
  BitVec.ofNat 56 (c.val * 2 ^ 54 + (k.expected - 1).toNat * 2 ^ 42 + b01 nak * 2 ^ 41 + b01 k.anyReceived * 2 ^ 40
    + k.released.toNat)

/-- FLOW_SEND (13 R498): a FLOW block is due on the lane that takes the next message. -/
def sendFlow (g : Fin 3) (c : Fin 4) (nak : Bool) (s : State) : State :=
  match placeLane s g c with
  | some l => modLane l (fun y => { y with flows := y.flows ++ [flowPayload g c nak s] }) s
  | none => s

/-- The blocks of a message that fail a check of their own: SOM, EOM and data blocks (13 R490). -/
def failedBlocks (m : WireMessage) : Nat :=
  b01 (pfield m.som 5 0 != 0) + b01 (pfield m.eom 54 32 != 0) + m.badHeaders

/-- A message is received correctly (13 R493). -/
def receivedCorrectly (m : WireMessage) : Bool :=
  failedBlocks m == 0 && m.words.length == 2 * pfield m.som 23 12
    && wd (pfield m.eom 31 0) == crc32c (payloadBytes m.som ++ bytesOf m.words)

/-- The words a message carries: all, but for the second of a last block that holds one (13 Table 13.6). -/
def carriedWords (m : WireMessage) : List Word := if pfield m.eom 55 55 = 1 then m.words.dropLast else m.words

/-- A received message as one to pass on. -/
def wireSent (m : WireMessage) : Sent :=
  { lseq := 0, lane := 0, nblk := pfield m.som 23 12, again := false
    message := { kind := pfield m.som 53 48, cls := pfield m.som 55 54
                 target := if pfield m.som 37 37 = 1 then none else some (BitVec.ofNat 5 (pfield m.som 42 38))
                 side := none, payload := carriedWords m }
    src := BitVec.ofNat 5 (pfield m.som 47 43), hops := pfield m.som 11 6, spill := pfield m.som 36 36 == 1, sentAt := 0 }

/-- Pass a message on through a group with one hop more (13 R494); an ANNOUNCE goes no further than 31 hops (07 Table
7.6), and a stream packet passes weir point 3 of the forwarding hub, a mark of it as the packet's origin's (07 R280, 12 Table
12.2). -/
def forward (g : Fin 3) (x : Sent) (s : State) : State :=
  let put := fun (x : Sent) (s : State) => enqueue g (fin 4 x.message.cls) { x with hops := x.hops + 1 } s
  if x.message.kind = 1 ∧ 31 ≤ x.hops then s
  else if x.message.kind = 0x0E then
    weirPass 3 (queueFits g x.message.cls)
      (fun k _ s => put { x with nblk := ceilDiv k.length 2, message := { x.message with payload := k } } s)
      x.message.payload (lastSeqOf x.message.payload) s
  else put x s

/-- Deliver a message here. A stream packet takes its way at once; what any other kind does is a row of its own. -/
def deliverMessage (x : Sent) (s : State) : State :=
  if x.message.kind = 0x0E then receivePacket x.message.payload (lastSeqOf x.message.payload) s else s

/-- What a hub does with a message of a ring side in its turn (13 R494): one of its own, or at 62 hops, is discarded; a
spilled unicast for this hub also crosses the pair link (13 R516, assumption 40). -/
def ringMessage (g : Fin 3) (x : Sent) (s : State) : State :=
  if x.src = s.ring.hubId ∨ 62 ≤ x.hops then s
  else
    let mine := x.message.target == some s.ring.hubId
    let s1 := if mine || x.message.target.isNone then deliverMessage x s else s
    if mine then (if x.spill && s.pair.lanesUp then forward 2 x s1 else s1)
    else forward (loopedGroup s1 (if g = 0 then 1 else 0)) x s1

/-- What a unit does with a message of the pair lanes: records and images have rows of their own; a spilled message for
this hub is delivered, any other is carried on this unit's ring (13 R516, assumption 40). -/
def pairMessage (x : Sent) (s : State) : State :=
  if !x.spill || x.message.target == some s.ring.hubId then deliverMessage x s
  else
    let side := match x.message.target with
      | some h => routeSide s h
      | none => .east
    forward (loopedGroup s (sideGroup side)) x s

/-- Take the messages of a class that stand next in LSEQ order: each is delivered, forwarded or discarded, and its blocks
are released (13 R497, R500). -/
def takeMessages (g : Fin 3) (c : Fin 4) : Nat → State → State
  | 0, s => s
  | n + 1, s =>
    let k := getLink s g c
    match k.ahead.find? (fun a => a.1 == k.expected) with
    | none => s
    | some (q, m) =>
      let x := wireSent m
      let s1 := modLink g c (fun k =>
        { k with
          ahead := k.ahead.filter (fun a => a.1 != q), expected := k.expected + 1, anyReceived := true
          released := k.released + BitVec.ofNat 24 x.nblk }) s
      takeMessages g c n (if g = 2 then pairMessage x s1 else ringMessage g x s1)

/-- A message has been received whole on a lane of a group (13 R493, R494, R497, R498): one that is not received correctly is
counted and asked for again; a class-0 message finds no acknowledgement while every held slot is full (16 R662). -/
def receiveMessage (g : Fin 3) (lane : Fin 16) (m : WireMessage) (s : State) : State :=
  let c : Fin 4 := fin 4 (pfield m.som 55 54)
  if !receivedCorrectly m then
    let s1 := modLane lane (fun x => { x with crcErr := satInc x.crcErr, shErr := satAdd x.shErr (failedBlocks m) })
      (moveErrors lane 0 (8 * (1 + failedBlocks m : Nat)) s)
    settleErrors g s (sendFlow g c true s1)
  else
    let s1 := settleErrors g s (moveErrors lane 0 (-1) s)
    let q : BitVec 12 := BitVec.ofNat 12 (pfield m.som 35 24)
    let k := getLink s1 g c
    if c = 0 ∧ 32 ≤ s1.ao.heldMessages.length then s1
    else if 2048 ≤ (q - k.expected).toNat ∨ k.ahead.any (fun a => a.1 == q) then sendFlow g c false s1
    else sendFlow g c false (takeMessages g c 2048 (modLink g c (fun k =>
      { k with ahead := k.ahead ++ [(q, m)], aheadAt := if k.ahead.isEmpty then now s else k.aheadAt }) s1))

/-- A block of a message arrives on a lane of a group (13 R496): a SOM opens a message, and each data block and EOM belongs to
the most recently opened one that is still open. One that belongs to none is a receive error (DEDUCED, assumption 169). -/
def receiveBlock (g : Fin 3) (lane : Fin 16) (b : WireBlock) (s : State) : State :=
  let stray := fun (s : State) =>
    settleErrors g s (modLane lane (fun y => { y with shErr := satInc y.shErr }) (moveErrors lane 0 8 s))
  match b, (getLane s lane).receiving with
  | .som x, rs => modLane lane (fun y => { y with receiving := { som := x, words := [], bad := 0 } :: rs }) s
  | .data w v ok, r :: rs =>
    modLane lane (fun y => { y with receiving := { r with words := r.words ++ [w, v], bad := r.bad + b01 (!ok) } :: rs }) s
  | .eom x, r :: rs =>
    receiveMessage g lane { som := r.som, words := r.words, eom := x, badHeaders := r.bad }
      (modLane lane (fun y => { y with receiving := rs }) s)
  | _, [] => stray s

/-- MESSAGE_RECEIVE (13 R493, R496): the blocks up to the message's EOM, with those of other messages between them. -/
def execMessageReceive (lane : Fin 16) (blocks : List WireBlock) (s : State) : Out :=
  .next (blocks.foldl (fun t b => match laneGroup t lane.val with
    | none => t
    | some g =>
      if (getLane t lane).lstate = .up then receiveBlock g lane b (modLane lane (fun y => { y with lastBlock := now t }) t) else t) s)

/-- The messages that an ACK_LSEQ covers, of those unacknowledged in LSEQ order; an old one covers none. -/
def ackedCount (k : LinkClass) (a : BitVec 12) : Nat :=
  match k.replay with
  | [] => 0
  | x :: _ =>
    let n := (a - x.lseq).toNat + 1
    if n ≤ k.replay.length then n else 0

/-- An acknowledged message leaves the replay buffer: a held one leaves its slot, and TEC of its lane falls unless it has
been resent (13 R499, R511; 16 R662). -/
def acknowledge (x : Sent) (s : State) : State :=
  let s1 := if x.message.cls = 0 then
      { s with ao := { s.ao with heldMessages := s.ao.heldMessages.filter (fun y => !sameSent x y) } } else s
  if x.again then s1 else moveErrors x.lane (-1) 0 s1

/-- FLOW (13 R490, R499, R500): acknowledgement, credit, and on NAK the resending of the class. -/
def execFlow (lane : Fin 16) (payload : BitVec 56) (s : State) : Out :=
  .next (match laneGroup s lane.val with
  | none => s
  | some g =>
    if (getLane s lane).lstate ≠ .up then s
    else if pfield payload 39 24 ≠ 0 then
      settleErrors g s (modLane lane (fun y => { y with shErr := satInc y.shErr }) (moveErrors lane 0 8 s))
    else
      let c : Fin 4 := fin 4 (pfield payload 55 54)
      let k := getLink s g c
      let n := if pfield payload 40 40 = 1 then ackedCount k (BitVec.ofNat 12 (pfield payload 53 42)) else 0
      let s1 := (k.replay.take n).foldl (fun t x => acknowledge x t) s
      let s2 := modLink g c (fun k => { k with replay := k.replay.drop n, creditCum := BitVec.ofNat 24 (pfield payload 23 0) }) s1
      let s3 := if pfield payload 41 41 = 1 then resend g c (fun _ => true) s2 else s2
      settleErrors g s s3)

/-- MISSING_LSEQ_TIMEOUT (13 R498): a message is still missing 2 µs after a later one arrived. -/
def execMissingLseqTimeout (side : Fin 3) (cls : Fin 4) (s : State) : Out :=
  .next (let k := getLink s side cls
    if k.ahead.isEmpty then s
    else atDue (k.aheadAt + usTicks 2) (fun t => sendFlow side cls true (modLink side cls (fun k => { k with aheadAt := now t }) t)) s)

/-- The ticks after which an unacknowledged message of a group is resent: rtt_avg + 4 µs, or 210 µs until rtt_avg is known (13
R499). -/
def replayTicks (g : Fin 3) (s : State) : Nat :=
  let x := transferOf s g
  if x.n < 16 then usTicks 210 else ceilDiv ((x.rttAvg.ceil.toNat + 4000000) * 12288) 1000000000

/-- REPLAY_TIMEOUT (13 R499): the message sent longest ago has stayed unacknowledged for its time. -/
def execReplayTimeout (side : Fin 3) (cls : Fin 4) (s : State) : Out :=
  .next (match (getLink s side cls).replay with
  | [] => s
  | x :: xs =>
    atDue (xs.foldl (fun a y => min a y.sentAt) x.sentAt + replayTicks side s)
      (fun t => settleErrors side t (resend side cls (fun _ => true) t)) s)

/-! ## Electrical idle (13 R517 to R519) -/

/-- The 8 IDLE_ENTRY blocks that announce electrical idle (13 R517). -/
def sendIdleEntry (g : Fin 3) (s : State) : State :=
  { s with out := { s.out with control := s.out.control ++ List.replicate 8 (g, 0x72, 0) } }

/-- LANE_IDLE_TIMEOUT (13 R517): a ring lane other than the timing lane, with IDLE_US set, sends 8 IDLE_ENTRY blocks. -/
def execLaneIdleTimeout (lane : Fin 16) (s : State) : Out :=
  .next (match laneGroup s lane.val with
  | none => s
  | some g =>
    let x := getLane s lane
    let us := (vget (vget s.ln.groups g) 0).field 15 0
    if x.lstate = .up ∧ g ≠ 2 ∧ timingLaneOf s g ≠ some lane ∧ us ≠ 0 ∧ x.placed = [] ∧ x.opened = [] then
      atDue (x.lastBlock + usTicks us) (fun t => takeDown lane .sleep true (sendIdleEntry g t)) s
    else s)

/-- IDLE_ENTRY (13 R518). -/
def execIdleEntry (lane : Fin 16) (s : State) : Out :=
  .next (if (getLane s lane).lstate = .up then takeDown lane .sleep false s else s)

/-- LANE_WAKE (13 R519): a fast-exit burst of 32 TRAIN blocks in TSTATE 3, at the end of which the lane is UP. -/
def execLaneWake (lane : Fin 16) (s : State) : Out :=
  .next (if (getLane s lane).lstate = .sleep then enterUp lane s else s)

/-- FAST_EXIT_TIMEOUT (13 R519): no block lock within 2 µs of the returning signal. -/
def execFastExitTimeout (lane : Fin 16) (s : State) : Out :=
  .next (match (getLane s lane).lstate with
  | .sleep | .up => leaveUp lane s
  | _ => s)

/-! ## Block slots (13 R492, R496) -/

/-- The segment of this hub's that a message of its own belongs to. -/
def segmentOf (x : Sent) (s : State) : Option Segment :=
  if x.message.kind = 0x0E ∧ x.src = s.ring.hubId ∧ x.hops = 0 then
    s.st.segments.find? (fun g => g.owns s (wordAt x.message.payload 0))
  else none

/-- The functions of all hubs, numbered (14 R568). -/
def Segment.flowNumber (g : Segment) : Nat := 16 * g.home.toNat + g.fn.toNat

/-- Credit that a segment's share, in 10 Mb/s, fills in a cycle; none while this hub's minimums exceed its RING_BUDGET (14 R568,
R571). -/
def ringRate (g : Segment) (s : State) : Nat :=
  if g.home = s.ring.hubId ∧ s.host.overcommit.contains 3 then 0 else 1250 * g.share

/-- A message goes under a guarantee (14 R568): one whose segment holds credit, one that another hub has scheduled, and one of no
segment (DESIGN CHOICE, assumption 175). -/
def guaranteed (s : State) (x : Sent) : Bool :=
  match segmentOf x s with
  | some g => decide (ringRate g s ≠ 0) && decide (0 < g.credit.atTick (ringRate g s) (now s))
  | none => true

/-- RING_GUAR in 10 Mb/s: 70 % of the payload rate of four lanes at the lowest rate of this hub's ring lanes, RATE 5 while none is
UP; what other members' lanes run at no message tells (14 R568; DESIGN CHOICE, assumption 175). -/
def ringGuar (s : State) : Nat :=
  let rates := (upLanes s 0 ++ upLanes s 1).map (fun l => ([125, 250, 500, 625, 1000, 1250, 1600][(getLane s l).rate.toNat]?).getD 125)
  rates.foldl min (rates.headD 1250) * 4 * 64 * 70 / 6600

/-- The weights of own and of forwarded messages (14 R568). -/
def passWeight (s : State) (i : Nat) : Nat :=
  let b := s.host.ringBudget.toNat
  max 1 (if i = 0 then b else ringGuar s - b)

/-- The next of a class's own messages: the oldest under a guarantee, then the oldest of the function whose turn it is (14 R568). -/
def nextOwn (k : LinkClass) (xs : List Sent) (s : State) : Option Sent :=
  let flow := fun (x : Sent) => ((segmentOf x s).map Segment.flowNumber).getD 0
  match xs.find? (guaranteed s) with
  | some x => some x
  | none => match k.flowTurn.pick 512 (fun i => xs.any (fun x => flow x == i)) with
    | some i => xs.find? (fun x => flow x == i)
    | none => none

/-- The next new message of a class of a group, of those that may start (13 R500, R502, R503; 14 R568). -/
def nextNew (g : Fin 3) (c : Fin 4) (s : State) : Option Sent :=
  let k := getLink s g c
  let xs := k.waiting.filter (fun x => mayStart g c x s)
  if c.val < 2 then xs.head?
  else match xs.find? (fun x => x.again) with
    | some x => some x
    | none =>
      let (own, passed) := xs.partition (fun x => x.src == s.ring.hubId && x.hops == 0)
      match k.passTurn.pick 2 (fun i => if i = 0 then !own.isEmpty else !passed.isEmpty) with
      | some 1 => passed.head?
      | _ => nextOwn k own s

/-- The order in which the classes of a group give the next new message: 0, then 1, strictly; then 3 before 2 only where it has a
message under a guarantee and class 2 has none (13 R502). -/
def classOrder (g : Fin 3) (s : State) : List (Fin 4) :=
  let under := fun (c : Fin 4) => (getLink s g c).waiting.any (fun x => mayStart g c x s && guaranteed s x)
  if under 3 && !under 2 then [0, 1, 3, 2] else [0, 1, 2, 3]

/-- What the start of a message notes: the turns that it took and the credit that it spent (14 R568). -/
def chargeRing (g : Fin 3) (c : Fin 4) (x : Sent) (s : State) : State :=
  if c.val < 2 ∨ x.again then s
  else
    let own := x.src == s.ring.hubId && x.hops == 0
    let i := if own then 0 else 1
    let s1 := modLink g c (fun k => { k with passTurn := k.passTurn.served i (passWeight s i) }) s
    match segmentOf x s with
    | none => s1
    | some e =>
      let s2 := if guaranteed s x then s1
        else modLink g c (fun k => { k with flowTurn := k.flowTurn.served e.flowNumber e.weight }) s1
      putSegment { e with credit := e.credit.spend (ringRate e s) (now s) (4 * x.message.payload.length) } s2

/-- Lane `l` of group `g` takes the next new message of its side, where it is the lane that takes it: its class lies below that of
every open one, and no message that is resent goes first (13 R496, R502). -/
def takeNew (g : Fin 3) (l : Fin 16) (s : State) : State :=
  let x := getLane s l
  let bound := match x.opened with
    | m :: _ => m.message.cls
    | [] => 4
  match ((classOrder g s).filter (fun c => decide (c.val < bound))).findSome? (fun c => (nextNew g c s).map (fun y => (c, y))) with
  | none => s
  | some (c, y) =>
    if x.placed.any (fun m => decide (m.message.cls ≤ c.val)) ∨ placeLane s g c ≠ some l then s
    else startMessage g c l y (modLink g c (fun k => { k with waiting := k.waiting.erase y }) (chargeRing g c y s))

/-- Take the first message of class `c` that waits. -/
def takeReady (c : Nat) : List TxMessage → Option (TxMessage × List TxMessage)
  | [] => none
  | m :: ms => if m.message.cls = c then some (m, ms) else (takeReady c ms).map (fun r => (r.1, m :: r.2))

/-- The lane's open messages with the one whose block comes next in front: a message that waits opens where its class lies
below that of every open one, and the lowest class opens first (13 R496, R502). -/
def openNext (x : Lane) : Lane :=
  let bound := match x.opened with
    | m :: _ => m.message.cls
    | [] => 4
  match (List.range bound).findSome? (fun c => takeReady c x.placed) with
  | some (m, rest) => { x with opened := m :: x.opened, placed := rest }
  | none => x

/-- One block slot of a lane: the first that is due of a TIME or HEART block, a FLOW block, the next block of a message, and
IDLE (13 R492). Answers a message whose EOM has been sent. -/
def laneSlot (x : Lane) : Lane × Option Message :=
  match x.timing, x.flows with
  | (t, p) :: ts, _ => ({ x with timing := ts, slot := .control t p }, none)
  | [], p :: ps => ({ x with flows := ps, slot := .control 0x6A p }, none)
  | [], [] =>
    let y := openNext x
    match y.opened with
    | [] => ({ y with slot := .idle }, none)
    | m :: ms => match m.blocks with
      | [] => ({ y with opened := ms, slot := .idle }, some m.message)
      | [b] => ({ y with opened := ms, slot := .message b }, some m.message)
      | b :: bs => ({ y with opened := { m with blocks := bs } :: ms, slot := .message b }, none)

/-- One block slot of lane `l`, and what has left the hub by it: with no TIME, HEART or FLOW block due it may take a new message. -/
def slotOn (g : Fin 3) (l : Fin 16) (s : State) : State :=
  let s := if (getLane s l).timing.isEmpty && (getLane s l).flows.isEmpty then takeNew g l s else s
  let (y, done) := laneSlot (getLane s l)
  let control := match y.slot with
    | .control t p => [(g, t, p)]
    | _ => []
  let y := match y.slot with
    | .message _ => { y with lastBlock := now s }
    | _ => y
  { modLane l (fun _ => y) s with out := { s.out with
      control := s.out.control ++ control, messages := s.out.messages ++ done.toList } }

/-- Block slots of a lane in one modulator cycle at a rate: whole block times of 13 Table 13.2. -/
def slotsPerCycle (rate : BitVec 3) : Nat :=
  ([1, 3, 6, 7, 12, 15, 19, 19][rate.toNat]?).getD 1

/-- One block slot of a lane in bring-up: a TRAIN block, unless its transmitter idles (13 R504). -/
def trainSlot (g : Fin 3) (l : Fin 16) (s : State) : State :=
  settleBringup l (modLane l (fun x =>
    { x with slot := .control 0x2B (trainPayload g l s), trainsSent := if x.lstate = .train then x.trainsSent + 1 else 0 }) s)

/-- A Rill lane transmits in bring-up (13 R504; 18 Table 18.4). -/
def sendsTrain (l : Fin 16) (s : State) : Bool :=
  let x := getLane s l
  (x.lstate == .detect || x.lstate == .train) && !x.idle && !x.rateIdle && lanePower s

/-- The block slots that pass on lane `l` in a modulator cycle. -/
def laneCycle (l : Fin 16) (s : State) : State :=
  match laneGroup s l.val with
  | none => s
  | some g => (List.range (slotsPerCycle (getLane s l).rate)).foldl (fun t _ =>
      if (getLane t l).lstate = .up then slotOn g l t else if sendsTrain l t then trainSlot g l t else t) s

/-- The block slots that pass on every Rill lane in a modulator cycle. -/
def laneSlots (s : State) : State := (List.finRange 16).foldl (fun t l => laneCycle l t) s

/-! ## Rates and the frame boundary (13 R498, R509, R510) -/

/-- Groups queue for a change of rate in the order EAST, WEST, PAIR, behind one that is under way (13 R509). -/
def queueTurns (gs : List (Fin 3)) (s : State) : State :=
  let cur := s.ln.rateTurns
  let want := (([0, 1, 2] : List (Fin 3)).filter (fun g => gs.contains g || (cur.drop 1).contains g))
  match cur with
  | [] => takeTurns 3 { s with ln := { s.ln with rateTurns := want } }
  | g :: _ => { s with ln := { s.ln with rateTurns := g :: want } }

/-- The words of a group take effect; a new RATE waits for the group's turn (13 R509). Answers whether RATE changes. -/
def applyLaneGroup (g : Fin 3) (w0 w1 : Word) (s : State) : State × Bool :=
  let old := (vget (vget s.ln.groups g) 0).field 29 27
  ({ s with ln := { s.ln with groups := vset s.ln.groups g (vset (vset (vget s.ln.groups g) 0 w0) 1 w1) } },
   old != w0.field 29 27)

/-- The lanes at a frame boundary: rate shed or restored as the shedding level has it, the groups whose rate changes, FLOW of
every class of every side that is up, and what the lane monitors show. `crossed`: the level has come to or left level 4;
PEAK_EN alone sheds the groups set to RATE 6, and raises the event where there is one (R510, 16 R650). -/
def laneFrame (changed : List (Fin 3)) (crossed : Bool) (obs : List LaneObs) (s : State) : State :=
  let shed := shedsRate s
  let sixes := if shed != s.ln.rateShed then
      (List.finRange 3).filter (fun g => (vget (vget s.ln.groups g) 0).field 29 27 == 6) else []
  let s0 := { s with ln := { s.ln with rateShed := shed } }
  let s1 := if crossed then laneEvent (if 4 ≤ s.hl.level then 6 else 7) 0 [] s0
    else if sixes.isEmpty then s0 else laneEvent (if shed then 6 else 7) 0 [] s0
  let gs := changed ++ sixes
  let s2 := if gs.isEmpty then s1 else queueTurns gs s1
  let s3 := (List.finRange 3).foldl (fun t g =>
    if (upLanes t g).isEmpty then t else (List.finRange 4).foldl (fun u c => sendFlow g c false u) t) s2
  obs.foldl (fun t o => modLane o.lane (fun x =>
    let y := { x with ampMv := o.ampMv, eye := o.eye }
    if x.lstate = .test then { y with chkLock := o.chkLock, bits := o.bits, errors := o.errors } else y) t) s3

/-! ## Commands (13 Tables 13.11 to 13.16) -/

/-- LN_SET_GROUP (13 R509, R528, Table 13.12). -/
def rulesLnSetGroup : Rules :=
  { op := .lnSetGroup, minLen := 2, maxLen := 2, issuers := pf0, configures := true
    form := fun p _ => firstBad [(0, (p.w 0).field 31 30 != 3 && (p.w 0).field 29 27 != 7), (1, rsv (p.w 1) 0xFFFF)]
    run := fun p s =>
      let f := defaultBoundary false p s
      .done (stage f (.laneGroup (fin 3 ((p.w 0).field 31 30)) (p.w 0) (p.w 1)) s) [] f }

/-- LN_SET_GROUP. -/
def execLnSetGroup (p : Packet) (s : State) : Out := .next (takeCommand rulesLnSetGroup p s)

/-- LN_SET_AUX (13 R485, R528, Table 13.13): the always-on AUX_MODE, in force at the next chip reset. -/
def rulesLnSetAux : Rules :=
  { op := .lnSetAux, minLen := 1, maxLen := 1, issuers := pf0, configures := true
    form := fun p _ => firstBad [(0, (p.w 0).field 31 30 != 3 && rsv (p.w 0) 0x3FFFFFFF)]
    run := fun p s => .done { s with ao := { s.ao with auxMode := BitVec.ofNat 2 ((p.w 0).field 31 30) } } [] (now s) }

/-- LN_SET_AUX. -/
def execLnSetAux (p : Packet) (s : State) : Out := .next (takeCommand rulesLnSetAux p s)

/-- The code of a lane state (13 Table 13.9). -/
def LState.code : LState → Nat
  | .disabled => 0 | .detect => 1 | .train => 2 | .up => 3 | .sleep => 4 | .silent => 5 | .test => 6 | .refused => 7

/-- The words of LN_READ_LANE (13 Table 13.15). -/
def laneWords (l : Fin 16) (s : State) : List Word :=
  let x := getLane s l
  let timing := match laneGroup s l.val with
    | some g => timingLaneOf s g == some l
    | none => false
  let up := if x.lstate = .up then (now s - x.upSince) / ticksPerSecond else 0
  [wd (x.lstate.code * 268435456 + x.rate.toNat * 33554432 + b01 x.rxInv * 16777216 + b01 x.reversed * 8388608
      + x.logical.toNat * 1048576 + x.peerHub.toNat * 32768 + b01 x.cautious * 16384 + b01 timing * 8192 + b01 x.latched * 4096),
   halves x.tec x.rec_, halves x.crcErr.toNat x.shErr.toNat, halves x.resent.toNat x.spilled.toNat,
   halves x.losCount.toNat x.lolCount.toNat, halves x.bringups.toNat x.silences.toNat, halves x.ampMv.toNat x.eye.toNat, wd up]

/-- The lane that word 0 names. -/
def laneOf (p : Packet) : Fin 16 := fin 16 ((p.w 0).field 3 0)

/-- LN_READ_LANE (13 R527, Table 13.15). -/
def rulesLnReadLane : Rules :=
  { op := .lnReadLane, minLen := 1, maxLen := 1, issuers := anyFn, configures := false
    form := fun p _ => firstBad [(0, rsv (p.w 0) 0xFFFFFFF0)]
    run := fun p s => .done s (laneWords (laneOf p) s) (now s) }

/-- LN_READ_LANE. -/
def execLnReadLane (p : Packet) (s : State) : Out := .next (takeCommand rulesLnReadLane p s)

/-- The PCIe link of a lane is up, so that 14 has not disabled it (13 R526). -/
def pcieLive (l : Fin 16) (s : State) : Bool :=
  (decide (10 ≤ l.val) && decide (l.val < 14) && s.host.hostPort.linkUp)
    || (decide (14 ≤ l.val) && s.ln.auxMode == 2 && s.host.auxPort.linkUp)

/-- The lane is the only UP lane of its side or of the pair link (13 R526). -/
def onlyUp (l : Fin 16) (s : State) : Bool :=
  match laneGroup s l.val with
  | some g => upLanes s g == [l]
  | none => false

/-- The effect of an accepted LN_TEST (13 R523 to R526): a mode puts the lane in TEST; MODE 0 ends a test, after which the
lane restarts bring-up, and may set an injection on an UP lane. -/
def applyLaneTest (l : Fin 16) (w : Word) (s : State) : State :=
  let x := getLane s l
  if w.field 27 25 ≠ 0 then
    modLane l (fun y => { y with testWord := w, chkLock := false, bits := 0, errors := 0, rate := y.rate }) (takeDown l .test false s)
  else if x.lstate = .test then
    modLane l (fun y =>
      { y with
        lstate := if 14 ≤ l.val ∧ s.ln.auxMode ≠ 1 then .disabled else .detect
        rate := 0, testWord := w, peerIndex := none }) s
  else if x.lstate = .up ∧ w.field 20 18 ≠ 0 then modLane l (fun y => { y with inject := BitVec.ofNat 3 (w.field 20 18) }) s
  else s

/-- LN_TEST (13 R526, R528, Table 13.14). -/
def rulesLnTest : Rules :=
  { op := .lnTest, minLen := 1, maxLen := 1, issuers := pf0, configures := true
    form := fun p _ =>
      let w := p.w 0
      let mode := w.field 27 25
      let inj := w.field 20 18
      firstBad [(0, decide (mode ≤ 4) && decide (w.field 24 22 ≤ 4) && decide (inj ≤ 4)
        && (inj != 2 || within (w.field 17 13) 10 30) && (!(inj == 3 || inj == 4) || mode == 0)
        && (!(inj == 1 || inj == 2) || mode != 0) && rsv w 0x1FFF)]
    run := fun p s =>
      let w := p.w 0
      let l : Fin 16 := fin 16 (w.field 31 28)
      if w.field 27 25 ≠ 0 ∧ ((onlyUp l s && !w.bit 21) || pcieLive l s) then .reject .precondition []
      else .done (applyLaneTest l w s) [] (now s) }

/-- LN_TEST. -/
def execLnTest (p : Packet) (s : State) : Out := .next (takeCommand rulesLnTest p s)

/-- LN_READ_TEST (13 R523, Table 13.16). -/
def rulesLnReadTest : Rules :=
  { op := .lnReadTest, minLen := 1, maxLen := 1, issuers := anyFn, configures := false
    form := fun p _ => firstBad [(0, rsv (p.w 0) 0xFFFFFFF0)]
    run := fun p s =>
      let x := getLane s (laneOf p)
      .done s ([wd (b01 x.chkLock * 2147483648 + x.testWord.field 27 25 * 268435456)] ++ split64 x.bits ++ [x.errors]) (now s) }

/-- LN_READ_TEST. -/
def execLnReadTest (p : Packet) (s : State) : Out := .next (takeCommand rulesLnReadTest p s)

/-- The effect of LN_RETRAIN (13 R513, R506, R508): out of REFUSED, out of a silence that no latch holds, or through R508. -/
def retrain (l : Fin 16) (clear : Bool) (s : State) : State :=
  let s1 := if clear then modLane l (fun x => { x with latched := false, silentTicks := [] }) s else s
  let x := getLane s1 l
  match laneGroup s l.val with
  | none => s1
  | some _ => match x.lstate with
    | .disabled | .test => s1
    | .silent => if x.latched then s1 else leaveUp l s1
    | _ => leaveUp l s1

/-- LN_RETRAIN (13 R527, "Commands and parameter blocks"). -/
def rulesLnRetrain : Rules :=
  { op := .lnRetrain, minLen := 1, maxLen := 1, issuers := pf0, configures := true
    form := fun p _ => firstBad [(0, rsv (p.w 0) 0x7FFFFFF0)]
    run := fun p s => .done (retrain (laneOf p) ((p.w 0).bit 31) s) [] (now s) }

/-- LN_RETRAIN. -/
def execLnRetrain (p : Packet) (s : State) : Out := .next (takeCommand rulesLnRetrain p s)

end Sys2Proof.Machine
end

