-- ==== Sys2Proof/Machine/Reset.lean ====
section
/-!
DEFINITION. Resets (14 Table 14.13, R560 to R564; 18, "Reset and straps"): the end-of-sampling record, a chip reset and its
release at T_R, zeroisation of the key store, and the resets of a function, of PF0 and of a link.
-/
namespace Sys2Proof.Machine
open Sys2Proof

/-! ## The end of sampling (01 R35, 16 Table 16.9) -/

/-- The tick of the last complete window of the timebase; 0 while none is complete (01 R35; DESIGN CHOICE, assumption 153). -/
def lastWindowTick (s : State) : Nat := s.fl.lastWindow.getD 0

/-- The sample domain stops: one end-of-sampling record, of the first cause that stopped it (01 R35, 18 R710). -/
def endSampling (cause : BitVec 8) (data : List Word) (s : State) : State :=
  if !s.tb.started then s
  else
    let t := lastWindowTick s
    let s1 := pushLastWords
      { ltype := 1, cause := cause, seq := 0, read := false, calSec := s.ao.calendar.sec, tick := t, time := structTimeAt s t,
        generation := s.ring.generation, epoch := s.ao.epoch, data := data } s
    { s1 with tb := { s1.tb with started := false } }

/-! ## A chip reset -/

/-- A basin's map after a reset that keeps `dead` RETIRED (03 R127): the states of its nine indices and the index that
serves each local channel. -/
def basinMap (dead : Fin 9 → Bool) : Vector ModState 9 × List Nat :=
  let healthy := (List.finRange 9).filter (fun i => !dead i)
  let orphans := (List.range 8).filter (fun k => dead (Fin.ofNat 9 k))
  let free := (healthy.map Fin.val).filter (fun i => i = 8)
  let serve := fun (k : Nat) => if !dead (Fin.ofNat 9 k) then k
    else match (orphans.zip free).find? (fun x => x.1 == k) with
      | some x => x.2
      | none => k
  let served := (List.range 8).map serve
  (Vector.ofFn (fun i : Fin 9 =>
    if dead i then (if served.contains i.val then .failedServing else .retired)
    else if served.contains i.val then .serving else .spare), served)

/-- The converter array after a chip reset that keeps the modulators of `dead` RETIRED (03 R104, R127). -/
def convertersAfter (dead : BitVec 288) : Converters :=
  let maps : Vector (Vector ModState 9 × List Nat) 32 :=
    Vector.ofFn (fun b : Fin 32 => basinMap (fun i => dead.getLsbD (9 * b.val + i.val)))
  { Converters.reset with
    retired := dead
    mods := Vector.ofFn (fun m : Fin 288 => vget (vgetD maps (m.val / 9) (basinMap (fun _ => false))).1 (Fin.ofNat 9 (m.val % 9)))
    assign := Vector.ofFn (fun c : Fin 256 =>
      BitVec.ofNat 4 (((vgetD maps (c.val / 8) (basinMap (fun _ => false))).2[c.val % 8]?).getD 0)) }

/-- Everything outside the always-on domain is reset and the internal reset asserted (14 Table 14.13, 18 "Reset and
straps"). Kept: the always-on domain with its ledger, the supplies and pins, the TAP, the ports' PERST_N, the modulators
kept RETIRED and WARM_BIST over a warm reset, and the hold of a thermal trip; runs of self-tests are abandoned (17 R700). `kind` is LAST_RESET. -/
def resetState (kind : BitVec 3) (warm : Bool) (s : State) : State :=
  { State.reset with
    pending := s.pending, freeCtr := s.freeCtr, out := s.out, ao := s.ao
    ln := Lanes.atReset s.ao.auxMode
    cv := convertersAfter (if warm then s.cv.retired else 0)
    hl := { Health.reset with thermalHold := s.hl.thermalHold }
    host := { HostIf.reset with
      lastReset := kind
      hostPort := { Port.reset with perst := s.host.hostPort.perst }
      auxPort := { Port.reset with perst := s.host.auxPort.perst } }
    ts := { SelfTest.reset with
      results := Vector.ofFn (fun i : Fin 9 =>
        if s.ts.runs.any (fun r => r.test == i.val && r.started) then { TestResult.reset with rstate := 4 } else TestResult.reset)
      warmBist := warm && s.ts.warmBist, tapInstruction := s.ts.tapInstruction, tapPinControl := s.ts.tapPinControl
      scanUsed := s.ts.scanUsed }
    pwr := { s.pwr with held := true, booting := true, scriptLeft := [], scriptIndex := 0, scriptOk := 0 } }

/-- A chip reset: safe-off of the excitation, the end-of-sampling record if the sample domain runs, and the reset of
everything outside the always-on domain; `counter` is the ledger counter of its cause (16 Tables 16.1, 16.3). -/
def chipReset (kind : BitVec 3) (warm : Bool) (cause : BitVec 8) (data : List Word) (counter : Option (Fin 30)) (s : State) :
    State :=
  let s1 := countLedger 22 1 (endSampling cause data s)
  resetState kind warm (match counter with
    | some id => countLedger id 1 s1
    | none => s1)

/-! ## Zeroisation (16 R632) -/

/-- Overwrite every key slot and clear the last accepted SEQs and the beacon counter; PATCH_FLOOR is kept. `trigger` is that
of 16 Table 16.17. -/
def zeroise (trigger : Nat) (s : State) : State :=
  countLedger 23 1 (crit 0x0F0A 0 [wd trigger]
    { s with ao := { s.ao with keys := vall 10 KeySlot.empty, bcnCounter := 0, bcnRes := 0, zeroPending := false } })

/-! ## T_R (18 R708, R712, R713; 16 R637) -/

/-- A pin-control instruction is in force in the TAP (17 R691, R692). -/
def pinControl (s : State) : Bool := s.ts.tapPinControl

/-- The internal reset may be released: PORST_N is high, every rail of groups 1 to 3 is valid, no standby, no thermal hold
and no pin-control instruction stands (18 R708, 16 R655, 17 R692). -/
def mayRelease (s : State) : Bool :=
  s.pwr.held && s.pwr.porstN && !s.pwr.standby && !s.hl.thermalHold && !pinControl s
    && (List.range 11).all (fun i => vgetD s.pwr.rails i false)

/-- The ledger is restored, its repairs raised (16 R637). -/
def restoreLedger (s : State) : State :=
  let (x, fixed) := s.ao.ledger.restore
  fixed.foldl (fun t r => crit 0x0F08 0 [wd r.1, wd r.2] t) { s with ao := { s.ao with ledger := x } }

/-- The straps take force: HUB_ID, the identity record's ID over it, the personality and the pair role; the straps are those
of DEVSTAT bits 23 to 12 (14 Table 14.6; 07 R252, 08 R295, R296; 00 R4). -/
def applyStraps (straps : Word) (s : State) : State :=
  let ident := s.ao.identity
  let id := if ident.bit 31 then ident.field 4 0 else straps.field 23 19
  let en := straps.bit 16
  let s1 := { s with
    pwr := { s.pwr with straps := straps &&& 0x00FFF000 }
    host := { s.host with compat := straps.bit 15 }
    ring := { s.ring with hubId := BitVec.ofNat 5 id }
    pair := { s.pair with
      en := en, unitB := straps.bit 17, pstate := if en then .joining else .solo
      followMode := en, srcOff := true } }
  if s1.host.compat ∧ 7 < id then refuseHub 2 Config.uid.toNat s1 else s1

/-- PWR_STRAP_CHANGED: a pair unit whose PAIR_ROLE or HUBID differs from its last T_R (18 R713). -/
def checkStraps (straps : Word) (s : State) : State :=
  let new := straps &&& 0x00FFF000
  let s1 := { s with ao := { s.ao with lastStraps := some new } }
  match s.ao.lastStraps with
  | some old => if new.bit 16 ∧ (old &&& 0x00FA0000) ≠ (new &&& 0x00FA0000) then crit 0x0113 0 [old, new] s1 else s1
  | none => s1

/-- INTERNAL_RESET_RELEASE: T_R. The ledger is restored, a pending zeroisation resumed, the straps sampled and the
incarnation increased (18 R708, R712, Table 18.8; 07 R253). -/
def execInternalResetRelease (straps : Word) (s : State) : Out :=
  .next (if !mayRelease s then s
  else
    let s1 := { s with
      pwr := { s.pwr with held := false }, ao := { s.ao with incarnation := s.ao.incarnation + 1 } }
    let s2 := applyStraps straps (restoreLedger s1)
    checkStraps straps (if s2.ao.zeroPending then zeroise 3 s2 else s2))

/-! ## Resets of functions (14 R560 to R564) -/

/-- The number that FN_RESET_DONE gives a kind of reset: its row of 14 Table 14.13 counted from 0 (DESIGN CHOICE,
assumption 41). -/
def resetKindLink : Nat := 2
def resetKindPf0 : Nat := 3
def resetKindFn : Nat := 4

/-- What a reset of function `f` does before it completes: its queues, interrupts and EQ are cleared, packets not yet
taken are discarded, replies owed are forgotten, its jobs end without notice (14 R560, R561; 11 R441). -/
def resetQueues (f : Fn) (s : State) : State :=
  let mine := fun (x : Source) => x == .cq f
  let s1 := abandonJobs (fun j => j.fn == fnCode f) s
  let s2 := modFn s1 f (fun x =>
    { Func.reset with
      bme := x.bme, d3hot := x.d3hot, view := x.view, rangePage := x.rangePage, rangePages := x.rangePages
      contract := x.contract, hmeInfo := x.hmeInfo, hmeAddr := x.hmeAddr, inReset := true })
  let s3 := if f.val = 9 then { s2 with host := { s2.host with
      afSq := vall 36 Queue.reset, afSqCause0 := 0, afSqCause1 := 0, afSqMask0 := 0xFFFFFFFF, afSqMask1 := 0x0000000F } } else s2
  let s4 := if f.val = 0 ∧ s3.ring.mc.state = .staging then
      { s3 with ring := { s3.ring with mc := { s3.ring.mc with state := .idle, g := 0, staged := [] } } } else s3
  { s4 with
    fh := { s4.fh with
      waiting := s4.fh.waiting.filter (fun w => !mine w.2.source)
      relayWaiting := s4.fh.relayWaiting.filter (fun w => !mine w.2.source)
      owed := s4.fh.owed.filter (fun o => !mine o.packet.source)
      replies := s4.fh.replies.filter (fun r => !mine r.1) }
    hl := { s4.hl with holds := s4.hl.holds.filter (fun h => h.fn != f) } }

/-- The claims of a function of this hub are released (14 Table 14.13, 04 R130). -/
def releaseClaims (f : Fn) (s : State) : State :=
  let me : Owner := { hub := s.ring.hubId, fn := fnCode f }
  { s with fl := { s.fl with owners := s.fl.owners.map (fun v => v.map (fun o => if o == some me then none else o)) } }

/-- What a reset of function `f` does at a frame boundary: its streams and capture sets end, its claims are released, and
the reset completes (14 R560, 12 R480, 09 R382). -/
def finishReset (f : Fn) (kind : Nat) (s : State) : State :=
  let s1 := if kind = resetKindLink then s
    else modFn (releaseClaims f (clearSets (fnCode f) (clearStreams (fnCode f) s))) f (fun x => { x with inReset := false })
  let s2 := raiseEvent .informational 0x0E02 (fnCode f) 0 [wd f.val, wd kind] s1
  settle (.fnReset f) .ok [] (now s) s2

/-- A reset of function `f`: at once for queues and interrupts, at the next frame boundary for the rest; before the timebase
starts there is none, and everything is done at once. -/
def functionReset (f : Fn) (kind : Nat) (s : State) : State :=
  let s1 := if kind = resetKindLink then s else resetQueues f s
  if s1.tb.started then
    { s1 with host := { s1.host with resets := s1.host.resets.filter (fun r => r != (f, kind)) ++ [(f, kind)] } }
  else finishReset f kind s1

/-- The resets that wait for a frame boundary, in order (14 R560, R564). -/
def finishResets (s : State) : State :=
  s.host.resets.foldl (fun t r => finishReset r.1 r.2 t) { s with host := { s.host with resets := [] } }

/-- A function's PCIe configuration space is cleared. -/
def clearConfig (f : Fn) (s : State) : State :=
  modFn s f (fun x => { x with bme := false, d3hot := false, msixEn := false, msixTable := msixReset, msixPending := 0 })

/-- The VFs that exist. -/
def liveVfs (s : State) : List Fn := (List.finRange 10).filter (fun f => f.val != 0 && f.val != 9 && fnExists s f)

/-- VF Enable is cleared: every VF is reset and loses its view, range and contract (14 Table 14.13, "Function rights"). -/
def clearVfs (s : State) : State :=
  let fs := liveVfs s
  let s1 := fs.foldl (fun t f => functionReset f resetKindFn t) s
  let s2 := ((List.finRange 10).filter (fun f => f.val != 0 && f.val != 9)).foldl (fun t f =>
    modFn t f (fun x => { x with
      view := [], rangePage := 0, rangePages := 0, contract := (Func.atReset f).contract, bme := false, d3hot := false })) s1
  { s2 with
    host := { s2.host with vfEnable := false, numVfs := 0 }
    staged := s2.staged.filter (fun x => match x.change with
      | .fnView _ _ _ _ => false
      | .fnQos f _ => f.val == 0
      | _ => true) }

/-- A PF0 reset: every reset of its lower row of 14 Table 14.13 first, then PF0's own. -/
def pf0Reset (s : State) : State :=
  functionReset 0 resetKindPf0 ((liveVfs s).foldl (fun t f => functionReset f resetKindFn t) s)

/-- A link reset of the HOST port (14 Table 14.13): configuration space, VF Enable with every VF, then a PF0 reset. -/
def linkReset (linkDown : Bool) (s : State) : State :=
  let s1 := if linkDown then crit 0x0E06 0 (wd 0 :: split64 (now s)) s else s
  let s2 := clearVfs { s1 with host := { s1.host with hostPort := { s1.host.hostPort with linkUp := false, rate := 0, width := 0 } } }
  functionReset 0 resetKindLink (pf0Reset (clearConfig 0 s2))

/-- A link reset of the AUX port: AF's configuration space and queues, nothing else (14 R562). -/
def auxReset (linkDown : Bool) (s : State) : State :=
  let s1 := if linkDown then crit 0x0E06 1 (wd 1 :: split64 (now s)) s else s
  let s2 := clearConfig 9 { s1 with host := { s1.host with
    afSq := vall 36 Queue.reset, auxPort := { s1.host.auxPort with linkUp := false, rate := 0, width := 0 } } }
  modFn s2 9 (fun x => { x with queues := vall 7 Queue.reset })

/-- FLR of PF0 or a VF (14 R560). -/
def execFlr (fn : Fn) (s : State) : Out :=
  .next (if fnExists s fn then (if fn.val = 0 then pf0Reset s else functionReset fn resetKindFn s) else s)

/-- LINK_RESET: a fundamental reset, hot reset or Data Link Layer down of the HOST port. -/
def execLinkReset (linkDown : Bool) (s : State) : Out := .next (linkReset linkDown s)

/-- AUX_LINK_RESET, while the AUX port exists (14 R562). -/
def execAuxLinkReset (linkDown : Bool) (s : State) : Out := .next (if s.ln.auxMode = 2 then auxReset linkDown s else s)

/-- VF_ENABLE_CLEARED. -/
def execVfEnableCleared (s : State) : Out := .next (clearVfs s)

/-- MISMATCH_RESET (07 R277): the event, then a chip reset that counts as one of R277. The event's offset is in modulator
cycles. -/
def execMismatchReset (s : State) : Out :=
  .next (if mismatchDue s then
    chipReset 3 true 6 [] (some 4) (crit 0x070C 0 [satInt ((match refTransfer s with | some t => offset64 t.thetaAvg | none => 0).fdiv 64)] s)
  else s)

end Sys2Proof.Machine
end

