-- ==== Sys2Proof/Machine/HostIf.lean ====
section
/-!
DEFINITION. The host interface (14): BAR0 registers (R538, R539, Tables 14.3 to 14.9), host-memory queues (R540 to R548),
interrupts (R549 to R554), port and function states (R533, R552, 18 R722), and the SPI management port (R557, R558).
-/
namespace Sys2Proof.Machine
open Sys2Proof

/-! ## Registers read (14 Tables 14.3 to 14.9) -/

/-- FW_MAJOR and FW_MINOR in force as FW_MAJOR << 8 | FW_MINOR (15 R619, Table 14.4). -/
def fwVersion (s : State) : Nat :=
  match s.fh.patch with
  | some (a, b) => a.toNat * 256 + b.toNat
  | none => Config.romMajor.toNat * 256 + Config.romMinor.toNat

/-- MSI-X vectors of a function (14 Table 14.1). -/
def vectorsOf (f : Fn) : Nat := if f.val = 0 ∨ f.val = 9 then 64 else 16

/-- REV (14 Table 14.4). PERSONALITY is the one in force. -/
def regRev (s : State) : Word := wd (0xB0000000 + b01 s.host.compat * 65536 + fwVersion s)

/-- DEVCFG as it reads in every function (14 Table 14.5). -/
def regDevcfg (s : State) : Word :=
  wd (b01 s.host.compat * 2147483648 + b01 s.host.spiIrqEn * 1073741824 + b01 s.host.spiEvtEn * 536870912)

/-- DEVSTAT (14 Table 14.6). -/
def regDevstat (s : State) : Word :=
  wd (b01 s.fh.fwReady * 2147483648 + b01 s.host.cfgLock * 1073741824 + s.host.lastReset.toNat * 134217728
    + s.pwr.straps.field 23 12 * 4096)

/-- Word `r / 4` of a queue block (14 Table 14.8). -/
def regQueue (x : Queue) (r : Nat) : Word :=
  if r = 0 then x.baseLo
  else if r = 4 then x.baseHi
  else if r = 8 then wd (b01 x.en * 2147483648 + x.log2Slots.toNat * 65536 + x.modUs.toNat)
  else if r = 12 then x.wbLo
  else if r = 16 then x.wbHi
  else if r = 20 then wd x.hubIndex.toNat
  else if r = 24 then wd (b01 x.active * 2147483648 + b01 x.error * 1073741824 + x.errCode.toNat * 268435456 + x.eqLost.toNat)
  else 0

/-- What BAR0 of function `f` reads at an aligned offset; an offset outside Table 14.3 reads 0 (14 R538). -/
def regRead (f : Fn) (off : Nat) (s : State) : Word :=
  let x := getFn s f
  let af := f.val == 9
  if off % 4 ≠ 0 then 0
  else if off = 0x0000 then (if f.val = 0 then 0x25601F6D else if af then 0x25621F6D else 0x25611F6D)
  else if off = 0x0004 then regRev s
  else if off = 0x0008 then Config.uid.extractLsb' 0 32
  else if off = 0x000C then Config.uid.extractLsb' 32 32
  else if off = 0x0010 then wd (hubNum s * 65536 + (fnCode f).toNat * 256 + vectorsOf f)
  else if off = 0x0100 then regDevcfg s
  else if off = 0x0104 then regDevstat s
  else if off = 0x0108 then x.hmeInfo
  else if off = 0x010C then x.hmeAddr
  else if off = 0x0200 then x.intCause
  else if off = 0x0204 then x.intMask
  else if 0x0208 ≤ off ∧ off ≤ 0x0214 then vgetD x.intVec ((off - 0x0208) / 4) 0
  else if af ∧ off = 0x0220 then s.host.afSqCause0
  else if af ∧ off = 0x0224 then s.host.afSqCause1
  else if af ∧ off = 0x0228 then s.host.afSqMask0
  else if af ∧ off = 0x022C then s.host.afSqMask1
  else if 0x0400 ≤ off ∧ off < 0x1000 then
    let q := (off - 0x0400) / 32
    if queueExists f q then regQueue (getQueue s f q) ((off - 0x0400) % 32) else 0
  else if 0x8000 ≤ off ∧ off < 0x8000 + 16 * vectorsOf f then vgetD x.msixTable ((off - 0x8000) / 4) 0
  else if 0x9000 ≤ off ∧ off < 0x9000 + vectorsOf f / 8 then x.msixPending.extractLsb' (8 * (off - 0x9000)) 32
  else 0

/-! ## Interrupt registers (14 R549 to R552) -/

/-- Change something of function `f` that its vectors depend on, and send the messages that follow (14 R551). -/
def withVectors (f : Fn) (g : State → State) (s : State) : State :=
  let before := raisedVectors s f
  deliverInterrupts f before (g s)

/-- A write of 1 clears bits of a cause register (14 R549, R534). A set in the cycle of the write wins: its row comes after the
write's, since rows that fall in one cycle come in the order in which they act (00 R11; DESIGN CHOICE, assumption 150). -/
def clearCause (f : Fn) (reg : IntReg) (v : Word) (s : State) : State :=
  match reg with
  | .main => writeCause f ((getFn s f).intCause &&& ~~~v) s
  | .afSq0 => if f.val = 9 then { s with host := { s.host with afSqCause0 := s.host.afSqCause0 &&& ~~~v } } else s
  | .afSq1 => if f.val = 9 then { s with host := { s.host with afSqCause1 := s.host.afSqCause1 &&& ~~~v } } else s

/-- A write of a mask register (14 Table 14.9). -/
def writeMask (f : Fn) (reg : IntReg) (v : Word) (s : State) : State :=
  match reg with
  | .main => withVectors f (fun t => modFn t f (fun x => { x with intMask := v &&& 0x00001FFF })) s
  | .afSq0 => if f.val = 9 then withVectors f (fun t => { t with host := { t.host with afSqMask0 := v } }) s else s
  | .afSq1 =>
    if f.val = 9 then withVectors f (fun t => { t with host := { t.host with afSqMask1 := v &&& 0x0000000F } }) s else s

/-- INT_VECn with the fields of `new` that name one of the function's vectors (14 R550). -/
def mergeVec (f : Fn) (old new : Word) : Word :=
  wd (((List.range 4).map (fun j =>
    let v := new.field (8 * j + 7) (8 * j)
    (if v < vectorsOf f then v else old.field (8 * j + 7) (8 * j)) * 2 ^ (8 * j))).foldl (· + ·) 0)

/-- A write of INT_VECn (14 R550). -/
def writeVec (f : Fn) (n : Nat) (v : Word) (s : State) : State :=
  modFn s f (fun x => { x with intVec := vsetD x.intVec n (mergeVec f (vgetD x.intVec n 0) v) })

/-- Messages that the MSI-X pending bits and the raised vectors of a function owe once it may send them (14 R552, PCI
Express specification for the pending bits). -/
def resumeInterrupts (f : Fn) (s : State) : State :=
  if mayInterrupt s f then
    let pend := (List.range 64).filter (fun v => (getFn s f).msixPending.getLsbD v)
    (raisedVectors s f ++ pend).eraseDups.foldl (fun t v =>
      sendVector f v (modFn t f (fun x => { x with msixPending := clearBit x.msixPending v }))) s
  else s

/-- A write of a dword of the MSI-X table: unmasking a vector with its pending bit set sends its message (14 R551). -/
def writeMsix (f : Fn) (i : Nat) (v : Word) (s : State) : State :=
  let w := if i % 4 = 0 then v &&& 0xFFFFFFFC else if i % 4 = 3 then v &&& 1 else v
  let s1 := modFn s f (fun x => { x with msixTable := vsetD x.msixTable i w })
  let n := i / 4
  if i % 4 = 3 ∧ !w.bit 0 ∧ (getFn s1 f).msixPending.getLsbD n ∧ mayInterrupt s1 f then
    sendVector f n (modFn s1 f (fun x => { x with msixPending := clearBit x.msixPending n }))
  else s1

/-! ## Queues (14 R540 to R548) -/

/-- A queue enters ERROR: it stops, QERR is set and FN_QUEUE_ERROR raised (14 R548). -/
def queueError (f : Fn) (q : Nat) (code : BitVec 2) (s : State) : State :=
  raiseEvent .critical 0x0E03 (fnCode f) 0 [wd f.val, wd q, wd code.toNat]
    (setCause f 8 (setQueue s f q { getQueue s f q with error := true, errCode := code }))

/-- A write of the queue-block word with EN (14 R546, R547). -/
def writeQueueEnable (f : Fn) (q : Nat) (v : Word) (s : State) : State :=
  if !queueExists f q then s
  else
    let x := getQueue s f q
    let mod : BitVec 16 := v.extractLsb' 0 16
    if x.en then
      setQueue s f q (if v.bit 31 then { x with modUs := mod } else { x with modUs := mod, en := false, active := false })
    else
      let y := { x with modUs := mod, log2Slots := v.extractLsb' 16 4 }
      setQueue s f q (if v.bit 31 then
        { y with en := true, active := true, hubIndex := 0, hostIndex := 0, error := false, errCode := 0 } else y)

/-- A write of another word of a queue block, which an enabled queue ignores (14 R546). -/
def writeQueueWord (f : Fn) (q r : Nat) (v : Word) (s : State) : State :=
  let x := getQueue s f q
  if !queueExists f q ∨ x.en then s
  else if r = 0 then setQueue s f q { x with baseLo := v &&& 0xFFFFFFC0 }
  else if r = 4 then setQueue s f q { x with baseHi := v }
  else if r = 12 then setQueue s f q { x with wbLo := v &&& 0xFFFFFFF8 }
  else if r = 16 then setQueue s f q { x with wbHi := v }
  else s

/-- Slots between two indices, modulo 2^(LOG2_SLOTS+1). -/
def slotsBetween (x : Queue) (a b : Nat) : Nat :=
  let m := 2 ^ (x.log2Slots.toNat + 1)
  (a + m - b % m) % m

/-- A doorbell write: the host's index advances, or the queue enters ERROR (14 R542). -/
def writeDoorbell (f : Fn) (q : Nat) (v : Word) (s : State) : State :=
  let x := getQueue s f q
  let n := v.field 15 0 % 2 ^ (x.log2Slots.toNat + 1)
  let ahead := if q = 0 then slotsBetween x n x.hubIndex.toNat else slotsBetween x x.hubIndex.toNat n
  if !queueExists f q ∨ !x.en then s
  else if 2 ^ x.log2Slots.toNat < ahead then (if x.error then s else queueError f q 2 s)
  else setQueue s f q { x with hostIndex := BitVec.ofNat 16 n }

/-- The function's transfers to and from host memory run (14 R533). -/
def transfersRun (s : State) (f : Fn) : Bool := (getFn s f).bme && !(getFn s f).d3hot

/-- An index of a queue moves on by `n` slots, and WB follows (14 R541). -/
def advanceHub (f : Fn) (q n : Nat) (s : State) : State :=
  let x := getQueue s f q
  let i : BitVec 16 := BitVec.ofNat 16 ((x.hubIndex.toNat + n) % 2 ^ (x.log2Slots.toNat + 1))
  let s1 := setQueue s f q { x with hubIndex := i }
  { s1 with out := { s1.out with host := s1.out.host ++ [.writeBack f q i] } }

/-- Set the SQ(f, s) cause `i` of AF (14 Table 14.9). -/
def setAfSq (i : Nat) (s : State) : State :=
  withVectors 9 (fun t =>
    if i < 32 then { t with host := { t.host with afSqCause0 := setBit t.host.afSqCause0 i } }
    else { t with host := { t.host with afSqCause1 := setBit t.host.afSqCause1 (i - 32) } }) s

/-- An occurrence of SQ(f, s) cause `i` of AF under moderation; its interval is kept as number 32 + i (14 R554). -/
def afSqCause (i : Nat) (s : State) : State := moderated 9 (32 + i) (setAfSq i) s

/-- The interrupt causes of an item written to a queue (14 Table 14.9, R553). -/
def itemCauses (f : Fn) (q : Nat) (words : List Word) (s : State) : State :=
  if q = 1 then queueCause f 0 false s
  else if q = 2 then
    let urgent := (wordAt words 0).field 15 14 != 0
    let s1 := queueCause f 1 urgent s
    if urgent && (f.val == 0 || f.val == 9) then setCause f 12 s1 else s1
  else if f.val = 9 then afSqCause (q - 3) s
  else queueCause f (q - 1) false s

/-! ## The order of writes on a PCIe port (14 R566) -/

/-- The item that a queue of the hub's can write now (14 R533, R540, R548). -/
def writableItem (f : Fn) (q : Nat) (s : State) : Option (List Word) :=
  let x := getQueue s f q
  match x.waiting with
  | [] => none
  | item :: _ =>
    if q = 0 ∨ !queueExists f q ∨ !fnExists s f ∨ !x.en ∨ x.error ∨ !transfersRun s f
        ∨ 2 ^ x.log2Slots.toNat < slotsBetween x x.hubIndex.toNat x.hostIndex.toNat + ceilDiv item.length 16 then none
    else some item

/-- The port of a function's queues: AUX for AF (14 R534). -/
def portOf (f : Fn) : Fin 2 := if f.val = 9 then 1 else 0

/-- The stream of an SQ, numbered 4f + s (14 Table 14.7). -/
def streamOfSq (f : Fn) (q : Nat) : Nat := if f.val = 9 then q - 3 else 4 * f.val + (q - 3)

/-- The function that an SQ write is charged to: the stream's, on AUX too (DEDUCED, assumption 172). -/
def sqFunction (f : Fn) (q : Nat) : Nat := streamOfSq f q / 4

/-- Credit that a function's PCIe minimum, in 10 Mb/s, fills in a cycle (14 R566, Table 14.16). -/
def pcieRate (s : State) (f : Nat) : Nat := 1250 * (contractWord s f 2).field 31 16

/-- The function has PCIe guarantee credit; on a port over its limit none has (14 R566, R571). -/
def pcieCredit (s : State) (port : Fin 2) (f : Nat) : Bool :=
  !s.host.overcommit.contains port.val
    && decide (0 < (vgetD s.host.pcieCredit f { units := 0, at_ := 0 }).atTick (pcieRate s f) (now s))

/-- The place of a write in the order of 14 R566. -/
def writeLevel (f : Fn) (q : Nat) (item : List Word) (s : State) : Nat :=
  if q = 2 ∧ (wordAt item 0).field 15 14 ≠ 0 then 1
  else if q < 3 then 2
  else if pcieCredit s (portOf f) (sqFunction f q) then 3
  else 4

/-- The writes that a port has to make: queue and level. -/
def portWrites (port : Fin 2) (s : State) : List (Fn × Nat × Nat) :=
  ((List.finRange 10).filter (fun f => portOf f == port)).flatMap (fun f =>
    (List.range (if f.val = 9 then 39 else 7)).filterMap (fun q =>
      (writableItem f q s).map (fun item => (f, q, writeLevel f q item s))))

/-- The round robin of RQ and EQ writes comes to function `f`: the next after the one served last (14 R566). -/
def roundRobin (last : Nat) (fs : List Nat) : Option Nat := ((List.range 10).map (fun i => (last + 1 + i) % 10)).find? (fun f => fs.contains f)

/-- PRIO of the stream of an SQ (12 Table 12.8). -/
def sqClass (f : Fn) (q : Nat) (s : State) : Nat := (getStream s (streamOfSq f q)).word0.field 22 20

/-- A queue's write is the next of its port (14 R566): of the first level that has any, and within it of the function whose turn
it is; of a function's SQ writes at the last level those of class 2 go first. -/
def nextWrite (f : Fn) (q : Nat) (s : State) : Bool :=
  let ws := portWrites (portOf f) s
  match ws.find? (fun w => w.1 == f && w.2.1 == q) with
  | none => false
  | some (_, _, n) =>
    ws.all (fun w => decide (n ≤ w.2.2)) &&
      (if n = 2 then
        roundRobin (vget s.host.pcieLast (portOf f)) ((ws.filter (fun w => w.2.2 == 2)).map (fun w => w.1.val)) == some f.val
      else if n = 4 then
        (vget s.host.pcieTurn (portOf f)).pick 9 (fun k => ws.any (fun w => w.2.2 == 4 && sqFunction w.1 w.2.1 == k)) == some (sqFunction f q)
          && (sqClass f q s == 2 || !ws.any (fun w => w.2.2 == 4 && sqFunction w.1 w.2.1 == sqFunction f q && sqClass w.1 w.2.1 s == 2))
      else true)

/-- What a port notes of a write: the turn that it took and the credit that it spent (14 R566). -/
def chargeWrite (f : Fn) (q : Nat) (item : List Word) (s : State) : State :=
  let p := portOf f
  let k := sqFunction f q
  let n := writeLevel f q item s
  let h := s.host
  if q < 3 then (if n = 2 then { s with host := { h with pcieLast := vset h.pcieLast p f.val } } else s)
  else
    let left := (vgetD h.pcieCredit k { units := 0, at_ := 0 }).spend (pcieRate s k) (now s) (4 * item.length)
    let turn := if n = 4 then (vget h.pcieTurn p).served k ((contractWord s k 2).field 15 8) else vget h.pcieTurn p
    { s with host := { h with pcieCredit := vsetD h.pcieCredit k left, pcieTurn := vset h.pcieTurn p turn } }

/-- QUEUE_ITEM_WRITE (14 R541, R548, R566): the oldest waiting item of a queue the hub produces is written when it is the next of
its port, then its index, then its interrupt; a transfer that fails leaves the queue in ERROR. -/
def execQueueItemWrite (fn : Fn) (q : Nat) (transferError : Bool) (s : State) : Out :=
  let x := getQueue s fn q
  .next (match writableItem fn q s with
    | none => s
    | some item =>
      let n := ceilDiv item.length 16
      if !nextWrite fn q s then s
      else if transferError then queueError fn q 1 (chargeWrite fn q item s)
      else
        let s1 := chargeWrite fn q item (setQueue s fn q { x with waiting := x.waiting.drop 1 })
        let slot := x.hubIndex.toNat % 2 ^ x.log2Slots.toNat
        itemCauses fn q item (advanceHub fn q n { s1 with out := { s1.out with host := s1.out.host ++ [.item fn q slot item] } }))

/-- INTERRUPT_MODERATION_END (14 R554): MOD_US after a cause was set, one held is set, and its next interval begins. -/
def execInterruptModerationEnd (fn : Fn) (cause : Nat) (s : State) : Out :=
  .next (match moderationEnd s fn cause with
  | none => s
  | some e => atDue e (fun t =>
    if (getFn t fn).heldCauses.contains cause then
      moderate fn cause (if 32 ≤ cause then setAfSq (cause - 32) else setCause fn cause) t
    else modFn t fn (fun y => { y with moderated := y.moderated.filter (fun m => m.1 != cause) })) s)

/-! ## DEVCFG (14 Table 14.5, R539; 18 R714) -/

/-- COMPAT_MODE may be set: no configuring command has been accepted and VF Enable is clear (14 R539). A set bit never
clears (00 R5). -/
def compatWrite (v : Word) (s : State) : State :=
  if v.bit 31 && !s.host.cfgLock && !s.host.vfEnable then { s with host := { s.host with compat := true } } else s

/-- SPI_IRQ_EN and SPI_EVT_EN. -/
def spiEnableWrite (v : Word) (s : State) : State :=
  { s with host := { s.host with spiIrqEn := v.bit 30, spiEvtEn := v.bit 29 } }

/-- CHIP_RESET: 0xA5C3 performs a warm chip reset (14 Table 14.5). -/
def chipResetWrite (v : Word) (s : State) : State :=
  if v.field 15 0 = 0xA5C3 then chipReset 2 true 5 [] (some 4) s else s

/-- A write of PF0's DEVCFG: all of its fields. -/
def writeDevcfg (v : Word) (s : State) : State := chipResetWrite v (spiEnableWrite v (compatWrite v s))

/-- COMPAT_MODE_WRITE (18 R714): a write of DEVCFG. -/
def execCompatModeWrite (value : Word) (s : State) : Out := .next (if s.pwr.held then s else writeDevcfg value s)

/-- CHIP_RESET_WRITE (00 R10, 14 Table 14.5): a write of DEVCFG. -/
def execChipResetWrite (value : Word) (s : State) : Out := .next (if s.pwr.held then s else writeDevcfg value s)

/-! ## Register writes -/

/-- A write of DEVSTAT stores its RWS field LAST_RESET; its other fields are RO (00 R9, Table 0.4; 14 Table 14.6). -/
def writeDevstat (v : Word) (s : State) : State := { s with host := { s.host with lastReset := v.extractLsb' 27 3 } }

/-- What a write of 4 bytes at an offset of BAR0 of function `f` does (14 R538, Tables 14.3 to 14.9). -/
def regWrite (f : Fn) (off : Nat) (v : Word) (s : State) : State :=
  let af := f.val == 9
  if s.pwr.held ∨ !fnExists s f ∨ off % 4 ≠ 0 then s
  else if off = 0x0100 then (if f.val = 0 then writeDevcfg v s else s)
  else if off = 0x0104 then writeDevstat v s
  else if off = 0x0200 then clearCause f .main v s
  else if off = 0x0204 then writeMask f .main v s
  else if 0x0208 ≤ off ∧ off ≤ 0x0214 then writeVec f ((off - 0x0208) / 4) v s
  else if af ∧ off = 0x0220 then clearCause f .afSq0 v s
  else if af ∧ off = 0x0224 then clearCause f .afSq1 v s
  else if af ∧ off = 0x0228 then writeMask f .afSq0 v s
  else if af ∧ off = 0x022C then writeMask f .afSq1 v s
  else if 0x0400 ≤ off ∧ off < 0x1000 then
    if (off - 0x0400) % 32 = 8 then writeQueueEnable f ((off - 0x0400) / 32) v s
    else writeQueueWord f ((off - 0x0400) / 32) ((off - 0x0400) % 32) v s
  else if 0x1000 ≤ off ∧ off < 0x2000 ∧ off % 8 = 0 then writeDoorbell f ((off - 0x1000) / 8) v s
  else if 0x8000 ≤ off ∧ off < 0x8000 + 16 * vectorsOf f then writeMsix f ((off - 0x8000) / 4) v s
  else s

/-- REGISTER_WRITE (00 R9, 14 R538): a partial byte enable has no effect. -/
def execRegisterWrite (fn : Fn) (offset : BitVec 16) (byteEnable : BitVec 4) (value : Word) (s : State) : Out :=
  .next (if byteEnable = 0xF then regWrite fn offset.toNat value s else s)

/-- QUEUE_ENABLE_WRITE (14 R546, R547). -/
def execQueueEnableWrite (fn : Fn) (q : Nat) (value : Word) (s : State) : Out :=
  .next (if s.pwr.held ∨ !fnExists s fn then s else writeQueueEnable fn q value s)

/-- DOORBELL_WRITE (14 R542). -/
def execDoorbellWrite (fn : Fn) (q : Nat) (value : Word) (s : State) : Out :=
  .next (if s.pwr.held ∨ !fnExists s fn then s else writeDoorbell fn q value s)

/-- INT_CAUSE_WRITE (14 R549). -/
def execIntCauseWrite (fn : Fn) (reg : IntReg) (value : Word) (s : State) : Out :=
  .next (if s.pwr.held ∨ !fnExists s fn then s else clearCause fn reg value s)

/-- INT_MASK_WRITE (14 R551). -/
def execIntMaskWrite (fn : Fn) (reg : IntReg) (value : Word) (s : State) : Out :=
  .next (if s.pwr.held ∨ !fnExists s fn then s else writeMask fn reg value s)

/-- INT_VEC_WRITE (14 R550). -/
def execIntVecWrite (fn : Fn) (n : Fin 4) (value : Word) (s : State) : Out :=
  .next (if s.pwr.held ∨ !fnExists s fn then s else writeVec fn n.val value s)

/-! ## Function and port states -/

/-- POWER_STATE_CHANGE (14 R533, R552). -/
def execPowerStateChange (fn : Fn) (d3hot : Bool) (s : State) : Out :=
  .next (if !fnExists s fn ∨ (getFn s fn).d3hot = d3hot then s
    else
      let s1 := modFn s fn (fun x => { x with d3hot := d3hot })
      if d3hot then s1 else resumeInterrupts fn s1)

/-- BUS_MASTER_ENABLE_CHANGE (14 R552): Bus Master Enable, MSI-X Enable, and VF Enable with NumVFs (14 Table 14.1). -/
def execBusMasterEnableChange (fn : Fn) (bus : BusState) (s : State) : Out :=
  .next (if !fnExists s fn then s
    else
      let could := mayInterrupt s fn
      let s1 := modFn s fn (fun x => { x with bme := bus.bme, msixEn := bus.msixEn })
      let s2 := match bus.numVfs with
        | some n => if fn.val = 0 ∧ !s1.host.vfEnable then { s1 with host := { s1.host with vfEnable := true, numVfs := n.val } } else s1
        | none => s1
      if could then s2 else resumeInterrupts fn s2)

/-! ## The SPI management port (14 R557, R558) -/

/-- A word reaches PF0's BAR0 over SPI, below offset 0x0400 (14 R558). -/
def spiWriteWord (off : Nat) (v : Word) (s : State) : State := if off < 0x0400 then regWrite 0 off v s else s

/-- WRITE_REG: whole data words from the offset upward by 4. -/
def spiWriteWords : Nat → List Word → State → State
  | _, [], s => s
  | off, w :: ws, s => spiWriteWords (off + 4) ws (spiWriteWord off w s)

/-- A transaction of the SPI port, which has power in bank VDDIO0 and is not in reset (14 R557; 18 Table 18.4). -/
def overSpi (f : State → State) (s : State) : State := if vget s.pwr.rails 7 && !s.pwr.held then f s else s

/-- WRITE_REG (14 Table 14.11). -/
def execWriteReg (offset : BitVec 16) (words : List Word) (s : State) : Out := .next (overSpi (spiWriteWords offset.toNat words) s)

/-- What the last SPI transaction shifts out. -/
def setSpiOutput (ws : List Word) (s : State) : State :=
  { s with host := { s.host with spi := { s.host.spi with output := ws } } }

/-- READ_REG (14 Table 14.11): `count` whole words from the offset upward. -/
def execReadReg (offset : BitVec 16) (count : Nat) (s : State) : Out :=
  .next (overSpi (setSpiOutput ((List.range count).map (fun i =>
    if offset.toNat + 4 * i < 0x0400 then regRead 0 (offset.toNat + 4 * i) s else 0))) s)

/-- Bytes held in the SPI command buffer of 2 KiB. -/
def spiUsed (s : State) : Nat := 4 * s.host.spi.commands.flatten.length

/-- The SPI status byte (14 Table 14.12). -/
def spiStatus (s : State) : Word :=
  let p := s.host.spi
  wd (b01 s.fh.fwReady * 128 + b01 (!p.replies.isEmpty) * 64 + b01 (!p.events.isEmpty) * 32
    + b01 (decide (spiUsed s + 1048 ≤ 2048)) * 16 + b01 p.pushErr * 8 + b01 p.evtLost * 4 + b01 s.host.compat * 2)

/-- GP23 is driven low (14 R558). -/
def gp23Low (s : State) : Bool := vget s.pwr.rails 9 && s.host.spiIrqEn && (!s.host.spi.replies.isEmpty || !s.host.spi.events.isEmpty)

/-- READ_STATUS (14 R557): the status byte; PUSH_ERR and EVT_LOST clear. -/
def execReadStatus (s : State) : Out :=
  .next (overSpi (fun s =>
    let s1 := setSpiOutput [spiStatus s] s
    { s1 with host := { s1.host with spi := { s1.host.spi with pushErr := false, evtLost := false } } }) s)

/-- PUSH_CMD (14 R558): a whole packet that fits joins the command buffer; any other is discarded whole. -/
def execPushCmd (words : List Word) (complete : Bool) (s : State) : Out :=
  let p := s.host.spi
  .next (overSpi (fun s =>
    if complete && decide (spiUsed s + 4 * words.length ≤ 2048) then
      { s with host := { s.host with spi := { p with commands := p.commands ++ [words] } } }
    else { s with host := { s.host with spi := { p with pushErr := true } } }) s)

/-- PULL_REPLY (14 R557): the oldest reply, removed if it was read whole. -/
def execPullReply (whole : Bool) (s : State) : Out :=
  .next (overSpi (fun s => match s.host.spi.replies with
    | [] => setSpiOutput [] s
    | r :: rest =>
      let s1 := setSpiOutput r s
      if whole then { s1 with host := { s1.host with spi := { s1.host.spi with replies := rest } } } else s1) s)

/-- PULL_EVENT (14 R557): the oldest event entry, removed if it was read whole. -/
def execPullEvent (whole : Bool) (s : State) : Out :=
  .next (overSpi (fun s => match s.host.spi.events with
    | [] => setSpiOutput [] s
    | e :: rest =>
      let s1 := setSpiOutput e s
      if whole then { s1 with host := { s1.host with spi := { s1.host.spi with events := rest } } } else s1) s)

end Sys2Proof.Machine
end

