-- ==== Sys2Proof/Machine/Device.lean ====
section
/-!
DEFINITION. Device commands of class 0x01 (15 R615 to R623): information, keys, policy, counters, firmware patches and the
restart of Fountainhead.
-/
namespace Sys2Proof.Machine
open Sys2Proof

/-! ## Information, counters and policy -/

/-- DEV_NOP (15 R585). -/
def rulesDevNop : Rules :=
  { op := .devNop, minLen := 0, maxLen := 0, issuers := anyFn, configures := false
    run := fun _ s => .done s [] (now s) }

/-- DEV_NOP. -/
def execDevNop (p : Packet) (s : State) : Out := .next (takeCommand rulesDevNop p s)

/-- The reply data of DEV_READ_INFO (15 Table 15.16). -/
def infoWords (s : State) : List Word :=
  [regRev s,
   wd (Config.romMajor.toNat * 16777216 + Config.romMinor.toNat * 65536 + b01 s.fh.patch.isSome * 32768 + hubNum s * 1024
     + maskOf 10 (fun f => (vgetD s.ao.keys f KeySlot.empty).key.isSome)),
   Config.uid.extractLsb' 0 32, Config.uid.extractLsb' 32 32, wd (s.ao.patchFloor.toNat * 65536),
   wd (s.fh.relayMs.toNat * 16777216 + s.fh.locked.toNat)]

/-- DEV_READ_INFO (15 Table 15.16). -/
def rulesDevReadInfo : Rules :=
  { op := .devReadInfo, minLen := 0, maxLen := 0, issuers := anyFn, configures := false
    run := fun _ s => .done s (infoWords s) (now s) }

/-- DEV_READ_INFO. -/
def execDevReadInfo (p : Packet) (s : State) : Out := .next (takeCommand rulesDevReadInfo p s)

/-- The reply data of DEV_READ_STATS (15 Table 15.17). -/
def statsWords (s : State) : List Word :=
  [s.fh.accepted, s.fh.rejected, halves s.fh.headerErrors.toNat s.fh.authFails.toNat,
   halves s.fh.noResponses.toNat s.fh.lateReplies.toNat, halves s.fh.maxDecideUs.toNat s.fh.lateApplies.toNat,
   halves s.fh.restarts.toNat 0]

/-- Every counter of 15 Table 15.17 at 0. -/
def clearStats (s : State) : State :=
  { s with fh := { s.fh with
      accepted := 0, rejected := 0, headerErrors := 0, authFails := 0, noResponses := 0, lateReplies := 0, maxDecideUs := 0
      lateApplies := 0, restarts := 0 } }

/-- DEV_READ_STATS (15 Table 15.17). -/
def rulesDevReadStats : Rules :=
  { op := .devReadStats, minLen := 1, maxLen := 1, issuers := anyFn, configures := false
    form := fun p _ => firstBad [(0, rsv (p.w 0) 0x7FFFFFFF)]
    run := fun p s => .done (if (p.w 0).bit 31 then clearStats s else s) (statsWords s) (now s) }

/-- DEV_READ_STATS. -/
def execDevReadStats (p : Packet) (s : State) : Out := .next (takeCommand rulesDevReadStats p s)

/-- DEV_SET_POLICY (15 Table 15.15), in force with its reply. -/
def rulesDevSetPolicy : Rules :=
  { op := .devSetPolicy, minLen := 1, maxLen := 1, issuers := pf0, configures := false
    form := fun p _ => firstBad [(0, rsv (p.w 0) 0x00FFFC00 && within ((p.w 0).field 31 24) 10 255)]
    run := fun p s =>
      .done { s with fh := { s.fh with
        relayMs := BitVec.ofNat 8 ((p.w 0).field 31 24), reqAuth := BitVec.ofNat 10 ((p.w 0).field 9 0) } } [] (now s) }

/-- DEV_SET_POLICY. -/
def execDevSetPolicy (p : Packet) (s : State) : Out := .next (takeCommand rulesDevSetPolicy p s)

/-! ## Keys (15 "Device commands"; 16, "Key store") -/

/-- A slot's key is written, or emptied; the beacon counter goes with slot 0 (15 R592; 06 R234; 16 R631). -/
def writeKey (f : Fn) (key : Option (Vector Word 8)) (s : State) : State :=
  let ao := { s.ao with keys := vset s.ao.keys f { KeySlot.empty with key := key } }
  { s with ao := if f.val = 0 then { ao with bcnCounter := 0, bcnRes := 0 } else ao }

/-- DEV_SET_KEY (15 R621, R622). -/
def rulesDevSetKey : Rules :=
  { op := .devSetKey, minLen := 9, maxLen := 9, issuers := pf0, configures := false
    form := fun p _ =>
      let clear := (p.w 0).bit 31
      firstBad ((0, rsv (p.w 0) 0x7FFFFFF0 && decide ((p.w 0).field 3 0 ≤ 9))
        :: (List.range 8).map (fun i => (i + 1, !clear || p.w (i + 1) == 0)))
    run := fun p s =>
      let key : Vector Word 8 := Vector.ofFn (fun i : Fin 8 => p.w (i.val + 1))
      .done (writeKey (fin 10 ((p.w 0).field 3 0)) (if (p.w 0).bit 31 then none else some key) s) [] (now s) }

/-- DEV_SET_KEY. -/
def execDevSetKey (p : Packet) (s : State) : Out := .next (takeCommand rulesDevSetKey p s)

/-! ## Patches (15 R615 to R620) -/

/-- Put a word into the staging buffer: offsets rising, no zero word listed. -/
def putStaged : List (Nat × Word) → Nat → Word → List (Nat × Word)
  | [], a, v => if v = 0 then [] else [(a, v)]
  | (b, w) :: rest, a, v =>
    if a < b then (if v = 0 then (b, w) :: rest else (a, v) :: (b, w) :: rest)
    else if a = b then (if v = 0 then rest else (a, v) :: rest)
    else (b, w) :: putStaged rest a v

/-- Put words from an offset upward. -/
def putStagedAll : List (Nat × Word) → Nat → List Word → List (Nat × Word)
  | m, _, [] => m
  | m, a, v :: vs => putStagedAll (putStaged m a v) (a + 1) vs

/-- Word `a` of the staging buffer. -/
def stagedWord (m : List (Nat × Word)) (a : Nat) : Word :=
  match m.find? (fun x => x.1 == a) with
  | some x => x.2
  | none => 0

/-- Words `a` to `a + n - 1` of the staging buffer. -/
def stagedWords (m : List (Nat × Word)) (a n : Nat) : List Word := (List.range n).map (fun i => stagedWord m (a + i))

/-- NEW_MAJOR and NEW_MINOR of the staged image (15 Table 15.13). -/
def stagedVersion (m : List (Nat × Word)) : Byte × Byte :=
  ((stagedWord m 1).extractLsb' 8 8, (stagedWord m 1).extractLsb' 0 8)

/-- The first cause for which the staged image is refused (15 R618). -/
def patchCause (s : State) : Option Nat :=
  let m := s.fh.staging
  let w0 := stagedWord m 0
  let w1 := stagedWord m 1
  let n := (stagedWord m 2).toNat
  let (a, b) := stagedVersion m
  if w0.field 31 16 ≠ 0x7A1C ∨ w0.field 15 8 ≠ 1 then some 1
  else if w1.field 31 24 ≠ Config.romMajor.toNat ∨ w1.field 23 16 ≠ Config.romMinor.toNat then some 2
  else if n = 0 ∨ 65524 < n then some 3
  else
    let body := stagedWords m 12 n
    if crc32cWords body ≠ stagedWord m 3 then some 4
    else if hmac ((List.finRange 32).map Config.vendorPatchKey) (bytesOf (stagedWords m 0 4 ++ body)) ≠ bytesOf (stagedWords m 4 8) then
      some 5
    else if a.toNat * 256 + b.toNat < s.ao.patchFloor.toNat then some 6
    else none

/-- DEV_PATCH_LOAD (15 R616). -/
def rulesDevPatchLoad : Rules :=
  { op := .devPatchLoad, minLen := 2, maxLen := 249, issuers := pf0, configures := false
    form := fun p _ => firstBad
      [(0, rsv (p.w 0) 0xFFFF0000 && decide ((p.w 0).field 15 0 + (p.params.length - 1) ≤ 65536))]
    run := fun p s =>
      .done { s with fh := { s.fh with staging := putStagedAll s.fh.staging ((p.w 0).field 15 0) (p.params.drop 1) } } []
        (now s) }

/-- DEV_PATCH_LOAD. -/
def execDevPatchLoad (p : Packet) (s : State) : Out := .next (takeCommand rulesDevPatchLoad p s)

/-- Fountainhead restarts with the staged patch; RAISE_FLOOR moves PATCH_FLOOR (15 R617, R620; 16 Table 16.3). -/
def commitPatch (raise : Bool) (s : State) : State :=
  let v := stagedVersion s.fh.staging
  countLedger 24 1
    { s with
      fh := { s.fh with fwReady := false, restarting := true, patchNext := some v, restarts := satInc s.fh.restarts }
      ao := { s.ao with
        patchFloor := if raise then BitVec.ofNat 16 (v.1.toNat * 256 + v.2.toNat) else s.ao.patchFloor } }

/-- DEV_PATCH_COMMIT (15 R617, R618): its reply is owed until the restart is done. -/
def rulesDevPatchCommit : Rules :=
  { op := .devPatchCommit, minLen := 1, maxLen := 1, issuers := pf0, configures := false
    form := fun p _ => firstBad [(0, rsv (p.w 0) 0x7FFFFFFF)]
    run := fun p s => match patchCause s with
      | some c => .reject .patchRejected [wd c]
      | none => .owe (commitPatch ((p.w 0).bit 31) s) .patchCommit }

/-- DEV_PATCH_COMMIT. -/
def execDevPatchCommit (p : Packet) (s : State) : Out := .next (takeCommand rulesDevPatchCommit p s)

/-- FW_READY is set: DEV_FW_READY, and then a recorded breach of sequencing is raised and cleared (15 Table 15.18; 18
R704). -/
def becomeReady (s : State) : State :=
  let v := fwVersion s
  let s1 := info 0x0101 0 [wd (v / 256), wd (v % 256), wd (b01 s.fh.patch.isSome)]
    { s with fh := { s.fh with fwReady := true } }
  let s2 := if s1.ao.seqBreachUp = 0 then s1 else crit 0x0110 0 [s1.ao.seqBreachUp, 1] s1
  let s3 := if s2.ao.seqBreachDown = 0 then s2 else crit 0x0110 0 [s2.ao.seqBreachDown, 2] s2
  { s3 with ao := { s3.ao with seqBreachUp := 0, seqBreachDown := 0 } }

/-- FW_RESTART_DONE (15 R620): the patch is in force and DEV_PATCH_COMMIT gets its reply. -/
def execFwRestartDone (s : State) : Out :=
  .next (if !s.fh.restarting then s
  else
    let old := fwVersion s
    let s1 := becomeReady { s with fh := { s.fh with
      restarting := false, patch := if s.fh.patchNext.isSome then s.fh.patchNext else s.fh.patch, patchNext := none } }
    let s2 := info 0x0105 0 [wd old, wd (fwVersion s1), wd s1.ao.patchFloor.toNat] s1
    settle .patchCommit .ok [] (now s2) s2)

/-- AUTH_LOCKOUT_END (15 R595): 10 s after the slot was locked out. -/
def execAuthLockoutEnd (slot : Fn) (s : State) : Out :=
  .next (if hasBit s.fh.locked slot.val then
    atDue (vget s.fh.lockedAt slot + 10 * ticksPerSecond)
      (fun s => { s with fh := { s.fh with locked := clearBit s.fh.locked slot.val } }) s
  else s)

end Sys2Proof.Machine
end

