-- ==== Sys2Proof/Machine/Functions.lean ====
section
/-!
DEFINITION. Function rights and quality of service (14): views and ranges (R536, R537, R564, R573), contracts (R569 to R571,
R574), the class 0x0E commands (R572), and the training of a PCIe port (18 R722).
-/
namespace Sys2Proof.Machine
open Sys2Proof

/-! ## Views (14 R536, R537) -/

/-- Global channels of a view, in its order. -/
def viewChannels (v : List ChanRange) : List Nat := v.flatMap (fun r => (List.range r.count).map (fun i => r.first + i))

/-- The global channels that leave a view. -/
def leavingView (old new : List ChanRange) : List Nat :=
  (viewChannels old).filter (fun g => !new.any (fun r => r.first ≤ g && g < r.first + r.count))

/-- The claims of function `f` of this hub on local channels of `gs` are released (04 R130). -/
def releaseChannels (f : Fn) (gs : List Nat) (s : State) : State :=
  let me : Owner := { hub := s.ring.hubId, fn := fnCode f }
  gs.foldl (fun t g =>
    if g / 256 = hubNum t then
      { t with fl := { t.fl with owners := vmod t.fl.owners (fin 256 g) (fun v => v.map (fun o => if o == some me then none else o)) } }
    else t) s

/-- The capture sets of function `f` of this hub that name a local channel of `gs` disarm (14 R536, 09 Table 9.7 cause 5). -/
def disarmSets (f : Fn) (gs : List Nat) (tick : Nat) (s : State) : State :=
  let me : Owner := { hub := s.ring.hubId, fn := fnCode f }
  (List.finRange 16).foldl (fun t i =>
    let x := getSet t i
    if x.owner == some me && (globals t (capCfg x.config).chans).any (fun g => gs.contains g) then truncateSet i 5 .idle tick t else t) s

/-- The streams of function `f` that list a channel of `gs` end at boundary `tick` (14 R536, 12 R454). -/
def endStreams (f : Fn) (gs : List Nat) (tick : Nat) (s : State) : State :=
  (List.range 4).foldl (fun t k =>
    let i := streamIndex (fnCode f) k
    let st := getStream t i
    let lists := st.origins.any (fun o => !o.ending && (rangeChannels o.ranges).any (fun g => gs.contains g))
    if f.val < 9 ∧ lists then
      let t1 := endSegments t.ring.hubId (fnCode f) (BitVec.ofNat 2 k) tick (endOrigins i tick [] t)
      modStream i (fun x => { x with word0 := clearBit x.word0 31 }) t1
    else t) s

/-- A function's view and range come into force at boundary `tick` (14 R536): claims, sets and streams on the channels that
leave go, then the VIEW cause and the event. -/
def applyView (f : Fn) (view : List ChanRange) (page pages : Nat) (tick : Nat) (s : State) : State :=
  let gs := leavingView (getFn s f).view view
  let s1 := endStreams f gs tick (disarmSets f gs tick (releaseChannels f gs s))
  let s2 := modFn s1 f (fun x => { x with view := view, rangePage := page, rangePages := pages })
  raiseEvent .informational 0x0E01 (fnCode f) 0 ([wd f.val] ++ split64 tick ++ [wd gs.length]) (setCause f 10 s2)

/-- The capture range of function `f` as last accepted: staged, or in force. -/
def acceptedRange (f : Fn) (s : State) : Nat × Nat :=
  s.staged.foldl (fun a x => match x.change with
    | .fnView g _ page pages => if g = f then (page, pages) else a
    | _ => a) ((getFn s f).rangePage, (getFn s f).rangePages)

/-- Two runs of pages share a page. -/
def pagesOverlap (a b : Nat × Nat) : Bool := decide (a.1 < b.1 + b.2) && decide (b.1 < a.1 + a.2) && a.2 != 0 && b.2 != 0

/-- The byte regions that a capture range of function `f` must keep: its sets' regions and its queued and running jobs' (14
R537). -/
def heldRegions (f : Fn) (s : State) : List (Nat × Nat) :=
  ((List.finRange 16).filter (fun i => (getSet s i).owner.isSome && (getSet s i).fn == fnCode f && (getSet s i).state != .free)).map
    (fun i => let c := capCfg (getSet s i).config; (4096 * c.base, 4096 * c.size))
  ++ (s.cmp.jobs.filter (fun j => j.fn == fnCode f)).flatMap (fun j => (jobRegions j.words).map (fun r => (r.1, r.2.1)))

/-- A capture range may be assigned (14 R537). -/
def rangeAllowed (f : Fn) (page pages : Nat) (s : State) : Bool :=
  ((List.finRange 10).all (fun g => g == f || g.val == 0 || g.val == 9 || !pagesOverlap (page, pages) (acceptedRange g s)))
    && (heldRegions f s).all (fun r => r.2 == 0 || (decide (4096 * page ≤ r.1) && decide (r.1 + r.2 ≤ 4096 * (page + pages))))

/-! ## Quality of service (14 R565 to R571) -/

/-- The contract words of function `f` as last accepted: staged, or in force. -/
def acceptedContract (f : Fn) (s : State) : Vector Word 4 :=
  s.staged.foldl (fun a x => match x.change with
    | .fnQos g ws => if g = f then ws else a
    | _ => a) (getFn s f).contract

/-- The sum of a minimum, word `i` of the contracts, over functions 0 to 8, with `ws` for function `f`. -/
def minimums (i : Nat) (f : Fn) (ws : Vector Word 4) (s : State) : Nat :=
  (((List.finRange 10).filter (fun g => g.val != 9)).map (fun g =>
    (vgetD (if g = f then ws else acceptedContract g s) i 0).field 31 16)).foldl (· + ·) 0

/-- The negotiated data rate of a port in units of 1/130 Mb/s: 2.5, 5, 8 or 16 GT/s by generation, times the width, less
the line code of the generation (PRESUMED: the PCI Express line codes; the manual names the transfer rates alone). -/
def portRate (p : Port) : Nat :=
  if !p.linkUp then 0
  else p.width * (if p.rate = 1 then 2000 * 130 else if p.rate = 2 then 4000 * 130 else if p.rate = 3 then 8000 * 128 else 16000 * 128)

/-- A port carries the PCIe minimums `m`, in 10 Mb/s: at most 80 % of its rate while it is in use (14 R569). -/
def portCarries (p : Port) (m : Nat) : Bool := !p.linkUp || decide (m * 10 * 130 * 5 ≤ 4 * portRate p)

/-- The guaranteeable bandwidth of capture memory, MB/s (10 Table 10.2), at the SPEED in force or at SPEED 0 (14 R569). -/
def guaranteeable (s : State) : Nat :=
  ([1710, 2560, 3410, 4270, 5120, 5970, 6830][if s.mem.mstate = .ready ∨ s.mem.mstate = .selfRefresh then s.mem.initWord.field 3 0 else 0]?).getD 1710

/-- The parts over their limit with the accepted contracts (14 R571): 0 HOST, 1 AUX, 2 DRAM, 3 ring. -/
def partsOver (f : Fn) (ws : Vector Word 4) (s : State) : List Nat :=
  (if portCarries s.host.hostPort (minimums 2 f ws s) then [] else [0])
  ++ (if s.ln.auxMode != 2 || portCarries s.host.auxPort (minimums 2 f ws s) then [] else [1])
  ++ (if minimums 3 f ws s ≤ guaranteeable s then [] else [2])
  ++ (if minimums 1 f ws s ≤ s.host.ringBudget.toNat then [] else [3])

/-- FN_QOS_OVERCOMMIT where a part passes its limit or meets it again (14 R571): the part, and 1 begin or 0 end. -/
def checkOvercommit (s : State) : State :=
  let parts := partsOver 0 (acceptedContract 0 s) s
  let changed := [0, 1, 2, 3].filter (fun p => parts.contains p != s.host.overcommit.contains p)
  changed.foldl (fun t p => crit 0x0E05 p [wd p, wd (b01 (parts.contains p))] t) { s with host := { s.host with overcommit := parts } }

/-- A function's contract comes into force: its VIEW cause, and the updated set-ups (14 R568). -/
def applyQos (f : Fn) (ws : Vector Word 4) (s : State) : State :=
  setCause f 10 (updateContracts (fnCode f) (modFn s f (fun x => { x with contract := ws })))

/-! ## Ports (18 R722) -/

/-- LINK_TRAINED (18 R722): the rate by its generation, 1 to 4, and the width (14 R530). -/
def execLinkTrained (port : PciePort) (rate width : Nat) (s : State) : Out :=
  let aux := port == .aux
  let x := if aux then s.host.auxPort else s.host.hostPort
  let ok := within rate 1 4 && (width == 1 || width == 2 || (width == 4 && !aux)) && !x.perst && !s.pwr.held
    && (!aux || s.ln.auxMode == 2)
  .next (if !ok then s
    else
      let y := { x with linkUp := true, rate := rate, width := width }
      let s1 := { s with host := if aux then { s.host with auxPort := y } else { s.host with hostPort := y } }
      checkOvercommit (info 0x0E07 (b01 aux) [wd (b01 aux), wd rate, wd width] s1))

/-! ## Commands (14 R572 to R574) -/

/-- FUNC in bits [3:0] of word 0. -/
def namedFunc (p : Packet) : Nat := (p.w 0).field 3 0

/-- The command names a VF in the H064 personality (14 R572). -/
def namesAbsentVf (p : Packet) (s : State) : Bool := s.host.compat && within (namedFunc p) 1 8

/-- A function for itself, or PF0 for any (14 R572). -/
def selfOrPf0 : Packet → State → Bool := fun p _ => p.func == 0 || namedFunc p == p.func.toNat

/-- Word 0 of a command that names a function for reading. -/
def readForm (p : Packet) : Option Nat :=
  firstBad [(0, rsv (p.w 0) 0xFFFFFFF0 && (fnOfCode ((p.w 0).extractLsb' 0 4)).isSome)]

/-- The function that word 0 names. -/
def fnNamed (p : Packet) : Fn := (fnOfCode ((p.w 0).extractLsb' 0 4)).getD 0

/-- The ranges of an FN_SET_VIEW block. -/
def blockRanges (p : Packet) : List ChanRange :=
  (p.params.drop 5).map (fun w => { first := w.field 12 0, count := w.field 28 16 + 1 })

/-- Ranges do not overlap and stay below global channel 8,192 (14 R573). -/
def rangesDisjoint : List ChanRange → Bool
  | [] => true
  | r :: rs => rs.all (fun x => decide (x.first + x.count ≤ r.first) || decide (r.first + r.count ≤ x.first)) && rangesDisjoint rs

/-- The form of an FN_SET_VIEW block (14 R573). -/
def viewForm (p : Packet) : Option Nat :=
  let n := (p.w 0).field 15 8
  if p.params.length ≠ 5 + n then some 0xFFFF
  else firstBad ([(0, rsv (p.w 0) 0xFFFF00F0 && decide (n ≤ 64) && within (namedFunc p) 1 8), tickForm p 1,
      (3, rsv (p.w 3) 0xFFF00000),
      (4, rsv (p.w 4) 0xFFFC0000 && decide ((p.w 4).field 17 0 ≤ 131072)
        && decide ((p.w 3).field 19 0 + (p.w 4).field 17 0 ≤ 1048576))]
    ++ (List.range n).map (fun j =>
      let w := p.w (5 + j)
      (5 + j, rsv w 0xE000E000 && decide (w.field 12 0 + w.field 28 16 + 1 ≤ 8192)
        && rangesDisjoint ((blockRanges p).take (j + 1)))))

/-- FN_SET_VIEW (14 R536, R537, R573). -/
def rulesFnSetView : Rules :=
  { op := .fnSetView, minLen := 5, maxLen := 69, issuers := pf0, configures := true, form := fun p _ => viewForm p,
    run := fun p s =>
      let f := fnNamed p
      let page := (p.w 3).field 19 0
      let pages := (p.w 4).field 17 0
      if namesAbsentVf p s then .reject .precondition []
      else match applyBoundary false p (p.w64 1) s with
        | .error r => .reject r.status r.detail
        | .ok t =>
          if !rangeAllowed f page pages s then .reject .precondition []
          else .done (stage t (.fnView f (blockRanges p) page pages) s) [] t }

/-- FN_SET_VIEW. -/
def execFnSetView (p : Packet) (s : State) : Out := .next (takeCommand rulesFnSetView p s)

/-- The words of FN_READ_VIEW; MEM_PAGES is the low 18 bits of the number of pages. -/
def viewWords (x : Func) (code : BitVec 4) : List Word :=
  [wd (x.view.length * 256 + code.toNat), wd x.rangePage, wd (x.rangePages % 262144)]
    ++ x.view.map (fun r => wd ((r.count - 1) * 65536 + r.first))

/-- FN_READ_VIEW (14 R572). -/
def rulesFnReadView : Rules :=
  { op := .fnReadView, minLen := 1, maxLen := 1, issuers := selfOrPf0, configures := false, form := fun p _ => readForm p,
    run := fun p s =>
      if namesAbsentVf p s then .reject .precondition []
      else .done s (viewWords (getFn s (fnNamed p)) (fnCode (fnNamed p))) (now s) }

/-- FN_READ_VIEW. -/
def execFnReadView (p : Packet) (s : State) : Out := .next (takeCommand rulesFnReadView p s)

/-- FN_SET_QOS (14 R569, R574). -/
def rulesFnSetQos : Rules :=
  { op := .fnSetQos, minLen := 4, maxLen := 4, issuers := pf0, configures := true,
    form := fun p _ => firstBad ((0, rsv (p.w 0) 0xFFFFFCF0 && decide (namedFunc p ≤ 8) && within ((p.w 0).field 9 8) 2 3)
      :: [1, 2, 3].map (fun i => (i, rsv (p.w i) 0x000000FF && (p.w i).field 15 8 != 0))),
    run := fun p s =>
      let f := fnNamed p
      let ws := Vector.ofFn (fun i : Fin 4 => p.w i.val)
      let parts := partsOver f ws s
      if namesAbsentVf p s then .reject .precondition []
      else if !parts.isEmpty then .reject .precondition []
      else .done (stage (defaultBoundary false p s) (.fnQos f ws) s) [] (defaultBoundary false p s) }

/-- FN_SET_QOS. -/
def execFnSetQos (p : Packet) (s : State) : Out := .next (takeCommand rulesFnSetQos p s)

/-- FN_READ_QOS (14 R572). -/
def rulesFnReadQos : Rules :=
  { op := .fnReadQos, minLen := 1, maxLen := 1, issuers := selfOrPf0, configures := false, form := fun p _ => readForm p,
    run := fun p s =>
      if namesAbsentVf p s then .reject .precondition []
      else .done s ((getFn s (fnNamed p)).contract.toList ++ [wd s.host.ringBudget.toNat]) (now s) }

/-- FN_READ_QOS. -/
def execFnReadQos (p : Packet) (s : State) : Out := .next (takeCommand rulesFnReadQos p s)

/-- FN_SET_BUDGET (14): in force at once; no boundary is named. -/
def rulesFnSetBudget : Rules :=
  { op := .fnSetBudget, minLen := 1, maxLen := 1, issuers := pf0, configures := true,
    form := fun p _ => firstBad [(0, rsv (p.w 0) 0xFFFF0000)],
    run := fun p s =>
      if (p.w 0).field 15 0 < minimums 1 0 (acceptedContract 0 s) s then .reject .precondition []
      else .done { s with host := { s.host with ringBudget := (p.w 0).extractLsb' 0 16 } } [] (now s) }

/-- FN_SET_BUDGET. -/
def execFnSetBudget (p : Packet) (s : State) : Out := .next (takeCommand rulesFnSetBudget p s)

/-- FN_RESET (14 R560, 15 Table 15.6): the reset of a VF; the reply follows its completion. -/
def rulesFnReset : Rules :=
  { op := .fnReset, minLen := 1, maxLen := 1, issuers := pf0, configures := false,
    form := fun p _ => firstBad [(0, rsv (p.w 0) 0xFFFFFFF0 && within (namedFunc p) 1 8)],
    run := fun p s =>
      let f := fnNamed p
      if namesAbsentVf p s || !fnExists s f then .reject .precondition []
      else
        let s1 := functionReset f resetKindFn s
        if s.tb.started then .owe s1 (.fnReset f) else .done s1 [] (now s) }

/-- FN_RESET. -/
def execFnReset (p : Packet) (s : State) : Out := .next (takeCommand rulesFnReset p s)

/-- Word `f` of FN_READ_FUNCTIONS (14 Table 14.17). -/
def functionWord (s : State) (f : Fn) : Word :=
  let x := getFn s f
  let streams := maskOf 4 (fun k => (getStream s (streamIndex (fnCode f) k)).word0.bit 31)
  let sets := maskOf 16 (fun i => (getSet s (fin 16 i)).owner.isSome && (getSet s (fin 16 i)).fn == fnCode f)
  let jobs := (s.cmp.jobs.filter (fun j => j.fn == fnCode f)).length
  wd (b01 (fnExists s f) * 2147483648 + b01 x.d3hot * 1073741824 + b01 x.bme * 536870912 + b01 x.inReset * 268435456
    + b01 (!s.host.overcommit.isEmpty) * 134217728 + streams * 8388608 + sets * 16 + min 8 jobs)

/-- FN_READ_FUNCTIONS (14 R572, Table 14.17). -/
def rulesFnReadFunctions : Rules :=
  { op := .fnReadFunctions, minLen := 0, maxLen := 0, issuers := pf0, configures := false,
    run := fun _ s => .done s (((List.finRange 10).filter (fun f => f.val != 9)).map (functionWord s)) (now s) }

/-- FN_READ_FUNCTIONS. -/
def execFnReadFunctions (p : Packet) (s : State) : Out := .next (takeCommand rulesFnReadFunctions p s)

end Sys2Proof.Machine
end

