-- ==== Sys2Proof/Machine/Health.lean ====
section
/-!
DEFINITION. Health (16): event intervals and fault notes (R659, R660), the monitors (R642 to R644), droop (R645), peak mode
(R647 to R650), shedding (R651 to R653), the watchdog and the thermal trip (R663, R655), the ledger's commits (R639,
R640), the calendar (R626 to R629), and the commands of class 0x0F.
-/
namespace Sys2Proof.Machine
open Sys2Proof

/-! ## Events from elsewhere and intervals (16 R659, R660) -/

/-- The event entry that 16 words spell (16 Table 16.10). -/
def entryOf (ws : List Word) : EventEntry :=
  let w0 := wordAt ws 0
  let w1 := wordAt ws 1
  { code := w0.extractLsb' 16 16
    severity := if w0.field 15 14 = 0 then .informational else if w0.field 15 14 = 1 then .critical else .fatal
    remote := w0.bit 13, hub := w0.extractLsb' 8 5, func := w0.extractLsb' 4 4, repeated := w1.extractLsb' 16 16
    inst := w1.extractLsb' 0 12, firstTick := join64 (wordAt ws 2) (wordAt ws 3)
    lastTick := join64 (wordAt ws 4) (wordAt ws 5), lastTime := join64 (wordAt ws 6) (wordAt ws 7)
    data := (ws.drop 8).take 8 }

/-- FAULT_NOTE (16 R660): the entry joins the log with REMOTE set and goes to the EQs of PF0 and AF. -/
def execFaultNote (entry : List Word) (s : State) : Out :=
  let e := { entryOf entry with remote := true }
  .next (if entry.length ≠ 16 ∨ e.hub = s.ring.hubId then s else offerEq 9 e (offerEq 0 e (logEvent e s)))

/-- EVENT_COALESCE_INTERVAL (16 R659): one entry if any occurrence was held, and a new interval; else the key is free. -/
def execEventCoalesceInterval (fn : Fn) (hub : HubId) (code : BitVec 16) (func : BitVec 4) (inst : BitVec 12) (s : State) : Out :=
  let mine := fun (h : EqHold) => h.fn == fn && h.entry.hub == hub && h.entry.code == code && h.entry.func == func && h.entry.inst == inst
  .next (match s.hl.holds.find? mine with
    | none => s
    | some h => atDue (h.since + usTicks 1000) (fun s =>
      if h.held = 0 then { s with hl := { s.hl with holds := s.hl.holds.filter (fun x => !mine x) } }
      else
        let s1 := { s with hl := { s.hl with holds := s.hl.holds.map (fun x =>
          if mine x then { x with entry := { x.entry with repeated := 0 }, held := 0, since := now s } else x) } }
        let s2 := pushEq fn h.entry s1
        if fn.val = 0 then pushSpiEvent h.entry s2 else s2) s)

/-! ## Monitors (16 R642 to R644) -/

/-- Operating range of a rail, in 0.1 mV (18 Table 18.1), in the order of 16 Table 16.6. -/
def railRange (i : Nat) : Nat × Nat :=
  ([(7275, 7725), (8245, 8755), (11400, 12600), (5700, 6500), (10600, 11700), (17460, 18540), (30000, 36000),
    (17000, 36000), (17000, 36000), (17000, 36000), (17000, 36000), (17000, 36000)][i]?).getD (0, 0)

/-- A reading in mV lies outside the range narrowed at either end by RAIL_MARGIN of the range's width (16 R643, Table
16.12; assumption 42). -/
def railOutside (margin i : Nat) (mv : BitVec 16) : Bool :=
  let (lo, hi) := railRange i
  let v := mv.toNat * 10000
  decide (v < lo * 1000 + margin * (hi - lo)) || decide (hi * 1000 < v + margin * (hi - lo))

/-- HL_RAIL_WARN of rail `i` (16 R643). -/
def checkRail (i : Fin 12) (s : State) : State :=
  let h := s.hl
  if railOutside (h.thresholds0.field 23 16) i.val (vget h.rails i) then
    let n := vget h.railOutRun i + 1
    let s1 := { s with hl := { h with railOutRun := vset h.railOutRun i n, railInRun := vset h.railInRun i 0 } }
    if 3 ≤ n ∧ !vget h.railWarned i then
      crit 0x0F05 0 [wd i.val, wd (vget h.rails i).toNat] { s1 with hl := { s1.hl with railWarned := vset h.railWarned i true } }
    else s1
  else
    let n := vget h.railInRun i + 1
    { s with hl := { h with
        railOutRun := vset h.railOutRun i 0, railInRun := vset h.railInRun i n
        railWarned := if 3000 ≤ n then vset h.railWarned i false else h.railWarned } }

/-- The sensor of the highest reading, lowest number first. -/
def hottest (s : State) : Fin 12 :=
  ((List.finRange 12).find? (fun i => (vget s.hl.ts i).toInt == tjReading s)).getD 0

/-- HL_TEMP_WARN (16 R644). -/
def checkTemp (s : State) : State :=
  let t := tjReading s
  let warn : Int := 64 * s.hl.thresholds0.field 31 24
  if warn ≤ t then
    let s1 := { s with hl := { s.hl with coolRun := 0, tempWarned := true } }
    if s.hl.tempWarned then s1
    else crit 0x0F01 0 [wd (hottest s).val, wd (vget s.hl.ts (hottest s)).toNat] s1
  else if t ≤ warn - 320 then
    let n := s.hl.coolRun + 1
    { s with hl := { s.hl with coolRun := n, tempWarned := s.hl.tempWarned && decide (n < 3000) } }
  else { s with hl := { s.hl with coolRun := 0 } }

/-- The readings of a frame boundary (16 R642); a monitor not observed keeps its reading. -/
def takeReadings (temps rails ro : List (BitVec 16)) (s : State) : State :=
  { s with hl := { s.hl with
      ts := Vector.ofFn (fun i : Fin 12 => (temps[i.val]?).getD (vget s.hl.ts i))
      rails := Vector.ofFn (fun i : Fin 12 => (rails[i.val]?).getD (vget s.hl.rails i))
      ro := Vector.ofFn (fun i : Fin 8 => (ro[i.val]?).getD (vget s.hl.ro i)) } }

/-! ## Peak mode (16 R647 to R651) -/

/-- A Rill lane group runs at RATE 6 (16, "Peak mode and its budgets"). -/
def inPeakMode (s : State) : Bool :=
  (List.finRange 3).any (fun g => (upLanes s g).any (fun l => (getLane s l).rate == 6))

/-- The sum of the last 96 buckets. -/
def windowSum (p : Peak) : Nat := p.buckets.toList.foldl (· + ·) 0

/-- CONT_S and DAILY_S in force (16 Table 16.13). -/
def contLimit (s : State) : Nat := s.hl.peakWord.field 25 16
def dailyLimit (s : State) : Nat := s.hl.peakWord.field 13 0

/-- A budget is spent or restored (16 R648), with HL_PEAK_SPENT and PEAK_EXHAUSTED. -/
def checkBudgets (s : State) : State :=
  let p := s.ao.peak
  if !p.spent && (decide (contLimit s ≤ p.cont) || decide (dailyLimit s ≤ windowSum p)) then
    countLedger 10 1 (crit 0x0F04 0 [wd p.cont, wd (windowSum p)] { s with ao := { s.ao with peak := { p with spent := true } } })
  else if p.spent && p.cont == 0 && decide (windowSum p + 60 ≤ dailyLimit s) then
    { s with ao := { s.ao with peak := { p with spent := false } } }
  else s

/-- The stress record at its next of 64 positions: bucket sums from the oldest, the continuous count and CAL_SEC (16 R649). -/
def writeStress (s : State) : State :=
  let p := s.ao.peak
  let sums := (List.range 96).map (fun i => wd (vgetD p.buckets ((p.bucket + 1 + i) % 96) 0))
  let rec_ := sums ++ [wd p.cont, s.ao.calendar.sec]
  { s with ao := { s.ao with peak := { p with stress := (p.stress ++ [rec_]).drop (p.stress.length + 1 - 64) } } }

/-- Peak accounting over one frame (16 R647): seconds of 3,000 frames. -/
def peakFrame (s : State) : State :=
  let p := s.ao.peak
  let on := inPeakMode s
  let put := fun (q : Peak) => { s with ao := { s.ao with peak := q } }
  let s1 :=
    if on then
      if p.frames + 1 < 3000 then put { p with inPeak := true, frames := p.frames + 1 }
      else countFraction 9 1 10 (put { p with
        inPeak := true, frames := 0, cont := p.cont + 1
        buckets := vsetD p.buckets p.bucket (vgetD p.buckets p.bucket 0 + 1) })
    else if p.inPeak then writeStress (put { p with inPeak := false, off := 0, offFrames := 0 })
    else if p.offFrames + 1 < 3000 then put { p with offFrames := p.offFrames + 1 }
    else
      let off := satInc p.off
      put { p with offFrames := 0, off := off, cont := if 300 ≤ off.toNat then 0 else p.cont }
  checkBudgets s1

/-- PEAK_BUCKET_END (16 R649): the next bucket, and the stress record. -/
def execPeakBucketEnd (s : State) : Out :=
  let p := s.ao.peak
  let n := (p.bucket + 1) % 96
  .next (checkBudgets (writeStress { s with ao := { s.ao with peak := { p with bucket := n, buckets := vsetD p.buckets n 0 } } }))

/-! ## Shedding (16 R651 to R653) -/

/-- L_BUDGET (16 R651). -/
def lBudget (s : State) : Nat := if s.ao.peak.spent then 4 else 0

/-- The shedding level that the present L_THERMAL and L_BUDGET ask for. -/
def wantedLevel (s : State) : Nat := max s.hl.lThermal (lBudget s)

/-- A change of the level takes effect at a boundary, with HL_SHED; the cause is 1 thermal or 2 budget (16 R653). -/
def applyLevel (s : State) : State :=
  let n := wantedLevel s
  if n = s.hl.level then s
  else crit 0x0F02 0 [wd s.hl.level, wd n, if s.ao.peak.spent = s.hl.levelBudget then 1 else 2]
    { s with hl := { s.hl with level := n, levelBudget := s.ao.peak.spent } }

/-- The first reading at or above 140 °C raises L_THERMAL (16 R652). -/
def thermalReading (s : State) : State :=
  let h := s.hl
  let hot := decide (8960 ≤ tjReading s)
  let cool := decide (tjReading s < 8640)
  { s with hl := { h with
      hot := hot, cool := cool, lThermal := if hot && !h.hot then min 5 (h.lThermal + 1) else h.lThermal
      levelSince := if hot == h.hot && cool == h.cool then h.levelSince else now s } }

/-- SHED_LEVEL_TIMER (16 R652): 2 s more at or above 140 °C, or 30 s below 135 °C. -/
def execShedLevelTimer (s : State) : Out :=
  let step := fun (n : Nat) (s : State) => { s with hl := { s.hl with lThermal := n, levelSince := now s } }
  .next (if s.hl.hot then atDue (s.hl.levelSince + 2 * ticksPerSecond) (step (min 5 (s.hl.lThermal + 1))) s
    else if s.hl.cool then atDue (s.hl.levelSince + 30 * ticksPerSecond) (step (s.hl.lThermal - 1)) s
    else s)

/-! ## The thermal trip and the watchdog (16 R655, R663) -/

/-- The thermal trip up to the hold: the Fatal event, safe-off, the end-of-sampling record of cause 3 and the reset. -/
def thermalTrip (sensor : Nat) (reading : BitVec 16) (s : State) : State :=
  let s1 := raiseEvent .fatal 0x0F03 0xF 0 [wd sensor, wd reading.toNat] s
  let s2 := chipReset 4 true 3 [] (some 4) (countLedger 6 1 s1)
  { s2 with hl := { s2.hl with thermalHold := true } }

/-- THERMAL_TRIP (16 R655): two readings at 150 °C or the analogue comparator. -/
def execThermalTrip (sensor : Fin 12) (reading : BitVec 16) (s : State) : Out :=
  .next (if s.pwr.held then s else thermalTrip sensor.val reading s)

/-- THERMAL_RESTART (16 R655): the hold ends; T_R follows under 18 R708. -/
def execThermalRestart (s : State) : Out := .next { s with hl := { s.hl with thermalHold := false } }

/-- WATCHDOG_RESTART (16 R663). -/
def execWatchdogRestart (s : State) : Out := .next { s with hl := { s.hl with watchdogTick := now s } }

/-- WATCHDOG_EXPIRY (16 R663): WD_MS after the last restart HL_WATCHDOG, safe-off, the end-of-sampling record of cause 4 and a
warm chip reset. -/
def execWatchdogExpiry (s : State) : Out :=
  .next (if s.pwr.held then s
    else atDue (s.hl.watchdogTick + usTicks (1000 * s.hl.wdMs.toNat)) (fun s =>
      chipReset 1 true 4 [] (some 3) (graceBeats (raiseEvent .fatal 0x0F07 0xF 0 [wd s.hl.wdMs.toNat] s))) s)

/-! ## Droop (16 R645, R646) -/

/-- A stretched run ends now: it joins those of the last second, and the core takes the band exits that wait for it (16 R645; 04
R163). -/
def noteStretch (runNs : Nat) (s : State) : State :=
  let kept := s.hl.stretchTicks.filter (fun t => now s < t + ticksPerSecond)
  drainExits (countFraction 25 1 1024 { s with hl := { s.hl with
    droop := false, stretchTicks := kept ++ [now s]
    longestNs := BitVec.ofNat 16 (min 65535 (max s.hl.longestNs.toNat runNs)) } })

/-- DROOP_DETECT: the core clock doubles its period, unless it already runs at 300 MHz (16 R645, R646). -/
def execDroopDetect (s : State) : Out :=
  .next (if s.hl.pll300 then s else { s with hl := { s.hl with droop := true } })

/-- DROOP_CLEAR: the stretched run ends after `runNs`. -/
def execDroopClear (runNs : Nat) (s : State) : Out := .next (if s.hl.droop then noteStretch (min 32000 runNs) s else s)

/-- HL_DROOP_SUSTAINED: a run of 32 µs ends in the move of the core PLL to 300 MHz (16 R645). -/
def execHlDroopSustained (s : State) : Out :=
  .next (if s.hl.droop then
    let s1 := noteStretch 32000 s
    crit 0x0F06 0 (split64 (now s)) { s1 with hl := { s1.hl with pll300 := true } }
  else s)

/-- CORE_PLL_RETURN (16 R645). -/
def execCorePllReturn (s : State) : Out := .next { s with hl := { s.hl with pll300 := false } }

/-! ## The ledger (16 R634, R639, R640) -/

/-- Commit the counters of a list in order. -/
def commitAll (ids : List (Fin 30)) (s : State) : State :=
  ids.foldl (fun t id => { t with ao := { t.ao with ledger := t.ao.ledger.commit id } }) s

/-- A word of the ledger is remapped to the spare region (16 R634). -/
def remapWord (offset : Nat) (s : State) : State :=
  let x := s.ao.ledger
  let s1 := { s with ao := { s.ao with ledger := { x with sparesUsed := satInc x.sparesUsed, anomalies := satInc x.anomalies } } }
  info 0x0F09 0 [wd offset, wd s1.ao.ledger.sparesUsed.toNat] s1

/-- LEDGER_COMMIT (16 R639): an hour has passed; every counter commits what it has pending. An interruption leaves the
counter it falls on in the middle of an increment (R637, Table 16.5) and the counters after it uncommitted. -/
def execLedgerCommit (remaps : List Nat) (interrupted : Option (Fin 30 × Nat)) (s : State) : Out :=
  let s0 := if vget s.pwr.rails 0 then countLedger 0 1 s else s
  let s1 := { s0 with ao := { s0.ao with ledger := { s0.ao.ledger with hourly := vall 30 0 } } }
  let s2 := match interrupted with
    | none => commitAll (List.finRange 30) s1
    | some (id, step) =>
      let t := commitAll ((List.finRange 30).filter (fun i => decide (i < id))) s1
      if vget t.ao.ledger.pending id = 0 then t else { t with ao := { t.ao with ledger := t.ao.ledger.tear id step } }
  .next (remaps.foldl (fun t o => remapWord o t) s2)

/-- Hours of 5 years of POWER_HOURS, a year being the 8,760 h of the longest PERIOD_H (16 R640, 17 Table 17.7; DEDUCED, assumption
179). -/
def refreshHours : Nat := 43800

/-- POWER_HOURS, committed and pending (16 Table 16.3). -/
def powerHours (x : Ledger) : Nat := (vget x.counters 0).value + (vget x.pending 0).toNat

/-- LEDGER_REFRESH (16 R640): every used cell is rewritten with its present value, once in 5 years of POWER_HOURS. -/
def execLedgerRefresh (s : State) : Out :=
  let x := s.ao.ledger
  .next (if refreshHours * (x.refreshes + 1) ≤ powerHours x then
    { s with ao := { s.ao with ledger := { x with refreshes := x.refreshes + 1 } } }
  else s)

/-! ## The calendar (16 R626 to R629) -/

/-- Days since 2000-01-01, and the second of the day. -/
def calendarDays (sec : Word) : Nat := sec.toNat / 86400

/-- A leap year (16 R626). -/
def leapYear (y : Nat) : Bool := y % 4 == 0 && (y % 100 != 0 || y % 400 == 0)

/-- Days of a month, 1 to 12. -/
def monthDays (y m : Nat) : Nat :=
  if m = 2 then (if leapYear y then 29 else 28) else if m = 4 ∨ m = 6 ∨ m = 9 ∨ m = 11 then 30 else 31

/-- The year and the day within it, from a number of days. -/
def yearOf : Nat → Nat → Nat → Nat × Nat
  | 0, y, d => (y, d)
  | fuel + 1, y, d =>
    let n := if leapYear y then 366 else 365
    if d < n then (y, d) else yearOf fuel (y + 1) (d - n)

/-- The month and the day of the month, from the day of the year. -/
def monthOf (y : Nat) : Nat → Nat → Nat → Nat × Nat
  | 0, m, d => (m, d)
  | fuel + 1, m, d => if d < monthDays y m then (m, d) else monthOf y fuel (m + 1) (d - monthDays y m)

/-- Word 0 of HL_READ_CALENDAR (16 Table 16.16): 2000-01-01 was a Saturday. -/
def dateWord (sec : Word) : Word :=
  let days := calendarDays sec
  let (y, d) := yearOf 137 2000 days
  let (m, k) := monthOf y 12 1 d
  wd (y * 1048576 + m * 65536 + (k + 1) * 2048 + (days + 5) % 7 * 256)

/-- Word 1 of HL_READ_CALENDAR. -/
def timeWord (c : Calendar) : Word :=
  let t := c.sec.toNat % 86400
  wd (t / 3600 * 134217728 + t / 60 % 60 * 2097152 + t % 60 * 32768 + c.sub.toNat)

/-- CAL_SEC as structure time has it (16 R627). -/
def calendarTarget (s : State) : Word := wd (wholeSecond s) - s.tb.utcOffset.zeroExtend 32

/-- CAL_SEC and CAL_SUB are set from structure time where they differ; SYNCED comes with it (16 R627). -/
def syncCalendar (s : State) : State :=
  let c := s.ao.calendar
  let t := calendarTarget s
  if c.sec = t ∧ c.sub = 0 then s
  else
    let s1 := { s with ao := { s.ao with calendar := { c with sec := t, sub := 0, synced := true } } }
    if c.synced then s1 else info 0x0F0B 0 [c.sec, t] s1

/-- CAL_TRIM once per 3,600 s of following, if the timebase was LOCKED throughout (16 R627). -/
def trimCalendar (xtalError : Int) (s : State) : State :=
  let n := s.hl.hourSeconds + 1
  if n < 3600 then { s with hl := { s.hl with hourSeconds := n } }
  else
    let s1 := { s with hl := { s.hl with hourSeconds := 0, lockedHour := s.tb.state == .locked } }
    if s.hl.lockedHour then
      { s1 with ao := { s1.ao with calendar := { s1.ao.calendar with
          trim := BitVec.ofInt 16 (max (-32768) (min 32767 xtalError)) } } }
    else s1

/-- CALENDAR_SECOND (16 R627 to R629): a second of the calendar has run; a calendar that follows structure time is at a
whole second of it. `xtalError` is the measured frequency error of XTAL32, 0.01 ppm. -/
def execCalendarSecond (xtalError : Int) (s : State) : Out :=
  let c := s.ao.calendar
  let s1 := { s with ao := { s.ao with calendar := { c with sec := c.sec + 1, sub := 0 } } }
  .next (if calendarFollows s then
    let s2 := trimCalendar xtalError (syncCalendar s1)
    { s2 with ao := { s2.ao with calendar := { s2.ao.calendar with
        repeated := c.repeated && decide (wholeSecond s = s.hl.leapSecond) } } }
  else
    { s1 with
      hl := { s1.hl with hourSeconds := 0, lockedHour := s.tb.state == .locked }
      ao := { s1.ao with calendar := { s1.ao.calendar with repeated := false } } })

/-- HL_SET_CALENDAR at its boundary. -/
def applyCalendar (auto : Bool) (set : Option Word) (s : State) : State :=
  let c := { s.ao.calendar with auto := auto }
  match set with
  | none => { s with ao := { s.ao with calendar := c } }
  | some t => info 0x0F0B 0 [c.sec, t] { s with ao := { s.ao with calendar := { c with sec := t, sub := 0, repeated := false } } }

/-! ## A frame boundary -/

/-- Minutes and hours that the ledger counts, by frames of 1/3,000 s (16 Table 16.3). -/
def countFrame (s : State) : State :=
  let s1 := if s.hl.level = 0 then s else countFraction 8 1 180000 s
  let s2 := if s.tb.state = .holdover then countFraction 27 1 180000 s1 else s1
  let s3 := if 8000 ≤ tjReading s then countFraction 7 1 10800000 s2 else s2
  { s3 with hl := { s3.hl with lockedHour := s3.hl.lockedHour && s3.tb.state == .locked } }

/-- Readings of 150 °C in a row on any sensor, and the thermal trip of the second (16 R655). -/
def checkTrip (s : State) : State :=
  let n := if 9600 ≤ tjReading s then s.hl.tripRun + 1 else 0
  let s1 := { s with hl := { s.hl with tripRun := n } }
  if 2 ≤ n then thermalTrip (hottest s).val (vget s.hl.ts (hottest s)) s1 else s1

/-- Health at a frame boundary before its readings act on anything: the readings, their warnings, L_THERMAL, peak mode
and the counts of time. -/
def healthFrame (temps rails ro : List (BitVec 16)) (s : State) : State :=
  let s1 := takeReadings temps rails ro s
  let s2 := (List.finRange 12).foldl (fun t i => checkRail i t) (checkTemp s1)
  countFrame (peakFrame (thermalReading s2))

/-! ## Commands (16 R664 to R666) -/

/-- Two readings in one word, low half first. -/
def pairWord (lo hi : BitVec 16) : Word := wd (hi.toNat * 65536 + lo.toNat)

/-- Drift of RO `i` against its PM_BASE, in 0.01 %, as a 10-bit field (16 Table 16.14). -/
def roDrift (s : State) (i : Nat) : Nat :=
  let base : Int := (Config.pmBase (fin 8 i)).toNat
  let n : Int := (vgetD s.hl.ro i 0).toNat
  toField 10 (((n - base) * 10000).tdiv base)

/-- The words of HL_READ_MONITORS (16 Table 16.14). -/
def monitorWords (s : State) : List Word :=
  let h := s.hl
  let recent := (h.stretchTicks.filter (fun t => now s < t + ticksPerSecond)).length
  [wd (toField 16 (tjReading s) * 65536 + h.level * 8192 + b01 (reportsHealthy s) * 4096 + b01 h.pll300 * 2048)]
  ++ (List.range 6).map (fun i => pairWord (vgetD h.ts (2 * i) 0) (vgetD h.ts (2 * i + 1) 0))
  ++ (List.range 6).map (fun i => pairWord (vgetD h.rails (2 * i) 0) (vgetD h.rails (2 * i + 1) 0))
  ++ (List.range 4).map (fun i => pairWord (vgetD h.ro (2 * i) 0) (vgetD h.ro (2 * i + 1) 0))
  ++ (List.range 3).map (fun i => wd (roDrift s (3 * i) + roDrift s (3 * i + 1) * 1024 + (if i = 2 then 0 else roDrift s (3 * i + 2) * 1048576)))
  ++ [halves (min 65535 recent) h.longestNs.toNat]

/-- HL_READ_MONITORS. -/
def rulesHlReadMonitors : Rules :=
  { op := .hlReadMonitors, minLen := 0, maxLen := 0, issuers := anyFn, configures := false
    run := fun _ s => .done s (monitorWords s) (now s) }

/-- HL_READ_MONITORS. -/
def execHlReadMonitors (p : Packet) (s : State) : Out := .next (takeCommand rulesHlReadMonitors p s)

/-- HL_SET_THRESHOLDS (16 Table 16.12). -/
def rulesHlSetThresholds : Rules :=
  { op := .hlSetThresholds, minLen := 2, maxLen := 2, issuers := pf0, configures := true
    form := fun p _ => firstBad [
      (0, rsv (p.w 0) 0x0000FFFF && within ((p.w 0).field 31 24) 60 139 && within ((p.w 0).field 23 16) 10 100),
      (1, rsv (p.w 1) 0xFFFFFF00 && within ((p.w 1).field 7 0) 20 100)]
    run := fun p s =>
      let f := defaultBoundary false p s
      .done (stage f (.thresholds (p.w 0) (p.w 1)) s) [] f }

/-- HL_SET_THRESHOLDS. -/
def execHlSetThresholds (p : Packet) (s : State) : Out := .next (takeCommand rulesHlSetThresholds p s)

/-- The words of HL_READ_LEDGER for counters `first` to `first + count - 1`. -/
def ledgerWords (x : Ledger) (first count : Nat) : List Word :=
  [wd (x.sparesUsed.toNat * 65536 + x.wearPct), x.anomalies]
  ++ (List.range count).flatMap (fun i =>
    [wd (vgetD x.counters (first + i) LedgerCounter.zero).value, vgetD x.pending (first + i) 0])

/-- HL_READ_LEDGER (16 R666). -/
def rulesHlReadLedger : Rules :=
  { op := .hlReadLedger, minLen := 1, maxLen := 1, issuers := anyFn, configures := false
    form := fun p _ => firstBad [(0, rsv (p.w 0) 0xFFFF0000 && within ((p.w 0).field 15 8) 1 30
      && decide ((p.w 0).field 7 0 + (p.w 0).field 15 8 ≤ 30))]
    run := fun p s => .done s (ledgerWords s.ao.ledger ((p.w 0).field 7 0) ((p.w 0).field 15 8)) (now s) }

/-- HL_READ_LEDGER. -/
def execHlReadLedger (p : Packet) (s : State) : Out := .next (takeCommand rulesHlReadLedger p s)

/-- An entry takes its place in ascending LAST_TICK. -/
def insertByTick (e : EventEntry) : List EventEntry → List EventEntry
  | [] => [e]
  | x :: xs => if e.lastTick < x.lastTick then e :: x :: xs else x :: insertByTick e xs

/-- The entries that a function reads, in ascending LAST_TICK: a VF reads those whose FUNC names it (16 R664). -/
def visibleLog (func : BitVec 4) (s : State) : List EventEntry :=
  (s.hl.log.filter (fun e => func == 0 || func == 0xA || e.func == func)).foldl (fun a e => insertByTick e a) []

/-- HL_READ_EVENT_LOG (16 R664, R666). -/
def rulesHlReadEventLog : Rules :=
  { op := .hlReadEventLog, minLen := 1, maxLen := 1, issuers := anyFn, configures := false
    form := fun p _ => firstBad [(0, rsv (p.w 0) 0xFFE0FE00 && within ((p.w 0).field 20 16) 1 16)]
    run := fun p s =>
      let es := visibleLog p.func s
      .done s ([wd es.length, s.hl.overflow]
        ++ ((es.drop ((p.w 0).field 8 0)).take ((p.w 0).field 20 16)).flatMap EventEntry.words) (now s) }

/-- HL_READ_EVENT_LOG. -/
def execHlReadEventLog (p : Packet) (s : State) : Out := .next (takeCommand rulesHlReadEventLog p s)

/-- HL_CLEAR_EVENT_LOG: INFO, CRIT and OVF (16). -/
def rulesHlClearEventLog : Rules :=
  { op := .hlClearEventLog, minLen := 1, maxLen := 1, issuers := pf0, configures := false
    form := fun p _ => firstBad [(0, rsv (p.w 0) 0x7FFFFFFC)]
    run := fun p s =>
      let w := p.w 0
      .done { s with hl := { s.hl with
          log := s.hl.log.filter (fun e => !(if e.severity = .informational then w.bit 0 else w.bit 1))
          overflow := if w.bit 31 then 0 else s.hl.overflow } } [] (now s) }

/-- HL_CLEAR_EVENT_LOG. -/
def execHlClearEventLog (p : Packet) (s : State) : Out := .next (takeCommand rulesHlClearEventLog p s)

/-- HL_SET_PEAK (16 Table 16.13). -/
def rulesHlSetPeak : Rules :=
  { op := .hlSetPeak, minLen := 1, maxLen := 1, issuers := pf0, configures := true
    form := fun p _ => firstBad [(0, rsv (p.w 0) 0x7C00C000 && within ((p.w 0).field 25 16) 1 600
      && within ((p.w 0).field 13 0) 60 8640)]
    run := fun p s =>
      let f := defaultBoundary false p s
      .done (stage f (.peak (p.w 0)) s) [] f }

/-- HL_SET_PEAK. -/
def execHlSetPeak (p : Packet) (s : State) : Out := .next (takeCommand rulesHlSetPeak p s)

/-- The words of HL_READ_PEAK (16 Table 16.15). -/
def peakWords (s : State) : List Word :=
  let p := s.ao.peak
  let x := s.ao.ledger
  [wd (b01 p.inPeak * 2147483648 + b01 p.spent * 1073741824 + s.hl.lThermal * 134217728 + lBudget s * 16777216),
   wd p.cont, wd (windowSum p), p.off, satAdd (vget x.pending 9) (vget x.counters 9).value]

/-- HL_READ_PEAK. -/
def rulesHlReadPeak : Rules :=
  { op := .hlReadPeak, minLen := 0, maxLen := 0, issuers := anyFn, configures := false
    run := fun _ s => .done s (peakWords s) (now s) }

/-- HL_READ_PEAK. -/
def execHlReadPeak (p : Packet) (s : State) : Out := .next (takeCommand rulesHlReadPeak p s)

/-- The words of a last-words record (16 Table 16.9). -/
def LastWords.words (r : LastWords) : List Word :=
  [wd (r.ltype.toNat * 16777216 + r.cause.toNat * 65536 + r.seq.toNat * 2 + b01 r.read), r.calSec]
  ++ split64 r.tick ++ split64 r.time ++ [r.generation, r.epoch] ++ (r.data ++ List.replicate 8 0).take 8

/-- A function reads a record: a VF a fatal capture whose FUNC names it (16 R664). -/
def LastWords.visible (func : BitVec 4) (r : LastWords) : Bool :=
  func == 0 || func == 0xA || (r.ltype == 2 && (wordAt r.data 0).extractLsb' 4 4 == func)

/-- HL_READ_LAST_WORDS (16 R664, R666): READ is then set, and CLEAR removes what was returned. -/
def rulesHlReadLastWords : Rules :=
  { op := .hlReadLastWords, minLen := 1, maxLen := 1, issuers := anyFn, configures := false
    form := fun p _ => firstBad [(0, rsv (p.w 0) 0x7FFFE0C0 && within ((p.w 0).field 12 8) 1 15)]
    run := fun p s =>
      let seen := s.ao.lastWords.filter (LastWords.visible p.func)
      let got := (seen.drop ((p.w 0).field 5 0)).take ((p.w 0).field 12 8)
      let left := if (p.w 0).bit 31 then s.ao.lastWords.filter (fun r => !got.contains r)
        else s.ao.lastWords.map (fun r => if got.contains r then { r with read := true } else r)
      .done { s with ao := { s.ao with lastWords := left } }
        (wd (s.ao.heldMessages.length * 256 + seen.length) :: got.flatMap LastWords.words) (now s) }

/-- HL_READ_LAST_WORDS. -/
def execHlReadLastWords (p : Packet) (s : State) : Out := .next (takeCommand rulesHlReadLastWords p s)

/-- HL_SET_CALENDAR (16 R665). -/
def rulesHlSetCalendar : Rules :=
  { op := .hlSetCalendar, minLen := 2, maxLen := 2, issuers := pf0, configures := true
    form := fun p _ => firstBad [(0, rsv (p.w 0) 0x3FFFFFFF)]
    run := fun p s =>
      let f := defaultBoundary false p s
      if (p.w 0).bit 30 && s.ao.calendar.auto && s.tb.timeValid then .reject .precondition []
      else .done (stage f (.calendar ((p.w 0).bit 31) (if (p.w 0).bit 30 then some (p.w 1) else none)) s) [] f }

/-- HL_SET_CALENDAR. -/
def execHlSetCalendar (p : Packet) (s : State) : Out := .next (takeCommand rulesHlSetCalendar p s)

/-- The words of HL_READ_CALENDAR (16 Table 16.16). -/
def calendarWords (c : Calendar) : List Word :=
  [dateWord c.sec, timeWord c, c.sec,
   wd (b01 c.synced * 2147483648 + b01 c.repeated * 1073741824 + b01 c.auto * 536870912 + c.trim.toNat)]

/-- HL_READ_CALENDAR. Nothing ties the phase of XTAL32 to the ticks, so CAL_SUB as read is a free value (assumption 43). -/
def rulesHlReadCalendar : Rules :=
  { op := .hlReadCalendar, minLen := 0, maxLen := 0, issuers := anyFn, configures := false
    run := fun _ s =>
      let c := { s.ao.calendar with sub := (Config.freeWord s.freeCtr).extractLsb' 0 15 }
      let s1 := { s with freeCtr := s.freeCtr + 1, ao := { s.ao with calendar := c } }
      .done s1 (calendarWords c) (now s) }

/-- HL_READ_CALENDAR. -/
def execHlReadCalendar (p : Packet) (s : State) : Out := .next (takeCommand rulesHlReadCalendar p s)

/-- HL_SET_WATCHDOG (16 R666). -/
def rulesHlSetWatchdog : Rules :=
  { op := .hlSetWatchdog, minLen := 1, maxLen := 1, issuers := pf0, configures := true
    form := fun p _ => firstBad [(0, rsv (p.w 0) 0xFFFF0000 && within ((p.w 0).field 15 0) 100 10000)]
    run := fun p s =>
      let f := defaultBoundary false p s
      .done (stage f (.watchdog ((p.w 0).extractLsb' 0 16)) s) [] f }

/-- HL_SET_WATCHDOG. -/
def execHlSetWatchdog (p : Packet) (s : State) : Out := .next (takeCommand rulesHlSetWatchdog p s)

/-- HL_ZEROISE_KEYS (16 R632, R666). -/
def rulesHlZeroiseKeys : Rules :=
  { op := .hlZeroiseKeys, minLen := 1, maxLen := 1, issuers := pf0, configures := false
    form := fun p _ => firstBad [(0, p.w 0 == 0x5A5A0F0C)]
    run := fun _ s => .done (zeroise 1 s) [] (now s) }

/-- HL_ZEROISE_KEYS. -/
def execHlZeroiseKeys (p : Packet) (s : State) : Out := .next (takeCommand rulesHlZeroiseKeys p s)

end Sys2Proof.Machine
end

