-- ==== Sys2Proof/Machine/SelfTest.lean ====
section
/-!
DEFINITION. Built-in self-test and test access (17): runs and their records, the seven in-service tests, the schedule, scan
arming, the TAP, and the class 0x10 commands.
-/
namespace Sys2Proof.Machine
open Sys2Proof

/-! ## Runs and records (17 R669 to R671, Table 17.8) -/

/-- The result record of a test: those of tests 0 and 8 lie in the always-on domain (17 R700). -/
def testRecord (s : State) (t : Nat) : TestResult :=
  if t = 0 then s.ao.result0 else if t = 8 then s.ao.result8 else vgetD s.ts.results t TestResult.reset

/-- Change the result record of a test. -/
def modRecord (t : Nat) (f : TestResult → TestResult) (s : State) : State :=
  if t = 0 then { s with ao := { s.ao with result0 := f s.ao.result0 } }
  else if t = 8 then { s with ao := { s.ao with result8 := f s.ao.result8 } }
  else { s with ts := { s.ts with results := vsetD s.ts.results t (f (vgetD s.ts.results t TestResult.reset)) } }

/-- The run of a test, staged or running. -/
def runOf (s : State) (t : Nat) : Option TestRun := s.ts.runs.find? (fun r => r.test == t)

/-- The run of a test that has started. -/
def startedRun (s : State) (t : Nat) : Option TestRun := s.ts.runs.find? (fun r => r.test == t && r.started)

/-- Change the run of a test. -/
def modRun (t : Nat) (f : TestRun → TestRun) (s : State) : State :=
  { s with ts := { s.ts with runs := s.ts.runs.map (fun r => if r.test = t then f r else r) } }

/-- The record of a run that begins at tick `at_`; SCHED_SKIPS goes on. -/
def openRecord (r : TestRun) (at_ : Nat) (s : State) : State :=
  modRecord r.test (fun x =>
    { TestResult.reset with
      rstate := 1, origin := r.origin, runId := r.runId, schedSkips := x.schedSkips, startTick := at_ }) s

/-- A run ends with RSTATE `st` at the present tick: its record, TS_DONE, and nothing of it stays (17 R670). -/
def closeRun (t st : Nat) (s : State) : State :=
  let s1 := modRecord t (fun x => { x with rstate := st, endTick := if t = 8 then 0 else now s, endCalSec := s.ao.calendar.sec }) s
  let x := testRecord s1 t
  info 0x1001 0 [wd t, wd x.runId.toNat, wd st, wd x.failed.toNat]
    { s1 with ts := { s1.ts with
        runs := s1.ts.runs.filter (fun r => r.test != t)
        sourceSteps := if t = 4 then [] else s1.ts.sourceSteps
        matched := if t = 4 then [] else s1.ts.matched } }

/-- A run that has no unit left ends: passed if no unit failed (17 R670). -/
def finishIfDone (t : Nat) (s : State) : State :=
  match startedRun s t with
  | some r => if r.left.isEmpty then closeRun t (if (testRecord s t).failed = 0 then 2 else 3) s else s
  | none => s

/-- A unit is no longer left. -/
def dropUnit (t unit : Nat) (s : State) : State := modRun t (fun r => { r with left := r.left.filter (· != unit) }) s

/-- INSTANCE of TS_FAIL: the unit where it is a modulator, a source or a port, else 0 (16 R657; DESIGN CHOICE, assumption 44). -/
def failInst (t unit : Nat) : Nat := if t = 3 ∨ t = 4 ∨ t = 7 then unit else 0

/-- A unit has passed (`code` 0) or failed with a code and a measured value: counts, the first failure, and TS_FAIL (17 R670,
Table 17.8). -/
def judgeUnit (t unit code : Nat) (value : Word) (s : State) : State :=
  let s1 := modRecord t (fun x => { x with tested := satInc x.tested }) (dropUnit t unit s)
  if code = 0 then s1
  else
    crit 0x1002 (failInst t unit) [wd t, wd unit, wd code, value]
      (modRecord t (fun x =>
        let first := x.failed == 0
        { x with
          failed := satInc x.failed
          failCode := if first then BitVec.ofNat 8 code else x.failCode
          failUnit := if first then wd unit else x.failUnit
          failValue := if first then value else x.failValue }) s1)

/-- Units that the run cannot reach count as skipped (17 R671). -/
def skipUnits (t : Nat) (units : List Nat) (s : State) : State := units.foldl (fun u x => skipUnit t x u) s

/-- Units counted as skipped without being listed one by one. -/
def countSkipped (t n : Nat) (s : State) : State := modRecord t (fun x => { x with skipped := satAdd x.skipped n }) s

/-! ## Units and whether a test reaches them -/

/-- Blocks of 1 KiB of memory `j` (17 Table 17.2); memory 3 holds EAST, WEST and PAIR, in this order. -/
def memoryBlocks (j : Nat) : Nat := (([512, 256, 512, 3072, 64, 64, 32] : List Nat)[j]?).getD 0

/-- The number of block `n` of memory `j` in FAIL_UNIT (17 Table 17.8). -/
def blockUnit (j n : Nat) : Nat := n * 65536 + j

/-- Blocks of the segment queue pool that hold allocated entries: the pool is allocated from block 0 upward (DESIGN CHOICE,
assumption 45). -/
def poolBlocksUsed (s : State) : Nat :=
  ceilDiv ((s.st.segments.map (fun g => g.depth)).foldl (· + ·) 0) 32

/-- Test 1 reaches block `n` of memory `j` now (17 Table 17.2). -/
def blockReached (s : State) (j n : Nat) : Bool :=
  if j = 2 then decide (poolBlocksUsed s ≤ n) && !s.ts.withdrawn.contains n
  else if j = 3 then (upLanes s (fin 3 (n / 1024))).isEmpty
  else if j = 4 then !s.cmp.jobs.any (fun x => x.running) && !s.st.segments.any (fun g => g.job.isSome)
  else decide (j < 2)

/-- Source `i` is disabled, or enabled but joined to no terminal (17 R681). -/
def sourceIdle (s : State) (i : Nat) : Bool := !((feConfig s).live s.fe.isolated).delivers i

/-- The enabled sources sum to more than 310 mA, the full I_SET in split excitation (17 R682; 02 R48). -/
def above310 (s : State) : Bool :=
  let c := feConfig s
  decide (31000000 < ((List.range 128).map (fun i => if c.delivers i then (c.source i).field 19 0 else 0)).foldl (· + ·) 0)

/-- A survey entry up to LAST of the sequence in force names a terminal of port `p` (17 R685). -/
def surveyNames (s : State) (p : Nat) : Bool :=
  (List.finRange 4).any (fun v =>
    let x := getSv s v
    (List.range (svLast x.seqWord + 1)).any (fun e =>
      let w := vget (vgetD x.entries e (vall 5 0)) 0
      [w.field 31 24, w.field 23 16].any (fun c => codePort v.val c == some p)))

/-- Test 7 reaches port `p` (17 R685). -/
def portIdle (s : State) (p : Nat) : Bool :=
  (List.range 4).all (fun k => (feConfig s).word (4 * p + k) == 0) && !hasBit s.fe.isolated p
    && !(s.fe.diagRunning.map (fun r => r.req.port == some p)).getD false && !surveyNames s p

/-- TB0 or TB1 is joined to a terminal (17 R684). -/
def testBusJoined (s : State) : Bool :=
  (List.range 512).any (fun t => ((feConfig s).word t).bit 24 || ((feConfig s).word t).bit 25)

/-- The units of a run: those of its scope, in ascending order. -/
def unitsOf (s : State) (r : TestRun) : List Nat :=
  if r.test = 1 then
    ((List.range 7).filter (fun j => r.arg1.bit j)).flatMap (fun j => (List.range (memoryBlocks j)).map (blockUnit j))
  else if r.test = 3 then
    ((List.range (9 * r.count)).map (fun i => 9 * r.first + i)).filter (fun m =>
      match modState s (m / 9) (m % 9) with
      | .retired | .failedServing => false
      | _ => true)
  else if r.test = 4 then (List.range (4 * r.count)).map (fun i => 4 * r.first + i)
  else if r.test = 7 then (List.range r.count).map (fun i => r.first + i)
  else if r.test = 6 then [0, 1]
  else [0]

/-- A unit cannot be reached now. -/
def unreached (s : State) (t unit : Nat) : Bool :=
  if t = 1 then !blockReached s (unit % 65536) (unit / 65536)
  else if t = 4 then !sourceIdle s unit
  else if t = 6 then testBusJoined s
  else if t = 7 then !portIdle s unit
  else false

/-- The first group beyond the range of test 2: ARG2 0 means to CAP_SIZE (17 Table 17.6). -/
def groupEnd (s : State) (r : TestRun) : Nat :=
  if r.arg2 = 0 then capBytes s / 256 else 16 * (r.arg1.toNat + r.arg2.toNat)

/-- Test 2 is at its next group: skipped while the controller is not READY; the run ends behind its range. -/
def settleGroups (s : State) : State :=
  match startedRun s 2 with
  | none => s
  | some r =>
    if s.mem.mstate ≠ .ready then
      let n := if r.arg2 = 0 then 0 else groupEnd s r - r.next
      modRun 2 (fun x => { x with left := [] }) (countSkipped 2 n s)
    else if groupEnd s r ≤ r.next then modRun 2 (fun x => { x with left := [] }) s
    else s

/-! ## Starts and ends at a frame boundary -/

/-- A test of the diagnostic measurement unit is a request of 02 R77 (17 R683). -/
def measurementRequest (kind : Nat) : DiagReq :=
  { request := 0, kind := kind, p := 0, q := 0, level := 0, limit := 0, slot := none, every := 0, first := false }

/-- The measurement unit drops the request of a test. -/
def dropMeasurement (kind : Nat) (s : State) : State :=
  { s with fe := { s.fe with
      diagQueue := s.fe.diagQueue.filter (fun r => r.kind != kind)
      diagRunning := match s.fe.diagRunning with
        | some r => if r.req.kind = kind then none else some r
        | none => none } }

/-- A run of tests 1 to 7 starts at boundary `f` (17 Table 17.6, R671, R683). -/
def startRun (f : Nat) (r : TestRun) (s : State) : State :=
  let units := unitsOf s r
  let s1 := openRecord r f (modRun r.test (fun x =>
    { x with started := true, left := units, next := 16 * r.arg1.toNat }) s)
  let s2 := if r.test = 2 then settleGroups s1 else skipUnits r.test (units.filter (unreached s r.test)) s1
  let s3 := match startedRun s2 r.test with
    | some x => if (r.test = 5 ∨ r.test = 6) ∧ ¬ x.left.isEmpty then
        { s2 with fe := { s2.fe with diagQueue := s2.fe.diagQueue ++ [measurementRequest r.test] } } else s2
    | none => s2
  finishIfDone r.test s3

/-- TS_ABORT takes effect at boundary `f`: RSTATE 5, and a modulator under test has one frame more (17 R698). -/
def abortRun (f : Nat) (r : TestRun) (s : State) : State :=
  let s1 := if r.started then s else openRecord r f s
  let s2 := if r.test = 3 then
      s1.ts.modTests.foldl (fun t x => stopStimulus x.m.val t)
        { s1 with ts := { s1.ts with modTests := s1.ts.modTests.map (fun x =>
            if x.back.isNone then { x with back := some (f + frameLen) } else x) } }
    else if r.test = 5 ∨ r.test = 6 then dropMeasurement r.test s1 else s1
  closeRun r.test 5 s2

/-- The schedule's tests that wait start at boundary `f` at shedding level 0 (17 R699): a run of every unit. -/
def startScheduled (f : Nat) (s : State) : State :=
  if s.hl.level ≠ 0 then s
  else s.ts.schedDue.foldl (fun t k =>
    if (runOf t k).isSome then t
    else
      let r : TestRun :=
        { test := k, runId := t.ts.nextRun, origin := 1, first := 0, count := if k = 7 then 128 else 32
          arg1 := if k = 1 then 0x7F else 0, arg2 := 0, startAt := f, started := false, abort := false, left := [], next := 0
          cycles := [] }
      { t with ts := { t.ts with
          runs := t.ts.runs ++ [r], nextRun := t.ts.nextRun + 1, schedDue := t.ts.schedDue.filter (· != k) } }) s

/-! ## Test 3 (17 R676 to R680) -/

/-- Frames from boundary `f` to the basin's next calibration cycle; none while no cycle comes (05 R184, R185). -/
def framesToCycle (s : State) (b f : Nat) : Option Nat :=
  let c := calBasin s b
  if !c.policy.bit 31 then none
  else c.base.map (fun t =>
    let p := frameLen * c.policy.field 15 0
    (if f ≤ t then t - f else (p - (f - t) % p) % p) / frameLen)

/-- The spare of basin `b` begins its test at boundary `f`, if it has one left and 10 frames remain (17 R676). -/
def beginModTest (f : Nat) (b : Nat) (s : State) : State :=
  match startedRun s 3, spareOf s b with
  | some r, some i =>
    let room := match framesToCycle s b f with
      | some n => decide (10 ≤ n)
      | none => true
    if r.left.contains (9 * b + i) && room && (calBasin s b).foreground.isNone
        && !s.ts.modTests.any (fun t => t.m.val / 9 == b) then
      setMod b i .calibrating
        { s with ts := { s.ts with modTests := s.ts.modTests ++ [{ m := fin 288 (9 * b + i), began := f, back := none }] } }
    else s
  | _, _ => s

/-- The spare of basin `b` does not rotate: BG_EN is 0, every channel is parked, or no healthy modulator is free (17 R680; 03
R101). -/
def spareStays (s : State) (b : Nat) : Bool :=
  !(calBasin s b).policy.bit 31 || (nextChannel s b).isNone || noSpare s b

/-- The units of basin `b` that its part of the run gives up at a boundary: modulators that are healthy no more, all after 10
cycles, and all when the spare does not rotate and is tested (17 R680). -/
def givenUp (s : State) (r : TestRun) (b : Nat) : List Nat :=
  let mine := r.left.filter (fun m => m / 9 == b)
  let busy := s.ts.modTests.any (fun t => t.m.val / 9 == b)
  let waits := (vgetD s.cal.visits b none).isSome || (vgetD s.cv.overlaps b none).isSome || (calBasin s b).foreground.isSome
    || mine.any (fun m => modState s b (m % 9) == .spare)
  if busy then []
  else if 10 < (r.cycles.filter (· == b)).length || (spareStays s b && !waits) then mine
  else mine.filter (fun m => match modState s b (m % 9) with
    | .retired | .failedServing => true
    | _ => false)

/-- Test 3 at boundary `f`: modulators of aborted tests return, basins end their part, spares begin. -/
def modTestsFrame (f : Nat) (s : State) : State :=
  let due := fun (x : ModTest) => match x.back with
    | some t => decide (t ≤ f)
    | none => false
  let s1 := (s.ts.modTests.filter due).foldl (fun t x => setMod (x.m.val / 9) (x.m.val % 9) .spare t)
    { s with ts := { s.ts with modTests := s.ts.modTests.filter (fun x => !due x) } }
  match startedRun s1 3 with
  | none => s1
  | some r =>
    let basins := (List.range r.count).map (fun i => r.first + i)
    let s2 := basins.foldl (fun t b => beginModTest f b t) s1
    let s3 := basins.foldl (fun t b => skipUnits 3 (givenUp t r b) t) s2
    finishIfDone 3 s3

/-! ## Tests 4 and 7 at a frame boundary (17 R682, R686) -/

/-- Next step of source `i` and the frames its 10 mA step has waited. -/
def sourceStep (s : State) (i : Nat) : Nat × Nat :=
  match s.ts.sourceSteps.find? (fun x => x.1.val == i) with
  | some x => x.2
  | none => (0, 0)

/-- Set the next step of a source. -/
def setSourceStep (i : Fin 128) (step waited : Nat) (s : State) : State :=
  { s with ts := { s.ts with sourceSteps := s.ts.sourceSteps.filter (fun x => x.1 != i) ++ [(i, step, waited)] } }

/-- Test 4 at a boundary: a source that has been joined counts as skipped, and so does one whose 10 mA step has waited 16
frames (17 R682). -/
def sourcesFrame (s : State) : State :=
  match startedRun s 4 with
  | none => s
  | some r =>
    let s1 := skipUnits 4 (r.left.filter (fun i => !sourceIdle s i)) s
    let s2 := r.left.foldl (fun t i =>
      let (step, waited) := sourceStep t i
      if step = 2 ∧ above310 t then
        if 16 ≤ waited + 1 then skipUnit 4 i t else setSourceStep (fin 128 i) 2 (waited + 1) t
      else t) s1
    finishIfDone 4 s2

/-- Test 7 at a boundary that applies changes to the ports `named`: those, and ports no longer idle, count as skipped (17
R686). -/
def portsFrame (named : List Nat) (s : State) : State :=
  match startedRun s 7 with
  | none => s
  | some r => finishIfDone 7 (skipUnits 7 (r.left.filter (fun p => !portIdle s p || named.contains p)) s)

/-- Self-test at frame boundary `f`; `named` are the ports that front-end changes of this boundary name. Test 8 is left to
`logicTestFrame`. -/
def selfTestFrame (f : Nat) (named : List Nat) (s : State) : State :=
  let s1 := (s.ts.runs.filter (fun r => r.abort)).foldl (fun t r => abortRun f r t) s
  let s2 := startScheduled f s1
  let s3 := sourcesFrame (portsFrame named s2)
  let s4 := (s3.ts.runs.filter (fun r => !r.started && r.test != 8 && decide (r.startAt ≤ f))).foldl
    (fun t r => startRun f r t) s3
  modTestsFrame f s4

/-- TS_RUN of test 8 takes effect: a warm chip reset as a write of CHIP_RESET performs it, with logic BIST before
Fountainhead starts (17 R687). -/
def logicTestFrame (s : State) : State :=
  match s.ts.runs.find? (fun r => r.test == 8) with
  | some r => if r.started then s else
      chipReset 2 true 5 [] (some 4) (openRecord r 0 s)
  | none => s

/-! ## The tests' rows -/

/-- The tick of the next block of test 1: now, or 100 µs after the last one (17 R672). -/
def blockDue (s : State) : Nat := match s.ts.blockAt with
  | some t => t + usTicks 100
  | none => now s

/-- Test 1 tests a block when the next one is due. -/
def blockSlot (f : State → State) (s : State) : State :=
  atDue (blockDue s) (fun t => f { t with ts := { t.ts with blockAt := some (now t) } }) s

/-- SRAM_BLOCK_TEST (17 R672, R673): `code` 0 pass, 1 read mismatch, 2 hold buffer failed. A patch commit that verifies holds
up memory 1. -/
def execSramBlockTest (memory : Fin 7) (block : Nat) (code : Fin 3) (value : Word) (s : State) : Out :=
  let unit := blockUnit memory.val block
  .next (match startedRun s 1 with
    | none => s
    | some r =>
      if !r.left.contains unit then s
      else if memory.val = 1 ∧ s.fh.restarting then s
      else if !blockReached s memory.val block then finishIfDone 1 (skipUnit 1 unit s)
      else blockSlot (fun s =>
        if code.val = 2 ∧ memory.val < 2 then closeRun 1 3 (judgeUnit 1 unit 2 value s)
        else
          let bad := code.val ≠ 0
          let s1 := judgeUnit 1 unit (if bad then 1 else 0) value s
          finishIfDone 1 (if bad ∧ memory.val = 2 then
            { s1 with ts := { s1.ts with withdrawn := s1.ts.withdrawn ++ [block] } } else s1)) s)

/-- DRAM_GROUP_TEST (17 R674, R675): the next group is read, tested and written back; one with an uncorrectable word at its
save stays as it is. `code` 0 pass, 1 mismatch, 2 corrected error. -/
def execDramGroupTest (code : Fin 3) (value : Word) (soft : SoftErrors) (s : State) : Out :=
  let s1 := applySoft soft s
  .next (match startedRun s1 2 with
    | none => s1
    | some r =>
      if s1.mem.mstate ≠ .ready then finishIfDone 2 (settleGroups s1)
      else
        let g := r.next
        let (t, err, kept) := readMemory 5 0xF (256 * g) 256 s1
        let judged :=
          if err ≠ 0 then judgeUnit 2 g 3 value t
          else judgeUnit 2 g code.val value (writeMemory 5 0xF (256 * g) kept t).1
        finishIfDone 2 (settleGroups (modRun 2 (fun x => { x with next := g + 1, left := r.left }) judged)))

/-- The fail codes of a modulator's readings at gain 2^g, each with its measured value (17 R677, Table 17.1). -/
def modFailures (r : ModReading) (g : Nat) : List (Nat × Int) :=
  (if decide (r.offsetNv.natAbs * 2 ^ g ≤ 100000 * 2 ^ g + 1000000) then [] else [(1, r.offsetNv)])
  ++ (if (r.halfPpm - 500000).natAbs ≤ 10000 then [] else [(2, r.halfPpm)])
  ++ (if r.engage ≤ 64 then [] else [(3, (r.engage : Int))]) ++ (if r.release ≤ 64 then [] else [(4, (r.release : Int))])

/-- The first failure of test 3, at gain codes 0 and then 5 (17 R677). -/
def modVerdict (readings : Vector ModReading 2) : Nat × Word :=
  match (modFailures (vget readings 0) 0 ++ modFailures (vget readings 1) 5).head? with
  | some (code, value) => (code, BitVec.ofInt 32 value)
  | none => (0, 0)

/-- The test of modulator `m` ends: it returns to SPARE, or is declared failed with reason 3 of 03 R98 (17 R677, R678). -/
def endModTest (m : Fin 288) (readings : Vector ModReading 2) (s : State) : State :=
  let b := m.val / 9
  let i := m.val % 9
  let (code, value) := modVerdict readings
  let s1 := { s with ts := { s.ts with modTests := s.ts.modTests.filter (fun y => y.m != m) } }
  let s2 := judgeUnit 3 m.val code value (stopStimulus m.val (setMod b i .spare s1))
  finishIfDone 3 (if code = 0 then s2 else failModulator b i 3 (now s) s2)

/-- MODULATOR_TEST_END (17 R677): nine frames after the test of a modulator began. -/
def execModulatorTestEnd (m : Fin 288) (first second : ModReading) (s : State) : Out :=
  .next (match s.ts.modTests.find? (fun x => x.m == m && x.back.isNone) with
    | none => s
    | some x => atDue (x.began + 9 * frameLen) (endModTest m #v[first, second]) s)

/-- The setting of step 0, 1 or 2 of test 4 in nA (17 R681). -/
def stepSetting (step : Nat) : Nat := if step = 0 then 10000 else if step = 1 then 1000000 else 10000000

/-- The reading lies within ±(20 nA + 0.2 %) of its setting (17 R681). -/
def accurate (step : Nat) (na : Int) : Bool :=
  decide ((na - (stepSetting step : Int)).natAbs ≤ 20 + stepSetting step / 500)

/-- SOURCE_TEST_STEP (17 R681, R682): a reading of an idle source at one setting, in order; the first check that fails fails
the source. -/
def execSourceTestStep (source : Fin 128) (step : Fin 3) (readingNa : Int) (s : State) : Out :=
  let i := source.val
  .next (match startedRun s 4 with
    | none => s
    | some r =>
      let (due, _) := sourceStep s i
      if !r.left.contains i then s
      else if !sourceIdle s i then finishIfDone 4 (skipUnit 4 i s)
      else if step.val ≠ due then s
      else if step.val = 2 ∧ above310 s then s
      else
        let value := BitVec.ofInt 32 readingNa
        let off := s.ts.matched.any (fun x =>
          x.1.val / 4 == i / 4 && decide (500 < (x.2 - readingNa).natAbs))
        finishIfDone 4 (
          if !accurate step.val readingNa then judgeUnit 4 i 1 value s
          else if step.val = 1 then
            if off then judgeUnit 4 i 2 value s
            else setSourceStep source 2 0 { s with ts := { s.ts with matched := s.ts.matched ++ [(source, readingNa)] } }
          else if step.val = 0 then setSourceStep source 1 0 s
          else judgeUnit 4 i 0 0 s))

/-- A test of the measurement unit ends and the next request starts (17 R683). -/
def endMeasurement (r : DiagRun) (judge : State → State) (s : State) : State :=
  let e := r.began + frameLen * diagFrames r.req.kind
  let s1 := { s with tb := { s.tb with tick := max s.tb.tick e }, fe := { s.fe with diagRunning := none } }
  runDiagnostics e (finishIfDone r.req.kind (judge s1))

/-- The measurement unit runs a test of kind `k` that ends before the next frame boundary. -/
def measuring (k : Nat) (s : State) : Option DiagRun :=
  s.fe.diagRunning.filter (fun r => r.req.kind == k && dueSoon (r.began + frameLen * diagFrames r.req.kind) s)

/-- REFERENCE_TEST_END (17 R683): the main reference divided by 2 and the check reference in µV, each within 0.2 % of
1.250 V, and within 200 ppm of each other. -/
def execReferenceTestEnd (mainUv checkUv : Int) (s : State) : Out :=
  .next (match measuring 5 s with
    | some r =>
      let code := if 2500 < (mainUv - 1250000).natAbs then 1 else if 2500 < (checkUv - 1250000).natAbs then 2
        else if 250 < (mainUv - checkUv).natAbs then 3 else 0
      let value := if code = 1 then mainUv else if code = 2 then checkUv else mainUv - checkUv
      endMeasurement r (judgeUnit 5 0 code (BitVec.ofInt 32 value)) s
    | none => s)

/-- TEST_BUS_TEST_END (17 R683, R684), by path TB0 and TB1: resistance in Ω, leakage in pA, and the voltage found at the
ball with no current forced, in µV. -/
def execTestBusTestEnd (resistance leakagePa drivenUv : Vector Int 2) (s : State) : Out :=
  let judge := fun (k : Fin 2) (t : State) =>
    let drv := vget drivenUv k
    let res := vget resistance k
    let leak := vget leakagePa k
    let code := if 50000 < drv.natAbs then 3 else if 250 < res then 1 else if 5000 < leak.natAbs then 2 else 0
    judgeUnit 6 k.val code (BitVec.ofInt 32 (if code = 3 then drv else if code = 1 then res else leak)) t
  .next (match measuring 6 s with
    | some r => endMeasurement r (fun t => judge 1 (judge 0 t)) s
    | none => s)

/-- The first failure of test 7 over the terminals and polarities of a port: 1 the trip later than 200 ns, 2 the switches not open
within 1 µs (17 R685, Table 17.1). -/
def tripVerdict (above below : Vector TripReading 4) : Nat × Word :=
  let trips := (List.finRange 4).flatMap (fun k => [vget above k, vget below k])
  match (trips.flatMap (fun r => (if r.trip ≤ 200 then [] else [(1, wd r.trip)])
      ++ (if r.opened ≤ 1000 then [] else [(2, wd r.opened)]))).head? with
  | some x => x
  | none => (0, 0)

/-- ISOLATION_TEST_PORT (17 R685, R686). -/
def execIsolationTestPort (port : Fin 128) (above below : Vector TripReading 4) (s : State) : Out :=
  .next (match startedRun s 7 with
    | none => s
    | some r =>
      if !r.left.contains port.val then s
      else if !portIdle s port.val then finishIfDone 7 (skipUnit 7 port.val s)
      else finishIfDone 7 (judgeUnit 7 port.val (tripVerdict above below).1 (tripVerdict above below).2 s))

/-- SCHEDULED_TEST_DUE (17 R699): PERIOD_H after the schedule came into force, or the test last fell due (DEDUCED, assumption 181), a
run of the test waits for shedding level 0, or is skipped because one runs. -/
def execScheduledTestDue (test : Fin 8) (s : State) : Out :=
  let k := test.val
  .next (if k = 0 ∨ ¬ hasBit s.ts.sched (k - 1) then s
    else atDue (vget s.ts.schedFrom test + 3600 * s.ts.periodH.toNat * ticksPerSecond) (fun s =>
      let s1 := { s with ts := { s.ts with schedFrom := vset s.ts.schedFrom test (now s) } }
      if (runOf s1 k).isSome then modRecord k (fun x => { x with schedSkips := satInc x.schedSkips }) s1
      else if s1.ts.schedDue.contains k then s1
      else { s1 with ts := { s1.ts with schedDue := s1.ts.schedDue ++ [k] } }) s)

/-! ## The TAP (17 R691 to R695) -/

/-- Opcodes with pin control (17 Table 17.3). -/
def pinOpcode (o : Byte) : Bool := [0x00, 0x04, 0x05, 0x06, 0x07, 0x80].contains o

/-- TAP_INSTRUCTION_UPDATE (17 R691, R692, R694): pin control takes effect only while PORST_N is asserted, SCAN_MODE only with
SCAN_ARMED besides; otherwise the instruction acts as BYPASS. -/
def execTapInstructionUpdate (opcode : Byte) (s : State) : Out :=
  let allowed := pinOpcode opcode && !s.pwr.porstN && (opcode != 0x80 || s.ao.scanArmed)
  .next (if vget s.pwr.rails 7 then
    { s with ts := { s.ts with
        tapInstruction := opcode, tapPinControl := allowed, scanUsed := s.ts.scanUsed || (allowed && opcode == 0x80) } }
  else s)

/-- TAP_TEST_LOGIC_RESET (17 R692): IDCODE is the instruction (PRESUMED, IEEE 1149.1; assumption 8). -/
def execTapTestLogicReset (s : State) : Out :=
  .next { s with ts := { s.ts with tapInstruction := 0x01, tapPinControl := false } }

/-! ## Class 0x10 commands (17 R697, R698) -/

/-- TEST of word 0. -/
def testField (p : Packet) : Nat := (p.w 0).field 31 28

/-- The form of TS_RUN (17 R698): fields that the test does not use are 0, ranges in their bounds. -/
def runForm (p : Packet) (s : State) : Option Nat :=
  let t := testField p
  let count := (p.w 0).field 15 8
  let first := (p.w 0).field 6 0
  let limit := if t = 7 then 128 else 32
  let ranged := t = 3 ∨ t = 4 ∨ t = 7
  let word0 := if ranged then decide (count ≠ 0) && decide (first + count ≤ limit) else (p.w 0).field 15 0 == 0
  let ready := s.mem.mstate == .ready
  let word1 := if t = 1 then rsv (p.w 1) 0xFFFFFF80 && p.w 1 != 0
    else if t = 2 then !ready || decide ((p.w 1).toNat < s.mem.capPages) else p.w 1 == 0
  let word2 := if t = 2 then !ready || decide ((p.w 1).toNat + (p.w 2).toNat ≤ s.mem.capPages) else p.w 2 == 0
  firstBad [(0, rsv (p.w 0) 0x0FFF0080 && within t 1 8 && word0), (1, word1), (2, word2)]

/-- TS_RUN (17 R669, R684, R688, R698, Table 17.6). -/
def rulesTsRun : Rules :=
  { op := .tsRun, minLen := 3, maxLen := 3, issuers := pf0, configures := false, form := runForm
    run := fun p s =>
      let t := testField p
      if (runOf s t).isSome then .reject .busy []
      else if t = 2 ∧ s.mem.mstate ≠ .ready then .reject .precondition []
      else if t = 6 ∧ testBusJoined s then .reject .precondition []
      else if t = 8 ∧ s.pair.pstate = .active then .reject .precondition []
      else
        let r : TestRun :=
          { test := t, runId := s.ts.nextRun, origin := 0, first := (p.w 0).field 6 0, count := (p.w 0).field 15 8
            arg1 := p.w 1, arg2 := p.w 2, startAt := nextFrame s, started := false, abort := false, left := [], next := 0
            cycles := [] }
        .done { s with ts := { s.ts with runs := s.ts.runs ++ [r], nextRun := s.ts.nextRun + 1 } }
          [wd s.ts.nextRun.toNat] (now s) }

/-- TS_RUN. -/
def execTsRun (p : Packet) (s : State) : Out := .next (takeCommand rulesTsRun p s)

/-- The reply data of TS_READ_RESULT (17 Table 17.8). -/
def testWords (t : Nat) (x : TestResult) : List Word :=
  [wd (t * 268435456 + x.rstate * 33554432 + x.origin * 8388608 + x.runId.toNat), halves x.tested.toNat x.failed.toNat,
   wd (x.skipped.toNat * 65536 + x.failCode.toNat * 256 + x.schedSkips.toNat), x.failUnit, x.failValue]
  ++ split64 x.startTick ++ split64 x.endTick ++ [x.endCalSec]

/-- TS_READ_RESULT, from any function (17 R697). -/
def rulesTsReadResult : Rules :=
  { op := .tsReadResult, minLen := 1, maxLen := 1, issuers := anyFn, configures := false
    form := fun p _ => firstBad [(0, rsv (p.w 0) 0x0FFFFFFF && decide (testField p ≤ 8))]
    run := fun p s => .done s (testWords (testField p) (testRecord s (testField p))) (now s) }

/-- TS_READ_RESULT. -/
def execTsReadResult (p : Packet) (s : State) : Out := .next (takeCommand rulesTsReadResult p s)

/-- TS_ABORT (17 R698): the run ends at the next frame boundary; without a run it changes nothing. -/
def rulesTsAbort : Rules :=
  { op := .tsAbort, minLen := 1, maxLen := 1, issuers := pf0, configures := false
    form := fun p _ => firstBad [(0, rsv (p.w 0) 0x0FFFFFFF && within (testField p) 1 8)]
    run := fun p s => .done (modRun (testField p) (fun r => { r with abort := true }) s) [] (now s) }

/-- TS_ABORT. -/
def execTsAbort (p : Packet) (s : State) : Out := .next (takeCommand rulesTsAbort p s)

/-- TS_SET_SCHEDULE (17 Table 17.7): in force from the next frame boundary. -/
def rulesTsSetSchedule : Rules :=
  { op := .tsSetSchedule, minLen := 2, maxLen := 2, issuers := pf0, configures := false
    form := fun p _ => firstBad [(0, rsv (p.w 0) 0x7FFFFF80),
      (1, rsv (p.w 1) 0xFFFF0000 && within ((p.w 1).field 15 0) 1 8760)]
    run := fun p s =>
      let c := defaultBoundary false p s
      .done (stage c (.schedule (p.w 0) (p.w 1)) s) [] c }

/-- TS_SET_SCHEDULE. -/
def execTsSetSchedule (p : Packet) (s : State) : Out := .next (takeCommand rulesTsSetSchedule p s)

/-- The schedule words come into force. -/
def applySchedule (w0 w1 : Word) (s : State) : State :=
  { s with ts := { s.ts with
      warmBist := w0.bit 31, sched := BitVec.ofNat 7 (w0.field 6 0), periodH := BitVec.ofNat 16 (w1.field 15 0)
      schedFrom := vall 8 (now s) } }

/-- TS_SCAN_ENABLE (17 R693, R698): zeroisation, then SCAN_ARMED. -/
def rulesTsScanEnable : Rules :=
  { op := .tsScanEnable, minLen := 1, maxLen := 1, issuers := pf0, configures := false
    form := fun p _ => firstBad [(0, p.w 0 == 0x5A5A1005)]
    run := fun _ s =>
      let z := zeroise 2 s
      .done (crit 0x1004 0 (split64 (now s)) { z with ao := { z.ao with scanArmed := true } }) [] (now s) }

/-- TS_SCAN_ENABLE. -/
def execTsScanEnable (p : Packet) (s : State) : Out := .next (takeCommand rulesTsScanEnable p s)

end Sys2Proof.Machine
end

