-- ==== Sys2Proof/Machine/Apply.lean ====
section
/-!
DEFINITION. Staged changes come into force at a frame boundary (01 R27; 02 R51; 15 R602): what each kind of change does, and
the order in which those of one boundary are taken.
-/
namespace Sys2Proof.Machine
open Sys2Proof

/-- A front-end change: those of one boundary act together (02 R49, R53). -/
def Change.frontEnd (c : Change) : Bool :=
  match c with
  | .connections _ _ | .excitation _ _ | .biasGuard _ _ => true
  | _ => false

/-- The ports that a front-end change names (17 R686). -/
def Change.ports (c : Change) : List Nat :=
  match c with
  | .connections b _ | .excitation b _ | .biasGuard b _ => (List.range 4).map (fun j => 4 * b.val + j)
  | .releaseIsolation p => [p.val]
  | _ => []

/-- A branch change, and the end of the capture slots of a branch whose regime begins at once: a branch that was disabled, or
whose window begins at the boundary (04 R141; 09 R380). -/
def branchChange (i : Fin 512) (ws : Vector Word 3) (regime : Bool) (f : Nat) (s : State) : State :=
  let s1 := applyBranch i.val ws regime f s
  let x := getBranch s1 i.val
  if regime && x.waiting.isNone then captureRegime (i.val / 2) (i.val % 2) (branchCfg ws).lc x.regime s1 else s1

/-- One change comes into force at boundary `f`. A time step is chosen among those of its boundary, and a lane group's
words are followed by its change of rate; both are left to `applyDue`'s caller. -/
def applyChange (f : Nat) (c : Change) (s : State) : State :=
  match c with
  | .timeStep _ => s
  | .tbSources w0 w1 => applySources w0 w1 s
  | .tbHoldover w0 w1 w2 => applyHoldover w0 w1 w2 s
  | .tbMains w0 w1 => applyMains w0 w1 s
  | .bcnSet w => applyBeaconWord w s
  | .ringPolicy w0 w1 => { s with ring := { s.ring with policy0 := w0, policy1 := w1 } }
  | .ringHop d a => modSide d (fun x => { x with asym := a }) s
  | .pairPolicy w0 w1 => modPair (fun p => { p with policy0 := w0, policy1 := w1 }) s
  | .pairLink w => modPair (fun p => { p with asym := w }) s
  | .connections _ _ | .excitation _ _ | .biasGuard _ _ => recordFrontEnd c f s
  | .overvoltage w => { s with fe := { s.fe with ovWord := w } }
  | .diagnostic r => queueDiagnostic r s
  | .diagCancel k => clearSlot k s
  | .releaseIsolation p => applyRelease p f s
  | .channels b w => applyChannelWord b w f s
  | .retire m => failModulator (m.val / 9) (m.val % 9) 4 f s
  | .surveySequence v w es => applySequence v w es s
  | .surveyStart v => svStartEvent 17 v s
  | .timer t w start period duty => applyTimer t w start period duty f s
  | .branch i ws regime => branchChange i ws regime f s
  | .fir b ws => applyFir b ws f s
  | .detectors ch w => applyDetectors ch w s
  | .comparator ch ws => applyComparator ch ws s
  | .flRelease ch m => releaseUnits ch.val m.toNat s
  | .calPolicy b p t => applyCalPolicy b p t f s
  | .trim m g w => applyTrim m g w f s
  | .refcheck w => applyRefcheck w s
  | .capArm i arm => applyCapArm i arm f s
  | .capDelete i => applyCapDelete i f s
  | .capTrigger i ws => applyCapTrigger i ws s
  | .capRelease i => applyCapRelease i f s
  | .capPins ws => applyCapPins ws s
  | .memPolicy w0 w1 => { s with mem := { s.mem with policy0 := w0, policy1 := w1 } }
  | .stream fn st w0 w1 w4 => applyStream fn st w0 w1 w4 s
  | .laneGroup g w0 w1 => (applyLaneGroup g w0 w1 s).1
  | .fnView fn view page pages => applyView fn view page pages f s
  | .fnQos fn ws => applyQos fn ws s
  | .fnBudget b => { s with host := { s.host with ringBudget := b } }
  | .thresholds w0 w1 => { s with hl := { s.hl with thresholds0 := w0, thresholds1 := w1 } }
  | .peak w => { s with hl := { s.hl with peakWord := w } }
  | .watchdog ms => { s with hl := { s.hl with wdMs := ms } }
  | .calendar auto set => applyCalendar auto set s
  | .schedule w0 w1 => applySchedule w0 w1 s

/-- The changes that are late for boundary `f` move to the next one, each unit and acceptance reported once (01 R27, 15
R602). -/
def postponeLate (f : Nat) (s : State) : State :=
  let xs := s.staged.filter (fun x => x.due f && x.late f)
  let marks := (xs.map (fun x => (x.change.unit, x.accepted, x.at_))).eraseDups
  marks.foldl (fun t m =>
    info 0x0106 0 (wd m.1 :: (split64 m.2.2 ++ split64 (f + frameLen)))
      { t with fh := { t.fh with lateApplies := satInc t.fh.lateApplies } })
    { s with staged := s.staged.map (fun x => if x.due f && x.late f then { x with at_ := f + frameLen } else x) }

/-- A change whose group's RATE changes names the group (13 R509). -/
def rateChange (c : Change) (s : State) : List (Fin 3) :=
  match c with
  | .laneGroup g w0 w1 => if (applyLaneGroup g w0 w1 s).2 then [g] else []
  | _ => []

/-- Every change due at boundary `f` comes into force in acceptance order (02 R51): the front end settles once, of several
time steps one applies, and the lane groups that change their rate and the ports that front-end changes name are answered. -/
def applyDue (f : Nat) (s : State) : State × List (Fin 3) × List Nat :=
  let s0 := postponeLate f s
  let due := s0.staged.filter (Staged.due f)
  let old := (feConfig s0).live s0.fe.isolated
  let (s1, rates) := due.foldl
    (fun (a : State × List (Fin 3)) x => (applyChange f x.change a.1, a.2 ++ rateChange x.change a.1))
    ({ s0 with staged := s0.staged.filter (fun x => !x.due f) }, [])
  let s2 := if due.any (fun x => x.change.frontEnd) then settleFrontEnd old ((feConfig s1).live s1.fe.isolated) f s1 else s1
  let steps := due.filterMap (fun x => match x.change with
    | .timeStep t => some t
    | _ => none)
  let s3 := match chooseStep steps with
    | some t => applyTimeStep t f { s2 with tb := { s2.tb with hostStep := if t.leap.isSome then some f else s2.tb.hostStep } }
    | none => s2
  (followGuards s3, rates, due.flatMap (fun x => x.change.ports))

/-- The changes due at a boundary that has begun already come into force now. -/
def applyNow (f : Nat) (s : State) : State :=
  let (t, gs, _) := applyDue f s
  keepPast f s (if gs.isEmpty then t else queueTurns gs t)

end Sys2Proof.Machine
end

