-- ==== Sys2Proof/Machine/OpRules.lean ====
section
/-!
DEFINITION. The rules of each command by opcode (15 Table 15.10), for packets that are taken, relayed, staged or mirrored. The
four commands of a mode change and PAIR_MIRROR_APPLY, whose rules need this table, are added in `Staging`.
-/
namespace Sys2Proof.Machine
open Sys2Proof

/-- The rules of a command that carries no packet of another (15 Table 15.10); the four that do or belong to them have a
placeholder here, which nothing reads. -/
def plainRules (o : Op) : Rules :=
  match o with
  | .devNop => rulesDevNop
  | .devReadInfo => rulesDevReadInfo
  | .devSetKey => rulesDevSetKey
  | .devSetPolicy => rulesDevSetPolicy
  | .devPatchLoad => rulesDevPatchLoad
  | .devPatchCommit => rulesDevPatchCommit
  | .devReadStats => rulesDevReadStats
  | .feSetConnections => rulesFeSetConnections
  | .feSetExcitation => rulesFeSetExcitation
  | .feSetBiasGuard => rulesFeSetBiasGuard
  | .feSetOvervoltage => rulesFeSetOvervoltage
  | .feRunDiagnostic => rulesFeRunDiagnostic
  | .feReadStatus => rulesFeReadStatus
  | .feReleaseIsolation => rulesFeReleaseIsolation
  | .feReadConnections => rulesFeReadConnections
  | .cvSetChannels => rulesCvSetChannels
  | .cvReadMap => rulesCvReadMap
  | .cvRetireModulator => rulesCvRetireModulator
  | .svSetSequence => rulesSvSetSequence
  | .svStart => rulesSvStart
  | .svReadAccum => rulesSvReadAccum
  | .tmrSet => rulesTmrSet
  | .tmrRead => rulesTmrRead
  | .flSetBranch => rulesFlSetBranch
  | .flSetFir => rulesFlSetFir
  | .flSetDetectors => rulesFlSetDetectors
  | .flSetComparator => rulesFlSetComparator
  | .flReadChannel => rulesFlReadChannel
  | .flRelease => rulesFlRelease
  | .flReadFir => rulesFlReadFir
  | .calSetPolicy => rulesCalSetPolicy
  | .calForeground => rulesCalForeground
  | .calReadBasin => rulesCalReadBasin
  | .calReadTrims => rulesCalReadTrims
  | .calWriteTrim => rulesCalWriteTrim
  | .calSetRefcheck => rulesCalSetRefcheck
  | .tbSetSources => rulesTbSetSources
  | .tbSetTime => rulesTbSetTime
  | .tbReadStatus => rulesTbReadStatus
  | .tbSetHoldover => rulesTbSetHoldover
  | .tbSetMains => rulesTbSetMains
  | .tbReadMains => rulesTbReadMains
  | .bcnSet => rulesBcnSet
  | .bcnRead => rulesBcnRead
  | .ringSetPolicy => rulesRingSetPolicy
  | .ringSetHop => rulesRingSetHop
  | .ringSetIdentity => rulesRingSetIdentity
  | .ringReadStatus => rulesRingReadStatus
  | .ringReadHop => rulesRingReadHop
  | .ringAsymMeasure => rulesRingAsymMeasure
  | .pairSetPolicy => rulesPairSetPolicy
  | .pairSetLink => rulesPairSetLink
  | .pairReadStatus => rulesPairReadStatus
  | .pairHandover => rulesPairHandover
  | .pairForceAuthority => rulesPairForceAuthority
  | .pairMirrorRead => rulesPairMirrorRead
  | .capSetConfig => rulesCapSetConfig
  | .capSetTrigger => rulesCapSetTrigger
  | .capArm => rulesCapArm
  | .capTrigger => rulesCapTrigger
  | .capRelease => rulesCapRelease
  | .capDelete => rulesCapDelete
  | .capReadStatus => rulesCapReadStatus
  | .capSetPins => rulesCapSetPins
  | .memInit => rulesMemInit
  | .memSetPolicy => rulesMemSetPolicy
  | .memReadStatus => rulesMemReadStatus
  | .memReadErrlog => rulesMemReadErrlog
  | .memInjectError => rulesMemInjectError
  | .cmpSetMap => rulesCmpSetMap
  | .cmpReadMap => rulesCmpReadMap
  | .cmpSubmit => rulesCmpSubmit
  | .cmpReadJob => rulesCmpReadJob
  | .cmpCancel => rulesCmpCancel
  | .cmpReadStatus => rulesCmpReadStatus
  | .stSetStream => rulesStSetStream
  | .stFlush => rulesStFlush
  | .stDelete => rulesStDelete
  | .stReadStatus => rulesStReadStatus
  | .lnSetGroup => rulesLnSetGroup
  | .lnSetAux => rulesLnSetAux
  | .lnReadLane => rulesLnReadLane
  | .lnTest => rulesLnTest
  | .lnReadTest => rulesLnReadTest
  | .lnRetrain => rulesLnRetrain
  | .fnSetView => rulesFnSetView
  | .fnReadView => rulesFnReadView
  | .fnSetQos => rulesFnSetQos
  | .fnReadQos => rulesFnReadQos
  | .fnSetBudget => rulesFnSetBudget
  | .fnReset => rulesFnReset
  | .fnReadFunctions => rulesFnReadFunctions
  | .hlReadMonitors => rulesHlReadMonitors
  | .hlSetThresholds => rulesHlSetThresholds
  | .hlReadLedger => rulesHlReadLedger
  | .hlReadEventLog => rulesHlReadEventLog
  | .hlClearEventLog => rulesHlClearEventLog
  | .hlSetPeak => rulesHlSetPeak
  | .hlReadPeak => rulesHlReadPeak
  | .hlReadLastWords => rulesHlReadLastWords
  | .hlSetCalendar => rulesHlSetCalendar
  | .hlReadCalendar => rulesHlReadCalendar
  | .hlSetWatchdog => rulesHlSetWatchdog
  | .hlZeroiseKeys => rulesHlZeroiseKeys
  | .tsRun => rulesTsRun
  | .tsReadResult => rulesTsReadResult
  | .tsAbort => rulesTsAbort
  | .tsSetSchedule => rulesTsSetSchedule
  | .tsScanEnable => rulesTsScanEnable
  | .ringMcStage | .ringMcPrepare | .ringMcRead | .pairMirrorApply => rulesDevNop

/-- A command whose rules `plainRules` gives. -/
def isPlain (o : Op) : Bool :=
  match o with
  | .ringMcStage | .ringMcPrepare | .ringMcRead | .pairMirrorApply => false
  | _ => true

end Sys2Proof.Machine
end

