-- ==== Sys2Proof/Machine/Staging.lean ====
section
/-!
DEFINITION. Packets that take effect together or elsewhere: the mode changes of a ring (07 R282 to R289, Tables 7.8 to 7.10),
and the mirror records and resynchronisation of a pair (08 R328, R329, R336 to R338).
-/
namespace Sys2Proof.Machine
open Sys2Proof

/-! ## Staged sets (07 R283) -/

/-- A boundary beyond every other, for checks that are made before the commit tick is known. -/
def farBoundary : Nat := frameLen * (openEnd / frameLen)

/-- One staged command checked, and its change staged for `c`, against a state that holds the earlier ones: a configuring
command that takes effect at a frame boundary (07 R283). One that asks remote origins does so at C, and no reply is owed for it
(DESIGN CHOICE, assumption 159). -/
def tryStaged (c : Nat) (x : StagedPacket) (s : State) : Except Rejection State :=
  let p := { x.packet with source := .staged c }
  let r := plainRules x.op
  if !isPlain x.op || !r.configures then .error ⟨.precondition, []⟩
  else if !permitted r p s then .error ⟨.notPermitted, []⟩
  else match r.rights p s with
    | some e => .error e
    | none => match executeResult r p s with
      | .reject st d => .error ⟨st, d⟩
      | .owe t _ | .done t _ _ => if s.staged.length < t.staged.length || x.op == .feReleaseIsolation then .ok t else .error ⟨.precondition, []⟩

/-- A whole set checked and staged for `c`, in order, or the first rejection. -/
def tryStagedSet (c : Nat) : List StagedPacket → State → Except Rejection State
  | [], s => .ok s
  | x :: xs, s => match tryStaged c x s with
    | .ok t => tryStagedSet c xs t
    | .error e => .error e

/-- Words of a staged set. -/
def stagedWordCount (xs : List StagedPacket) : Nat := (xs.map (fun x => x.words.length)).foldl (· + ·) 0

/-- Stage one packet under generation `g`; in HOLD none is accepted (07 R283; 08 R323). -/
def stagePacket (g : Word) (x : StagedPacket) (s : State) : Except Rejection State :=
  let mc := s.ring.mc
  let have_ := if mc.state = .staging ∧ mc.g = g then mc.staged else []
  let set := have_ ++ [x]
  if refusesConfiguring s then .error ⟨.holdAuthority, []⟩
  else if mc.state = .prepared ∨ 64 < set.length ∨ 4096 < stagedWordCount set then .error ⟨.busy, []⟩
  else match tryStagedSet farBoundary set s with
    | .error e => .error e
    | .ok _ => .ok { s with ring := { s.ring with mc := { mc with state := .staging, g := g, c := 0, staged := set } } }

/-- The packet that the words of RING_MC_STAGE or of a STAGE message spell. -/
def readStaged (ws : List Word) : HeaderRead := readNative (.staged farBoundary) .native ws

/-- The packet is for this hub, alone or among all. -/
def forThisHub (p : Packet) (s : State) : Bool := p.bcast || p.target == s.ring.hubId

/-- RING_MC_STAGE (07 R283, "Configuration and mode changes"): staged here, sent on in a STAGE message, or both. -/
def rulesRingMcStage : Rules :=
  { op := .ringMcStage, minLen := 5, maxLen := 256, issuers := pf0, configures := false
    form := fun p _ => firstBad [(1, readStaged (p.params.drop 1) != .malformed)]
    run := fun p s => match readStaged (p.params.drop 1) with
      | .malformed => .reject .malformed [1]
      | .unknown _ _ => .reject .unknownOpcode []
      | .command op q =>
        let ws := p.params.drop 1
        let sent := fun (t : State) => send
          { kind := 0x0A, cls := 2, target := if q.bcast then none else some q.target, side := none, payload := p.w 0 :: ws } t
        let here := forThisHub q s
        let away := q.bcast || !here
        if away && !q.bcast && (s.ring.mrole == .refused || !Nat.testBit (memberMask s) q.target.toNat) then
          .reject .unreachable [wd q.target.toNat]
        else if here then match stagePacket (p.w 0) { words := ws, op := op, packet := q } s with
          | .error e => .reject e.status e.detail
          | .ok t => .done (if away then sent t else t) [] (now s)
        else .done (sent s) [] (now s) }

/-- RING_MC_STAGE. -/
def execRingMcStage (p : Packet) (s : State) : Out := .next (takeCommand rulesRingMcStage p s)

/-- STAGE (07 Table 7.6, R283): a packet that fails its check is not staged, which PREPARE will find. -/
def execStageMsg (g : Word) (words : List Word) (s : State) : Out :=
  .next (match readStaged words with
    | .command op q => if forThisHub q s then (match stagePacket g { words := words, op := op, packet := q } s with
        | .ok t => t
        | .error _ => s) else s
    | _ => s)

/-! ## PREPARE, ACK, COMMIT and ABORT (07 R284 to R288) -/

/-- A packet takes its place in ascending order of SEQ. -/
def insertBySeq (x : StagedPacket) : List StagedPacket → List StagedPacket
  | [] => [x]
  | y :: ys => if x.packet.seq.toNat < y.packet.seq.toNat then x :: y :: ys else y :: insertBySeq x ys

/-- The CRC-32C over the staged packets in ascending order of SEQ (07 R285). -/
def setCrc (xs : List StagedPacket) : Word :=
  crc32cWords ((xs.foldl (fun a x => insertBySeq x a) []).flatMap (fun x => x.words))

/-- The set staged for `g`. -/
def setFor (g : Word) (s : State) : List StagedPacket :=
  if s.ring.mc.state = .staging ∧ s.ring.mc.g = g then s.ring.mc.staged else []

/-- The reason of NAK that a PREPARE meets at this hub, if any (07 R285, Table 7.9; 08 R338). -/
def nakReason (p : Prepare) (s : State) : Option Nat :=
  let mc := s.ring.mc
  let set := setFor p.g s
  if mc.state = .prepared then (if mc.g = p.g ∧ mc.c = p.c then none else some 5)
  else if (p.sets[hubNum s]?).getD (0, 0) ≠ (set.length, setCrc set) then some 1
  else if refusesConfiguring s then some 2
  else match tryStagedSet p.c set s with
    | .error _ => some 2
    | .ok _ => if p.g = s.ring.generation then some 3 else if p.c < now s + 16 then some 4 else none

/-- What a set staged for `c` configures (07 R286). -/
def setUnits (c : Nat) (set : List StagedPacket) (s : State) : List (Nat × Nat) :=
  match tryStagedSet c set s with
  | .ok t => ((t.staged.filter (fun x => !s.staged.contains x)).map (fun x => x.change.target)).eraseDups
  | .error _ => []

/-- This hub's answer to a PREPARE that expects it: PREPARED on ACK OK; otherwise its set is discarded at C (07 R285, R286,
R288, Table 7.8). -/
def answerPrepare (p : Prepare) (s : State) : State × Option Nat :=
  let mc := s.ring.mc
  match nakReason p s with
  | none => ({ s with ring := { s.ring with mc :=
      if mc.state = .prepared then mc
      else { mc with state := .prepared, g := p.g, c := p.c, staged := setFor p.g s, units := setUnits p.c (setFor p.g s) s } } }, none)
  | some n =>
    (if mc.state = .staging then { s with ring := { s.ring with mc := { mc with c := p.c } } } else s, some n)

/-- PREPARE expects this hub. -/
def expected (p : Prepare) (s : State) : Bool := Nat.testBit p.expect.toNat (hubNum s)

/-- A hub that PREPARE does not expect discards its set for G at C (07 R288, Table 7.8). -/
def notExpected (p : Prepare) (s : State) : State :=
  let mc := s.ring.mc
  if mc.state = .staging ∧ mc.g = p.g then { s with ring := { s.ring with mc := { mc with c := p.c } } } else s

/-- PREPARE (07 R285): the ACK goes to the master. -/
def execPrepare (p : Prepare) (s : State) : Out :=
  .next (if !expected p s then notExpected p s
  else
    let (t, n) := answerPrepare p s
    send { kind := 0x06, cls := 1, target := t.ring.master, side := none, payload := [p.g, wd (n.getD 0)] } t)

/-- The master notes a member's acknowledgement (07 R287). -/
def noteAck (hub : HubId) (g : Word) (nak : Bool) (s : State) : State :=
  match s.ring.mc.pending with
  | some m =>
    if m.g = g ∧ ¬ m.decided then
      let m1 := if nak then { m with naked := setBit m.naked hub.toNat } else { m with acked := setBit m.acked hub.toNat }
      { s with ring := { s.ring with mc := { s.ring.mc with pending := some m1 } } }
    else s
  | none => s

/-- ACK (07 R287). -/
def execAck (hub : HubId) (g : Word) (nak : Option (Fin 6)) (s : State) : Out := .next (noteAck hub g nak.isSome s)

/-- The words of PREPARE (07 Table 7.10). -/
def prepareWords (p : Prepare) : List Word := p.g :: (split64 p.c ++ [p.expect] ++ p.sets.flatMap (fun x => [wd x.1, x.2]))

/-- The PREPARE that a RING_MC_PREPARE block spells. -/
def prepareOf (p : Packet) : Prepare :=
  { g := p.w 0, c := p.w64 1, expect := p.w 3
    sets := (List.range 32).map (fun h => ((p.w (4 + 2 * h)).field 7 0, p.w (5 + 2 * h))) }

/-- The master prepares a mode change: PREPARE goes out on both sides, the acknowledgements are awaited from the next
boundary, and the master answers for itself (07 R284, R285). -/
def announcePrepare (m : Prepare) (s : State) : State :=
  let s1 := { s with ring := { s.ring with mc := { s.ring.mc with
    pending := some
      { g := m.g, c := m.c, expect := m.expect, acked := 0, naked := 0
        deadline := nextFrame s + frameLen * s.ring.policy0.field 7 0, decided := false, aborting := false } } } }
  let s2 := send { kind := 0x05, cls := 1, target := none, side := none, payload := prepareWords m } s1
  if expected m s2 then
    let (t, n) := answerPrepare m s2
    noteAck s.ring.hubId m.g n.isSome t
  else notExpected m s2

/-- RING_MC_PREPARE (07 R284, R293): the deadline counts from the boundary that follows. -/
def rulesRingMcPrepare : Rules :=
  { op := .ringMcPrepare, minLen := 68, maxLen := 68, issuers := pf0, configures := false
    form := fun p s => firstBad
      ([(1, p.w64 1 % frameLen == 0), (3, (p.w 3).toNat &&& memberMask s == (p.w 3).toNat)]
        ++ (List.range 32).map (fun h => (4 + 2 * h, rsv (p.w (4 + 2 * h)) 0xFFFFFF00 && decide ((p.w (4 + 2 * h)).toNat ≤ 64))))
    run := fun p s =>
      let m := prepareOf p
      if !isMaster s || !s.tb.started || s.ring.mc.pending.isSome || s.ring.mc.state == .prepared
          || decide (m.c < now s + frameLen * max 16 (s.ring.policy0.field 7 0 + 4)) then .reject .precondition []
      else .done (announcePrepare m s) [] m.c }

/-- RING_MC_PREPARE. -/
def execRingMcPrepare (p : Packet) (s : State) : Out := .next (takeCommand rulesRingMcPrepare p s)

/-- The set for `g` is discarded and the generation kept (07 R288). -/
def discardSet (g : Word) (s : State) : State :=
  let mc := s.ring.mc
  if mc.state ≠ .idle ∧ mc.g = g then
    { s with ring := { s.ring with mc := { mc with state := .idle, g := 0, c := 0, staged := [], units := [] } } } else s

/-- The ABORT message. -/
def sendAbort (g : Word) (s : State) : State := send { kind := 0x08, cls := 0, target := none, side := none, payload := [g] } s

/-- MODE_CHANGE_DEADLINE (07 R287). -/
def execModeChangeDeadline (s : State) : Out :=
  .next (match s.ring.mc.pending with
    | none => s
    | some m =>
      if m.decided then s
      else
        let s0 := advanceTo m.deadline s
        let missing := m.expect &&& ~~~ (m.acked ||| m.naked)
        let refusing := m.expect &&& m.naked
        let set := fun (x : McPending) (t : State) => { t with ring := { t.ring with mc := { t.ring.mc with pending := some x } } }
        if missing = 0 ∧ refusing = 0 then
          send { kind := 0x07, cls := 1, target := none, side := none, payload := m.g :: split64 m.c }
            (set { m with decided := true } s0)
        else
          crit 0x0707 0 [m.g, missing, refusing]
            (discardSet m.g (sendAbort m.g (set { m with decided := true, aborting := true } s0))))

/-- COMMIT (07 R286, R287): it confirms what the hub does at C in any case. -/
def execCommit (_g : Word) (_c : Nat) (s : State) : Out := .next s

/-- ABORT (07 R286, R288). -/
def execAbort (g : Word) (s : State) : Out := .next (discardSet g s)

/-- Changes staged since `s` for boundary `c` have been handed over in time. -/
def handedOver (c : Nat) (s t : State) : State :=
  { t with staged := t.staged.take s.staged.length
      ++ (t.staged.drop s.staged.length).map (fun x => if x.at_ ≤ c then { x with accepted := 0 } else x) }

/-- The commit tick is reached: a prepared hub applies its whole set or none of it, any other discards what it has, and a new
generation ends the open slots (07 R286, R288, R289; 09 R380). `late` is the late handover handshake of 01 R27, which is a
failure to apply. The master compares its members' generations with the new one. -/
def commitSet (late : Bool) (s : State) : State :=
  let mc := s.ring.mc
  let idle := fun (t : State) => { t with ring := { t.ring with mc :=
    { t.ring.mc with state := .idle, g := 0, c := 0, staged := [], units := [] } } }
  let fail := crit 0x0709 0 [mc.g, s.ring.generation] (idle s)
  match mc.state with
  | .idle => s
  | .staging => idle s
  | .prepared => if late then fail else match tryStagedSet mc.c mc.staged s with
    | .error _ => fail
    | .ok t =>
      let t1 := idle (handedOver mc.c s t)
      let t2 := compareGenerations (info 0x0708 0 (mc.g :: split64 mc.c)
        { t1 with ring := { t1.ring with generation := mc.g, genSince := mc.c } })
      let t3 := captureGeneration mc.c t2
      if mc.c ≤ s.tb.frameTick then noteMoment (applyNow mc.c t3) else t3

/-- The commit tick of the hub's set lies at boundary `f` or before. -/
def commitDue (f : Nat) (s : State) : Bool := s.ring.mc.state != .idle && s.ring.mc.c != 0 && decide (s.ring.mc.c ≤ f)

/-- COMMIT_TICK (07 R286): at C, the next frame boundary or the present one. -/
def execCommitTick (s : State) : Out :=
  .next (if s.tb.started && commitDue (s.tb.frameTick + frameLen) s then commitSet false s else s)

/-- Mode changes at boundary `f`: the set of C, the master's repeated ABORT, and the end of its pending generation (07 R286,
R287). -/
def modeChangeFrame (late : Bool) (f : Nat) (s : State) : State :=
  let s1 := if commitDue f s then commitSet late s else s
  match s1.ring.mc.pending with
  | none => s1
  | some m =>
    if m.c ≤ f then { s1 with ring := { s1.ring with mc := { s1.ring.mc with pending := none } } }
    else if m.aborting then sendAbort m.g s1 else s1

/-- RING_MC_READ (07 Table 7.16). -/
def mcWords (s : State) : List Word :=
  let mc := s.ring.mc
  let code := match mc.state with | .idle => 0 | .staging => 1 | .prepared => 2
  let part := if isMaster s then mc.pending else none
  [wd (code * 1073741824 + mc.staged.length), mc.g] ++ split64 (if mc.state = .prepared then mc.c else 0)
  ++ [(part.map (fun m => m.acked)).getD 0, (part.map (fun m => m.naked)).getD 0]

/-- RING_MC_READ. -/
def rulesRingMcRead : Rules :=
  { op := .ringMcRead, minLen := 0, maxLen := 0, issuers := anyFn, configures := false
    run := fun _ s => .done s (mcWords s) (now s) }

/-- RING_MC_READ. -/
def execRingMcRead (p : Packet) (s : State) : Out := .next (takeCommand rulesRingMcRead p s)

/-! ## Mirror records (08 R329, R336, R337) -/

/-- The first boundary at least 64 SCLK periods after now. -/
def reachable (s : State) : Nat := frameLen * ceilDiv (now s + 16) frameLen

/-- A mirrored packet runs here for boundary `f`, without another check of authority or view (08 R336). -/
def runMirrored (f : Nat) (ws : List Word) (s : State) : State :=
  match readNative (.mirror f) .native ws with
  | .command op p => if isPlain op && (plainRules op).mirrored p then execute (plainRules op) p s else s
  | _ => s

/-- The record that words spell (08 Table 8.9). -/
def recordOf (ws : List Word) (s : State) : MirrorRec :=
  { rseq := (wordAt ws 0).extractLsb' 16 16, f := join64 (wordAt ws 1) (wordAt ws 2), epoch := wordAt ws 3, packet := ws.drop 4
    accepted := now s }

/-- A record takes its place in RSEQ order; one held already is not taken again. -/
def insertRecord (r : MirrorRec) : List MirrorRec → List MirrorRec
  | [] => [r]
  | x :: xs => if r.rseq = x.rseq then x :: xs else if rseqAfter x.rseq r.rseq then r :: x :: xs else x :: insertRecord r xs

/-- A record whose turn has come is applied: at F if it can be, later otherwise with PAIR_MIRROR_LATE (08 R336). -/
def applyRecord (r : MirrorRec) (s : State) : State :=
  let late := decide (r.f < now s + 16)
  let f := if late then reachable s else r.f
  let s1 := runMirrored f r.packet
    (modPair (fun p => { p with records := p.records ++ [{ r with f := f }], rseqTaken := some r.rseq }) s)
  if late then
    crit 0x080E 0 (wd r.rseq.toNat :: (split64 r.f ++ split64 f)) (modPair (fun p => { p with mirrorLate := satInc p.mirrorLate }) s1)
  else s1

/-- The record `r` is the next in RSEQ order: the first since the unit entered its state, or the successor of the last. -/
def nextInOrder (r : MirrorRec) (s : State) : Bool :=
  match s.pair.rseqTaken with
  | none => true
  | some x => r.rseq == x + 1

/-- Records that waited go on, as far as they follow one another. -/
def takeAhead : List MirrorRec → State → State
  | [], s => s
  | r :: rs, s =>
    if nextInOrder r s then takeAhead rs (applyRecord r (modPair (fun p => { p with recordsAhead := rs }) s)) else s

/-- A record reaches the peer: in STANDBY it is applied in RSEQ order, one that is ahead waiting for those before it; in RESYNC
it waits for the image. One taken already is not taken again, and a unit in no such state takes none (08 R329, R336). -/
def takeRecord (r : MirrorRec) (s : State) : State :=
  let old := s.pair.rseqTaken.any (fun x => !rseqAfter r.rseq x)
  match s.pair.pstate with
  | .resync => if old then s else modPair (fun p => { p with records := insertRecord r p.records }) s
  | .standby =>
    if old then s
    else
      let s1 := modPair (fun p => { p with recordsAhead := insertRecord r p.recordsAhead }) s
      takeAhead s1.pair.recordsAhead s1
  | _ => s

/-- MIRROR_RECORD (08 R336). -/
def execMirrorRecord (words : List Word) (s : State) : Out := .next (takeRecord (recordOf words s) s)

/-- PAIR_MIRROR_APPLY (08 R337, R347). -/
def rulesPairMirrorApply : Rules :=
  { op := .pairMirrorApply, minLen := 8, maxLen := 264, issuers := pf0, configures := false
    form := fun p _ => firstBad
      [(0, (p.w 0).field 15 0 == p.params.length - 4 && readNative (.mirror 0) .native (p.params.drop 4) != .malformed)]
    run := fun p s =>
      if holdsAuthority s then .reject .precondition []
      else .done (takeRecord (recordOf p.params s) s) [] (now s) }

/-- PAIR_MIRROR_APPLY. -/
def execPairMirrorApply (p : Packet) (s : State) : Out := .next (takeCommand rulesPairMirrorApply p s)

/-! ## The resync boundary (08 R328, R329) -/

/-- The front-end change that a packet of the image carries: the image is a configuration in force elsewhere, which is taken
as a whole and meets no conflict with what it replaces (08 R328). -/
def imageChange (op : Op) (p : Packet) : Option Change :=
  match op with
  | .feSetConnections => some (.connections (feBasin p) ((List.range 16).map (fun i => p.w (3 + i))))
  | .feSetExcitation => some (.excitation (feBasin p) ((List.range 4).map (fun i => p.w (3 + i))))
  | .feSetBiasGuard => some (.biasGuard (feBasin p) (p.w 3))
  | _ => none

/-- One packet of the image, for boundary `r`. -/
def applyImage (r : Nat) (ws : List Word) (s : State) : State :=
  match readNative (.mirror r) .native ws with
  | .command op p => match imageChange op p with
    | some c => stage r c s
    | none => runMirrored r ws s
  | _ => s

/-- The image and the records after it become the configuration at boundary r, with its CONFIG_GENERATION, and the unit is
STANDBY (08 R328, R329). -/
def resynced (r : Nat) (s : State) : State :=
  let s0 := advanceTo r s
  let base := s0.pair.rseqTaken
  let left := s0.pair.records.filter (fun x => base.all (fun b => rseqAfter x.rseq b))
  let s1 := s0.pair.image.foldl (fun t ws => applyImage r ws t) s0
  let s2 := left.foldl (fun t x => runMirrored (max r x.f) x.packet t) s1
  let s3 := handedOver r s0 s2
  let s4 := modPair (fun p => { p with
    image := [], imageComplete := false, resyncAt := none
    rseqTaken := (left.getLast?.map (fun x => x.rseq)).or base
    records := left.map (fun x => { x with f := max r x.f }) })
    { s3 with ring := { s3.ring with generation := s0.pair.imageGeneration } }
  let s5 := setPState .standby (if s0.ring.generation = s0.pair.imageGeneration then s4 else captureGeneration r s4)
  info 0x0801 0 ([wd (PState.code .standby), s5.ao.epoch] ++ split64 r) s5

/-- The unit can be brought to STANDBY at R: it holds the whole image, its timebase is LOCKED and the pair lanes are up (08
R327, R328). -/
def mayResync (s : State) : Bool := s.pair.pstate == .resync && imageReady s && s.pair.lanesUp

/-- At R the image and then the records that came meanwhile are brought into force, the generation is adopted, and the unit
enters STANDBY, with a split restore where both units report HEALTHY (08 R317, R328, R329, Table 8.5). A boundary that cannot
be kept lapses, and the holder announces another. -/
def resyncAt (r : Nat) (s : State) : State :=
  if mayResync s then
    let v := resynced r s
    let w := if r ≤ v.tb.frameTick then applyNow r v else v
    if mayRestore s then splitRestore r w else w
  else modPair (fun p => { p with resyncAt := none }) s

/-- RESYNC_BOUNDARY (08 R328, R329): the boundary R that the holder has announced. -/
def execResyncBoundary (s : State) : Out :=
  .next (match s.pair.resyncAt with
    | some r => if s.pair.pstate = .resync ∧ within1 r s then resyncAt r s else s
    | none => s)

/-- R falls at boundary `f` or before. -/
def resyncFrame (f : Nat) (s : State) : State :=
  match s.pair.resyncAt with
  | some r => if s.pair.pstate = .resync ∧ r ≤ f then resyncAt r s else s
  | none => s

/-- The rules of every command (15 Table 15.10). -/
def opRules (o : Op) : Rules :=
  match o with
  | .ringMcStage => rulesRingMcStage
  | .ringMcPrepare => rulesRingMcPrepare
  | .ringMcRead => rulesRingMcRead
  | .pairMirrorApply => rulesPairMirrorApply
  | o => plainRules o

end Sys2Proof.Machine
end

