-- ==== Sys2Proof/Machine/Fountainhead.lean ====
section
/-!
DEFINITION. Fountainhead's sources (15 R582 to R587), relaying at both ends (R597 to R600), and the writing of replies
(14 R543).
-/
namespace Sys2Proof.Machine
open Sys2Proof

/-! ## Taking a packet (15 R583 to R586) -/

/-- The longest take-to-decision interval so far (15 Table 15.17). -/
def noteDecide (us : Nat) (s : State) : State :=
  if s.fh.maxDecideUs.toNat < us then { s with fh := { s.fh with maxDecideUs := BitVec.ofNat 16 (min us 65535) } } else s

/-- The number by which DEV_HEADER_ERROR names a source: a function's FUNC code, 16 for SPI, 17 for the script (DESIGN
CHOICE, assumption 47). -/
def sourceNumber (src : Source) : Nat :=
  match src with
  | .cq f => (fnCode f).toNat
  | .spi => 16
  | _ => 17

/-- The source's packets are version-1: PF0's CQ and the SPI path in the H064 personality (15 R610). -/
def readsV1 (src : Source) (s : State) : Bool :=
  s.host.compat && (match src with
    | .cq f => f.val == 0
    | .spi => true
    | _ => false)

/-- Read a packet in the encoding of its source (15 R576, R607, R610). -/
def readPacket (src : Source) (ws : List Word) (s : State) : HeaderRead :=
  if readsV1 src s then readV1 src ((if src = .spi then s.fh.v1SeqSpi else s.fh.v1SeqCq) + 1) ws
  else readNative src .native ws

/-- A translated packet has taken the next SEQ of its source (15 R609). -/
def countV1 (src : Source) (p : Packet) (s : State) : State :=
  match p.encoding with
  | .v1 _ _ =>
    if src = .spi then { s with fh := { s.fh with v1SeqSpi := s.fh.v1SeqSpi + 1 } }
    else { s with fh := { s.fh with v1SeqCq := s.fh.v1SeqCq + 1 } }
  | _ => s

/-- The reply to a malformed header, echoing word 0 as read (15 R586, R614). -/
def headerErrorReply (src : Source) (w0 : Word) (s : State) : Reply :=
  { encoding := if readsV1 src s then .v1 (w0.extractLsb' 24 8) (w0.extractLsb' 16 8) else .native
    opcode := w0.extractLsb' 16 16, tag := w0.extractLsb' 0 16, status := .headerError, hub := s.ring.hubId, final := true
    summary := false, completion := now s, data := [] }

/-- A packet with a malformed header: one reply, the event, and for a CQ every packet that the doorbell covers is discarded
(15 R586); a script ends (18 R719). -/
def malformedHeader (src : Source) (w0 : Word) (s : State) : State :=
  let s1 := countDecision .headerError { s with fh := { s.fh with headerErrors := satInc s.fh.headerErrors } }
  let s2 := info 0x0102 0 [wd (sourceNumber src), w0] s1
  match src with
  | .cq f =>
    let q := getQueue s2 f 0
    queueReply src (headerErrorReply src w0 s) (advanceHub f 0 (slotsBetween q q.hubIndex.toNat q.hostIndex.toNat) s2)
  | .spi => queueReply src (headerErrorReply src w0 s) s2
  | .script => scriptReply (w0.field 31 16) .headerError s2
  | _ => s2

/-- Decide a packet that a source held, or its unknown opcode (15 Table 15.3 steps 1 to 10). -/
def decideRead (src : Source) (ws : List Word) (us : Nat) (s : State) : State :=
  match readPacket src ws s with
  | .malformed => malformedHeader src (wordAt ws 0) s
  | .unknown opcode p => noteDecide us (rejectPacket opcode p ⟨.unknownOpcode, []⟩ (countV1 src p s))
  | .command op p => noteDecide us (decideTaken (opRules op) p (countV1 src p s))

/-- The packet that the words of a source spell, for the conditions of its take; a malformed header has none of its own. -/
def packetToTake (src : Source) (ws : List Word) (s : State) : Packet :=
  match readPacket src ws s with
  | .malformed => { source := src, tag := 0 }
  | .unknown _ p | .command _ p => p

/-- Slots that a packet of so many words takes in a CQ (14 R541). -/
def slotsOf (ws : List Word) : Nat := ceilDiv ws.length 16

/-- A CQ holds a complete packet of these words: it runs, its function exists and the doorbell covers them (14 R541, R546). -/
def cqHolds (f : Fn) (ws : List Word) (s : State) : Bool :=
  let q := getQueue s f 0
  fnExists s f && q.en && !q.error && transfersRun s f && decide (0 < slotsOf ws)
    && decide (slotsOf ws ≤ slotsBetween q q.hubIndex.toNat q.hostIndex.toNat)

/-- The place of a source in the round robin (15 R583): the CQs by function, the SPI buffer, the ring, the script. -/
def sourcePlace (src : Source) : Nat :=
  match src with
  | .cq f => f.val
  | .spi => 10
  | .relay _ _ _ => 11
  | _ => 12

/-- A source is known to hold a complete packet that may be taken: one that waits, or the SPI buffer's. Whether the slots that a
doorbell covers hold a whole packet only their words tell, which come with the row (DESIGN CHOICE, assumption 180). -/
def holdsPacket (n : Nat) (s : State) : Bool :=
  match s.fh.waiting.find? (fun w => sourcePlace w.2.source == n) with
  | some (_, p) => mayTake p { s with fh := { s.fh with waiting := s.fh.waiting.filter (fun w => !sameSource w.2.source p.source) } }
  | none => match s.host.spi.commands with
    | ws :: _ => n == 10 && mayTake (packetToTake .spi ws s) s
    | [] => false

/-- It is this source's turn: no source between the one served last and it holds a packet (15 R583). -/
def inTurn (src : Source) (s : State) : Bool :=
  let n := sourcePlace src
  n == 12 || ((List.range 12).map (fun i => (s.fh.lastSource + 1 + i) % 12)).find? (fun k => k == n || holdsPacket k s) == some n

/-- This source has been served. -/
def setServed (src : Source) (s : State) : State :=
  if sourcePlace src = 12 then s else { s with fh := { s.fh with lastSource := sourcePlace src } }

/-- A packet that arrived before it could be taken is taken now, the oldest of its source first. -/
def takeWaiting (src : Source) (us : Nat) (s : State) : Option State :=
  match s.fh.waiting.find? (fun w => sameSource w.2.source src) with
  | none => none
  | some (op, p) =>
    let s1 := { s with fh := { s.fh with waiting := s.fh.waiting.erase (op, p) } }
    some (if mayTake p { s1 with fh := { s1.fh with
        waiting := s1.fh.waiting.filter (fun w => !sameSource w.2.source src) } } then
      noteDecide us (decideTaken (opRules op) p s1) else s)

/-- COMMAND_TAKE (15 R583 to R586; 18 R719): the next complete packet of a source, if there is one and it may be taken. A
CQ's words come from host memory; the SPI buffer's and the script's are the hub's own. -/
def execCommandTake (source : Source) (words : List Word) (decideUs : Nat) (s : State) : Out :=
  .next (if !inTurn source s then s
  else match takeWaiting source decideUs (setServed source s) with
    | some t => t
    | none => match source with
      | .cq f =>
        if cqHolds f words s && mayTake (packetToTake source words s) s then
          match readPacket source words s with
          | .malformed => malformedHeader source (wordAt words 0) (setServed source s)
          | _ => decideRead source words decideUs (advanceHub f 0 (slotsOf words) (setServed source s))
        else s
      | .spi => match s.host.spi.commands with
        | ws :: rest =>
          if mayTake (packetToTake source ws s) s then
            decideRead source ws decideUs
              (setServed source { s with host := { s.host with spi := { s.host.spi with commands := rest } } })
          else s
        | [] => s
      | .script => match s.pwr.scriptLeft with
        | ws :: rest =>
          if mayTake { packetToTake source ws s with fence := true } s then
            decideRead source ws decideUs { s with pwr := { s.pwr with scriptLeft := rest } }
          else s
        | [] => s
      | _ => s)

/-- COMMAND_HEADER_ERROR (15 R586, R614): a packet of a CQ or of the SPI path whose header is malformed is taken. -/
def execCommandHeaderError (source : Source) (words : List Word) (s : State) : Out :=
  .next (if readPacket source words s ≠ .malformed ∨ ¬ mayTake { source := source, tag := 0 } s ∨ ¬ inTurn source s then s
  else match source with
    | .cq f => if cqHolds f words s then malformedHeader source (wordAt words 0) (setServed source s) else s
    | .spi => if s.host.spi.commands.head? = some words then
        malformedHeader source (wordAt words 0)
          { setServed source s with host := { s.host with spi := { s.host.spi with commands := s.host.spi.commands.drop 1 } } }
      else s
    | _ => s)

/-! ## Relaying (15 R597 to R600) -/

/-- Relayed packets that waited for their target go out, in order, as far as no earlier one is under way (15 R597). -/
def releaseRelays : Nat → State → State
  | 0, s => s
  | n + 1, s => match s.fh.relayWaiting with
    | [] => s
    | (op, p) :: rest =>
      let s1 := { s with fh := { s.fh with relayWaiting := rest } }
      if relayBusy p { s1 with fh := { s1.fh with relayWaiting := [] } } then
        let t := releaseRelays n s1
        { t with fh := { t.fh with relayWaiting := (op, p) :: t.fh.relayWaiting } }
      else releaseRelays n (relayOut (opRules op) p s1)

/-- Send what may go out now. -/
def pumpRelays (s : State) : State := releaseRelays s.fh.relayWaiting.length s

/-- RELAY_CMD (15 R597, R600, Table 15.4): steps 7 to 10 and the reply; a command that this hub executed within the last
second gets the reply it gave before, and one that it still holds is not taken twice. -/
def execRelayCmd (words : List Word) (s : State) : Out :=
  let w0 := wordAt words 0
  let id : BitVec 16 := w0.extractLsb' 16 16
  let issuer : HubId := w0.extractLsb' 11 5
  let src : Source := .relay issuer id (w0.bit 6)
  let recent := s.fh.executed.filter (fun e => decide (now s < e.at_ + ticksPerSecond))
  let s1 := { s with fh := { s.fh with executed := recent } }
  let mine := fun (x : Source) => match x with
    | .relay h i _ => h == issuer && i == id
    | _ => false
  .next (match recent.find? (fun e => e.issuer == issuer && e.id == id) with
    | some e =>
      send { kind := 0x12, cls := 2, target := some issuer, side := none
             payload := relayReplyWords id s.ring.hubId (w0.extractLsb' 7 4) e.reply } s1
    | none =>
      if s1.fh.owed.any (fun o => mine o.packet.source) || s1.fh.waiting.any (fun w => mine w.2.source) then s1
      else match readNative src .native (words.drop 1) with
        | .malformed => s1
        | .unknown opcode p => rejectPacket opcode p ⟨.unknownOpcode, []⟩ s1
        | .command op p => takeCommand (opRules op) p s1)

/-- The status reply that a RELAY_REPLY carries (15 Tables 15.2, 15.4). -/
def replyIn (words : List Word) : Reply :=
  let w1 := wordAt words 2
  { encoding := .native, opcode := (wordAt words 1).extractLsb' 16 16, tag := (wordAt words 1).extractLsb' 0 16
    status := Status.ofCode (w1.field 31 24), hub := w1.extractLsb' 19 5, final := true, summary := false
    completion := join64 (wordAt words 3) (wordAt words 4), data := (words.drop 5).take (w1.field 8 0) }

/-- A reply in the words and encoding of the packet it answers. -/
def fitReply (op : Op) (p : Packet) (r : Reply) : Reply :=
  { r with encoding := p.encoding, opcode := BitVec.ofNat 16 op.code, tag := p.tag }

/-- A reply that no relayed command awaits (15 R599). -/
def lateReply (s : State) : State := { s with fh := { s.fh with lateReplies := satInc s.fh.lateReplies } }

/-- RELAY_REPLY (15 R598, R599): a unicast's final reply, or one member's to a broadcast. -/
def execRelayReply (words : List Word) (s : State) : Out :=
  let id : BitVec 16 := (wordAt words 0).extractLsb' 16 16
  let r := replyIn words
  .next (match s.fh.relays.find? (fun x => x.id == id) with
    | none => lateReply s
    | some x =>
      if x.packet.bcast then
        if ((x.succeeded ||| x.rejected) &&& wd (2 ^ r.hub.toNat)) ≠ 0 ∨ (x.expected &&& wd (2 ^ r.hub.toNat)) = 0 then lateReply s
        else pumpRelays (memberReply id r.hub r s)
      else pumpRelays (closeRelay id (fun p => fitReply x.op p r) s))

/-- RELAY_TIMEOUT (15 R598, R599): RELAY_MS after the command was sent, NO_RESPONSE, or a broadcast's summary. -/
def execRelayTimeout (id : BitVec 16) (s : State) : Out :=
  .next (match s.fh.relays.find? (fun x => x.id == id) with
    | none => s
    | some x => atDue (x.sent + usTicks (1000 * s.fh.relayMs.toNat)) (fun s =>
      let silent := x.expected &&& ~~~ (x.succeeded ||| x.rejected)
      let n := if x.packet.bcast then popCount (silent.zeroExtend 72) else 1
      let s1 := { s with fh := { s.fh with noResponses := satAdd s.fh.noResponses n } }
      pumpRelays (if x.packet.bcast then closeBroadcast id true s1
        else closeRelay id (fun p => replyOf x.op.code p .noResponse [wd x.packet.target.toNat] (now s) s) s1)) s)

/-! ## Writing replies (14 R543, R557) -/

/-- REPLY_WRITE: the oldest reply of a source, once its RQ or the SPI reply buffer of 8 KiB has room. -/
def execReplyWrite (source : Source) (s : State) : Out :=
  .next (match s.fh.replies.find? (fun r => r.1 == source) with
    | none => s
    | some (src, r) =>
      let s1 := { s with fh := { s.fh with replies := s.fh.replies.erase (src, r) } }
      match source with
      | .cq f =>
        let q := getQueue s f 1
        if q.en && !q.error && decide (slotsOf r.words ≤ queueRoom s f 1) then
          setQueue s1 f 1 { q with waiting := q.waiting ++ [r.words] }
        else s
      | .spi =>
        if 4 * (r.words.length + s.host.spi.replies.flatten.length) ≤ 8192 then
          { s1 with host := { s1.host with spi := { s1.host.spi with replies := s1.host.spi.replies ++ [r.words] } } }
        else s
      | _ => s)

end Sys2Proof.Machine
end

