-- ==== Sys2Proof/Machine/Power.lean ====
section
/-!
DEFINITION. Supplies, reset pins, standby, the start-up self-test and the boot (18; 17 R689, R690, R695; 16 R630, R649).
-/
namespace Sys2Proof.Machine
open Sys2Proof

/-! ## PORST_N (18 "Reset and straps", 17 R692, R695) -/

/-- PORST_ASSERT: a cold reset with an end-of-sampling record of cause 1. In standby, where everything it resets is held in
reset already, the pin is only noted (18 R727). -/
def execPorstAssert (s : State) : Out :=
  .next (if !s.pwr.porstN then s
  else
    let s1 := { s with pwr := { s.pwr with porstN := false } }
    if s.pwr.standby then s1 else chipReset 0 false 1 [] (some 2) s1)

/-- PORST_RELEASE: T_R may follow (18 R708). A release after SCAN_MODE clears SCAN_ARMED and acts as a cold reset (17
R695). -/
def execPorstRelease (s : State) : Out :=
  .next (if s.pwr.porstN then s
  else
    let s1 := { s with pwr := { s.pwr with porstN := true } }
    if s.ts.scanUsed then
      let s2 := { s1 with ao := { s1.ao with scanArmed := false }, ts := { s1.ts with scanUsed := false } }
      if s.pwr.standby then s2 else resetState 0 false (countLedger 2 1 s2)
    else s1)

/-! ## Rails (18 R704 to R711, Table 18.4) -/

/-- The sequence monitor records a breach while the always-on supply is present (18 R704). -/
def noteBreach (rail : Fin 12) (down : Bool) (breach : Bool) (s : State) : State :=
  if !breach then s
  else if down then { s with ao := { s.ao with seqBreachDown := setBit s.ao.seqBreachDown rail.val } }
  else { s with ao := { s.ao with seqBreachUp := setBit s.ao.seqBreachUp rail.val } }

/-- Outputs of a bank are undriven and its inputs read low (18 Tables 18.2, 18.4): without VDDIO0 TRST_N holds the TAP in
Test-Logic-Reset (17, "Test access port"; DEDUCED, assumption 177), and without VDDIO2 no timer drives its ball. -/
def bankLost (rail : Fin 12) (s : State) : State :=
  if rail.val = 7 then { s with ts := { s.ts with tapInstruction := 0x01, tapPinControl := false } }
  else if rail.val = 9 then { s with cv := { s.cv with balls := vall 8 none } }
  else s

/-- Rails whose brown-out stops sampling: VDDC, VDDA and VDDAH (18 Table 18.4). -/
def stoppingRail (rail : Fin 12) : Bool := [0, 5, 6].contains rail.val

/-- VDDS or VDDSH is lost: every Rill lane leaves UP, and the Data Link Layer of each PCIe port goes down (18 Table 18.4). -/
def lanesLost (s : State) : State :=
  let rill := (List.finRange 16).filter (fun l => (laneGroup s l.val).isSome)
  let s1 := rill.foldl (fun t l => leaveUp l t) s
  let s2 := if s1.host.hostPort.linkUp then linkReset true s1 else s1
  if s2.ln.auxMode = 2 ∧ s2.host.auxPort.linkUp then auxReset true s2 else s2

/-- A memory request that can be served no more is answered with code 4 (10 Table 10.7). -/
def refuseRequest (r : MemReq) (s : State) : State :=
  match r.use, fnOfCode r.fn with
  | .capture set sect a b, _ => rowAbsent set sect a b s
  | .host, some f =>
    let s1 := hostMemError f 4 r.write r.addr s
    if r.write then s1 else hostCompletion f .unsupportedRequest [] s1
  | _, _ => s

/-- VDDQ or VDDPHY is lost: the controller enters UNINIT, answers what it holds with code 4, and the contents are lost (18
Table 18.4, R709). -/
def memoryLost (s : State) : State :=
  let s1 := { s with mem := { s.mem with
    mstate := .uninit, rank2 := false, density := 0, capPages := 0, bytes := [], flips := [], requests := [], openRows := []
    rowCounts := [], activates := [], throttled := [], debt := vall 4 0, scrubPos := 0 } }
  s.mem.requests.foldl (fun t r => refuseRequest r t) s1

/-- VDDIO3 is lost: HOST_PERST_N and AUX_PERST_N read asserted, a fundamental reset of each port (18 Table 18.4). -/
def perstLost (s : State) : State :=
  let s1 := if s.host.hostPort.perst then s else linkReset false { s with host := { s.host with hostPort := { s.host.hostPort with perst := true } } }
  let s2 := if s1.host.auxPort.perst then s1
    else { s1 with host := { s1.host with auxPort := { s1.host.auxPort with perst := true } } }
  if s2.ln.auxMode = 2 ∧ ¬ s1.host.auxPort.perst then auxReset false s2 else s2

/-- What the loss of a rail does that does not stop sampling (18 Table 18.4). VBAT has no action of its own: the loss of the
always-on supply is VBAT_LOSS. -/
def railAction (rail : Fin 12) (s : State) : State :=
  if rail.val = 1 ∨ rail.val = 2 then lanesLost s
  else if rail.val = 3 ∨ rail.val = 4 then memoryLost s
  else if rail.val = 10 then loseRefclk (perstLost s)
  else s

/-- RAIL_BROWNOUT (18 R707, R709, R710): the rail stops being valid and the hub takes its action; BROWNOUTS counts it. In
standby the rails are removed, and while the internal reset stands nothing runs that an action could stop: a stopping rail
then only makes the reset a cold one. -/
def execRailBrownout (rail : Fin 12) (breach : Bool) (s : State) : Out :=
  let s1 := noteBreach rail true breach s
  .next (if !vget s1.pwr.rails rail then s1
  else
    let s2 := bankLost rail { s1 with pwr := { s1.pwr with rails := vset s1.pwr.rails rail false } }
    if rail.val = 11 ∨ s2.pwr.standby then s2
    else
      let s3 := countLedger 5 1 s2
      if stoppingRail rail then
        if s3.pwr.held && s3.host.lastReset == 0 then s3 else chipReset 0 false 2 [wd rail.val] (some 2) s3
      else if s3.pwr.held then s3
      else crit 0x0111 0 (wd rail.val :: split64 (now s3)) (railAction rail s3))

/-- The timers' balls follow them again once VDDIO2 is valid (03 R111; 18 Table 18.4). -/
def bankBack (rail : Fin 12) (s : State) : State :=
  if rail.val = 9 ∧ !s.pwr.held then (List.finRange 8).foldl (fun t n => driveBall n t) s else s

/-- RAIL_VALID (18 R709): the rail is valid again; T_R follows under R708. -/
def execRailValid (rail : Fin 12) (breach : Bool) (s : State) : Out :=
  let s1 := noteBreach rail false breach s
  .next (if vget s1.pwr.rails rail then s1
  else
    let s2 := bankBack rail { s1 with pwr := { s1.pwr with rails := vset s1.pwr.rails rail true } }
    if rail.val = 11 ∨ s2.pwr.held ∨ stoppingRail rail then s2
    else info 0x0112 0 (wd rail.val :: split64 (now s2)) s2)

/-! ## A loss of VBAT (18 "Supply rails") -/

/-- The buckets of the latest stress record, the time since counted as zero (16 R649). -/
def reloadPeak (p : Peak) : Peak :=
  match p.stress.getLast? with
  | none => Peak.reset
  | some r =>
    { Peak.reset with
      stress := p.stress, bucket := 95, buckets := Vector.ofFn (fun i : Fin 96 => (wordAt r i.val).toNat)
      cont := (wordAt r 96).toNat }

/-- What the always-on domain holds after a loss of VBAT: reset values, but for what lies in the ledger array, the key store
and its reservations among them (16 R630, R639, R649, Table 16.2; 08 R300; 07 R253). -/
def alwaysOnAfterLoss (ro : List (BitVec 16)) (a : AlwaysOn) : AlwaysOn :=
  { AlwaysOn.reset with
    keys := a.keys.map (fun k => { k with lastSeq := k.seqRes })
    bcnCounter := a.bcnRes, bcnRes := a.bcnRes, patchFloor := a.patchFloor, zeroPending := a.zeroPending
    ledger := { a.ledger with pending := vall 30 0, hourly := vall 30 0, fraction := vall 30 0 }
    peak := reloadPeak a.peak, epoch := a.epoch, incarnation := Config.incarnationAfterVbat ro }

/-- VBAT_LOSS (18 "Supply rails"): PWR_EN is undriven, which the model shows as not driven high (18 R728). -/
def execVbatLoss (s : State) : Out :=
  .next { s with
    ao := alwaysOnAfterLoss s.hl.ro.toList s.ao
    pwr := { s.pwr with pwrEn := false } }

/-! ## Standby (18 R724 to R727, Table 18.9) -/

/-- STANDBY_ENTRY (18 R724, Table 18.9): 100 µs of beats with HEALTHY 0, then safe-off and the end-of-sampling record of cause
7, the accumulators committed and
the stress record written, everything but the always-on domain held in reset, PWR_EN low. -/
def execStandbyEntry (s : State) : Out :=
  .next (if s.pwr.standby then s
  else
    let s1 := chipReset 0 false 7 [] none
      (abandonJobs (fun _ => true) (graceBeats { s with hl := { s.hl with healthy := false } }))
    let s2 := writeStress (commitAll (List.finRange 30) s1)
    { s2 with
      mem := { s2.mem with mstate := .selfRefresh }
      ao := { s2.ao with standbyEntrySec := s2.ao.calendar.sec }
      pwr := { s2.pwr with standby := true, stbyN := false, pwrEn := false } })

/-- STANDBY_WAKE (18 R726): PWR_EN is driven high and T_R follows; STANDBY_HOURS is committed. -/
def execStandbyWake (s : State) : Out :=
  .next (if !s.pwr.standby then s
  else
    let entry := s.ao.standbyEntrySec
    let wake := s.ao.calendar.sec
    let s1 := commitAll [1] (countLedger 1 ((wake - entry).toNat / 3600) s)
    info 0x0117 0 [entry, wake]
      { s1 with
        mem := { s1.mem with mstate := .uninit }
        pwr := { s1.pwr with standby := false, stbyN := true, pwrEn := true } })

/-! ## The start-up self-test (17 R687, R689, R690) -/

/-- The start-up BIST is due: after a cold reset, and after a warm one while WARM_BIST is 1 (17 R689). -/
def startupDue (s : State) : Bool := s.host.lastReset == 0 || s.ts.warmBist

/-- Result record 0 of the start-up BIST (17 R690): one unit, of code 1 logic or 2 memory. -/
def startupRecord (code : Nat) (unit value : Word) (s : State) : State :=
  let bad := code ≠ 0
  let s1 := modRecord 0 (fun _ =>
    { TestResult.reset with
      rstate := if bad then 3 else 2, origin := 2, tested := 1, failed := if bad then 1 else 0, failCode := BitVec.ofNat 8 code
      failUnit := if bad then unit else 0, failValue := if bad then value else 0, endCalSec := s.ao.calendar.sec }) s
  if bad then crit 0x1003 0 [wd code, unit] s1 else s1

/-- STARTUP_BIST_END (17 R687, R689, R690): the record of the start-up BIST, and that of a run of test 8, whose logic BIST ends
here too. -/
def execStartupBistEnd (code : Fin 3) (unit value : Word) (s : State) : Out :=
  .next (if s.pwr.held || s.fh.fwReady then s
  else
    let s1 := if startupDue s then startupRecord code.val unit value s else s
    if s1.ao.result8.rstate = 1 then
      let bad := code.val = 1
      closeRun 8 (if bad then 3 else 2) (judgeUnit 8 (if bad then unit.toNat else 0) (if bad then 1 else 0) value s1)
    else s1)

/-! ## Boot (18 R716 to R720) -/

/-- BOOT_SRC of the straps (18 Table 18.5). -/
def bootSrc (s : State) : Nat := s.pwr.straps.field 14 12

/-- The boot header passes: MAGIC, BFORMAT and HDR_CRC (18 R716). -/
def headerPasses (h : List Word) : Bool :=
  (wordAt h 0).field 31 16 == 0x4D42 && (wordAt h 0).field 15 8 == 1
    && crc32cWords ((List.range 7).map (wordAt h)) == wordAt h 7

/-- Words of the native packet at the head of a script: header, parameters, trailer. -/
def packetLength (ws : List Word) : Nat := 4 + (wordAt ws 1).field 16 8 + (if (wordAt ws 1).bit 7 then 2 else 0)

/-- Split a script into `n` packets, back to back, that fill it exactly (18 R718). -/
def splitScript : Nat → List Word → Option (List (List Word))
  | 0, ws => if ws.isEmpty then some [] else none
  | n + 1, ws =>
    let k := packetLength ws
    if ws.length < k then none
    else (splitScript n (ws.drop k)).map (fun rest => ws.take k :: rest)

/-- The script of an image, if it passes its check (18 R718). -/
def scriptOf (nor : NorImage) : Option (List (List Word)) :=
  let h := wordAt nor.header
  let bytes := (h 5).toNat
  let ws := nor.script.take (bytes / 4)
  if bytes % 4 ≠ 0 ∨ nor.script.length < bytes / 4 ∨ crc32cWords ws ≠ h 6 ∨ 1024 < (h 4).field 15 0 then none
  else splitScript ((h 4).field 15 0) ws

/-- BOOT_IMAGE_INVALID with its cause (18 Table 18.10). -/
def imageInvalid (data : List Nat) (s : State) : State := crit 0x0114 0 (data.map wd) s

/-- The patch of an image is read into the staging buffer, verified, and put in force; answers whether it passed (18 R717;
a boot never raises PATCH_FLOOR). -/
def bootPatch (nor : NorImage) (s : State) : State × Bool :=
  let n := (wordAt nor.header 2).toNat
  if n = 0 then (s, true)
  else
    let s1 := { s with fh := { s.fh with staging := putStagedAll [] 0 (nor.patch.take (min n 65536)) } }
    match if 65536 < n then some 3 else patchCause s1 with
    | some c => (imageInvalid [3, c] s1, false)
    | none => ({ s1 with fh := { s1.fh with patch := some (stagedVersion s1.fh.staging) } }, true)

/-- The end of boot: BOOT_DONE (18 R720). -/
def endBoot (s : State) : State :=
  info 0x0116 0 [wd (bootSrc s), wd (b01 s.fh.patch.isSome), wd s.pwr.scriptOk] { s with pwr := { s.pwr with booting := false } }

/-- FW_READY, and the script if there is one; without one boot ends at once (18 R719, R720). -/
def startScript (packets : List (List Word)) (s : State) : State :=
  let s1 := becomeReady { s with pwr := { s.pwr with scriptLeft := packets, scriptIndex := 0, scriptOk := 0 } }
  if packets.isEmpty then endBoot s1 else s1

/-- BOOT_START (18 R716 to R720, Table 18.6): Fountainhead starts from ROM, with the patch and script of the boot source. -/
def execBootStart (nor : NorImage) (s : State) : Out :=
  let src := bootSrc s
  .next (if s.pwr.held || s.fh.fwReady || !s.pwr.booting then s
  else if src = 0 then startScript [] s
  else if 5 ≤ src then startScript [] (imageInvalid [1] s)
  else if !headerPasses nor.header then startScript [] (imageInvalid [2] s)
  else
    let (s1, passed) := bootPatch nor s
    if !passed || src % 2 == 1 then startScript [] s1
    else match scriptOf nor with
      | none => startScript [] (imageInvalid [4] s1)
      | some packets => startScript packets s1)

/-- BOOT_SCRIPT_END (18 R719, R720): no packet is left and none owes its reply. -/
def execBootScriptEnd (s : State) : Out :=
  .next (if s.pwr.booting && s.fh.fwReady && s.pwr.scriptLeft.isEmpty && !s.fh.owed.any (fun o => o.packet.source == .script)
    && !s.fh.waiting.any (fun w => w.2.source == .script) then endBoot s else s)

/-- PERST_RELEASE (18 R722): the port may train from now on. -/
def execPerstRelease (port : PciePort) (s : State) : Out :=
  .next (match port with
    | .host => { s with host := { s.host with hostPort := { s.host.hostPort with perst := false } } }
    | .aux => { s with host := { s.host with auxPort := { s.host.auxPort with perst := false } } })

end Sys2Proof.Machine
end

