-- ==== Sys2Proof/Machine/Window.lean ====
section
/-!
DEFINITION. The end of an output window (04 R136): the filter chain forms it, the capture sets and the stream segments take it.
-/
namespace Sys2Proof.Machine
open Sys2Proof

/-- A window that has been formed is captured and delivered; where its regime ends, the capture slots of the branch end with it
(09 R354, R380; 12 R456). -/
def deliverWindow (f : Formed) (s : State) : State :=
  let s1 := captureWindow f { s with tb := { s.tb with tick := max s.tb.tick f.out } }
  let lc := (branchCfg (getBranch s (2 * f.chan + f.branch)).words).lc
  streamWindow f (if f.last then captureRegime f.chan f.branch lc (f.out + 1) s1 else s1)

/-- The window in progress of a branch ends: it is formed and delivered. -/
def endWindow (c : Fin 256) (branch : Fin 2) (obs : WindowObs) (s : State) : State :=
  let e := windowNext (getBranch s (2 * c.val + branch.val)) - 1
  match formWindow c.val branch.val obs (settlePatterns e s) with
  | none => s
  | some (t, f) => deliverWindow f t

/-- The comparator of channel `c` still lacks an input of tick `e` that the other branch than `b` gives (04 R159, R161). -/
def inputOpen (c b e : Nat) (s : State) : Bool :=
  let d := vgetD s.fl.detectors c Detector.reset
  let w := vgetD d.cmp 0 0
  let source := if w.field 29 28 < 2 then w.field 29 28 else b01 (d.word.bit 27)
  let x := getBranch s (2 * c + source)
  w.bit 31 && source != b && (branchCfg x.words).en && windowNext x == e + 1

/-- The windows of channel `c` that waited for the comparator's input are formed (04 R161). -/
def endDeferred (c : Fin 256) (s : State) : State :=
  (s.fl.deferred.filter (fun x => x.1 == c)).foldl (fun t x => endWindow c x.2.1 x.2.2 t)
    { s with fl := { s.fl with deferred := s.fl.deferred.filter (fun x => x.1 != c) } }

/-- A window waits for the row of the comparator's source branch at the same tick (04 R161). -/
def deferWindow (c : Fin 256) (branch : Fin 2) (obs : WindowObs) (e : Nat) (s : State) : State :=
  let s := noteWindow e s
  { s with tb := { s.tb with tick := max s.tb.tick e }, fl := { s.fl with deferred := s.fl.deferred ++ [(c, branch, obs)] } }

/-- WINDOW_END (04 R136 to R148, R161): the window in progress of a branch ends, once the frame boundaries before it have come
(assumption 178). A disabled branch has none. Of two windows of a channel that end at one tick, the one that feeds the
comparator is formed first, in whichever order their rows come. -/
def execWindowEnd (c : Fin 256) (branch : Fin 2) (obs : WindowObs) (s : State) : Out :=
  let x := getBranch s (2 * c.val + branch.val)
  let e := windowNext x - 1
  .next (if !dueSoon e s then s
  else if s.fl.deferred.any (fun y => y.1 == c && y.2.1 == branch) then endWindow c branch obs (endDeferred c s)
  else if (branchCfg x.words).en && s.tb.started && inputOpen c.val branch.val e s then deferWindow c branch obs e s
  else endDeferred c (endWindow c branch obs s))

end Sys2Proof.Machine
end

