-- ==== Sys2Proof/Machine/Frame.lean ====
section
/-!
DEFINITION. The frame boundary (06 R214 and the rules of every chapter that act at frame boundaries) and the timebase start
(06 R203, R204; 18 R721).
-/
namespace Sys2Proof.Machine
open Sys2Proof

/-- The shedding level at a boundary, with the end of detector shedding and the effort cap; answers whether the level has
come to or left level 4 (16 R653; 04 R157; 11 R433; 13 R510). -/
def levelFrame (s : State) : State × Bool :=
  let s1 := applyLevel s
  let s2 := if s1.hl.level < 2 ∧ s1.fl.shedRaised then
      info 0x0406 0 (split64 s1.fl.lastWithheld) { s1 with fl := { s1.fl with shedRaised := false } } else s1
  (followEffortShed s2, decide (4 ≤ s.hl.level) != decide (4 ≤ s2.hl.level))

/-- The earliest tick that a window or detector block in progress still covers; `f` if there is none. -/
def oldestTick (f : Nat) (s : State) : Nat :=
  s.fl.detectors.toList.foldl (fun a d => if d.count != 0 then min a d.began else a)
    (s.fl.branches.toList.foldl (fun a x => if (branchCfg x.words).en then min a (min x.winStart x.subStart) else a) f)

/-- Marks, and trims and coefficients of before, that no window in progress or to come can reach are forgotten. -/
def pruneMarks (f : Nat) (s : State) : State :=
  let o := oldestTick f s
  { s with fl := { s.fl with
      marks := s.fl.marks.filter (fun m => decide (o ≤ m.last))
      past := s.fl.past.filter (fun x => decide (o < x.before))
      firPast := s.fl.firPast.filter (fun x => decide (o < x.before)) } }

/-- The timebase, the ring and the pair at boundary `f` (06 R212 to R224, 07 R258 to R280, 08 R321 to R343). -/
def timeFrame (obs : TimebaseObs) (f : Nat) (s : State) : State :=
  let old := s.ring.refSide
  let s1 := ringFrame f (qualifyRefclk obs s)
  let s2 := followTime f (timebaseFrame obs (s1.ring.refSide != old) f s1)
  let s3 := pairFrame f s2
  ([0, 1, 2] : List (Fin 3)).foldl (fun t g => beginExchange g f t) s3

/-- Front end, converters, calibration and memory after the changes of boundary `f` (02, 03, 05, 10, 12). -/
def unitsFrame (f : Nat) (s : State) : State :=
  svStart 0 (memoryFrame f (streamFrame f (calibrationFrame f (stepSubstitutions f (runDiagnostics f s)))))

/-- The end of a boundary's work, the level judged: the lanes, the readings, Fountainhead's relays and the self-tests. A
thermal trip or test 8 resets the chip last. -/
def closeFrame (obs : FrameObs) (f : Nat) (rates : List (Fin 3)) (ports : List Nat) (r : State × Bool) : State :=
  let (s, crossed) := r
  let s1 := noteMoment (laneFrame rates crossed obs.lanes s)
  let s2 := checkOvercommit (healthFrame obs.temps obs.rails obs.ro s1)
  logicTestFrame (checkTrip (pruneMarks f (setStimuli f (selfTestFrame f ports (pumpRelays s2)))))

/-- A boundary's work from its changes on: the units go first, then the timebase and the level. -/
def changedFrame (obs : FrameObs) (f : Nat) (old : State) : State :=
  let (s, rates, ports) := applyDue f old
  closeFrame obs f rates ports (levelFrame (timeFrame obs.tb f (keepPast f old (unitsFrame f s))))

/-- What a boundary does at `f`, once the sample domain has come to it: the observations of the frame that ends, what waits
for a boundary, and the rest after it. -/
def frameWork (obs : FrameObs) (f : Nat) (s : State) : State :=
  changedFrame obs f (returnShadows f (resyncFrame f (modeChangeFrame obs.lateSet f (finishResets (isolationFrame f
    (observeFrontEnd obs.fe (witnessFrame f obs.witness s)))))))

/-- FRAME_BOUNDARY (06 R214): the next frame begins. The sample domain does not count before its start. -/
def execFrameBoundary (obs : FrameObs) (s : State) : Out :=
  .next (if s.tb.started then
    let f := s.tb.frameTick + frameLen
    let s1 := advanceTo f s
    frameWork obs f { s1 with tb := { s1.tb with frameTick := f } }
  else s)

/-! ## The timebase start -/

/-- The first regime of every enabled branch begins at T0 (04 R168, 06 R204). -/
def startBranches (t0 : Nat) (s : State) : State :=
  (List.range 512).foldl (fun t i =>
    if (branchCfg (getBranch t i).words).en then startRegime i (getBranch t i).words t0 t else t) s

/-- What R127 leaves to the start: channels that a warm reset left on a failed modulator, and basins without a spare (03
R127, R102, R101). -/
def startModulators (t0 : Nat) (s : State) : State :=
  (List.range 32).foldl (fun t b =>
    let u := (List.range 8).foldl (fun t k =>
      let i := assigned t b k
      if modState t b i = .failedServing then
        crit 0x0303 (8 * b + k) [wd (8 * b + k), wd (9 * b + i)]
          (mark .ovr (BitVec.ofNat 256 (2 ^ (8 * b + k))) t0 openEnd t)
      else t) t
    if noSpare u b then crit 0x0304 b [wd b] u else u) s

/-- What follows the changes of the first boundary: with the state come the lane groups and the ports they touched (02 R51;
05 R200; 06 R221). The frame has its exchanges (07 R258). -/
def firstFrame (t0 : Nat) (r : State × List (Fin 3) × List Nat) : State :=
  let (s, rates, ports) := r
  let s1 := stepRamps t0 (startCalibration t0 (svStart 0 (runDiagnostics t0 s)))
  let s2 := if s1.pair.en then splitFrame (applyTransition s1) else s1
  let s3 := ([0, 1, 2] : List (Fin 3)).foldl (fun t g => beginExchange g t0 t) (if rates.isEmpty then s2 else queueTurns rates s2)
  logicTestFrame (selfTestFrame t0 ports (noteMoment (markHoldover t0 s3)))

/-- The first boundary: the changes accepted before it come into force together, and the frame is marked (18 R721; 02 R51; 05
R200; 06 R221). -/
def startWork (t0 : Nat) (s : State) : State :=
  firstFrame t0 (applyDue t0 (startModulators t0 (startBranches t0 s)))

/-- A ring of one leaves FORMING as the timebase starts (07 R251, R275). -/
def leaveForming (s : State) : State :=
  let s1 := { s with ring := { s.ring with rstate := ringStateOf s } }
  info 0x0701 0 [wd (memberMask s1), wd s1.ring.hubId.toNat] s1

/-- TIMEBASE_START (06 R203): the case that applies starts the timebase, once after a chip reset, while none is asserted. A
hub with both sides down is its own master by then (07 R251). -/
def execTimebaseStart (c : StartCase) (s : State) : Out :=
  .next (if s.tb.started ∨ s.pwr.held then s
  else
    let s0 := if isLone s then takeMaster (ownAnnounce s) false s else s
    match startOf c s0 with
    | none => s
    | some (t0, r) =>
      let s1 := startTimebase t0 r s0
      startWork t0 (if isLone s then leaveForming s1 else s1))

end Sys2Proof.Machine
end

