-- ==== Sys2Proof/Machine/Dispatch.lean ====
section
/-!
DEFINITION. The meaning of each command: one arm per constructor, each a direct call of its meaning.
-/
namespace Sys2Proof.Machine
open Sys2Proof

/-- What a command does to everything but the queue. -/
def exec (i : Instr) (s : State) : Host.Outcome State Fault Refusal :=
  match i with
  | .devNop p => Sys2Proof.Machine.execDevNop p s
  | .devReadInfo p => Sys2Proof.Machine.execDevReadInfo p s
  | .devSetKey p => Sys2Proof.Machine.execDevSetKey p s
  | .devSetPolicy p => Sys2Proof.Machine.execDevSetPolicy p s
  | .devPatchLoad p => Sys2Proof.Machine.execDevPatchLoad p s
  | .devPatchCommit p => Sys2Proof.Machine.execDevPatchCommit p s
  | .devReadStats p => Sys2Proof.Machine.execDevReadStats p s
  | .feSetConnections p => Sys2Proof.Machine.execFeSetConnections p s
  | .feSetExcitation p => Sys2Proof.Machine.execFeSetExcitation p s
  | .feSetBiasGuard p => Sys2Proof.Machine.execFeSetBiasGuard p s
  | .feSetOvervoltage p => Sys2Proof.Machine.execFeSetOvervoltage p s
  | .feRunDiagnostic p => Sys2Proof.Machine.execFeRunDiagnostic p s
  | .feReadStatus p => Sys2Proof.Machine.execFeReadStatus p s
  | .feReleaseIsolation p => Sys2Proof.Machine.execFeReleaseIsolation p s
  | .feReadConnections p => Sys2Proof.Machine.execFeReadConnections p s
  | .cvSetChannels p => Sys2Proof.Machine.execCvSetChannels p s
  | .cvReadMap p => Sys2Proof.Machine.execCvReadMap p s
  | .cvRetireModulator p => Sys2Proof.Machine.execCvRetireModulator p s
  | .svSetSequence p => Sys2Proof.Machine.execSvSetSequence p s
  | .svStart p => Sys2Proof.Machine.execSvStart p s
  | .svReadAccum p => Sys2Proof.Machine.execSvReadAccum p s
  | .tmrSet p => Sys2Proof.Machine.execTmrSet p s
  | .tmrRead p => Sys2Proof.Machine.execTmrRead p s
  | .flSetBranch p => Sys2Proof.Machine.execFlSetBranch p s
  | .flSetFir p => Sys2Proof.Machine.execFlSetFir p s
  | .flSetDetectors p => Sys2Proof.Machine.execFlSetDetectors p s
  | .flSetComparator p => Sys2Proof.Machine.execFlSetComparator p s
  | .flReadChannel p => Sys2Proof.Machine.execFlReadChannel p s
  | .flRelease p => Sys2Proof.Machine.execFlRelease p s
  | .flReadFir p => Sys2Proof.Machine.execFlReadFir p s
  | .calSetPolicy p => Sys2Proof.Machine.execCalSetPolicy p s
  | .calForeground p => Sys2Proof.Machine.execCalForeground p s
  | .calReadBasin p => Sys2Proof.Machine.execCalReadBasin p s
  | .calReadTrims p => Sys2Proof.Machine.execCalReadTrims p s
  | .calWriteTrim p => Sys2Proof.Machine.execCalWriteTrim p s
  | .calSetRefcheck p => Sys2Proof.Machine.execCalSetRefcheck p s
  | .tbSetSources p => Sys2Proof.Machine.execTbSetSources p s
  | .tbSetTime p => Sys2Proof.Machine.execTbSetTime p s
  | .tbReadStatus p => Sys2Proof.Machine.execTbReadStatus p s
  | .tbSetHoldover p => Sys2Proof.Machine.execTbSetHoldover p s
  | .tbSetMains p => Sys2Proof.Machine.execTbSetMains p s
  | .tbReadMains p => Sys2Proof.Machine.execTbReadMains p s
  | .bcnSet p => Sys2Proof.Machine.execBcnSet p s
  | .bcnRead p => Sys2Proof.Machine.execBcnRead p s
  | .ringSetPolicy p => Sys2Proof.Machine.execRingSetPolicy p s
  | .ringSetHop p => Sys2Proof.Machine.execRingSetHop p s
  | .ringSetIdentity p => Sys2Proof.Machine.execRingSetIdentity p s
  | .ringReadStatus p => Sys2Proof.Machine.execRingReadStatus p s
  | .ringReadHop p => Sys2Proof.Machine.execRingReadHop p s
  | .ringMcStage p => Sys2Proof.Machine.execRingMcStage p s
  | .ringMcPrepare p => Sys2Proof.Machine.execRingMcPrepare p s
  | .ringMcRead p => Sys2Proof.Machine.execRingMcRead p s
  | .ringAsymMeasure p => Sys2Proof.Machine.execRingAsymMeasure p s
  | .pairSetPolicy p => Sys2Proof.Machine.execPairSetPolicy p s
  | .pairSetLink p => Sys2Proof.Machine.execPairSetLink p s
  | .pairReadStatus p => Sys2Proof.Machine.execPairReadStatus p s
  | .pairHandover p => Sys2Proof.Machine.execPairHandover p s
  | .pairForceAuthority p => Sys2Proof.Machine.execPairForceAuthority p s
  | .pairMirrorRead p => Sys2Proof.Machine.execPairMirrorRead p s
  | .pairMirrorApply p => Sys2Proof.Machine.execPairMirrorApply p s
  | .capSetConfig p => Sys2Proof.Machine.execCapSetConfig p s
  | .capSetTrigger p => Sys2Proof.Machine.execCapSetTrigger p s
  | .capArm p => Sys2Proof.Machine.execCapArm p s
  | .capTrigger p => Sys2Proof.Machine.execCapTrigger p s
  | .capRelease p => Sys2Proof.Machine.execCapRelease p s
  | .capDelete p => Sys2Proof.Machine.execCapDelete p s
  | .capReadStatus p => Sys2Proof.Machine.execCapReadStatus p s
  | .capSetPins p => Sys2Proof.Machine.execCapSetPins p s
  | .memInit p => Sys2Proof.Machine.execMemInit p s
  | .memSetPolicy p => Sys2Proof.Machine.execMemSetPolicy p s
  | .memReadStatus p => Sys2Proof.Machine.execMemReadStatus p s
  | .memReadErrlog p => Sys2Proof.Machine.execMemReadErrlog p s
  | .memInjectError p => Sys2Proof.Machine.execMemInjectError p s
  | .cmpSetMap p => Sys2Proof.Machine.execCmpSetMap p s
  | .cmpReadMap p => Sys2Proof.Machine.execCmpReadMap p s
  | .cmpSubmit p => Sys2Proof.Machine.execCmpSubmit p s
  | .cmpReadJob p => Sys2Proof.Machine.execCmpReadJob p s
  | .cmpCancel p => Sys2Proof.Machine.execCmpCancel p s
  | .cmpReadStatus p => Sys2Proof.Machine.execCmpReadStatus p s
  | .stSetStream p => Sys2Proof.Machine.execStSetStream p s
  | .stFlush p => Sys2Proof.Machine.execStFlush p s
  | .stDelete p => Sys2Proof.Machine.execStDelete p s
  | .stReadStatus p => Sys2Proof.Machine.execStReadStatus p s
  | .lnSetGroup p => Sys2Proof.Machine.execLnSetGroup p s
  | .lnSetAux p => Sys2Proof.Machine.execLnSetAux p s
  | .lnReadLane p => Sys2Proof.Machine.execLnReadLane p s
  | .lnTest p => Sys2Proof.Machine.execLnTest p s
  | .lnReadTest p => Sys2Proof.Machine.execLnReadTest p s
  | .lnRetrain p => Sys2Proof.Machine.execLnRetrain p s
  | .fnSetView p => Sys2Proof.Machine.execFnSetView p s
  | .fnReadView p => Sys2Proof.Machine.execFnReadView p s
  | .fnSetQos p => Sys2Proof.Machine.execFnSetQos p s
  | .fnReadQos p => Sys2Proof.Machine.execFnReadQos p s
  | .fnSetBudget p => Sys2Proof.Machine.execFnSetBudget p s
  | .fnReset p => Sys2Proof.Machine.execFnReset p s
  | .fnReadFunctions p => Sys2Proof.Machine.execFnReadFunctions p s
  | .hlReadMonitors p => Sys2Proof.Machine.execHlReadMonitors p s
  | .hlSetThresholds p => Sys2Proof.Machine.execHlSetThresholds p s
  | .hlReadLedger p => Sys2Proof.Machine.execHlReadLedger p s
  | .hlReadEventLog p => Sys2Proof.Machine.execHlReadEventLog p s
  | .hlClearEventLog p => Sys2Proof.Machine.execHlClearEventLog p s
  | .hlSetPeak p => Sys2Proof.Machine.execHlSetPeak p s
  | .hlReadPeak p => Sys2Proof.Machine.execHlReadPeak p s
  | .hlReadLastWords p => Sys2Proof.Machine.execHlReadLastWords p s
  | .hlSetCalendar p => Sys2Proof.Machine.execHlSetCalendar p s
  | .hlReadCalendar p => Sys2Proof.Machine.execHlReadCalendar p s
  | .hlSetWatchdog p => Sys2Proof.Machine.execHlSetWatchdog p s
  | .hlZeroiseKeys p => Sys2Proof.Machine.execHlZeroiseKeys p s
  | .tsRun p => Sys2Proof.Machine.execTsRun p s
  | .tsReadResult p => Sys2Proof.Machine.execTsReadResult p s
  | .tsAbort p => Sys2Proof.Machine.execTsAbort p s
  | .tsSetSchedule p => Sys2Proof.Machine.execTsSetSchedule p s
  | .tsScanEnable p => Sys2Proof.Machine.execTsScanEnable p s
  | .commandHeaderError source words => Sys2Proof.Machine.execCommandHeaderError source words s
  | .authLockoutEnd slot => Sys2Proof.Machine.execAuthLockoutEnd slot s
  | .relayCmd words => Sys2Proof.Machine.execRelayCmd words s
  | .relayReply words => Sys2Proof.Machine.execRelayReply words s
  | .relayTimeout id => Sys2Proof.Machine.execRelayTimeout id s
  | .replyWrite source => Sys2Proof.Machine.execReplyWrite source s
  | .fwRestartDone => Sys2Proof.Machine.execFwRestartDone s
  | .compatModeWrite value => Sys2Proof.Machine.execCompatModeWrite value s
  | .chipResetWrite value => Sys2Proof.Machine.execChipResetWrite value s
  | .registerWrite fn offset byteEnable value => Sys2Proof.Machine.execRegisterWrite fn offset byteEnable value s
  | .queueEnableWrite fn q value => Sys2Proof.Machine.execQueueEnableWrite fn q value s
  | .doorbellWrite fn q value => Sys2Proof.Machine.execDoorbellWrite fn q value s
  | .intCauseWrite fn reg value => Sys2Proof.Machine.execIntCauseWrite fn reg value s
  | .intMaskWrite fn reg value => Sys2Proof.Machine.execIntMaskWrite fn reg value s
  | .intVecWrite fn n value => Sys2Proof.Machine.execIntVecWrite fn n value s
  | .queueItemWrite fn q transferError => Sys2Proof.Machine.execQueueItemWrite fn q transferError s
  | .commandTake source words decideUs => Sys2Proof.Machine.execCommandTake source words decideUs s
  | .interruptModerationEnd fn cause => Sys2Proof.Machine.execInterruptModerationEnd fn cause s
  | .captureWindowAccess fn write offset len data => Sys2Proof.Machine.execCaptureWindowAccess fn write offset len data s
  | .flr fn => Sys2Proof.Machine.execFlr fn s
  | .linkReset linkDown => Sys2Proof.Machine.execLinkReset linkDown s
  | .auxLinkReset linkDown => Sys2Proof.Machine.execAuxLinkReset linkDown s
  | .linkTrained port rate width => Sys2Proof.Machine.execLinkTrained port rate width s
  | .vfEnableCleared => Sys2Proof.Machine.execVfEnableCleared s
  | .powerStateChange fn d3hot => Sys2Proof.Machine.execPowerStateChange fn d3hot s
  | .busMasterEnableChange fn bus => Sys2Proof.Machine.execBusMasterEnableChange fn bus s
  | .writeReg offset words => Sys2Proof.Machine.execWriteReg offset words s
  | .readReg offset count => Sys2Proof.Machine.execReadReg offset count s
  | .readStatus => Sys2Proof.Machine.execReadStatus s
  | .pushCmd words complete => Sys2Proof.Machine.execPushCmd words complete s
  | .pullReply whole => Sys2Proof.Machine.execPullReply whole s
  | .pullEvent whole => Sys2Proof.Machine.execPullEvent whole s
  | .frameBoundary obs => Sys2Proof.Machine.execFrameBoundary obs s
  | .ovTrip port mask polarity => Sys2Proof.Machine.execOvTrip port mask polarity s
  | .recloseHoldExpiry port => Sys2Proof.Machine.execRecloseHoldExpiry port s
  | .diagnosticRunEnd overRange value => Sys2Proof.Machine.execDiagnosticRunEnd overRange value s
  | .diagnosticRepeatDue slot => Sys2Proof.Machine.execDiagnosticRepeatDue slot s
  | .clampFailureDetect m => Sys2Proof.Machine.execClampFailureDetect m s
  | .timerTick t => Sys2Proof.Machine.execTimerTick t s
  | .pwmEdge t => Sys2Proof.Machine.execPwmEdge t s
  | .surveyStartEvent sv => Sys2Proof.Machine.execSurveyStartEvent sv s
  | .surveySlotEnd sv readings outside => Sys2Proof.Machine.execSurveySlotEnd sv readings outside s
  | .mainsTrackerLoss => Sys2Proof.Machine.execMainsTrackerLoss s
  | .windowEnd c branch obs => Sys2Proof.Machine.execWindowEnd c branch obs s
  | .lcBoundaryMissed c branch => Sys2Proof.Machine.execLcBoundaryMissed c branch s
  | .calibrationCycleStart b => Sys2Proof.Machine.execCalibrationCycleStart b s
  | .calibrationDecision m a b => Sys2Proof.Machine.execCalibrationDecision m a b s
  | .foregroundStart b => Sys2Proof.Machine.execForegroundStart b s
  | .foregroundEnd b => Sys2Proof.Machine.execForegroundEnd b s
  | .timebaseStart c => Sys2Proof.Machine.execTimebaseStart c s
  | .refclkLoss => Sys2Proof.Machine.execRefclkLoss s
  | .driftModelLearn ybar tdie => Sys2Proof.Machine.execDriftModelLearn ybar tdie s
  | .leapSecond => Sys2Proof.Machine.execLeapSecond s
  | .beaconTimeFrame f => Sys2Proof.Machine.execBeaconTimeFrame f s
  | .beaconCommandFrame f => Sys2Proof.Machine.execBeaconCommandFrame f s
  | .beaconSlotClose => Sys2Proof.Machine.execBeaconSlotClose s
  | .syncReceive side seq stamp departure => Sys2Proof.Machine.execSyncReceive side seq stamp departure s
  | .followReceive side seq t1 => Sys2Proof.Machine.execFollowReceive side seq t1 s
  | .dreqReceive side seq stamp => Sys2Proof.Machine.execDreqReceive side seq stamp s
  | .drespReceive side seq t4 => Sys2Proof.Machine.execDrespReceive side seq t4 s
  | .stateReceive side index data => Sys2Proof.Machine.execStateReceive side index data s
  | .announcePeriod => Sys2Proof.Machine.execAnnouncePeriod s
  | .announce side a => Sys2Proof.Machine.execAnnounce side a s
  | .masterLost => Sys2Proof.Machine.execMasterLost s
  | .formingTimeout => Sys2Proof.Machine.execFormingTimeout s
  | .handover newMaster h => Sys2Proof.Machine.execHandover newMaster h s
  | .ringHandoverBoundary => Sys2Proof.Machine.execRingHandoverBoundary s
  | .wrap reporter side => Sys2Proof.Machine.execWrap reporter side s
  | .sideStable side => Sys2Proof.Machine.execSideStable side s
  | .unwrap reporter side u => Sys2Proof.Machine.execUnwrap reporter side u s
  | .unwrapBoundary side => Sys2Proof.Machine.execUnwrapBoundary side s
  | .mismatchReset => Sys2Proof.Machine.execMismatchReset s
  | .stageMsg g words => Sys2Proof.Machine.execStageMsg g words s
  | .prepare p => Sys2Proof.Machine.execPrepare p s
  | .ack hub g nak => Sys2Proof.Machine.execAck hub g nak s
  | .modeChangeDeadline => Sys2Proof.Machine.execModeChangeDeadline s
  | .commit g c => Sys2Proof.Machine.execCommit g c s
  | .abort g => Sys2Proof.Machine.execAbort g s
  | .commitTick => Sys2Proof.Machine.execCommitTick s
  | .edgeReport side srcId edgeTime edge64 => Sys2Proof.Machine.execEdgeReport side srcId edgeTime edge64 s
  | .trigShare group tick origin => Sys2Proof.Machine.execTrigShare group tick origin s
  | .heartbeatPeriod => Sys2Proof.Machine.execHeartbeatPeriod s
  | .hbxBeatReceive beat manchester => Sys2Proof.Machine.execHbxBeatReceive beat manchester s
  | .pairHeartbeatReceive beat checked => Sys2Proof.Machine.execPairHeartbeatReceive beat checked s
  | .pathAliveExpiry hbx => Sys2Proof.Machine.execPathAliveExpiry hbx s
  | .peerFailure => Sys2Proof.Machine.execPeerFailure s
  | .witnessFire source => Sys2Proof.Machine.execWitnessFire source s
  | .witnessReturn source => Sys2Proof.Machine.execWitnessReturn source s
  | .followerEngagement basin => Sys2Proof.Machine.execFollowerEngagement basin s
  | .joinTimeout => Sys2Proof.Machine.execJoinTimeout s
  | .pairHandoverBoundary => Sys2Proof.Machine.execPairHandoverBoundary s
  | .resyncImage packets last note => Sys2Proof.Machine.execResyncImage packets last note s
  | .resyncBoundary => Sys2Proof.Machine.execResyncBoundary s
  | .splitRestore => Sys2Proof.Machine.execSplitRestore s
  | .mirrorRecord words => Sys2Proof.Machine.execMirrorRecord words s
  | .trainBlockReceive lane payload inverted => Sys2Proof.Machine.execTrainBlockReceive lane payload inverted s
  | .bringupTimeout lane => Sys2Proof.Machine.execBringupTimeout lane s
  | .electricalIdleEnd lane => Sys2Proof.Machine.execElectricalIdleEnd lane s
  | .laneLossOfSignal lane => Sys2Proof.Machine.execLaneLossOfSignal lane s
  | .laneLossOfLock lane => Sys2Proof.Machine.execLaneLossOfLock lane s
  | .losClear lane => Sys2Proof.Machine.execLosClear lane s
  | .messageReceive lane blocks => Sys2Proof.Machine.execMessageReceive lane blocks s
  | .flow lane payload => Sys2Proof.Machine.execFlow lane payload s
  | .missingLseqTimeout side cls => Sys2Proof.Machine.execMissingLseqTimeout side cls s
  | .replayTimeout side cls => Sys2Proof.Machine.execReplayTimeout side cls s
  | .silenceEnd lane => Sys2Proof.Machine.execSilenceEnd lane s
  | .laneIdleTimeout lane => Sys2Proof.Machine.execLaneIdleTimeout lane s
  | .idleEntry lane => Sys2Proof.Machine.execIdleEntry lane s
  | .laneWake lane => Sys2Proof.Machine.execLaneWake lane s
  | .partialEntryCommit home fn stream => Sys2Proof.Machine.execPartialEntryCommit home fn stream s
  | .packetStallTimeout home fn stream => Sys2Proof.Machine.execPacketStallTimeout home fn stream s
  | .segmentSetup home setup => Sys2Proof.Machine.execSegmentSetup home setup s
  | .segmentReply origin fn stream status => Sys2Proof.Machine.execSegmentReply origin fn stream status s
  | .segmentOriginLost origin cause => Sys2Proof.Machine.execSegmentOriginLost origin cause s
  | .streamPacketDeliver fn stream => Sys2Proof.Machine.execStreamPacketDeliver fn stream s
  | .triggerPinEdge n rising tick persist => Sys2Proof.Machine.execTriggerPinEdge n rising tick persist s
  | .commandTriggerDue set => Sys2Proof.Machine.execCommandTriggerDue set s
  | .recordClose set => Sys2Proof.Machine.execRecordClose set s
  | .memInitComplete rank2 density => Sys2Proof.Machine.execMemInitComplete rank2 density s
  | .memTrainFail step ch rank => Sys2Proof.Machine.execMemTrainFail step ch rank s
  | .memWriteDrain requester soft => Sys2Proof.Machine.execMemWriteDrain requester soft s
  | .memReadReturn requester soft => Sys2Proof.Machine.execMemReadReturn requester soft s
  | .refreshInterval ch rank perBank => Sys2Proof.Machine.execRefreshInterval ch rank perBank s
  | .mr4Poll ch code => Sys2Proof.Machine.execMr4Poll ch code s
  | .zqCalibration ch => Sys2Proof.Machine.execZqCalibration ch s
  | .dqsOscillatorRead ch count => Sys2Proof.Machine.execDqsOscillatorRead ch count s
  | .refreshWindowRestart => Sys2Proof.Machine.execRefreshWindowRestart s
  | .captureGroupFlush group => Sys2Proof.Machine.execCaptureGroupFlush group s
  | .scrubRead soft => Sys2Proof.Machine.execScrubRead soft s
  | .jobStart fn => Sys2Proof.Machine.execJobStart fn s
  | .tierEnd fn faults => Sys2Proof.Machine.execTierEnd fn faults s
  | .jobEnd fn => Sys2Proof.Machine.execJobEnd fn s
  | .faultNote entry => Sys2Proof.Machine.execFaultNote entry s
  | .eventCoalesceInterval fn hub code func inst => Sys2Proof.Machine.execEventCoalesceInterval fn hub code func inst s
  | .watchdogRestart => Sys2Proof.Machine.execWatchdogRestart s
  | .watchdogExpiry => Sys2Proof.Machine.execWatchdogExpiry s
  | .thermalTrip sensor reading => Sys2Proof.Machine.execThermalTrip sensor reading s
  | .thermalRestart => Sys2Proof.Machine.execThermalRestart s
  | .shedLevelTimer => Sys2Proof.Machine.execShedLevelTimer s
  | .peakBucketEnd => Sys2Proof.Machine.execPeakBucketEnd s
  | .droopDetect => Sys2Proof.Machine.execDroopDetect s
  | .hlDroopSustained => Sys2Proof.Machine.execHlDroopSustained s
  | .corePllReturn => Sys2Proof.Machine.execCorePllReturn s
  | .ledgerCommit remaps interrupted => Sys2Proof.Machine.execLedgerCommit remaps interrupted s
  | .ledgerRefresh => Sys2Proof.Machine.execLedgerRefresh s
  | .calendarSecond xtalError => Sys2Proof.Machine.execCalendarSecond xtalError s
  | .sramBlockTest memory block code value => Sys2Proof.Machine.execSramBlockTest memory block code value s
  | .dramGroupTest code value soft => Sys2Proof.Machine.execDramGroupTest code value soft s
  | .modulatorTestEnd m first second => Sys2Proof.Machine.execModulatorTestEnd m first second s
  | .sourceTestStep source step readingNa => Sys2Proof.Machine.execSourceTestStep source step readingNa s
  | .referenceTestEnd mainUv checkUv => Sys2Proof.Machine.execReferenceTestEnd mainUv checkUv s
  | .testBusTestEnd resistance leakagePa drivenUv => Sys2Proof.Machine.execTestBusTestEnd resistance leakagePa drivenUv s
  | .isolationTestPort port above below => Sys2Proof.Machine.execIsolationTestPort port above below s
  | .scheduledTestDue test => Sys2Proof.Machine.execScheduledTestDue test s
  | .tapInstructionUpdate opcode => Sys2Proof.Machine.execTapInstructionUpdate opcode s
  | .tapTestLogicReset => Sys2Proof.Machine.execTapTestLogicReset s
  | .porstAssert => Sys2Proof.Machine.execPorstAssert s
  | .porstRelease => Sys2Proof.Machine.execPorstRelease s
  | .railBrownout rail breach => Sys2Proof.Machine.execRailBrownout rail breach s
  | .railValid rail breach => Sys2Proof.Machine.execRailValid rail breach s
  | .vbatLoss => Sys2Proof.Machine.execVbatLoss s
  | .internalResetRelease straps => Sys2Proof.Machine.execInternalResetRelease straps s
  | .startupBistEnd code unit value => Sys2Proof.Machine.execStartupBistEnd code unit value s
  | .bootStart nor => Sys2Proof.Machine.execBootStart nor s
  | .bootScriptEnd => Sys2Proof.Machine.execBootScriptEnd s
  | .standbyEntry => Sys2Proof.Machine.execStandbyEntry s
  | .standbyWake => Sys2Proof.Machine.execStandbyWake s
  | .rateSelResume lane => Sys2Proof.Machine.execRateSelResume lane s
  | .fastExitTimeout lane => Sys2Proof.Machine.execFastExitTimeout lane s
  | .segmentHomeLost home cause => Sys2Proof.Machine.execSegmentHomeLost home cause s
  | .perstRelease port => Sys2Proof.Machine.execPerstRelease port s
  | .outputPulseEnd n => Sys2Proof.Machine.execOutputPulseEnd n s
  | .droopClear runNs => Sys2Proof.Machine.execDroopClear runNs s

end Sys2Proof.Machine
end

