-- ==== Sys2Proof/Machine/Step.lean ====
section
/-!
DEFINITION. One step of the hub: the command at the front of the queue acts, and on an empty queue the hub idles.
-/
namespace Sys2Proof.Machine
open Sys2Proof

/-- The hub idles for one modulator cycle: the lanes that are UP send what is due in their block slots, and while the sample
domain counts the tick moves on and the patterns of a tick that is over are evaluated (06 R202, 09 R365, 13 R492; DESIGN
CHOICE, assumptions 1 and 167). -/
def idle (s : State) : State :=
  let t := laneSlots s
  if t.tb.started then advanceTo (t.tb.tick + 1) t else t

/-- One step: the front command acts on the state with the rest of the queue; with none the hub idles. -/
def step (s : State) : Host.Outcome State Fault Refusal :=
  match s.pending with
  | [] => .next (idle s)
  | c :: rest => exec c { s with pending := rest }

/-- The state with the command that a word spells put at the front of its queue. -/
def State.withFetchWord (s : State) (nbits w : Nat) : State :=
  match Sys2Proof.decodeTableWord nbits w with
  | some c => { s with pending := c :: s.pending }
  | none => s

end Sys2Proof.Machine
end

