-- ==== Sys2Proof/WellFormed.lean ====
section
/-!
DEFINITION. The commands that can occur: a host command is a packet that Fountainhead takes from a command queue, the SPI
buffer or the boot script, and every operand lies in the range the manual gives it. A meaning does not rest on this: an
ill-formed command has a meaning too, and the check says which commands the host and the world can send.
-/
namespace Sys2Proof

/-- The row that a packet of an opcode is. -/
def Op.instr (o : Op) (p : Packet) : Instr :=
  match o with
  | .devNop => .devNop p
  | .devReadInfo => .devReadInfo p
  | .devSetKey => .devSetKey p
  | .devSetPolicy => .devSetPolicy p
  | .devPatchLoad => .devPatchLoad p
  | .devPatchCommit => .devPatchCommit p
  | .devReadStats => .devReadStats p
  | .feSetConnections => .feSetConnections p
  | .feSetExcitation => .feSetExcitation p
  | .feSetBiasGuard => .feSetBiasGuard p
  | .feSetOvervoltage => .feSetOvervoltage p
  | .feRunDiagnostic => .feRunDiagnostic p
  | .feReadStatus => .feReadStatus p
  | .feReleaseIsolation => .feReleaseIsolation p
  | .feReadConnections => .feReadConnections p
  | .cvSetChannels => .cvSetChannels p
  | .cvReadMap => .cvReadMap p
  | .cvRetireModulator => .cvRetireModulator p
  | .svSetSequence => .svSetSequence p
  | .svStart => .svStart p
  | .svReadAccum => .svReadAccum p
  | .tmrSet => .tmrSet p
  | .tmrRead => .tmrRead p
  | .flSetBranch => .flSetBranch p
  | .flSetFir => .flSetFir p
  | .flSetDetectors => .flSetDetectors p
  | .flSetComparator => .flSetComparator p
  | .flReadChannel => .flReadChannel p
  | .flRelease => .flRelease p
  | .flReadFir => .flReadFir p
  | .calSetPolicy => .calSetPolicy p
  | .calForeground => .calForeground p
  | .calReadBasin => .calReadBasin p
  | .calReadTrims => .calReadTrims p
  | .calWriteTrim => .calWriteTrim p
  | .calSetRefcheck => .calSetRefcheck p
  | .tbSetSources => .tbSetSources p
  | .tbSetTime => .tbSetTime p
  | .tbReadStatus => .tbReadStatus p
  | .tbSetHoldover => .tbSetHoldover p
  | .tbSetMains => .tbSetMains p
  | .tbReadMains => .tbReadMains p
  | .bcnSet => .bcnSet p
  | .bcnRead => .bcnRead p
  | .ringSetPolicy => .ringSetPolicy p
  | .ringSetHop => .ringSetHop p
  | .ringSetIdentity => .ringSetIdentity p
  | .ringReadStatus => .ringReadStatus p
  | .ringReadHop => .ringReadHop p
  | .ringMcStage => .ringMcStage p
  | .ringMcPrepare => .ringMcPrepare p
  | .ringMcRead => .ringMcRead p
  | .ringAsymMeasure => .ringAsymMeasure p
  | .pairSetPolicy => .pairSetPolicy p
  | .pairSetLink => .pairSetLink p
  | .pairReadStatus => .pairReadStatus p
  | .pairHandover => .pairHandover p
  | .pairForceAuthority => .pairForceAuthority p
  | .pairMirrorRead => .pairMirrorRead p
  | .pairMirrorApply => .pairMirrorApply p
  | .capSetConfig => .capSetConfig p
  | .capSetTrigger => .capSetTrigger p
  | .capArm => .capArm p
  | .capTrigger => .capTrigger p
  | .capRelease => .capRelease p
  | .capDelete => .capDelete p
  | .capReadStatus => .capReadStatus p
  | .capSetPins => .capSetPins p
  | .memInit => .memInit p
  | .memSetPolicy => .memSetPolicy p
  | .memReadStatus => .memReadStatus p
  | .memReadErrlog => .memReadErrlog p
  | .memInjectError => .memInjectError p
  | .cmpSetMap => .cmpSetMap p
  | .cmpReadMap => .cmpReadMap p
  | .cmpSubmit => .cmpSubmit p
  | .cmpReadJob => .cmpReadJob p
  | .cmpCancel => .cmpCancel p
  | .cmpReadStatus => .cmpReadStatus p
  | .stSetStream => .stSetStream p
  | .stFlush => .stFlush p
  | .stDelete => .stDelete p
  | .stReadStatus => .stReadStatus p
  | .lnSetGroup => .lnSetGroup p
  | .lnSetAux => .lnSetAux p
  | .lnReadLane => .lnReadLane p
  | .lnTest => .lnTest p
  | .lnReadTest => .lnReadTest p
  | .lnRetrain => .lnRetrain p
  | .fnSetView => .fnSetView p
  | .fnReadView => .fnReadView p
  | .fnSetQos => .fnSetQos p
  | .fnReadQos => .fnReadQos p
  | .fnSetBudget => .fnSetBudget p
  | .fnReset => .fnReset p
  | .fnReadFunctions => .fnReadFunctions p
  | .hlReadMonitors => .hlReadMonitors p
  | .hlSetThresholds => .hlSetThresholds p
  | .hlReadLedger => .hlReadLedger p
  | .hlReadEventLog => .hlReadEventLog p
  | .hlClearEventLog => .hlClearEventLog p
  | .hlSetPeak => .hlSetPeak p
  | .hlReadPeak => .hlReadPeak p
  | .hlReadLastWords => .hlReadLastWords p
  | .hlSetCalendar => .hlSetCalendar p
  | .hlReadCalendar => .hlReadCalendar p
  | .hlSetWatchdog => .hlSetWatchdog p
  | .hlZeroiseKeys => .hlZeroiseKeys p
  | .tsRun => .tsRun p
  | .tsReadResult => .tsReadResult p
  | .tsAbort => .tsAbort p
  | .tsSetSchedule => .tsSetSchedule p
  | .tsScanEnable => .tsScanEnable p

/-- The opcode and packet of a host command. -/
def Instr.packet? (i : Instr) : Option (Op × Packet) :=
  match i with
  | .devNop p => some (.devNop, p)
  | .devReadInfo p => some (.devReadInfo, p)
  | .devSetKey p => some (.devSetKey, p)
  | .devSetPolicy p => some (.devSetPolicy, p)
  | .devPatchLoad p => some (.devPatchLoad, p)
  | .devPatchCommit p => some (.devPatchCommit, p)
  | .devReadStats p => some (.devReadStats, p)
  | .feSetConnections p => some (.feSetConnections, p)
  | .feSetExcitation p => some (.feSetExcitation, p)
  | .feSetBiasGuard p => some (.feSetBiasGuard, p)
  | .feSetOvervoltage p => some (.feSetOvervoltage, p)
  | .feRunDiagnostic p => some (.feRunDiagnostic, p)
  | .feReadStatus p => some (.feReadStatus, p)
  | .feReleaseIsolation p => some (.feReleaseIsolation, p)
  | .feReadConnections p => some (.feReadConnections, p)
  | .cvSetChannels p => some (.cvSetChannels, p)
  | .cvReadMap p => some (.cvReadMap, p)
  | .cvRetireModulator p => some (.cvRetireModulator, p)
  | .svSetSequence p => some (.svSetSequence, p)
  | .svStart p => some (.svStart, p)
  | .svReadAccum p => some (.svReadAccum, p)
  | .tmrSet p => some (.tmrSet, p)
  | .tmrRead p => some (.tmrRead, p)
  | .flSetBranch p => some (.flSetBranch, p)
  | .flSetFir p => some (.flSetFir, p)
  | .flSetDetectors p => some (.flSetDetectors, p)
  | .flSetComparator p => some (.flSetComparator, p)
  | .flReadChannel p => some (.flReadChannel, p)
  | .flRelease p => some (.flRelease, p)
  | .flReadFir p => some (.flReadFir, p)
  | .calSetPolicy p => some (.calSetPolicy, p)
  | .calForeground p => some (.calForeground, p)
  | .calReadBasin p => some (.calReadBasin, p)
  | .calReadTrims p => some (.calReadTrims, p)
  | .calWriteTrim p => some (.calWriteTrim, p)
  | .calSetRefcheck p => some (.calSetRefcheck, p)
  | .tbSetSources p => some (.tbSetSources, p)
  | .tbSetTime p => some (.tbSetTime, p)
  | .tbReadStatus p => some (.tbReadStatus, p)
  | .tbSetHoldover p => some (.tbSetHoldover, p)
  | .tbSetMains p => some (.tbSetMains, p)
  | .tbReadMains p => some (.tbReadMains, p)
  | .bcnSet p => some (.bcnSet, p)
  | .bcnRead p => some (.bcnRead, p)
  | .ringSetPolicy p => some (.ringSetPolicy, p)
  | .ringSetHop p => some (.ringSetHop, p)
  | .ringSetIdentity p => some (.ringSetIdentity, p)
  | .ringReadStatus p => some (.ringReadStatus, p)
  | .ringReadHop p => some (.ringReadHop, p)
  | .ringMcStage p => some (.ringMcStage, p)
  | .ringMcPrepare p => some (.ringMcPrepare, p)
  | .ringMcRead p => some (.ringMcRead, p)
  | .ringAsymMeasure p => some (.ringAsymMeasure, p)
  | .pairSetPolicy p => some (.pairSetPolicy, p)
  | .pairSetLink p => some (.pairSetLink, p)
  | .pairReadStatus p => some (.pairReadStatus, p)
  | .pairHandover p => some (.pairHandover, p)
  | .pairForceAuthority p => some (.pairForceAuthority, p)
  | .pairMirrorRead p => some (.pairMirrorRead, p)
  | .pairMirrorApply p => some (.pairMirrorApply, p)
  | .capSetConfig p => some (.capSetConfig, p)
  | .capSetTrigger p => some (.capSetTrigger, p)
  | .capArm p => some (.capArm, p)
  | .capTrigger p => some (.capTrigger, p)
  | .capRelease p => some (.capRelease, p)
  | .capDelete p => some (.capDelete, p)
  | .capReadStatus p => some (.capReadStatus, p)
  | .capSetPins p => some (.capSetPins, p)
  | .memInit p => some (.memInit, p)
  | .memSetPolicy p => some (.memSetPolicy, p)
  | .memReadStatus p => some (.memReadStatus, p)
  | .memReadErrlog p => some (.memReadErrlog, p)
  | .memInjectError p => some (.memInjectError, p)
  | .cmpSetMap p => some (.cmpSetMap, p)
  | .cmpReadMap p => some (.cmpReadMap, p)
  | .cmpSubmit p => some (.cmpSubmit, p)
  | .cmpReadJob p => some (.cmpReadJob, p)
  | .cmpCancel p => some (.cmpCancel, p)
  | .cmpReadStatus p => some (.cmpReadStatus, p)
  | .stSetStream p => some (.stSetStream, p)
  | .stFlush p => some (.stFlush, p)
  | .stDelete p => some (.stDelete, p)
  | .stReadStatus p => some (.stReadStatus, p)
  | .lnSetGroup p => some (.lnSetGroup, p)
  | .lnSetAux p => some (.lnSetAux, p)
  | .lnReadLane p => some (.lnReadLane, p)
  | .lnTest p => some (.lnTest, p)
  | .lnReadTest p => some (.lnReadTest, p)
  | .lnRetrain p => some (.lnRetrain, p)
  | .fnSetView p => some (.fnSetView, p)
  | .fnReadView p => some (.fnReadView, p)
  | .fnSetQos p => some (.fnSetQos, p)
  | .fnReadQos p => some (.fnReadQos, p)
  | .fnSetBudget p => some (.fnSetBudget, p)
  | .fnReset p => some (.fnReset, p)
  | .fnReadFunctions p => some (.fnReadFunctions, p)
  | .hlReadMonitors p => some (.hlReadMonitors, p)
  | .hlSetThresholds p => some (.hlSetThresholds, p)
  | .hlReadLedger p => some (.hlReadLedger, p)
  | .hlReadEventLog p => some (.hlReadEventLog, p)
  | .hlClearEventLog p => some (.hlClearEventLog, p)
  | .hlSetPeak p => some (.hlSetPeak, p)
  | .hlReadPeak p => some (.hlReadPeak, p)
  | .hlReadLastWords p => some (.hlReadLastWords, p)
  | .hlSetCalendar p => some (.hlSetCalendar, p)
  | .hlReadCalendar p => some (.hlReadCalendar, p)
  | .hlSetWatchdog p => some (.hlSetWatchdog, p)
  | .hlZeroiseKeys p => some (.hlZeroiseKeys, p)
  | .tsRun p => some (.tsRun, p)
  | .tsReadResult p => some (.tsReadResult, p)
  | .tsAbort p => some (.tsAbort, p)
  | .tsSetSchedule p => some (.tsSetSchedule, p)
  | .tsScanEnable p => some (.tsScanEnable, p)
  | _ => none

/-- Sources of Fountainhead that a packet reaches by itself (15, "Sources and order"; 18 R719): a relayed one is RELAY_CMD, a
mirrored one MIRROR_RECORD, a staged one is run at its commit tick. -/
def Source.ofHost : Source → Bool
  | .cq _ | .spi | .script => true
  | .relay _ _ _ | .mirror _ | .staged _ => false

/-- A packet has at most 264 parameter words (15 R576, Table 15.10), and only PF0 reaches the SPI buffer and the script (14
R557, 18 R719). -/
def Packet.wf (p : Packet) : Bool :=
  p.source.ofHost && decide (p.params.length ≤ 264)

/-- The queues of a function: seven, or 39 for AF (14 Table 14.7). -/
def queueNumber (f : Fn) (q : Nat) : Bool := decide (q < if f.val = 9 then 39 else 7)

/-- The command can occur. -/
def Instr.wf (i : Instr) : Bool :=
  match i.packet? with
  | some (_, p) => p.wf
  | none => match i with
    | .commandHeaderError src _ | .commandTake src _ _ => src.ofHost
    | .registerWrite _ off _ _ => off.toNat % 4 == 0
    | .queueEnableWrite f q _ | .doorbellWrite f q _ | .queueItemWrite f q _ => queueNumber f q
    | .interruptModerationEnd f c => decide (c < 6) || (f.val == 9 && decide (32 ≤ c) && decide (c < 68))
    | .captureWindowAccess _ w _ len data => decide (0 < len) && decide (len ≤ 4096) && (!w || data.length == len)
    | .writeReg off ws => off.toNat % 4 == 0 && !ws.isEmpty
    | .readReg off n => off.toNat % 4 == 0 && decide (0 < n)
    | .calibrationDecision _ a b => decide (a.clamped ≤ 131072) && decide (b.clamped ≤ 131072)
    | .beaconTimeFrame f | .beaconCommandFrame f => decide (0 < f.bytes.length) && decide (f.bytes.length ≤ 256)
    | .prepare p => p.c % 4096 == 0 && p.sets.length == 32
    | .unwrap _ _ u => u % 4096 == 0
    | .handover _ h => h % 4096 == 0
    | .trigShare g _ _ => decide (g < 16)
    | .segmentSetup _ x => x.f % 4096 == 0 && decide (x.ranges.length ≤ 32)
    | .faultNote e => e.length == 16
    | .refreshInterval _ _ n => decide (n ≤ 128)
    | .sramBlockTest _ b _ _ => decide (b < 65536)
    | .timebaseStart (.adoptRing t) | .timebaseStart (.adoptPeer t) => decide (t < 18446744073709551616)
    | _ => true

end Sys2Proof
end

