-- ==== Sys2Proof/Safety.lean ====
section
/-!
DEFINITION. What the claims speak of: the canonical form of the capture memory, and when Fountainhead decides and accepts a
packet at this hub (15 Table 15.3).
-/
namespace Sys2Proof.Machine
open Sys2Proof

/-- Addresses strictly rising from `lo` on, and no listed byte 0, which is what an unlisted address reads as (10 R398). -/
def cellsFrom : Nat → List Host.Cell → Bool
  | _, [] => true
  | lo, (a, v) :: rest => decide (lo ≤ a) && v != 0 && cellsFrom (a + 1) rest

/-- The canonical form of the capture memory. -/
def Memory.wf (m : Memory) : Bool := cellsFrom 0 m.bytes

/-- The state in which a packet's steps 5 to 10 are decided: its SEQ is stored once step 4 has passed (15 R593). -/
def authed (p : Packet) (s : State) : State := if p.auth then storeSeq (slotOf p) p.seq s else s

/-- No prepared mode change holds up what the rules of `o` make of packet `p` in `s` (07 R286). -/
def unprepared (o : Op) (p : Packet) (s : State) : Bool :=
  match (opRules o).run p s with
  | .done t _ _ => !preparedBusy (opRules o) p s t
  | .owe t _ => !preparedBusy (opRules o) p s t
  | .reject _ _ => true

/-- Fountainhead decides packet `p` of command `o` now and executes it here: it may take it, every check of 15 Table 15.3
before the command's own passes, no prepared mode change holds up its change, and a mirrored command has its path. -/
def Accepts (o : Op) (p : Packet) (s : State) : Bool :=
  mayTake p s && p.source.ofHost && headerOk o p && permitted (opRules o) p s && (authCause o p s).isNone
    && (issuingCheck (opRules o) p (authed p s)).isNone && !isRemote p (authed p s)
    && (executingCheck (opRules o) p (authed p s)).isNone && unprepared o p (authed p s)
    && (mirrorGate (opRules o) p (authed p s)).isNone

/-- Fountainhead takes packet `p` of command `o` now, and the checks of 15 Table 15.3 up to the issuing hub's pass. -/
def Heard (o : Op) (p : Packet) (s : State) : Bool :=
  mayTake p s && p.source.ofHost && headerOk o p && permitted (opRules o) p s && (authCause o p s).isNone
    && (issuingCheck (opRules o) p (authed p s)).isNone

/-- What an accepted command adds to its effect `t`: its mirror record for boundary `f` where it is mirrored (08 R331), and
CFG_LOCK where it configures a unit (14 R539). -/
def carried (o : Op) (p : Packet) (s : State) (f : Nat) (t : State) : State :=
  lockConfig (opRules o) (if mirrorsOut (opRules o) p (authed p s) then mirrorOut o p f t else t)

/-- The state after an accepted command with effect `t`: counted, and answered with its data and COMPLETION_TICK `c` (15
R580, R581). -/
def completed (o : Op) (p : Packet) (s t : State) (data : List Word) (c : Nat) : State :=
  answer o.code p .ok data c (countDecision .ok (carried o p s ((opRules o).mirrorAt p c) t))

/-- The state after an accepted command that changes nothing and returns data. -/
def answered (o : Op) (p : Packet) (s : State) (data : List Word) : State :=
  completed o p s (authed p s) data (now (authed p s))

/-- The state after an accepted command whose change `x` is staged for boundary `f` (02 R49 to R51). -/
def stagedFor (o : Op) (p : Packet) (s : State) (f : Nat) (x : Change) : State :=
  completed o p s (stage f x (authed p s)) [] f

/-- The state after an accepted command with effect `t` whose reply is owed until it completes (15 R582, R584). -/
def owing (o : Op) (p : Packet) (s t : State) (why : Owing) : State :=
  let v := carried o p s (defaultBoundary true p (authed p s)) t
  countDecision .ok { v with fh := { v.fh with owed := v.fh.owed ++ [{ op := o, packet := p, why := why }] } }

/-- The commands that can change a byte of the capture memory: they store to it, initialise or test it, or reset the hub or take
its memory's supply away (10 R395, R398). -/
def touchesMemory : Instr → Bool
  | .compatModeWrite _ | .chipResetWrite _ | .registerWrite _ _ _ _ | .writeReg _ _ | .frameBoundary _
  | .windowEnd _ _ _ | .timebaseStart _ | .mismatchReset | .commitTick | .resyncBoundary | .recordClose _
  | .memInitComplete _ _ | .memWriteDrain _ _ | .jobStart _ | .tierEnd _ _ | .jobEnd _ | .watchdogExpiry
  | .thermalTrip _ _ | .dramGroupTest _ _ _ | .porstAssert | .porstRelease | .railBrownout _ _
  | .standbyEntry => true
  | _ => false

/-- Command `c` completes in `s`, in a state of which `P` holds. -/
def Completes (c : Instr) (s : State) (P : State → Prop) : Prop := ∃ t, exec c s = .next t ∧ P t

/-- `c`, the row of an event due at tick `e`, changes nothing in `s` while a frame boundary before `e` is still to come: the
model's choice, assumption 178. -/
def Early (e : Nat) (c : Instr) (s : State) : Prop := dueSoon e s = false → exec c s = .next s

end Sys2Proof.Machine
end

