-- ==== Sys2Proof/Certificates/Slice0/Obligations.lean ====
section
/-! DEFINITION. The statements for the provers. `Completes c s P` says that the command `c` answers a next state at `s` and that
`P` holds of it; `Accepts o p s`, that the packet `p` of opcode `o` passes every check of 15, "Checks", at the issuing and the
executing hub; `answered`, `completed`, `owing` and `stagedFor` are the states after a command that only answers, that changes
the state and answers, that owes its reply, and that stages a change. -/

open Sys2Proof Sys2Proof.Machine

/-- A step takes the command at the front of the queue and executes it on the state with the queue's rest. -/
def Obligations.StepRunsFrontCommand : Prop := ∀ (c : Instr) (rest : List Instr) (s : State),
  step { s with pending := c :: rest } = exec c { s with pending := rest }

/-- DESIGN CHOICE (assumptions 1 and 167), not the spec's: on an empty queue one modulator cycle passes: the block slots of the
lanes pass, then the tick count moves by 1 while the sample domain counts (06 R202). A cycle without a lane that is UP or
training changes the tick count alone, or nothing. -/
def Obligations.EmptyQueueLetsTimePass : Prop := ∀ (s : State), s.pending = [] →
  step s = .next (if (laneSlots s).tb.started then advanceTo ((laneSlots s).tb.tick + 1) (laneSlots s) else laneSlots s) ∧
  (∃ t, step s = .next t ∧ t.pending = [] ∧ t.mem.bytes = s.mem.bytes) ∧
  ((∀ l : Fin 16, (getLane s l).lstate ≠ .up ∧ sendsTrain l s = false) →
    (s.tb.started = true → step s = .next (advanceTo (s.tb.tick + 1) s)) ∧ (s.tb.started = false → step s = .next s))

/-- What a chip reset leaves, whatever the state before it: 02 R85 whole (the words that the switches hold join no terminal to
anything), and the host interface's values of 14 R575. Word 0 of a contract holds the number of its own function in FUNC: the
model's choice, assumption 112. -/
def Obligations.ChipResetLeaves : Prop := ∀ (k : BitVec 3) (w : Bool) (c : BitVec 8) (d : List Word) (n : Option (Fin 30))
    (s : State), let t := chipReset k w c d n s
  (∀ i : Fin 512, vget t.fe.conn i = 0) ∧ (∀ n, ((feConfig t).live t.fe.isolated).word n = 0) ∧ (∀ i : Fin 128, vget t.fe.src i = 0) ∧ (∀ b : Fin 32, vget t.fe.bias b = 0) ∧
  t.fe.ovWord = 0x0000300A ∧ (∀ i : Fin 8, vget t.fe.diagSlots i = none) ∧ t.fe.diagRunning = none ∧ t.fe.diagQueue = [] ∧
  (∀ f q, (getQueue t f q).en = false) ∧ (∀ f, (getFn t f).intCause = 0) ∧ t.host.afSqCause0 = 0 ∧ t.host.afSqCause1 = 0 ∧
  t.host.ringBudget = 0x0069 ∧
  (∀ g, inView t 0 g = decide (g < 8192)) ∧ (getFn t 0).rangePage = 0 ∧ (getFn t 0).rangePages = 1048576 ∧
  (∀ f : Fn, f.val ≠ 0 → f.val ≠ 9 → (getFn t f).view = [] ∧ (getFn t f).rangePages = 0) ∧
  (∀ f : Fn, (vget (getFn t f).contract 0).field 31 4 = 0x20 ∧ vget (getFn t f).contract 1 = 0x00001000 ∧ vget (getFn t f).contract 2 = 0x00001000 ∧
    vget (getFn t f).contract 3 = 0x00001000)

/-- The capture memory lists nothing at reset, in canonical form. -/
def Obligations.ResetMemoryCanonical : Prop := Memory.wf State.reset.mem = true ∧ State.reset.mem.bytes = [] ∧
  ∀ a, getByte State.reset.mem.bytes a = 0

/-- Every step keeps the capture memory's canonical form. -/
def Obligations.StepKeepsMemoryCanonical : Prop := ∀ (s t : State), Memory.wf s.mem = true → step s = .next t →
  Memory.wf t.mem = true

/-- A command's effect leaves the queue of waiting commands as it is. -/
def Obligations.CommandsLeaveQueue : Prop := ∀ (c : Instr) (s t : State), exec c s = .next t → t.pending = s.pending

/-- Every command, in every state, answers a next state: no command of the hub stops it. -/
def Obligations.EveryCommandAnswers : Prop := ∀ (c : Instr) (s : State), ∃ t, exec c s = .next t

/-- 15 R591: a command rejected by the executing hub's checks changes no state of any unit. -/
def Obligations.RejectedCommandChangesNoUnit : Prop := ∀ (o : Op) (p : Packet) (s : State) (st : Status) (d : List Word),
  Heard o p s = true → isRemote p (authed p s) = false → executeResult (opRules o) p (authed p s) = .reject st d →
  Completes (o.instr p) s (fun t =>
    t.tb = s.tb ∧ t.ring = s.ring ∧ t.pair = s.pair ∧ t.fe = s.fe ∧ t.cv = s.cv ∧ t.fl = s.fl ∧ t.cal = s.cal ∧ t.cap = s.cap ∧
    t.mem = s.mem ∧ t.cmp = s.cmp ∧ t.st = s.st ∧ t.ts = s.ts ∧ t.staged = s.staged ∧
    (p.source ≠ .script → st ≠ .ok → t.pwr = s.pwr ∧ t.ln = s.ln ∧ t.host = s.host ∧ t.hl = s.hl ∧ t.out = s.out ∧
      t.fh = { s.fh with replies := s.fh.replies ++ [(p.source, replyOf o.code p st d (now s) s)]
                         rejected := satInc s.fh.rejected }))

/-- 15 R580, R581: the reply of an accepted command that completes at once carries its data and COMPLETION_TICK, and is the
one reply that the command adds. -/
def Obligations.AcceptedCommandReplies : Prop := ∀ (o : Op) (p : Packet) (s t : State) (data : List Word) (c : Nat),
  Accepts o p s = true → (opRules o).run p (authed p s) = .done t data c → p.source ≠ .script →
  (p.quiet = false ∨ data ≠ []) →
  Completes (o.instr p) s (fun u => u = completed o p s t data c ∧
    u.fh.replies = (countDecision .ok (carried o p s ((opRules o).mirrorAt p c) t)).fh.replies ++
      [(p.source, replyOf o.code p .ok data c (countDecision .ok (carried o p s ((opRules o).mirrorAt p c) t)))])

/-- 15 R583 to R585: a packet that Fountainhead may not take yet waits in its place, and nothing else happens. -/
def Obligations.CommandNotTakenWaits : Prop := ∀ (o : Op) (p : Packet) (s : State), mayTake p s = false →
  exec (o.instr p) s = .next { s with fh := { s.fh with waiting := s.fh.waiting ++ [(o, p)] } }

/-- 15 R593 and R594: which packets fail step 4, and with which cause. -/
def Obligations.TrailerCheck : Prop := ∀ (o : Op) (p : Packet) (s : State),
  let f := slotOf p
  let k := vget s.ao.keys f
  (p.auth = true →
    (authCause o p s = none ↔ hasBit s.fh.locked f.val = false ∧
      (∃ key, k.key = some key ∧ p.trailer = trailerOf o.code p key) ∧ k.lastSeq.toNat < p.seq.toNat)) ∧
  (p.auth = false → o.authenticated = false → hasBit s.fh.reqAuth f.val = false → authCause o p s = none) ∧
  (p.auth = false → (o.authenticated = true ∨ hasBit s.fh.reqAuth f.val = true) → p.source ≠ .spi → authCause o p s = some 1)

/-- 15 R593, R595: a packet that fails step 4 is answered AUTH_FAILED, counted, and stores no SEQ; the sixteenth failure within
10 s locks the slot out. -/
def Obligations.AuthenticationFailure : Prop := ∀ (o : Op) (p : Packet) (s : State) (c : Nat),
  mayTake p s = true → p.source.ofHost = true → headerOk o p = true → permitted (opRules o) p s = true →
  authCause o p s = some c →
  let f := slotOf p
  let recent := (vget s.fh.failTicks f).filter (fun t => now s < t + 10 * ticksPerSecond)
  exec (o.instr p) s = .next (rejectPacket o.code p ⟨.authFailed, [wd c]⟩ (authFailure o p c s)) ∧
  (authFailure o p c s).fh.authFails = satInc s.fh.authFails ∧
  (15 ≤ recent.length → hasBit s.fh.locked f.val = false → hasBit (authFailure o p c s).fh.locked f.val = true) ∧
  (recent.length < 15 → (authFailure o p c s).fh.locked = s.fh.locked)

/-- 15 R587 and Table 15.3: a packet of a function that may not issue the command is answered NOT_PERMITTED. -/
def Obligations.NotPermittedRejected : Prop := ∀ (o : Op) (p : Packet) (s : State),
  mayTake p s = true → p.source.ofHost = true → headerOk o p = true →
  (∀ f, p.source = .cq f → p.func ≠ fnCode f → exec (o.instr p) s = .next (rejectPacket o.code p ⟨.notPermitted, []⟩ s)) ∧
  (p.source = .spi → p.func ≠ 0 → exec (o.instr p) s = .next (rejectPacket o.code p ⟨.notPermitted, []⟩ s)) ∧
  ((opRules o).issuers p s = false → exec (o.instr p) s = .next (rejectPacket o.code p ⟨.notPermitted, []⟩ s))

/-- 02 R46: a front-end command whose result would break Table 2.4 is rejected whole, with the detail word of Table 2.5. -/
def Obligations.FrontEndConflictRejected : Prop := ∀ (p : Packet) (s : State) (f : Nat) (d : Word), let u := authed p s
  (Accepts .feSetConnections p s = true → applyBoundary true p (p.w64 1) u = .ok f →
    conflictWord ((stagedConfig f u).with (.connections (feBasin p) ((List.range 16).map (fun i => p.w (3 + i)))))
      (testBusHeld u) = some d →
    exec (.feSetConnections p) s = .next (rejectPacket 0x0201 p ⟨.feConflict, [d]⟩ u)) ∧
  (Accepts .feSetExcitation p s = true → applyBoundary true p (p.w64 1) u = .ok f →
    conflictWord ((stagedConfig f u).with (.excitation (feBasin p) ((List.range 4).map (fun i => p.w (3 + i)))))
      (testBusHeld u) = some d →
    exec (.feSetExcitation p) s = .next (rejectPacket 0x0202 p ⟨.feConflict, [d]⟩ u)) ∧
  (Accepts .feSetBiasGuard p s = true → applyBoundary true p (p.w64 1) u = .ok f →
    conflictWord ((stagedConfig f u).with (.biasGuard (feBasin p) (p.w 3))) (testBusHeld u) = some d →
    exec (.feSetBiasGuard p) s = .next (rejectPacket 0x0203 p ⟨.feConflict, [d]⟩ u))

/-- 15 R597: a packet for another hub is relayed, or waits while its source has a relay to the same target. -/
def Obligations.RemoteCommandRelayed : Prop := ∀ (o : Op) (p : Packet) (s : State), let u := authed p s
  Heard o p s = true → isRemote p u = true →
  (relayBusy p u = true → exec (o.instr p) s = .next { u with fh := { u.fh with relayWaiting := u.fh.relayWaiting ++ [(o, p)] } }) ∧
  (relayBusy p u = false → p.bcast = false → exec (o.instr p) s = .next (send (relayMessage u.fh.nextRelay o p u)
    { u with fh := { u.fh with
      nextRelay := u.fh.nextRelay + 1, owed := u.fh.owed ++ [{ op := o, packet := p, why := .relay u.fh.nextRelay }]
      relays := u.fh.relays ++ [{ id := u.fh.nextRelay, op := o, packet := p, sent := now u
                                  expected := wd (2 ^ p.target.toNat), succeeded := 0, rejected := 0 }] } }))

/-- A drained write of the capture memory stores in the 8-byte words that its bytes lie in and nowhere else, and a write of a
whole word stores its bytes (10 R403). -/
def Obligations.DrainedWriteStores : Prop := ∀ (q : Fin 6) (soft : SoftErrors) (r : MemReq) (s : State),
  Memory.wf s.mem = true → completable q (applySoft soft s) = some r → r.write = true →
  Completes (.memWriteDrain q soft) s (fun t =>
    (∀ a, (a < 8 * (r.addr / 8) ∨ 8 * ((r.addr + max r.data.length 1 + 7) / 8) ≤ a) →
      getByte t.mem.bytes a = getByte s.mem.bytes a) ∧
    ((r.use = .host ∨ r.use = .test) → r.addr % 8 = 0 → r.data.length = 8 →
      t.mem.bytes = putBytes s.mem.bytes r.addr r.data))

/-- Every command but those of `touchesMemory` leaves every byte of the capture memory as it reads. -/
def Obligations.MemoryFrame : Prop := ∀ (c : Instr) (s t : State), touchesMemory c = false → exec c s = .next t →
  ∀ a, getByte t.mem.bytes a = getByte s.mem.bytes a

/-- Class 0x01: what each accepted command of the device and of Fountainhead does and returns (15, "Class 0x01"). -/
def Obligations.DeviceCommandsComplete : Prop := ∀ (p : Packet) (s : State), let u := authed p s
  (Accepts .devNop p s = true → exec (.devNop p) s = .next (answered .devNop p s [])) ∧
  (Accepts .devReadInfo p s = true → exec (.devReadInfo p) s = .next (answered .devReadInfo p s (infoWords u))) ∧
  (Accepts .devReadStats p s = true → exec (.devReadStats p) s =
    .next (completed .devReadStats p s (if (p.w 0).bit 31 then clearStats u else u) (statsWords u) (now u))) ∧
  (Accepts .devSetPolicy p s = true → exec (.devSetPolicy p) s = .next (completed .devSetPolicy p s
    { u with fh := { u.fh with relayMs := BitVec.ofNat 8 ((p.w 0).field 31 24)
                               reqAuth := BitVec.ofNat 10 ((p.w 0).field 9 0) } } [] (now u))) ∧
  (Accepts .devSetKey p s = true → exec (.devSetKey p) s = .next (completed .devSetKey p s
    (writeKey (fin 10 ((p.w 0).field 3 0))
      (if (p.w 0).bit 31 then none else some (Vector.ofFn (fun i : Fin 8 => p.w (i.val + 1)))) u) [] (now u))) ∧
  (Accepts .devPatchLoad p s = true → exec (.devPatchLoad p) s = .next (completed .devPatchLoad p s
    { u with fh := { u.fh with staging := putStagedAll u.fh.staging ((p.w 0).field 15 0) (p.params.drop 1) } } [] (now u))) ∧
  (Accepts .devPatchCommit p s = true → patchCause u = none → exec (.devPatchCommit p) s =
    .next (owing .devPatchCommit p s (commitPatch ((p.w 0).bit 31) u) .patchCommit))

/-- Class 0x02: what each accepted front-end command does and returns (02, "Commands"). -/
def Obligations.FrontEndCommandsComplete : Prop := ∀ (p : Packet) (s : State) (f : Nat), let u := authed p s
  (Accepts .feSetConnections p s = true → applyBoundary true p (p.w64 1) u = .ok f →
    let x : Change := .connections (feBasin p) ((List.range 16).map (fun i => p.w (3 + i)))
    conflictWord ((stagedConfig f u).with x) (testBusHeld u) = none →
    exec (.feSetConnections p) s = .next (stagedFor .feSetConnections p s f x)) ∧
  (Accepts .feSetExcitation p s = true → applyBoundary true p (p.w64 1) u = .ok f →
    let x : Change := .excitation (feBasin p) ((List.range 4).map (fun i => p.w (3 + i)))
    conflictWord ((stagedConfig f u).with x) (testBusHeld u) = none →
    exec (.feSetExcitation p) s = .next (stagedFor .feSetExcitation p s f x)) ∧
  (Accepts .feSetBiasGuard p s = true → applyBoundary true p (p.w64 1) u = .ok f →
    let x : Change := .biasGuard (feBasin p) (p.w 3)
    conflictWord ((stagedConfig f u).with x) (testBusHeld u) = none →
    exec (.feSetBiasGuard p) s = .next (stagedFor .feSetBiasGuard p s f x)) ∧
  (Accepts .feSetOvervoltage p s = true → exec (.feSetOvervoltage p) s =
    .next (stagedFor .feSetOvervoltage p s (defaultBoundary true p u) (.overvoltage (p.w 0)))) ∧
  (Accepts .feRunDiagnostic p s = true → diagKind p = 0 →
    let slot := fin 8 ((p.w 0).field 27 25)
    let at_ := defaultBoundary true p u
    exec (.feRunDiagnostic p) s = .next (if waitsForMirror p u
      then completed .feRunDiagnostic p s (stage at_ (.diagCancel slot) u) [0] at_
      else completed .feRunDiagnostic p s (clearSlot slot u) [0] (now u))) ∧
  (Accepts .feRunDiagnostic p s = true → diagKind p ≠ 0 →
    ((diagKind p = 1 ∨ diagKind p = 3) → u.pair.pstate = .solo ∨ mirrorWorks u = true) →
    ((p.w 1).field 31 16 = 0 → (oneShots u).1 < (oneShots u).2) →
    let r := diagRequest p u.fe.diagNext
    let v := { u with fe := { u.fe with diagNext := u.fe.diagNext + 1 } }
    exec (.feRunDiagnostic p) s = .next (owing .feRunDiagnostic p s
      (if waitsForMirror p u && diagKind p != 2 then stage (defaultBoundary true p u) (.diagnostic r) v else queueDiagnostic r v)
      (.diagnostic r.request))) ∧
  (Accepts .feReadStatus p s = true → exec (.feReadStatus p) s =
    .next (answered .feReadStatus p s (feStatusWords (feBasin p).val u))) ∧
  (Accepts .feReleaseIsolation p s = true →
    let port := fin 128 ((p.w 0).field 6 0)
    (hasBit u.fe.latched port.val = false →
      exec (.feReleaseIsolation p) s = .next (answered .feReleaseIsolation p s [])) ∧
    (hasBit u.fe.latched port.val = true → hasBit u.fe.outOfRange port.val = false →
      exec (.feReleaseIsolation p) s =
        .next (stagedFor .feReleaseIsolation p s (defaultBoundary true p u) (.releaseIsolation port)))) ∧
  (Accepts .feReadConnections p s = true → exec (.feReadConnections p) s = .next (answered .feReadConnections p s
    ((List.range 16).map (fun t => (feConfig u).word (16 * (feBasin p).val + t))
      ++ (List.range 4).map (fun k => (feConfig u).source (4 * (feBasin p).val + k))
      ++ [vgetD (feConfig u).bias (feBasin p).val 0])))

/-- Class 0x03: what each accepted command of channels, modulators, survey converters and timers does and returns (03,
"Commands"). -/
def Obligations.ConverterCommandsComplete : Prop := ∀ (p : Packet) (s : State) (f : Nat), let u := authed p s
  (Accepts .cvSetChannels p s = true → applyBoundary true p (p.w64 1) u = .ok f →
    let b := (p.w 0).field 4 0
    let old := stagedChannels b f u
    let parks := (List.range 8).filter (fun k => (p.w 3).bit (24 + k) && !old.bit (24 + k))
    let unparks := (List.range 8).filter (fun k => !(p.w 3).bit (24 + k) && old.bit (24 + k))
    (∀ k ∈ parks, channelInUse u (8 * b + k) = false) →
    (unparks.length : Int) ≤ freeAt b f u + (parks.filter (parkFrees u b)).length →
    exec (.cvSetChannels p) s = .next (stagedFor .cvSetChannels p s f (.channels (fin 32 b) (p.w 3)))) ∧
  (Accepts .cvReadMap p s = true →
    let b := (p.w 0).field 4 0
    exec (.cvReadMap p) s = .next (answered .cvReadMap p s
      [wd ((List.range 8).foldl (fun a k => a + assigned u b k * 16 ^ k) 0),
       wd ((List.range 9).foldl (fun a i => a + (modState u b i).code * 8 ^ i) 0), halves (vgetD u.cv.swaps b 0).toNat 0])) ∧
  (Accepts .cvRetireModulator p s = true →
    let b := (p.w 0).field 4 0
    let i := (p.w 0).field 11 8
    (u.tb.started = true → exec (.cvRetireModulator p) s =
      .next (completed .cvRetireModulator p s (failModulator b i 4 (now u) u) [] (now u))) ∧
    (u.tb.started = false → exec (.cvRetireModulator p) s =
      .next (stagedFor .cvRetireModulator p s 0 (.retire (fin 288 (9 * b + i)))))) ∧
  (Accepts .svSetSequence p s = true → exec (.svSetSequence p) s = .next (stagedFor .svSetSequence p s
    (defaultBoundary true p u) (.surveySequence (fin 4 ((p.w 0).field 1 0)) (p.w 1) (svEntries p)))) ∧
  (Accepts .svStart p s = true →
    let v := fin 4 ((p.w 0).field 1 0)
    (getSv u v).running = none → svSource (match (getSv u v).next with | some (w, _) => w | none => (getSv u v).seqWord) = 17 →
    exec (.svStart p) s = .next (if waitsForMirror p u
      then stagedFor .svStart p s (defaultBoundary true p u) (.surveyStart v)
      else completed .svStart p s (svStartEvent 17 v u) [] (now u))) ∧
  (Accepts .svReadAccum p s = true →
    let v := fin 4 ((p.w 0).field 1 0)
    let x := getSv u v
    exec (.svReadAccum p) s = .next (completed .svReadAccum p s (if (p.w 0).bit 31 then modSv v clearSurvey u else u)
      (split64 x.firstTick ++ split64 x.lastTick ++ [halves x.sequences.toNat x.missed.toNat]
        ++ x.results.toList.flatMap resultWords) (now u))) ∧
  (Accepts .tmrSet p s = true → ((p.w 0).bit 28 = true → defaultBoundary true p u ≤ p.w64 1) →
    exec (.tmrSet p) s = .next (stagedFor .tmrSet p s (defaultBoundary true p u)
      (.timer (fin 8 ((p.w 0).field 2 0)) (p.w 0) (p.w64 1) (p.w 3) (p.w 4)))) ∧
  (Accepts .tmrRead p s = true →
    let t := fin 8 ((p.w 0).field 2 0)
    let x := getTimer u t
    exec (.tmrRead p) s = .next (answered .tmrRead p s
      ([x.word] ++ split64 x.start ++ [x.period, x.duty] ++ split64 x.next ++ [x.ticks])))

/-- Class 0x04: what each accepted command of branches, detectors and comparators does and returns (04, "Commands"). -/
def Obligations.FilterCommandsComplete : Prop := ∀ (p : Packet) (s : State) (f : Nat), let u := authed p s
  (Accepts .flSetBranch p s = true → applyBoundary true p (p.w64 1) u = .ok f →
    let b := b01 ((p.w 0).bit 22)
    let ws := blockOf 3 3 p
    ((branchCfg ws).en = true ∨ ∀ c ∈ named p u, ((branchCfg (getBranch u (2 * c + b)).accepted).en && branchUsed u c b) = false) →
    splitsCadence u (named p u) (fun g => if g.word0.field 30 29 = 0 then b01 (g.word0.bit 28) == b else true)
      (branchCadence ws) (fun c => branchCadence (getBranch u (2 * c + b)).accepted) = false →
    exec (.flSetBranch p) s = .next (completed .flSetBranch p s
      ((named p u).foldl (fun t c => stageBranch (2 * c + b) ws f t) (claimUnits b p u)) [] f)) ∧
  (Accepts .flSetFir p s = true → applyBoundary true p (p.w64 1) u = .ok f → exec (.flSetFir p) s =
    .next (stagedFor .flSetFir p s f (.fir (fin 32 ((p.w 0).field 4 0)) (blockOf 8 3 p)))) ∧
  (Accepts .flSetDetectors p s = true →
    (∀ c ∈ named p u, let cmp := vgetD (vgetD u.fl.cmpAccepted c (vall 4 0)) 0 0
      (cmp.bit 31 && ((cmp.field 29 28 == 2 && !(p.w 1).bit 30) || (cmp.field 29 28 == 3 && !(p.w 1).bit 29))) = false) →
    splitsCadence u (named p u) (fun g => g.word0.field 30 29 == 1) (detCadence (p.w 1))
      (fun c => detCadence (vgetD u.fl.detAccepted c 0)) = false →
    exec (.flSetDetectors p) s = .next (completed .flSetDetectors p s
      ((named p u).foldl (fun t c => stage (defaultBoundary true p u) (.detectors (fin 256 c) (p.w 1))
        { t with fl := { t.fl with detAccepted := vsetD t.fl.detAccepted c (p.w 1) } }) (claimUnits 2 p u))
      [] (defaultBoundary true p u))) ∧
  (Accepts .flSetComparator p s = true → exec (.flSetComparator p) s = .next (completed .flSetComparator p s
    ((named p u).foldl (fun t c => stage (defaultBoundary true p u) (.comparator (fin 256 c) (blockOf 4 1 p))
      { t with fl := { t.fl with cmpAccepted := vsetD t.fl.cmpAccepted c (blockOf 4 1 p) } }) (claimUnits 2 p u))
    [] (defaultBoundary true p u))) ∧
  (Accepts .flReadChannel p s = true → exec (.flReadChannel p) s =
    .next (answered .flReadChannel p s (readChannelData ((p.w 0).field 7 0) u))) ∧
  (Accepts .flRelease p s = true → exec (.flRelease p) s = .next (if mirroring u
    then completed .flRelease p s ((named p u).foldl (fun t c =>
      stage (defaultBoundary true p u) (.flRelease (fin 256 c) (BitVec.ofNat 3 ((p.w 1).field 2 0))) t) u)
      [] (defaultBoundary true p u)
    else completed .flRelease p s ((named p u).foldl (fun t c => releaseUnits c ((p.w 1).field 2 0) t) u) [] (now u))) ∧
  (Accepts .flReadFir p s = true → exec (.flReadFir p) s =
    .next (answered .flReadFir p s (vgetD u.fl.fir ((p.w 0).field 4 0) firReset).toList))

/-- Class 0x05: what each accepted command of calibration does and returns (05, "Commands"). -/
def Obligations.CalibrationCommandsComplete : Prop := ∀ (p : Packet) (s : State) (f : Nat), let u := authed p s
  (Accepts .calSetPolicy p s = true → exec (.calSetPolicy p) s = .next (completed .calSetPolicy p s
    ((List.range ((p.w 0).field 13 8)).foldl (fun t i =>
      stage (defaultBoundary true p u) (.calPolicy (fin 32 ((p.w 0).field 4 0 + i)) (p.w 1) (p.w 2)) t) u)
    [] (defaultBoundary true p u))) ∧
  (Accepts .calForeground p s = true →
    let b := (p.w 0).field 4 0
    (∀ x ∈ u.cv.subs, x.chan.val / 8 ≠ b) → (calBasin u b).foreground = none →
    ((p.w 0).bit 8 = true → mirroring u = true ∧ mirrorWorks u = true) →
    applyBoundary ((p.w 0).bit 8) p (p.w64 1) u = .ok f →
    exec (.calForeground p) s = .next (completed .calForeground p s (stageForeground b f u) [] f)) ∧
  (Accepts .calReadBasin p s = true → exec (.calReadBasin p) s =
    .next (answered .calReadBasin p s (readBasinData ((p.w 0).field 4 0) u))) ∧
  (Accepts .calReadTrims p s = true →
    let m := 9 * (p.w 0).field 4 0 + (p.w 0).field 11 8
    let d := vgetD u.cal.digital m Digital.neutral
    exec (.calReadTrims p) s = .next (answered .calReadTrims p s
      ((List.range 8).map (fun g => trimWord u m g) ++ [wd d.dofs.toNat, wd d.dgain.toNat]))) ∧
  (Accepts .calWriteTrim p s = true → applyBoundary false p (p.w64 1) u = .ok f → exec (.calWriteTrim p) s =
    .next (stagedFor .calWriteTrim p s f
      (.trim (fin 288 (9 * (p.w 0).field 4 0 + (p.w 0).field 11 8)) (fin 8 ((p.w 0).field 18 16)) (p.w 3)))) ∧
  (Accepts .calSetRefcheck p s = true → exec (.calSetRefcheck p) s =
    .next (stagedFor .calSetRefcheck p s (defaultBoundary true p u) (.refcheck (p.w 0))))

/-- Class 0x06: what each accepted command of the timebase, the mains tracker and the beacon does and returns (06,
"Commands"). -/
def Obligations.TimebaseCommandsComplete : Prop := ∀ (p : Packet) (s : State) (f : Nat), let u := authed p s
  (Accepts .tbSetSources p s = true → exec (.tbSetSources p) s =
    .next (stagedFor .tbSetSources p s (defaultBoundary true p u) (.tbSources (p.w 0) (p.w 1)))) ∧
  (Accepts .tbSetTime p s = true → applyBoundary false p (p.w64 1) u = .ok f → u.tb.role = .root →
    (timeEn u && beaconAcquired u) = false →
    exec (.tbSetTime p) s = .next (stagedFor .tbSetTime p s f (.timeStep
      { anchor := none, time := p.w64 3, gen := none, valid := true, src := .host,
        leap := some ((p.w 0).bit 31, (p.w 0).bit 30, BitVec.ofNat 16 ((p.w 0).field 15 0)) }))) ∧
  (Accepts .tbReadStatus p s = true → exec (.tbReadStatus p) s = .next (answered .tbReadStatus p s (tbStatusWords u))) ∧
  (Accepts .tbSetHoldover p s = true → exec (.tbSetHoldover p) s =
    .next (stagedFor .tbSetHoldover p s (defaultBoundary false p u) (.tbHoldover (p.w 0) (p.w 1) (p.w 2)))) ∧
  (Accepts .tbSetMains p s = true → exec (.tbSetMains p) s =
    .next (stagedFor .tbSetMains p s (defaultBoundary true p u) (.tbMains (p.w 0) (p.w 1)))) ∧
  (Accepts .tbReadMains p s = true → exec (.tbReadMains p) s = .next (answered .tbReadMains p s (mainsWords u))) ∧
  (Accepts .bcnSet p s = true → exec (.bcnSet p) s =
    .next (stagedFor .bcnSet p s (defaultBoundary true p u) (.bcnSet (p.w 0)))) ∧
  (Accepts .bcnRead p s = true → exec (.bcnRead p) s = .next (answered .bcnRead p s (bcnWords u)))

/-- Class 0x07: what each accepted command of the ring and its mode changes does and returns (07, "Commands"). -/
def Obligations.RingCommandsComplete : Prop := ∀ (p : Packet) (s : State), let u := authed p s
  (Accepts .ringSetPolicy p s = true → exec (.ringSetPolicy p) s =
    .next (stagedFor .ringSetPolicy p s (defaultBoundary false p u) (.ringPolicy (p.w 0) (p.w 1)))) ∧
  (Accepts .ringSetHop p s = true → exec (.ringSetHop p) s = .next (stagedFor .ringSetHop p s (defaultBoundary false p u)
    (.ringHop (sideBit (p.w 0)) (Vector.ofFn (fun i : Fin 5 =>
      BitVec.ofNat 16 ((p.w (1 + i.val / 2)).field (16 * (i.val % 2) + 15) (16 * (i.val % 2)))))))) ∧
  (Accepts .ringSetIdentity p s = true → exec (.ringSetIdentity p) s = .next (completed .ringSetIdentity p s
    { u with ao := { u.ao with identity := p.w 0 } } [] (now u))) ∧
  (Accepts .ringReadStatus p s = true → exec (.ringReadStatus p) s =
    .next (answered .ringReadStatus p s (ringStatusWords u))) ∧
  (Accepts .ringReadHop p s = true → exec (.ringReadHop p) s =
    .next (answered .ringReadHop p s (ringHopWords (sideBit (p.w 0)) u))) ∧
  (∀ (op : Op) (q : Packet) (t : State), Accepts .ringMcStage p s = true →
    readStaged (p.params.drop 1) = .command op q →
    let m : Message := { kind := 0x0A, cls := 2, target := if q.bcast then none else some q.target, side := none
                         payload := p.w 0 :: p.params.drop 1 }
    (forThisHub q u = true → stagePacket (p.w 0) { words := p.params.drop 1, op := op, packet := q } u = .ok t →
      exec (.ringMcStage p) s = .next (completed .ringMcStage p s (if q.bcast then send m t else t) [] (now u))) ∧
    (forThisHub q u = false → q.bcast = false → u.ring.mrole ≠ .refused → Nat.testBit (memberMask u) q.target.toNat = true →
      exec (.ringMcStage p) s = .next (completed .ringMcStage p s (send m u) [] (now u)))) ∧
  (Accepts .ringMcPrepare p s = true → isMaster u = true → u.tb.started = true → u.ring.mc.pending = none →
    u.ring.mc.state ≠ .prepared → now u + frameLen * max 16 (u.ring.policy0.field 7 0 + 4) ≤ (prepareOf p).c →
    exec (.ringMcPrepare p) s =
      .next (completed .ringMcPrepare p s (announcePrepare (prepareOf p) u) [] (prepareOf p).c)) ∧
  (Accepts .ringMcRead p s = true → exec (.ringMcRead p) s = .next (answered .ringMcRead p s (mcWords u))) ∧
  (Accepts .ringAsymMeasure p s = true → exec (.ringAsymMeasure p) s = .next (completed .ringAsymMeasure p s
    (setAsym (sideBit (p.w 0)) (some { apply := (p.w 0).bit 31, n := (p.w 0).field 23 8, pathPs := (p.w 1).toInt, count := 0,
                                       sum := 0, sumSq := 0, own := [], neighbour := [] }) u) [] (now u)))

/-- Class 0x08: what each accepted command of the redundant pair does and returns on a pair unit (08, "Commands"). -/
def Obligations.PairCommandsComplete : Prop := ∀ (p : Packet) (s : State), let u := authed p s
  (Accepts .pairSetPolicy p s = true → u.pair.pstate ≠ .solo → exec (.pairSetPolicy p) s =
    .next (stagedFor .pairSetPolicy p s (defaultBoundary true p u) (.pairPolicy (p.w 0) (p.w 1)))) ∧
  (Accepts .pairSetLink p s = true → u.pair.pstate ≠ .solo → exec (.pairSetLink p) s =
    .next (stagedFor .pairSetLink p s (defaultBoundary false p u) (.pairLink (p.w 0)))) ∧
  (Accepts .pairReadStatus p s = true → exec (.pairReadStatus p) s =
    .next (answered .pairReadStatus p s (pairStatusWords u))) ∧
  (Accepts .pairHandover p s = true → u.pair.pstate = .active → u.pair.lanesUp = true →
    u.pair.peer.pstate = 2 → u.pair.peer.healthy = true → now u + 4 * frameLen ≤ p.w64 0 →
    exec (.pairHandover p) s = .next (completed .pairHandover p s
      { u with pair := { u.pair with handoverAt := some (p.w64 0) } } [] (p.w64 0))) ∧
  (Accepts .pairForceAuthority p s = true → u.pair.pstate = .joining ∨ u.pair.pstate = .hold →
    exec (.pairForceAuthority p) s = .next (completed .pairForceAuthority p s
      { u with pair := { u.pair with nextState := some .activeAlone, forced := true } } [] (nextFrame u))) ∧
  (Accepts .pairMirrorRead p s = true → u.pair.pstate ≠ .solo → exec (.pairMirrorRead p) s = .next (answered .pairMirrorRead p s
    (match (if holdsAuthority u then u.pair.records.find? (fun r =>
        (r.rseq.toNat + 65536 - (p.w 0).field 15 0) % 65536 < 32768) else none) with
      | some r => r.words
      | none => []))) ∧
  (Accepts .pairMirrorApply p s = true → holdsAuthority u = false → exec (.pairMirrorApply p) s =
    .next (completed .pairMirrorApply p s (takeRecord (recordOf p.params u) u) [] (now u)))

/-- Class 0x09: what each accepted command of acquisition does and returns (09, "Commands"). -/
def Obligations.CaptureCommandsComplete : Prop := ∀ (p : Packet) (s : State) (f : Nat), let u := authed p s
  (Accepts .capSetConfig p s = true →
    let i := setNamed p 0
    let c := capCfg (blockOf 15 0 p)
    ((getSet u i).state = .free ∨ (getSet u i).state = .idle) →
    (∀ x ∈ c.chans, (branchCfg (getBranch u (2 * x + c.branch)).words).en = true ∧
      (branchCfg (getBranch u (2 * x + c.branch)).accepted).en = true) →
    (∀ j : Fin 16, j ≠ i → (getSet u j).state ≠ .free → c.overlaps (capCfg (getSet u j).config) = false) →
    exec (.capSetConfig p) s = .next (completed .capSetConfig p s
      (modSet i (fun t => { CapSet.reset with state := .idle, owner := t.owner, config := blockOf 15 0 p, trigger := t.trigger,
                                              patternPrev := t.patternPrev, pendingTick := t.pendingTick }) (claimSet i p u))
      [] (now u))) ∧
  (Accepts .capSetTrigger p s = true → exec (.capSetTrigger p) s = .next (completed .capSetTrigger p s
    (stage (defaultBoundary false p u) (.capTrigger (setNamed p 1) (blockOf 6 0 p)) (claimSet (setNamed p 1) p u))
    [] (defaultBoundary false p u))) ∧
  (Accepts .capArm p s = true → applyBoundary false p (p.w64 1) u = .ok f → exec (.capArm p) s =
    .next (stagedFor .capArm p s f (.capArm (setNamed p 0) ((p.w 0).bit 31)))) ∧
  (Accepts .capTrigger p s = true → exec (.capTrigger p) s =
    .next (completed .capTrigger p s (commandTriggers p u) [] (now u))) ∧
  (Accepts .capRelease p s = true →
    let i := setNamed p 0
    let n := (p.w 0).field 23 8
    n ≤ (getSet u i).ready.length →
    let v := modSet i (fun t => { t with ready := t.ready.drop n }) u
    exec (.capRelease p) s = .next (completed .capRelease p s
      (if (getSet u i).state = .full then stage (nextFrame u) (.capRelease i) v else v) [] (now u))) ∧
  (Accepts .capDelete p s = true → exec (.capDelete p) s =
    .next (stagedFor .capDelete p s (defaultBoundary false p u) (.capDelete (setNamed p 0)))) ∧
  (Accepts .capReadStatus p s = true →
    let v := settlePatterns (now u) u
    exec (.capReadStatus p) s =
      .next (completed .capReadStatus p s v (capStatusWords (getSet v (setNamed p 0))) (now u))) ∧
  (Accepts .capSetPins p s = true → exec (.capSetPins p) s =
    .next (stagedFor .capSetPins p s (defaultBoundary false p u) (.capPins (blockOf 4 0 p))))

/-- Class 0x0A: what each accepted command of the capture memory does and returns (10, "Commands"). -/
def Obligations.MemoryCommandsComplete : Prop := ∀ (p : Packet) (s : State), let u := authed p s
  (Accepts .memInit p s = true → u.mem.mstate = .uninit ∨ u.mem.mstate = .failed → exec (.memInit p) s =
    .next (completed .memInit p s
      { u with mem := { u.mem with mstate := .training, initWord := p.w 0, initTick := now u, failStep := 0 } } [] (now u))) ∧
  (Accepts .memSetPolicy p s = true → exec (.memSetPolicy p) s =
    .next (stagedFor .memSetPolicy p s (defaultBoundary false p u) (.memPolicy (p.w 0) (p.w 1)))) ∧
  (Accepts .memReadStatus p s = true → exec (.memReadStatus p) s = .next (answered .memReadStatus p s (memStatusWords u))) ∧
  (Accepts .memReadErrlog p s = true → exec (.memReadErrlog p) s = .next (completed .memReadErrlog p s
    (if (p.w 0).bit 31 then { u with mem := { u.mem with errLog := [], errOverflow := 0 } } else u)
    (wd (u.mem.errTotal.toNat * 65536 + u.mem.errOverflow.toNat * 256 + u.mem.errLog.length)
      :: (u.mem.errLog.flatMap (MemError.words (rowsPerBank u)) ++ List.replicate 80 0).take 80) (now u))) ∧
  (Accepts .memInjectError p s = true → u.mem.mstate = .ready → (p.w 1).toNat < capBytes u → exec (.memInjectError p) s =
    .next (completed .memInjectError p s
      (acceptRequest { requester := 3, fn := 0, write := true, addr := (p.w 1).toNat, len := 8, data := [],
                       use := .inject (injectMask (p.w 0)) } u) [] (now u)))

/-- Class 0x0B: what each accepted command of the compression engine does and returns (11, "Commands"). -/
def Obligations.CompressionCommandsComplete : Prop := ∀ (p : Packet) (s : State), let u := authed p s
  (Accepts .cmpSetMap p s = true → exec (.cmpSetMap p) s = .next (completed .cmpSetMap p s
    ((List.range ((p.w 0).field 21 16)).foldl (fun t k =>
      { t with cmp := { t.cmp with map := vsetD t.cmp.map ((p.w 0).field 8 0 + k) (blockOf 4 (1 + 4 * k) p) } }) u) [] (now u))) ∧
  (Accepts .cmpReadMap p s = true → exec (.cmpReadMap p) s =
    .next (answered .cmpReadMap p s (mapEntry u ((p.w 0).field 8 0)).toList)) ∧
  (Accepts .cmpSubmit p s = true → u.mem.mstate = .ready →
    (∀ j ∈ u.cmp.jobs, ∀ a ∈ jobRegions j.words, ∀ b ∈ jobRegions p.params, regionsClash a b = false) →
    (u.cmp.jobs.filter (fun j => j.fn == p.func)).length < 8 →
    exec (.cmpSubmit p) s = .next (completed .cmpSubmit p s
      { u with cmp := { u.cmp with nextId := u.cmp.nextId + 1, jobs := u.cmp.jobs ++
        [{ id := u.cmp.nextId, fn := p.func, words := p.params, running := false, columns := [], states := [], ctxCrc := none,
           samples := 0, nsamp := 0, done := 0, tiers := 0, effort := 0, effortMin := 0, used := 0, payload := 0, crc := 0,
           listCrc := 0, rawBlocks := 0, verifyFail := 0, cancelled := false, result := none }] } }
      [wd u.cmp.nextId.toNat] (now u))) ∧
  (∀ j : Job, Accepts .cmpReadJob p s = true →
    u.cmp.jobs.find? (fun j => j.id == (p.w 0).extractLsb' 0 16) = some j →
    exec (.cmpReadJob p) s = .next (answered .cmpReadJob p s (jobWords j (b01 j.running) 0 0 0 0))) ∧
  (∀ j : Job, Accepts .cmpCancel p s = true →
    u.cmp.jobs.find? (fun j => j.id == (p.w 0).extractLsb' 0 16) = some j →
    exec (.cmpCancel p) s = .next (completed .cmpCancel p s
      (if j.running then putJob { j with cancelled := true } u else endJob j 8 0 0 u) [] (now u))) ∧
  (Accepts .cmpReadStatus p s = true → exec (.cmpReadStatus p) s = .next (answered .cmpReadStatus p s
    [halves u.cmp.jobsDone.toNat u.cmp.jobsFailed.toNat, halves u.cmp.verifyFail.toNat u.cmp.jobs.length,
     wd ((if u.cmp.capped then 1 else 3) * 1073741824 + u.cmp.streamTiers.toNat)]))

/-- Class 0x0C: what each accepted command of the streams does and returns (12, "Commands"). -/
def Obligations.StreamCommandsComplete : Prop := ∀ (p : Packet) (s : State) (f : Nat), let u := authed p s
  let k := (p.w 0).field 1 0
  let i := streamIndex p.func k
  (Accepts .stSetStream p s = true →
    let hubs := remoteHubs (wantedRanges p) u
    let chans := localChannels (wantedRanges p) u
    ((fnOfCode p.func).map (fun g => (vgetD (getFn u g).contract 0 0).field 9 8)).getD 2 ≤ (p.w 0).field 22 20 →
    (∀ h ∈ hubs, Nat.testBit (memberMask u) h.toNat = true) →
    streamBoundary (!(hubs ++ ((getStream u i).origins.filter (fun o => o.hub != u.ring.hubId)).map (fun o => o.hub)).isEmpty)
      p (p.w64 2) u = .ok f →
    (chans = [] ∨ segmentRefusal (p.w 0) chans u = none) →
    exec (.stSetStream p) s = .next (if hubs.isEmpty then completed .stSetStream p s (setStream p f u) [] f
      else owing .stSetStream p s (setStream p f u) (.streamSetup p.func k))) ∧
  (Accepts .stFlush p s = true → exec (.stFlush p) s =
    .next (if (flushHubs p u).isEmpty then completed .stFlush p s (flushStream p u) [] (now u)
      else owing .stFlush p s (flushStream p u) (.streamFlush p.func k))) ∧
  (Accepts .stDelete p s = true → streamBoundary (!(deleteHubs p u).isEmpty) p (p.w64 1) u = .ok f →
    exec (.stDelete p) s = .next (if (deleteHubs p u).isEmpty then completed .stDelete p s (deleteStream p f u) [] f
      else owing .stDelete p s (deleteStream p f u) (.streamDelete p.func k))) ∧
  (Accepts .stReadStatus p s = true → exec (.stReadStatus p) s = .next (answered .stReadStatus p s
    (streamStatusWords (getStream u (4 * (p.w 0).field 11 8 + (p.w 0).field 1 0)))))

/-- Class 0x0D: what each accepted command of the serial lanes does and returns (13, "Commands"). -/
def Obligations.LaneCommandsComplete : Prop := ∀ (p : Packet) (s : State), let u := authed p s
  (Accepts .lnSetGroup p s = true → exec (.lnSetGroup p) s = .next (stagedFor .lnSetGroup p s (defaultBoundary false p u)
    (.laneGroup (fin 3 ((p.w 0).field 31 30)) (p.w 0) (p.w 1)))) ∧
  (Accepts .lnSetAux p s = true → exec (.lnSetAux p) s = .next (completed .lnSetAux p s
    { u with ao := { u.ao with auxMode := BitVec.ofNat 2 ((p.w 0).field 31 30) } } [] (now u))) ∧
  (Accepts .lnReadLane p s = true → exec (.lnReadLane p) s = .next (answered .lnReadLane p s (laneWords (laneOf p) u))) ∧
  (Accepts .lnTest p s = true →
    let l : Fin 16 := fin 16 ((p.w 0).field 31 28)
    ((p.w 0).field 27 25 = 0 ∨ (onlyUp l u && !(p.w 0).bit 21) = false ∧ pcieLive l u = false) →
    exec (.lnTest p) s = .next (completed .lnTest p s (applyLaneTest l (p.w 0) u) [] (now u))) ∧
  (Accepts .lnReadTest p s = true →
    let x := getLane u (laneOf p)
    exec (.lnReadTest p) s = .next (answered .lnReadTest p s
      ([wd (b01 x.chkLock * 2147483648 + x.testWord.field 27 25 * 268435456)] ++ split64 x.bits ++ [x.errors]))) ∧
  (Accepts .lnRetrain p s = true → exec (.lnRetrain p) s = .next (completed .lnRetrain p s
    (retrain (laneOf p) ((p.w 0).bit 31) u) [] (now u)))

/-- Class 0x0E: what each accepted command of the functions does and returns (14, "Commands"). -/
def Obligations.FunctionCommandsComplete : Prop := ∀ (p : Packet) (s : State) (f : Nat), let u := authed p s
  let fn := fnNamed p
  (Accepts .fnSetView p s = true → namesAbsentVf p u = false → applyBoundary false p (p.w64 1) u = .ok f →
    rangeAllowed fn ((p.w 3).field 19 0) ((p.w 4).field 17 0) u = true →
    exec (.fnSetView p) s = .next (stagedFor .fnSetView p s f
      (.fnView fn (blockRanges p) ((p.w 3).field 19 0) ((p.w 4).field 17 0)))) ∧
  (Accepts .fnReadView p s = true → namesAbsentVf p u = false → exec (.fnReadView p) s =
    .next (answered .fnReadView p s (viewWords (getFn u fn) (fnCode fn)))) ∧
  (Accepts .fnSetQos p s = true → namesAbsentVf p u = false →
    partsOver fn (Vector.ofFn (fun i : Fin 4 => p.w i.val)) u = [] → exec (.fnSetQos p) s =
    .next (stagedFor .fnSetQos p s (defaultBoundary false p u) (.fnQos fn (Vector.ofFn (fun i : Fin 4 => p.w i.val))))) ∧
  (Accepts .fnReadQos p s = true → namesAbsentVf p u = false → exec (.fnReadQos p) s =
    .next (answered .fnReadQos p s ((getFn u fn).contract.toList ++ [wd u.host.ringBudget.toNat]))) ∧
  (Accepts .fnSetBudget p s = true → minimums 1 0 (acceptedContract 0 u) u ≤ (p.w 0).field 15 0 →
    exec (.fnSetBudget p) s = .next (completed .fnSetBudget p s
      { u with host := { u.host with ringBudget := (p.w 0).extractLsb' 0 16 } } [] (now u))) ∧
  (Accepts .fnReset p s = true → namesAbsentVf p u = false → fnExists u fn = true →
    (u.tb.started = true → exec (.fnReset p) s =
      .next (owing .fnReset p s (functionReset fn resetKindFn u) (.fnReset fn))) ∧
    (u.tb.started = false → exec (.fnReset p) s =
      .next (completed .fnReset p s (functionReset fn resetKindFn u) [] (now u)))) ∧
  (Accepts .fnReadFunctions p s = true → exec (.fnReadFunctions p) s = .next (answered .fnReadFunctions p s
    (((List.finRange 10).filter (fun g => g.val != 9)).map (functionWord u))))

/-- Class 0x0F: what each accepted command of health, ledger and calendar does and returns (16, "Commands"). -/
def Obligations.HealthCommandsComplete : Prop := ∀ (p : Packet) (s : State), let u := authed p s
  let w := p.w 0
  (Accepts .hlReadMonitors p s = true → exec (.hlReadMonitors p) s = .next (answered .hlReadMonitors p s (monitorWords u))) ∧
  (Accepts .hlSetThresholds p s = true → exec (.hlSetThresholds p) s =
    .next (stagedFor .hlSetThresholds p s (defaultBoundary false p u) (.thresholds (p.w 0) (p.w 1)))) ∧
  (Accepts .hlReadLedger p s = true → exec (.hlReadLedger p) s =
    .next (answered .hlReadLedger p s (ledgerWords u.ao.ledger (w.field 7 0) (w.field 15 8)))) ∧
  (Accepts .hlReadEventLog p s = true → exec (.hlReadEventLog p) s = .next (answered .hlReadEventLog p s
    ([wd (visibleLog p.func u).length, u.hl.overflow]
      ++ (((visibleLog p.func u).drop (w.field 8 0)).take (w.field 20 16)).flatMap EventEntry.words))) ∧
  (Accepts .hlClearEventLog p s = true → exec (.hlClearEventLog p) s = .next (completed .hlClearEventLog p s
    { u with hl := { u.hl with
        log := u.hl.log.filter (fun e => !(if e.severity = .informational then w.bit 0 else w.bit 1))
        overflow := if w.bit 31 then 0 else u.hl.overflow } } [] (now u))) ∧
  (Accepts .hlSetPeak p s = true → exec (.hlSetPeak p) s =
    .next (stagedFor .hlSetPeak p s (defaultBoundary false p u) (.peak w))) ∧
  (Accepts .hlReadPeak p s = true → exec (.hlReadPeak p) s = .next (answered .hlReadPeak p s (peakWords u))) ∧
  (Accepts .hlReadLastWords p s = true →
    let seen := u.ao.lastWords.filter (LastWords.visible p.func)
    let got := (seen.drop (w.field 5 0)).take (w.field 12 8)
    let left := if w.bit 31 then u.ao.lastWords.filter (fun r => !got.contains r)
      else u.ao.lastWords.map (fun r => if got.contains r then { r with read := true } else r)
    exec (.hlReadLastWords p) s = .next (completed .hlReadLastWords p s { u with ao := { u.ao with lastWords := left } }
      (wd (u.ao.heldMessages.length * 256 + seen.length) :: got.flatMap LastWords.words) (now u))) ∧
  (Accepts .hlSetCalendar p s = true → (w.bit 30 && u.ao.calendar.auto && u.tb.timeValid) = false →
    exec (.hlSetCalendar p) s = .next (stagedFor .hlSetCalendar p s (defaultBoundary false p u)
      (.calendar (w.bit 31) (if w.bit 30 then some (p.w 1) else none)))) ∧
  (Accepts .hlReadCalendar p s = true →
    let c := { u.ao.calendar with sub := (Config.freeWord u.freeCtr).extractLsb' 0 15 }
    exec (.hlReadCalendar p) s = .next (completed .hlReadCalendar p s
      { u with freeCtr := u.freeCtr + 1, ao := { u.ao with calendar := c } } (calendarWords c) (now u))) ∧
  (Accepts .hlSetWatchdog p s = true → exec (.hlSetWatchdog p) s =
    .next (stagedFor .hlSetWatchdog p s (defaultBoundary false p u) (.watchdog (w.extractLsb' 0 16)))) ∧
  (Accepts .hlZeroiseKeys p s = true → exec (.hlZeroiseKeys p) s =
    .next (completed .hlZeroiseKeys p s (zeroise 1 u) [] (now u)))

/-- Class 0x10: what each accepted command of the self-tests does and returns (17, "Commands"). -/
def Obligations.SelfTestCommandsComplete : Prop := ∀ (p : Packet) (s : State), let u := authed p s
  let t := testField p
  (Accepts .tsRun p s = true → runOf u t = none → (t = 2 → u.mem.mstate = .ready) → (t = 6 → testBusJoined u = false) →
    (t = 8 → u.pair.pstate ≠ .active) →
    exec (.tsRun p) s = .next (completed .tsRun p s
      { u with ts := { u.ts with nextRun := u.ts.nextRun + 1, runs := u.ts.runs ++
        [{ test := t, runId := u.ts.nextRun, origin := 0, first := (p.w 0).field 6 0, count := (p.w 0).field 15 8
           arg1 := p.w 1, arg2 := p.w 2, startAt := nextFrame u, started := false, abort := false, left := [], next := 0
           cycles := [] }] } } [wd u.ts.nextRun.toNat] (now u))) ∧
  (Accepts .tsReadResult p s = true → exec (.tsReadResult p) s =
    .next (answered .tsReadResult p s (testWords t (testRecord u t)))) ∧
  (Accepts .tsAbort p s = true → exec (.tsAbort p) s =
    .next (completed .tsAbort p s (modRun t (fun r => { r with abort := true }) u) [] (now u))) ∧
  (Accepts .tsSetSchedule p s = true → exec (.tsSetSchedule p) s =
    .next (stagedFor .tsSetSchedule p s (defaultBoundary false p u) (.schedule (p.w 0) (p.w 1)))) ∧
  (Accepts .tsScanEnable p s = true → exec (.tsScanEnable p) s = .next (completed .tsScanEnable p s
    (crit 0x1004 0 (split64 (now u)) { zeroise 2 u with ao := { (zeroise 2 u).ao with scanArmed := true } }) [] (now u)))

/-- Command and output queues of a PCIe function: what each of their events does (14, "Host-memory queues"; 15, "Sources and order").
Turns are taken among the sources known to hold a whole packet: the model's choice, assumption 180. -/
def Obligations.QueueEventsComplete : Prop := ∀ (f : Fn) (q : Nat) (v : Word) (s : State),
  let x := getQueue s f q
  let n := v.field 15 0 % 2 ^ (x.log2Slots.toNat + 1)
  (s.pwr.held = false → fnExists s f = true → queueExists f q = true →
    (x.en = true →
      let ahead := if q = 0 then slotsBetween x n x.hubIndex.toNat else slotsBetween x x.hubIndex.toNat n
      (ahead ≤ 2 ^ x.log2Slots.toNat →
        exec (.doorbellWrite f q v) s = .next (setQueue s f q { x with hostIndex := BitVec.ofNat 16 n })) ∧
      (2 ^ x.log2Slots.toNat < ahead → x.error = false →
        exec (.doorbellWrite f q v) s = .next (queueError f q 2 s))) ∧
    (x.en = false → exec (.doorbellWrite f q v) s = .next s) ∧
    (x.en = false → v.bit 31 = true → exec (.queueEnableWrite f q v) s = .next (setQueue s f q
      { x with modUs := v.extractLsb' 0 16, log2Slots := v.extractLsb' 16 4, en := true, active := true
               hubIndex := 0, hostIndex := 0, error := false, errCode := 0 })) ∧
    (x.en = true → v.bit 31 = false → exec (.queueEnableWrite f q v) s = .next (setQueue s f q
      { x with modUs := v.extractLsb' 0 16, en := false, active := false }))) ∧
  (∀ item rest, q ≠ 0 → queueExists f q = true → fnExists s f = true → x.en = true → x.error = false →
    transfersRun s f = true → x.waiting = item :: rest →
    slotsBetween x x.hubIndex.toNat x.hostIndex.toNat + ceilDiv item.length 16 ≤ 2 ^ x.log2Slots.toNat →
    nextWrite f q s = true →
    (let s1 := chargeWrite f q item (setQueue s f q { x with waiting := rest })
     exec (.queueItemWrite f q false) s = .next (itemCauses f q item (advanceHub f q (ceilDiv item.length 16)
      { s1 with out := { s1.out with
          host := s1.out.host ++ [.item f q (x.hubIndex.toNat % 2 ^ x.log2Slots.toNat) item] } }))) ∧
    exec (.queueItemWrite f q true) s = .next (queueError f q 1 (chargeWrite f q item s))) ∧
  (∀ r, s.fh.replies.find? (fun e => e.1 == .cq f) = some (.cq f, r) →
    (getQueue s f 1).en = true → (getQueue s f 1).error = false → slotsOf r.words ≤ queueRoom s f 1 →
    exec (.replyWrite (.cq f)) s =
      .next (setQueue { s with fh := { s.fh with replies := s.fh.replies.erase (.cq f, r) } } f 1
        { getQueue s f 1 with waiting := (getQueue s f 1).waiting ++ [r.words] })) ∧
  (∀ words us op p, inTurn (.cq f) s = true → s.fh.waiting.find? (fun w => sameSource w.2.source (.cq f)) = none → cqHolds f words s = true →
    readPacket (.cq f) words s = .command op p → mayTake p s = true →
    exec (.commandTake (.cq f) words us) s =
      .next (decideRead (.cq f) words us (advanceHub f 0 (slotsOf words) (setServed (.cq f) s)))) ∧
  (∀ words us, inTurn (.cq f) s = false → exec (.commandTake (.cq f) words us) s = .next s) ∧
  (∀ words, readPacket (.cq f) words s = .malformed → mayTake { source := .cq f, tag := 0 } s = true →
    inTurn (.cq f) s = true → cqHolds f words s = true →
    exec (.commandHeaderError (.cq f) words) s = .next (malformedHeader (.cq f) (wordAt words 0) (setServed (.cq f) s))) ∧
  (∀ words, inTurn (.cq f) s = false → exec (.commandHeaderError (.cq f) words) s = .next s)

/-- The registers of BAR0: what each write of a host does, by register and by offset (14, "BAR0", "Interrupts").
A row that comes with a frame boundary before its tick still to come changes nothing (`Early`): the model's choice,
assumption 178. -/
def Obligations.RegisterEventsComplete : Prop := ∀ (f : Fn) (v : Word) (s : State),
  (s.pwr.held = false →
    exec (.compatModeWrite v) s = .next (writeDevcfg v s) ∧ exec (.chipResetWrite v) s = .next (writeDevcfg v s)) ∧
  (s.pwr.held = false → fnExists s f = true →
    (∀ reg, exec (.intCauseWrite f reg v) s = .next (clearCause f reg v s)) ∧
    (∀ reg, exec (.intMaskWrite f reg v) s = .next (writeMask f reg v s)) ∧
    (∀ n : Fin 4, exec (.intVecWrite f n v) s = .next (writeVec f n.val v s))) ∧
  (∀ off : BitVec 16, exec (.registerWrite f off 0xF v) s = .next (regWrite f off.toNat v s) ∧
    (∀ be, be ≠ 0xF → exec (.registerWrite f off be v) s = .next s)) ∧
  (∀ cause e, moderationEnd s f cause = some e →
    (dueSoon e s = true → (getFn (reach e s) f).heldCauses.contains cause = false → exec (.interruptModerationEnd f cause) s =
      .next (modFn (reach e s) f (fun y => { y with moderated := y.moderated.filter (fun m => m.1 != cause) }))) ∧
    (dueSoon e s = true → (getFn (reach e s) f).heldCauses.contains cause = true → exec (.interruptModerationEnd f cause) s =
      .next (moderate f cause (if 32 ≤ cause then setAfSq (cause - 32) else setCause f cause) (reach e s)))) ∧
  (∀ cause e, moderationEnd s f cause = some e → Early e (.interruptModerationEnd f cause) s)

/-- The writes of DEVCFG: COMPAT while neither CFG_LOCK nor VF Enable is set, the two SPI enables, and the chip reset of the
value A5C3 (14, "BAR0"; 18, "The COMPAT strap and bit"). -/
def Obligations.DevcfgWrite : Prop := ∀ (v : Word) (s : State),
  (v.field 15 0 ≠ 0xA5C3 → writeDevcfg v s = { s with host := { s.host with
    compat := s.host.compat || (v.bit 31 && !s.host.cfgLock && !s.host.vfEnable), spiIrqEn := v.bit 30, spiEvtEn := v.bit 29 } }) ∧
  (v.field 15 0 = 0xA5C3 → writeDevcfg v s = chipReset 2 true 5 [] (some 4) { s with host := { s.host with
    compat := s.host.compat || (v.bit 31 && !s.host.cfgLock && !s.host.vfEnable), spiIrqEn := v.bit 30, spiEvtEn := v.bit 29 } })

/-- The transactions of the SPI port: what each does while VDDIO1 is valid and the hub is not held (14, "The SPI management port"); without them
the port does not answer (18). -/
def Obligations.SpiEventsComplete : Prop := ∀ (s : State),
  (vget s.pwr.rails 7 = true → s.pwr.held = false →
    (∀ off words, exec (.writeReg off words) s = .next (spiWriteWords off.toNat words s)) ∧
    (∀ (off : BitVec 16) count, exec (.readReg off count) s = .next (setSpiOutput ((List.range count).map (fun i =>
      if off.toNat + 4 * i < 0x0400 then regRead 0 (off.toNat + 4 * i) s else 0)) s)) ∧
    (exec .readStatus s = .next (let t := setSpiOutput [spiStatus s] s
      { t with host := { t.host with spi := { t.host.spi with pushErr := false, evtLost := false } } })) ∧
    (∀ words,
      (spiUsed s + 4 * words.length ≤ 2048 → exec (.pushCmd words true) s = .next { s with host := { s.host with
        spi := { s.host.spi with commands := s.host.spi.commands ++ [words] } } }) ∧
      (2048 < spiUsed s + 4 * words.length → exec (.pushCmd words true) s = .next { s with host := { s.host with
        spi := { s.host.spi with pushErr := true } } }) ∧
      exec (.pushCmd words false) s = .next { s with host := { s.host with spi := { s.host.spi with pushErr := true } } }) ∧
    (∀ r rest, s.host.spi.replies = r :: rest →
      exec (.pullReply true) s = .next (let t := setSpiOutput r s
        { t with host := { t.host with spi := { t.host.spi with replies := rest } } }) ∧
      exec (.pullReply false) s = .next (setSpiOutput r s)) ∧
    (∀ e rest, s.host.spi.events = e :: rest →
      exec (.pullEvent true) s = .next (let t := setSpiOutput e s
        { t with host := { t.host with spi := { t.host.spi with events := rest } } }) ∧
      exec (.pullEvent false) s = .next (setSpiOutput e s)) ∧
    (s.host.spi.replies = [] → ∀ w, exec (.pullReply w) s = .next (setSpiOutput [] s)) ∧
    (s.host.spi.events = [] → ∀ w, exec (.pullEvent w) s = .next (setSpiOutput [] s))) ∧
  (vget s.pwr.rails 7 = false ∨ s.pwr.held = true →
    (∀ off words, exec (.writeReg off words) s = .next s) ∧ (∀ off n, exec (.readReg off n) s = .next s) ∧
    exec .readStatus s = .next s ∧ (∀ words w, exec (.pushCmd words w) s = .next s) ∧
    (∀ w, exec (.pullReply w) s = .next s) ∧ (∀ w, exec (.pullEvent w) s = .next s))

/-- PCIe and function events: resets, power states, bus-master enables, links (14, "Resets", "Interrupts", "The PCIe endpoints"). -/
def Obligations.FunctionEventsComplete : Prop := ∀ (f : Fn) (s : State),
  (fnExists s f = true → f ≠ 0 → exec (.flr f) s = .next (functionReset f resetKindFn s)) ∧
  (exec (.flr 0) s = .next (pf0Reset s)) ∧
  (∀ d, exec (.linkReset d) s = .next (linkReset d s)) ∧
  (∀ d, s.ln.auxMode = 2 → exec (.auxLinkReset d) s = .next (auxReset d s)) ∧
  (exec .vfEnableCleared s = .next (clearVfs s)) ∧
  (fnExists s f = true → (getFn s f).d3hot = false →
    exec (.powerStateChange f true) s = .next (modFn s f (fun x => { x with d3hot := true }))) ∧
  (fnExists s f = true → (getFn s f).d3hot = true →
    exec (.powerStateChange f false) s = .next (resumeInterrupts f (modFn s f (fun x => { x with d3hot := false })))) ∧
  (∀ b m, fnExists s f = true → mayInterrupt s f = true →
    exec (.busMasterEnableChange f { bme := b, msixEn := m, numVfs := none }) s =
      .next (modFn s f (fun x => { x with bme := b, msixEn := m }))) ∧
  (∀ b m, fnExists s f = true → mayInterrupt s f = false →
    exec (.busMasterEnableChange f { bme := b, msixEn := m, numVfs := none }) s =
      .next (resumeInterrupts f (modFn s f (fun x => { x with bme := b, msixEn := m })))) ∧
  (∀ rate, 1 ≤ rate → rate ≤ 4 → s.host.hostPort.perst = false → s.pwr.held = false → ∀ width, (width = 1 ∨ width = 2 ∨ width = 4) →
    exec (.linkTrained .host rate width) s = .next (checkOvercommit (info 0x0E07 0 [0, wd rate, wd width]
      { s with host := { s.host with hostPort := { s.host.hostPort with linkUp := true, rate := rate, width := width } } }))) ∧
  (∀ rate, 1 ≤ rate → rate ≤ 4 → s.host.auxPort.perst = false → s.pwr.held = false → s.ln.auxMode = 2 → ∀ width, (width = 1 ∨ width = 2) →
    exec (.linkTrained .aux rate width) s = .next (checkOvercommit (info 0x0E07 1 [1, wd rate, wd width]
      { s with host := { s.host with auxPort := { s.host.auxPort with linkUp := true, rate := rate, width := width } } }))) ∧
  (exec (.perstRelease .host) s = .next { s with host := { s.host with hostPort := { s.host.hostPort with perst := false } } }) ∧
  (exec (.perstRelease .aux) s = .next { s with host := { s.host with auxPort := { s.host.auxPort with perst := false } } })

/-- Fountainhead's own events: the end of a lock-out, relays, the restart, the boot script (15, "Relaying and
broadcast", "Authentication", "Firmware patches"; 18, "Boot sources").
A row that comes with a frame boundary before its tick still to come changes nothing (`Early`): the model's choice,
assumption 178. -/
def Obligations.FountainheadEventsComplete : Prop := ∀ (s : State),
  (∀ slot : Fn, let e := vget s.fh.lockedAt slot + 10 * ticksPerSecond
    hasBit s.fh.locked slot.val = true → dueSoon e s = true → exec (.authLockoutEnd slot) s =
      .next { reach e s with fh := { (reach e s).fh with locked := clearBit (reach e s).fh.locked slot.val } }) ∧
  (∀ words op p, let w0 := wordAt words 0
    let src : Source := .relay (w0.extractLsb' 11 5) (w0.extractLsb' 16 16) (w0.bit 6)
    s.fh.executed = [] → s.fh.owed = [] → s.fh.waiting = [] → readNative src .native (words.drop 1) = .command op p →
    exec (.relayCmd words) s = .next (takeCommand (opRules op) p s)) ∧
  (∀ words x, s.fh.relays.find? (fun y => y.id == (wordAt words 0).extractLsb' 16 16) = some x →
    (x.packet.bcast = false → exec (.relayReply words) s =
      .next (pumpRelays (closeRelay ((wordAt words 0).extractLsb' 16 16) (fun p => fitReply x.op p (replyIn words)) s))) ∧
    (x.packet.bcast = true → ((x.succeeded ||| x.rejected) &&& wd (2 ^ (replyIn words).hub.toNat)) = 0 →
      (x.expected &&& wd (2 ^ (replyIn words).hub.toNat)) ≠ 0 → exec (.relayReply words) s =
      .next (pumpRelays (memberReply ((wordAt words 0).extractLsb' 16 16) (replyIn words).hub (replyIn words) s)))) ∧
  (∀ words, s.fh.relays.find? (fun y => y.id == (wordAt words 0).extractLsb' 16 16) = none →
    exec (.relayReply words) s = .next (lateReply s)) ∧
  (∀ id x, s.fh.relays.find? (fun y => y.id == id) = some x → x.packet.bcast = false →
    let e := x.sent + usTicks (1000 * s.fh.relayMs.toNat)
    let r := reach e s
    let v := { r with fh := { r.fh with noResponses := satAdd r.fh.noResponses 1 } }
    dueSoon e s = true → exec (.relayTimeout id) s = .next (pumpRelays (closeRelay id
      (fun p => replyOf x.op.code p .noResponse [wd x.packet.target.toNat] (now r) r) v))) ∧
  (∀ id x, s.fh.relays.find? (fun y => y.id == id) = some x → x.packet.bcast = true →
    let e := x.sent + usTicks (1000 * s.fh.relayMs.toNat)
    let r := reach e s
    let n := popCount ((x.expected &&& ~~~(x.succeeded ||| x.rejected)).zeroExtend 72)
    let v := { r with fh := { r.fh with noResponses := satAdd r.fh.noResponses n } }
    dueSoon e s = true → exec (.relayTimeout id) s = .next (pumpRelays (closeBroadcast id true v))) ∧
  (s.fh.restarting = true → let v := becomeReady { s with fh := { s.fh with
      restarting := false, patch := if s.fh.patchNext.isSome then s.fh.patchNext else s.fh.patch, patchNext := none } }
    let w := info 0x0105 0 [wd (fwVersion s), wd (fwVersion v), wd v.ao.patchFloor.toNat] v
    exec .fwRestartDone s = .next (settle .patchCommit .ok [] (now w) w)) ∧
  (∀ nor, s.pwr.held = false → s.fh.fwReady = false → s.pwr.booting = true →
    (bootSrc s = 0 → exec (.bootStart nor) s = .next (startScript [] s)) ∧
    (5 ≤ bootSrc s → exec (.bootStart nor) s = .next (startScript [] (imageInvalid [1] s))) ∧
    (0 < bootSrc s → bootSrc s < 5 → headerPasses nor.header = false →
      exec (.bootStart nor) s = .next (startScript [] (imageInvalid [2] s))) ∧
    (∀ packets, (bootSrc s = 2 ∨ bootSrc s = 4) → headerPasses nor.header = true → (bootPatch nor s).2 = true →
      scriptOf nor = some packets → exec (.bootStart nor) s = .next (startScript packets (bootPatch nor s).1))) ∧
  (s.pwr.booting = true → s.fh.fwReady = true → s.pwr.scriptLeft = [] →
    s.fh.owed.any (fun o => o.packet.source == .script) = false → s.fh.waiting.any (fun w => w.2.source == .script) = false →
    exec .bootScriptEnd s = .next (endBoot s)) ∧
  (∀ slot : Fn, hasBit s.fh.locked slot.val = true → Early (vget s.fh.lockedAt slot + 10 * ticksPerSecond) (.authLockoutEnd slot) s) ∧
  (∀ id x, s.fh.relays.find? (fun y => y.id == id) = some x →
    Early (x.sent + usTicks (1000 * s.fh.relayMs.toNat)) (.relayTimeout id) s)

/-- Events of the front end: a comparator trip, its hold, the end of a diagnostic, a diagnostic's next repetition, a failed
clamp (02, "Over-voltage", "Diagnostics"; 03, "Modulator failure").
A row that comes with a frame boundary before its tick still to come changes nothing (`Early`): the model's choice,
assumption 178. -/
def Obligations.FrontEndEventsComplete : Prop := ∀ (s : State),
  (∀ port mask pol, hasBit s.fe.isolated port.val = false →
    exec (.ovTrip port mask pol) s = .next (abandonOn port (latchPort port (isolatePort port mask pol s))) ∧
    (isolatePort port mask pol s).fe.trips = s.fe.trips ++ [{ port := port, mask := mask, polarity := pol }] ∧
    (isolatePort port mask pol s).fe.isolated = setBit s.fe.isolated port.val) ∧
  (∀ port mask pol, hasBit s.fe.isolated port.val = true → exec (.ovTrip port mask pol) s =
    .next { s with fe := { s.fe with recloseDue := clearBit s.fe.recloseDue port.val } }) ∧
  (∀ port : Fin 128, hasBit s.fe.isolated port.val = true → hasBit s.fe.latched port.val = false →
    exec (.recloseHoldExpiry port) s = .next { s with fe := { s.fe with recloseDue := setBit s.fe.recloseDue port.val } }) ∧
  (∀ r, s.fe.diagRunning = some r → r.req.kind < 5 → dueSoon (r.began + frameLen * diagFrames r.req.kind) s = true →
    (∀ value, exec (.diagnosticRunEnd false value) s =
      .next (runDiagnostics (r.began + frameLen * diagFrames r.req.kind) (endDiagnostic r false 0 value s))) ∧
    (∀ value, r.req.kind ≠ 3 → exec (.diagnosticRunEnd true value) s =
      .next (runDiagnostics (r.began + frameLen * diagFrames r.req.kind) (endDiagnostic r false 1 0xFFFFFF s))) ∧
    (∀ value : BitVec 24, r.req.kind = 3 → exec (.diagnosticRunEnd true value) s =
      .next (runDiagnostics (r.began + frameLen * diagFrames r.req.kind)
        (endDiagnostic r false 1 (if value.msb then 0x800000 else 0x7FFFFF) s)))) ∧
  (∀ slot d, vget s.fe.diagSlots slot = some d → d.due ≠ 0 →
    (s.fe.diagQueue ++ (s.fe.diagRunning.map (fun r => r.req)).toList).any (fun r => r.request == d.req.request) = false →
    dueSoon d.due s = true → exec (.diagnosticRepeatDue slot) s = .next (runDiagnostics d.due
      { s with tb := { s.tb with tick := max s.tb.tick d.due }
               fe := { s.fe with diagQueue := s.fe.diagQueue ++ [{ d.req with first := false }] } })) ∧
  (∀ (m : Fin 288) k, joinedChannel s (m.val / 9) (m.val % 9) = some k → channelIsolated s (m.val / 9) k = false →
    exec (.clampFailureDetect m) s = .next (failModulator (m.val / 9) (m.val % 9) 1 (now s) s)) ∧
  (∀ r f value, s.fe.diagRunning = some r → r.req.kind < 5 →
    Early (r.began + frameLen * diagFrames r.req.kind) (.diagnosticRunEnd f value) s) ∧
  (∀ slot d, vget s.fe.diagSlots slot = some d → Early d.due (.diagnosticRepeatDue slot) s)

/-- Timers and survey converters: a timer's tick, a pulse's end, a survey start, a slot's end, the loss of the mains (03,
"Timers", "Survey converters"; 06, "Mains").
A row that comes with a frame boundary before its tick still to come changes nothing (`Early`): the model's choice,
assumption 178. -/
def Obligations.TimerEventsComplete : Prop := ∀ (s : State),
  (∀ t : Fin 8, let x := getTimer s t
    x.word.bit 31 = true → s.tb.started = true → (x.word.bit 28 = false ∨ x.ticks = 0) →
    dueSoon x.next s = true → exec (.timerTick t) s = .next (timerTrigger t.val x.next (svStart (1 + t.val) (driveBall t
      (modTimer t (fun y => { y with
        ticks := y.ticks + 1, level := y.pwm, next := if y.word.bit 28 then y.next else y.next + y.period.toNat })
        (advanceTo x.next s)))))) ∧
  (∀ t : Fin 8, let x := getTimer s t
    let e := (if x.word.bit 28 then x.next else x.next - x.period.toNat) + x.duty.toNat
    x.level = true → dueSoon e s = true → exec (.pwmEdge t) s = .next (timerTrigger (8 + t.val) e (svStart (9 + t.val)
      (driveBall t (modTimer t (fun y => { y with level := false }) (advanceTo e s)))))) ∧
  (∀ sv : Fin 4, (getSv s sv).next = none →
    exec (.surveyStartEvent sv) s = .next (svStartEvent (svSource (getSv s sv).seqWord) sv s)) ∧
  (∀ (sv : Fin 4) w es, (getSv s sv).next = some (w, es) → (getSv s sv).running = none →
    exec (.surveyStartEvent sv) s = .next (svStartEvent (svSource w) sv s)) ∧
  (∀ (sv : Fin 4) e r rs outside, let x := getSv s sv
    let w := vget x.entries e
    let slotEnd := x.slotAt + 4 * slotLength w
    x.running = some e → (vget w 0).field 11 10 ≠ 1 → dueSoon (slotEnd / 4) s = true →
    let skipped := x.skip.getD (entryIsolated sv e s)
    let s0 := advanceTo (slotEnd / 4) s
    let t := if skipped then modResult sv e (fun r => { r with skip := satInc r.skip }) s0
      else takeReading sv e false ((x.slotAt + 4 * ((entryTimes w).1 + (entryTimes w).2)) / 4) outside r s0
    (e.val < svLast x.seqWord → exec (.surveySlotEnd sv (r :: rs) outside) s = .next (beginEntry sv (e + 1) slotEnd t)) ∧
    (svLast x.seqWord ≤ e.val → exec (.surveySlotEnd sv (r :: rs) outside) s =
      .next (modSv sv (fun y => { y with running := none, skip := none, sequences := y.sequences + 1 }) t))) ∧
  (s.tb.mains.tracking = true → dueSoon (s.tb.mains.lastGood + frameLen * s.tb.mains1.field 15 0) s = true →
    let v := advanceTo (s.tb.mains.lastGood + frameLen * s.tb.mains1.field 15 0) s
    exec .mainsTrackerLoss s = .next (crit 0x0402 0 (split64 (now v) ++ [wd v.tb.mains.phat])
      { v with tb := { v.tb with mains := { v.tb.mains with tracking := false } }, fl := { v.fl with lcLost := true } })) ∧
  (∀ t : Fin 8, let x := getTimer s t
    Early x.next (.timerTick t) s ∧
    Early ((if x.word.bit 28 then x.next else x.next - x.period.toNat) + x.duty.toNat) (.pwmEdge t) s) ∧
  (∀ (sv : Fin 4) e rs outside, (getSv s sv).running = some e →
    Early (((getSv s sv).slotAt + 4 * slotLength (vget (getSv s sv).entries e)) / 4) (.surveySlotEnd sv rs outside) s) ∧
  Early (s.tb.mains.lastGood + frameLen * s.tb.mains1.field 15 0) .mainsTrackerLoss s

/-- The end of an output window and a missed line-cycle boundary (04, "Windows"). A window that ends at the tick of the other
branch's, whose sample the comparator reads, waits for it (04 R161).
A row that comes with a frame boundary before its tick still to come changes nothing (`Early`): the model's choice,
assumption 178. -/
def Obligations.WindowEventsComplete : Prop := ∀ (c : Fin 256) (b : Fin 2) (s : State),
  let i := 2 * c.val + b.val
  let e := windowNext (getBranch s i) - 1
  let waits := s.fl.deferred.any (fun y => y.1 == c && y.2.1 == b)
  let opens := (branchCfg (getBranch s i).words).en && s.tb.started && inputOpen c.val b.val e s
  (∀ obs, dueSoon e s = true → waits = false → opens = false →
    (∀ t w, formWindow c.val b.val obs (settlePatterns e s) = some (t, w) →
      exec (.windowEnd c b obs) s = .next (endDeferred c (deliverWindow w t))) ∧
    (formWindow c.val b.val obs (settlePatterns e s) = none → exec (.windowEnd c b obs) s = .next (endDeferred c s))) ∧
  (∀ obs, dueSoon e s = true → waits = false → opens = true →
    exec (.windowEnd c b obs) s = .next (deferWindow c b obs e s)) ∧
  (∀ obs, dueSoon e s = true → waits = true → exec (.windowEnd c b obs) s = .next (endWindow c b obs (endDeferred c s))) ∧
  (let x := getBranch s i
   let cfg := branchCfg x.words
   cfg.en = true → cfg.lc = true → wantsForeign s cfg = true → x.byLocal = false → exec (.lcBoundaryMissed c b) s =
     .next (boundaryMissed c.val x.winLocal (setBranch i (moveRegime { x with winEnd := x.winLocal, byLocal := true }) s))) ∧
  (∀ obs, Early e (.windowEnd c b obs) s)

/-- Calibration's own events: a cycle's start, a decision's two outcomes that reject or retire, a foreground calibration's
start and end (05, "Background cycles", "Decision", "Foreground calibration").
A row that comes with a frame boundary before its tick still to come changes nothing (`Early`): the model's choice,
assumption 178. -/
def Obligations.CalibrationEventsComplete : Prop := ∀ (b : Fin 32) (s : State),
  (let s0 := { s with ts := { s.ts with
      runs := s.ts.runs.map (fun r => if r.test = 3 ∧ r.started then { r with cycles := r.cycles ++ [b.val] } else r) } }
   let first := (calBasin s0 b.val).first
   let s1 := modCal b.val (fun c => { c with first := false }) s0
   let f := s.tb.frameTick
   cycleDue s b.val = true →
   (spareOf s0 b.val = none → exec (.calibrationCycleStart b) s = .next (setStimuli f s0)) ∧
   (∀ i, spareOf s0 b.val = some i →
     (∀ k, nextChannel s0 b.val = some k → first = false → spareReady s0 b.val i k = true →
       exec (.calibrationCycleStart b) s = .next (setStimuli f (beginOverlap b.val k i f
         (modCal b.val (fun c => { c with lastVisited := some (fin 8 k) }) s1)))) ∧
     (∀ k, nextChannel s0 b.val = some k → (first = true ∨ spareReady s0 b.val i k = false) →
       exec (.calibrationCycleStart b) s = .next (setStimuli f (beginVisit b.val i (gainCode s0 b.val k) f s1))) ∧
     (nextChannel s0 b.val = none → exec (.calibrationCycleStart b) s =
       .next (setStimuli f (beginVisit b.val i (vgetD s0.cal.lastGain (9 * b.val + i) 0).val f s1))))) ∧
  (∀ (m : Fin 288) x y g np nc ta tb f fg, calibrationOf s m.val = some (g, np, nc, ta, tb, f, fg) →
    let bas := m.val / 9
    let v := verdict (calBasin s bas) ((2 ^ g : Nat) : Rat) (trimWord s m.val g) s.cal.suspect
      (vgetD (calBasin s bas).history g []) (x.clamped + y.clamped)
      (estimate np nc (chipsFrom s bas ta nc) x) (estimate np nc (chipsFrom s bas tb nc) y)
    (∀ cause q, v = .reject cause q → exec (.calibrationDecision m x y) s = .next (rejectCalibration m.val g cause q s)) ∧
    (v = .beyond → exec (.calibrationDecision m x y) s = .next (failModulator bas (m.val % 9) 2 (now s) s)) ∧
    (∀ ot gt q, v = .accept ot gt q → Completes (.calibrationDecision m x y) s (fun t => t.cal.loads = s.cal.loads ++
      [{ m := m, gain := fin 8 g, at_ := f, word := makeTrim (dacClip (-2048) 2047 ot) (dacClip (-512) 511 gt) true
         digital := digitalFor (vgetD s.cal.digital m.val Digital.neutral) ((2 ^ g : Nat) : Rat) ot gt s.cal.suspect
         p := if s.cal.suspect then none else some q, foreground := fg }]))) ∧
  (∀ g, (calBasin s b.val).foreground = some g → g.running = false → dueSoon g.start s = true →
    Completes (.foregroundStart b) s (fun t => (calBasin t b.val).fgCount = satInc (calBasin s b.val).fgCount ∧
      (calBasin t b.val).foreground.map (fun x => x.running) = some true)) ∧
  (∀ g, runningForeground s b.val = some g → dueSoon (g.start + 8 * frameLen) s = true →
    Completes (.foregroundEnd b) s (fun t => (calBasin t b.val).foreground = none)) ∧
  (∀ g, (calBasin s b.val).foreground = some g →
    Early g.start (.foregroundStart b) s ∧ Early (g.start + 8 * frameLen) (.foregroundEnd b) s)

/-- The timebase's events: frame boundaries, the start, the loss of REFCLK, a drift model's interval, a leap second (06,
"Frames", "Starting", "Reference clock", "Holdover", "Structured time"). -/
def Obligations.TimebaseEventsComplete : Prop := ∀ (s : State),
  (∀ obs, s.tb.started = true → let f := s.tb.frameTick + frameLen
    let v := advanceTo f s
    exec (.frameBoundary obs) s = .next (frameWork obs f { v with tb := { v.tb with frameTick := f } })) ∧
  (∀ c t0 r, s.tb.started = false → s.pwr.held = false →
    (isLone s = false → startOf c s = some (t0, r) →
      exec (.timebaseStart c) s = .next (startWork t0 (startTimebase t0 r s))) ∧
    (isLone s = true → startOf c (takeMaster (ownAnnounce s) false s) = some (t0, r) → exec (.timebaseStart c) s =
      .next (startWork t0 (leaveForming (startTimebase t0 r (takeMaster (ownAnnounce s) false s)))))) ∧
  (s.tb.refclkOk = true → exec .refclkLoss s = .next (crit 0x0608 0 (split64 (now s))
    { s with tb := { s.tb with refclkInRun := 0, refclkOutRun := 0, refclkOk := false } })) ∧
  (∀ y t : Int, s.tb.holdover0.bit 31 = true → s.tb.state = .locked → s.tb.lockedSince + 60 * ticksPerSecond ≤ now s →
    let tf := s.tb.model.tf + ((t : Rat) - s.tb.model.tf) / (s.tb.holdover0.field 15 0 : Nat)
    let m := { s.tb.model with tf := tf, began := some (s.tb.model.began.getD (now s)) }
    let x := regressor (modelU m) (modelAge m (now s))
    Completes (.driftModelLearn y t) s (fun u => u.tb.model.learned = s.tb.model.learned + 1 ∧ u.tb.model.tf = tf ∧
      u.tb.model.began = m.began ∧ u.tb.model.c = (leastSquares m x (y : Rat)).c ∧
      u.tb.model.cov = (leastSquares m x (y : Rat)).cov)) ∧
  (monthEnds s = false → exec .leapSecond s = .next s) ∧
  (monthEnds s = true → s.tb.leapIns = true → exec .leapSecond s = .next (calendarLeap true
    { s with tb := { s.tb with leapIns := false, utcOffset := s.tb.utcOffset + 1 } })) ∧
  (monthEnds s = true → s.tb.leapIns = false → s.tb.leapDel = true → exec .leapSecond s = .next (calendarLeap false
    { s with tb := { s.tb with leapDel := false, utcOffset := s.tb.utcOffset - 1 } })) ∧
  (s.tb.leapIns = false → s.tb.leapDel = false → exec .leapSecond s = .next s)

/-- Beacon frames: which counter a failing frame raises, what a good one does, and the close of a slot (06, "Beacon
reception"). -/
def Obligations.BeaconEventsComplete : Prop := ∀ (f : BeaconFrame) (s : State),
  let v := modBeacon (fun b => { b with bgUa := f.bgUa, notch0 := f.notch0, notch1 := f.notch1 }) s
  (exec (.beaconCommandFrame f) s = exec (.beaconTimeFrame f) s) ∧
  (s.tb.beacon.state = .off → exec (.beaconTimeFrame f) s = .next s) ∧
  (s.tb.beacon.state ≠ .off →
    (f.checked = false → exec (.beaconTimeFrame f) s =
      .next (modBeacon (fun b => { b with crcErr := satInc b.crcErr }) v)) ∧
    (f.checked = true → f.manchester = true → exec (.beaconTimeFrame f) s =
      .next (modBeacon (fun b => { b with manchErr := satInc b.manchErr }) v)) ∧
    (f.checked = true → f.manchester = false → f.linear = false → exec (.beaconTimeFrame f) s =
      .next (modBeacon (fun b => { b with satAbort := satInc b.satAbort }) v)) ∧
    (f.checked = true → f.manchester = false → f.linear = true → f.type ≠ 1 → f.type ≠ 2 →
      exec (.beaconTimeFrame f) s = .next (modBeacon (fun b => { b with unknown := satInc b.unknown }) v)) ∧
    (f.checked = true → f.manchester = false → f.linear = true → (f.type = 1 ∨ f.type = 2) →
      (f.suits = false → exec (.beaconTimeFrame f) s =
        .next (modBeacon (fun b => { b with lenErr := satInc b.lenErr }) v)) ∧
      (f.suits = true → f.reservedZero = false → exec (.beaconTimeFrame f) s =
        .next (modBeacon (fun b => { b with rsvErr := satInc b.rsvErr }) v))) ∧
    (f.checked = true → f.manchester = false → f.linear = true → (f.suits && f.reservedZero) = true →
      (f.type = 1 → f.authed = false → s.tb.bcnWord.bit 28 = false → exec (.beaconTimeFrame f) s = .next (beaconTime f v)) ∧
      (f.type = 1 → f.authed = false → s.tb.bcnWord.bit 28 = true → exec (.beaconTimeFrame f) s = .next v) ∧
      (f.type = 1 → f.authed = true → beaconMac f v = true → exec (.beaconTimeFrame f) s = .next (beaconTime f v)) ∧
      (f.type = 2 → beaconMac f v = true → exec (.beaconTimeFrame f) s = .next (beaconCommand f v)) ∧
      ((f.type = 2 ∨ f.type = 1 ∧ f.authed = true) → beaconMac f v = false →
        exec (.beaconTimeFrame f) s = .next (beaconAuthFail f.type f.counter v)))) ∧
  (slotCloses s = true →
    let w := modBeacon (fun b => { b with slotEnd := b.slotEnd + slotPeriod s })
      (advanceTo (ceilDiv s.tb.beacon.slotEnd 64) s)
    (s.tb.beacon.slotGood = true → exec .beaconSlotClose s =
      .next (modBeacon (fun b => { b with slotGood := false, badRun := 0 }) w)) ∧
    (s.tb.beacon.slotGood = false → s.tb.beacon.badRun < 2 → exec .beaconSlotClose s =
      .next (modBeacon (fun b => { b with badSlots := satInc b.badSlots, badRun := s.tb.beacon.badRun + 1 }) w)) ∧
    (s.tb.beacon.slotGood = false → 2 ≤ s.tb.beacon.badRun →
      Completes .beaconSlotClose s (fun t => t.tb.beacon.state = .search ∧ t.tb.beacon.run = [] ∧
        t.tb.beacon.badSlots = satInc s.tb.beacon.badSlots))) ∧
  (slotCloses s = false → exec .beaconSlotClose s = .next s)

/-- Time transfer over a side: what SYNC, FOLLOW, DREQ, DRESP and a STATE block do (07, "Time transfer").
That an EDGE_REPORT asks the neighbour to measure as well is the model's reading, assumption 158. -/
def Obligations.TimeTransferEventsComplete : Prop := ∀ (g : Fin 3) (q : BitVec 4) (s : State),
  (∀ stamp dep, exec (.syncReceive g q stamp dep) s = .next (sendControl g (ttPayload 3 q.toNat 0) (modTransfer g (fun x =>
    { x with ttLost := satAdd x.ttLost (voidedBefore x q), cleanSince := if voidedBefore x q = 0 then x.cleanSince else now s
             rxSeq := some q, rxDone := false, t1 := none, t2 := stamp, t3 := dep }) s))) ∧
  (∀ t1, (transferOf s g).rxSeq = some q → exec (.followReceive g q t1) s =
    .next (modTransfer g (fun x => { x with t1 := some (ts48 t1) }) s)) ∧
  (∀ t1, (transferOf s g).rxSeq ≠ some q → exec (.followReceive g q t1) s = .next s) ∧
  (∀ stamp, (transferOf s g).txSeq = q → exec (.dreqReceive g q stamp) s =
    .next (sendControl g (ttPayload 4 q.toNat stamp) s)) ∧
  (∀ stamp, (transferOf s g).txSeq ≠ q → exec (.dreqReceive g q stamp) s = .next s) ∧
  (∀ t1 t4, (transferOf s g).t1 = some t1 → (transferOf s g).rxSeq = some q → (transferOf s g).rxDone = false →
    exec (.drespReceive g q t4) s = .next (completeExchange g t1 (ts48 t4) s)) ∧
  (∀ i d, exec (.stateReceive g i d) s = .next (modTransfer g (fun x =>
    { x with incoming := vset x.incoming i d, arrived := setBit x.arrived i.val }) s)) ∧
  (∀ side src et e64 m, asymOf s side = some m →
    let f : Flash := { srcId := src, edgeTime := et, edge64 := e64 }
    (m.own.find? (fun x => x.matches f) = none → exec (.edgeReport side src et e64) s =
      .next (setAsym side (some { m with neighbour := m.neighbour ++ [f] }) s)) ∧
    (∀ x, m.own.find? (fun y => y.matches f) = some x → exec (.edgeReport side src et e64) s =
      .next (pairFlash side x f { m with own := m.own.erase x } s))) ∧
  (∀ side src et e64, asymOf s side = none → let f : Flash := { srcId := src, edgeTime := et, edge64 := e64 }
    let asked := fun (b : Bool) => setAsked side (some { flash := f, answered := b }) s
    ((askedOf s side).map (fun a => a.answered && a.flash.matches f)).getD false = false →
    (∀ x, (lastFlash s).filter (fun y => y.matches f) = some x →
      exec (.edgeReport side src et e64) s = .next (sendEdge side x (asked true))) ∧
    ((lastFlash s).filter (fun y => y.matches f) = none → exec (.edgeReport side src et e64) s = .next (asked false)))

/-- Membership and mastership of the ring: announcements, elections and handovers (07, "Membership", "Master"). -/
def Obligations.MembershipEventsComplete : Prop := ∀ (s : State),
  (let v := pruneMembers (if s.host.compat ∧ 7 < hubNum s then refuseHub 2 Config.uid.toNat s else s)
    let gone := match v.ring.master with
      | some m => m != v.ring.hubId && !v.ring.members.any (fun x => x.announce.id == m)
      | none => false
    let w := if gone then { v with ring := { v.ring with electDue := true } } else v
    exec .announcePeriod s = .next (compareGenerations (updateStable (updateRingState (offerHandover
      (send { kind := 0x01, cls := 1, target := none, side := none, payload := announceWords (ownAnnounce w) } w)))))) ∧
  (∀ side a, a.id = s.ring.hubId → a.uid = Config.uid →
    exec (.announce side a) s =
      .next (updateRingState { s with ring := { s.ring with latencyNs := a.transitNs, ownHops := some a.hops } })) ∧
  (∀ side a, a.id ≠ s.ring.hubId → exec (.announce side a) s =
    .next (compareGenerations (updateStable (updateRingState (offerHandover
      (personalityCheck a (heedMaster a (noteMember side a (refusalCheck a s))))))))) ∧
  (∀ m, s.ring.master = some m → m ≠ s.ring.hubId →
    (s.tb.started = true → exec .masterLost s = .next { s with ring := { s.ring with electDue := true } }) ∧
    (s.tb.started = false → exec .masterLost s = .next (electMaster { s with ring := { s.ring with electDue := true } }))) ∧
  (∀ a, s.ring.rstate = .forming → s.ring.master = none → s.ring.mrole ≠ .refused → namedMaster s = some a →
    exec .formingTimeout s = .next (formRing a s)) ∧
  (∀ m h, exec (.handover m h) s = .next { s with ring := { s.ring with handover := some (m, h) } }) ∧
  (∀ id h, s.ring.handover = some (id, h) → id ≠ s.ring.hubId → isMaster s = true →
    s.ring.members.find? (fun m => m.announce.id == id) = none →
    exec .ringHandoverBoundary s = .next (let v := advanceTo h s; { v with ring := { v.ring with handover := none } })) ∧
  (∀ h, s.ring.handover = some (s.ring.hubId, h) →
    let v := changeMaster (ownAnnounce s) 1 (advanceTo h s)
    exec .ringHandoverBoundary s = .next { v with tb := { v.tb with role := roleOf v } }) ∧
  (mismatchDue s = true → exec .mismatchReset s = .next (chipReset 3 true 6 [] (some 4) (crit 0x070C 0
    [satInt ((match refTransfer s with | some t => offset64 t.thetaAvg | none => 0).fdiv 64)] s))) ∧
  (mismatchDue s = false → exec .mismatchReset s = .next s)

/-- Wraps: a hub's report, a side that has stayed up, and the end of the loop (07, "Wrapping"). -/
def Obligations.WrapEventsComplete : Prop := ∀ (s : State),
  (∀ hub, hub ≠ s.ring.hubId → s.ring.downHops.contains hub = false → exec (.wrap hub .east) s =
    .next (updateRingState { s with ring := { s.ring with downHops := s.ring.downHops ++ [hub] } })) ∧
  (∀ hub, exec (.wrap hub .west) s = .next (updateRingState s)) ∧
  ((sideOf s .east).up = true → (sideOf s .east).unwrapped = false → (sideOf s .east).unwrapAt = none →
    (sideOf s .east).cleanSince + ticksPerSecond ≤ now s →
    let u := frameLen * ceilDiv (now s + 16 * frameLen) frameLen
    exec (.sideStable .east) s = .next (send
      { kind := 0x04, cls := 0, target := none, side := none, payload := wd (hubNum s * 2 + sideNum .east) :: split64 u }
      (modSide .east (fun x => { x with unwrapAt := some u }) s))) ∧
  (exec (.sideStable .west) s = .next s) ∧
  (∀ hub u, exec (.unwrap hub .west u) s =
    .next (updateRingState { s with ring := { s.ring with downHops := s.ring.downHops.filter (fun h => h != hub) } })) ∧
  (∀ hub u, s.ring.west.up = true → s.ring.west.looping = true → recSender s.ring.west.record = hub →
    exec (.unwrap hub .east u) s = .next (updateRingState (let v := modSide .west (fun x => { x with unwrapAt := some u }) s
      { v with ring := { v.ring with downHops := v.ring.downHops.filter (fun h => h != hub) } }))) ∧
  (∀ side u, (sideOf s side).unwrapAt = some u →
    let v := modSide side (fun x => { x with looping := false, unwrapped := true, unwrapAt := none }) (advanceTo u s)
    exec (.unwrapBoundary side) s = .next (updateRingState (info 0x0704 (sideNum side) (wd (sideNum side) :: split64 u) v)))

/-- Hub-wide mode changes: what each message, the deadline and the commit boundary do (07, "Mode changes").
That a change arrives late at its commit the frame's observation says, assumption 20. -/
def Obligations.ModeChangeEventsComplete : Prop := ∀ (s : State),
  (∀ g ws op q, readStaged ws = .command op q → forThisHub q s = true →
    (∀ t, stagePacket g { words := ws, op := op, packet := q } s = .ok t → exec (.stageMsg g ws) s = .next t) ∧
    (∀ e, stagePacket g { words := ws, op := op, packet := q } s = .error e → exec (.stageMsg g ws) s = .next s)) ∧
  (∀ p : Prepare, expected p s = true → exec (.prepare p) s =
    .next (send { kind := 0x06, cls := 1, target := (answerPrepare p s).1.ring.master, side := none
                  payload := [p.g, wd ((answerPrepare p s).2.getD 0)] } (answerPrepare p s).1)) ∧
  (∀ p : Prepare, expected p s = false →
    (s.ring.mc.state = .staging → s.ring.mc.g = p.g → exec (.prepare p) s =
      .next { s with ring := { s.ring with mc := { s.ring.mc with c := p.c } } }) ∧
    ((s.ring.mc.state ≠ .staging ∨ s.ring.mc.g ≠ p.g) → exec (.prepare p) s = .next s)) ∧
  (∀ hub m, s.ring.mc.pending = some m → m.decided = false →
    exec (.ack hub m.g none) s = .next { s with ring := { s.ring with mc := { s.ring.mc with
      pending := some { m with acked := setBit m.acked hub.toNat } } } } ∧
    (∀ why, exec (.ack hub m.g (some why)) s = .next { s with ring := { s.ring with mc := { s.ring.mc with
      pending := some { m with naked := setBit m.naked hub.toNat } } } })) ∧
  (∀ m, s.ring.mc.pending = some m → m.decided = false →
    let v := advanceTo m.deadline s
    let missing := m.expect &&& ~~~(m.acked ||| m.naked)
    let refusing := m.expect &&& m.naked
    (missing = 0 → refusing = 0 → exec .modeChangeDeadline s = .next (send
      { kind := 0x07, cls := 1, target := none, side := none, payload := m.g :: split64 m.c }
      { v with ring := { v.ring with mc := { v.ring.mc with pending := some { m with decided := true } } } })) ∧
    ((missing ≠ 0 ∨ refusing ≠ 0) → exec .modeChangeDeadline s = .next (crit 0x0707 0 [m.g, missing, refusing]
      (discardSet m.g (sendAbort m.g
        { v with ring := { v.ring with mc := { v.ring.mc with pending := some { m with decided := true, aborting := true } } } }))))) ∧
  (∀ g c, exec (.commit g c) s = .next s) ∧
  (s.ring.mc.state ≠ .idle → exec (.abort s.ring.mc.g) s = .next { s with ring := { s.ring with mc :=
    { s.ring.mc with state := .idle, g := 0, c := 0, staged := [], units := [] } } }) ∧
  (∀ g, (s.ring.mc.state = .idle ∨ g ≠ s.ring.mc.g) → exec (.abort g) s = .next s) ∧
  (s.tb.started = true → commitDue (s.tb.frameTick + frameLen) s = true → exec .commitTick s = .next (commitSet false s)) ∧
  (s.tb.started = true → commitDue (s.tb.frameTick + frameLen) s = false → exec .commitTick s = .next s) ∧
  (s.ring.mc.state = .prepared → commitSet true s = crit 0x0709 0 [s.ring.mc.g, s.ring.generation] { s with ring := { s.ring with
    mc := { s.ring.mc with state := .idle, g := 0, c := 0, staged := [], units := [] } } })

/-- Heartbeats of a pair: sending, receiving over each path, and a path's expiry (08, "Heartbeats"). -/
def Obligations.HeartbeatEventsComplete : Prop := ∀ (s : State),
  (s.pair.en = true → let b := nextBeat s
    let v := modPair (fun p => { p with beatSeq := p.beatSeq + 1, lastBeat := some b }) (advanceTo b s)
    let w := { v with out := { v.out with hbx := if vget v.pwr.rails 9 then v.out.hbx ++ [hbxBeat v] else v.out.hbx } }
    (v.pair.lanesUp = false → exec .heartbeatPeriod s = .next w) ∧
    (v.pair.lanesUp = true → exec .heartbeatPeriod s =
      .next ((upLanes w 2).foldl (fun t l => sendTiming l 0x4C (pairBeat v) t) w))) ∧
  (s.pair.en = false → ∀ b m, exec .heartbeatPeriod s = .next s ∧ exec (.hbxBeatReceive b m) s = .next s) ∧
  (s.pair.en = true → vget s.pwr.rails 9 = true → ∀ beat : BitVec 48, let n := beat.toNat
    let fld := fun (hi lo : Nat) => n / 2 ^ lo % 2 ^ (hi + 1 - lo)
    let crc := crc8 ((List.range 4).map (fun i => BitVec.ofNat 8 (fld (39 - 8 * i) (32 - 8 * i))))
    fld 47 40 = 0xD5 → crc.toNat = fld 7 0 →
    ((fld 32 32 == 1) = s.pair.unitB → exec (.hbxBeatReceive beat false) s = .next (conflictBeat true s)) ∧
    ((fld 32 32 == 1) = !s.pair.unitB → exec (.hbxBeatReceive beat false) s = .next (validBeat true (now s - 48)
      { seq := fld 39 36, pstate := BitVec.ofNat 3 (fld 35 33), unitB := !s.pair.unitB, auth := fld 31 31 == 1
        healthy := fld 30 30 == 1, srcOff := fld 28 28 == 1, mirrorSeq := BitVec.ofNat 8 (fld 27 20), epoch := fld 19 8
        width := 12, rmaster := false, ready := false } s)) ∧
    exec (.hbxBeatReceive beat true) s = .next s) ∧
  (s.pair.en = true → ∀ beat : BitVec 56, let n := beat.toNat
    let fld := fun (hi lo : Nat) => n / 2 ^ lo % 2 ^ (hi + 1 - lo)
    ((fld 48 48 == 1) = s.pair.unitB → exec (.pairHeartbeatReceive beat true) s = .next (conflictBeat false s)) ∧
    ((fld 48 48 == 1) = !s.pair.unitB → exec (.pairHeartbeatReceive beat true) s = .next (validBeat false (now s)
      { seq := fld 55 52, pstate := BitVec.ofNat 3 (fld 51 49), unitB := !s.pair.unitB, auth := fld 47 47 == 1
        healthy := fld 46 46 == 1, srcOff := fld 44 44 == 1, mirrorSeq := BitVec.ofNat 8 (fld 39 32), epoch := fld 31 0
        width := 32, rmaster := fld 43 43 == 1, ready := fld 42 42 == 1 } s)) ∧
    exec (.pairHeartbeatReceive beat false) s = .next s) ∧
  (∀ hbx, (pathOf hbx s).alive = true → let v := advanceTo ((pathOf hbx s).last + 377) s
    ((pathOf (!hbx) v).alive = true → exec (.pathAliveExpiry hbx) s =
      .next (crit (if hbx then 0x0804 else 0x0802) 0 (split64 (now v))
        (modPath hbx (fun p => { p with alive := false, run := 0, lost := true }) v))) ∧
    ((pathOf (!hbx) v).alive = false → exec (.pathAliveExpiry hbx) s =
      .next (failPeer (now v) (pathsSilent (now v) v)))) ∧
  (∀ hbx, (pathOf hbx s).alive = false → exec (.pathAliveExpiry hbx) s = .next s)

/-- Authority in a pair: failure of the peer, witnesses, joining, handover, resynchronisation and split restore (08,
"Authority", "Witness", "Resynchronisation").
A follower's engagement up to 5 us after a declaration counts for it: the model's reading, assumption 166. -/
def Obligations.PairEventsComplete : Prop := ∀ (s : State),
  (s.pair.en = true → peerHeard s = true → let d := max (now s) (max s.pair.link.last s.pair.hbx.last + 377)
    exec .peerFailure s = .next (failPeer d (pathsSilent d s))) ∧
  ((s.pair.en = false ∨ peerHeard s = false) → exec .peerFailure s = .next s) ∧
  (∀ d, (s.pair.pstate = .active → failPeer d s = peerFailed d (evidenceAt d s) (rampAll d (setPState .activeAlone s))) ∧
    (s.pair.pstate = .standby → evidenceAt d s ≠ 0 → s.pair.policy0.bit 31 = true →
      failPeer d s = peerFailed d (evidenceAt d s) (takeAlone d (modPair (fun p => { p with records := [] }) s))) ∧
    (s.pair.pstate = .standby → evidenceAt d s = 0 → s.pair.policy0.bit 31 = true →
      failPeer d s = peerFailed d 0 (enterHold 1 s)) ∧
    (s.pair.pstate = .standby → s.pair.policy0.bit 31 = false →
      failPeer d s = peerFailed d (evidenceAt d s) (enterHold 2 s))) ∧
  (∀ i : Fin 128, s.pair.en = true → halfOf s i.val = .half → witnessArmed i.val s = true → s.pair.pstate ≠ .hold →
    Completes (.witnessFire i) s (fun t => t.pair.witnessRamps = satInc s.pair.witnessRamps ∧
      t.pair.lastWitness = some (now s) ∧ halfOf t i.val = .full ∧
      vget t.pair.preRamp i = some ((vgetD s.pair.refs i.val none).getD 0))) ∧
  (∀ i : Fin 128, s.pair.en = true → witnessArmed i.val s = false → exec (.witnessFire i) s = .next s) ∧
  (∀ i : Fin 128, s.pair.en = true → halfOf s i.val = .full → ((vget s.pair.preRamp i).getD 0 == 0) = false →
    Completes (.witnessReturn i) s (fun t => t.pair.witnessReturns = satInc s.pair.witnessReturns ∧
      halfOf t i.val = .half ∧ vget t.pair.preRamp i = none)) ∧
  (∀ i : Fin 128, ((vget s.pair.preRamp i).getD 0 == 0) = true → exec (.witnessReturn i) s = .next s) ∧
  (∀ b, s.pair.followMode = true →
    let recent := s.pair.engagements.filter (fun e => decide (now s ≤ e.1 + 552))
    let v := modPair (fun p => { p with engagements := recent ++ [(now s, b, p.peer.auth)] }) s
    (s.pair.failedAt = none → exec (.followerEngagement b) s = .next v) ∧
    (∀ d, s.pair.failedAt = some d →
      (s.pair.pstate = .hold → s.pair.policy0.bit 31 = true → now s ≤ d + 61 → evidenceAt d v ≠ 0 →
        exec (.followerEngagement b) s = .next (takeAlone (now s) v)) ∧
      ((s.pair.pstate ≠ .hold ∨ s.pair.policy0.bit 31 = false ∨ d + 61 < now s ∨ evidenceAt d v = 0) →
        exec (.followerEngagement b) s = .next v))) ∧
  (s.pair.pstate = .joining → s.pair.conflict = false → heardInJoin s = false →
    exec .joinTimeout s = .next (dueState (some (if s.pair.unitB then .hold else .activeAlone)) s)) ∧
  (let b := frameLen * ceilDiv (now s) frameLen
   let after := fun (h : Nat) => modPair (fun p => { p with handoverAt := none, records := [] }) (advanceTo h s)
   (s.pair.pstate = .standby → s.pair.peer.pstate = 3 → s.pair.lanesUp = true → reportsHealthy s = true →
     exec .pairHandoverBoundary s = .next (setPState .active (bumpEpoch ((after b).ao.epoch + 1) (after b)))) ∧
   (∀ h, s.pair.pstate = .active → s.pair.handoverAt = some h → h ≤ s.tb.frameTick + frameLen →
     exec .pairHandoverBoundary s =
       .next (setPState .standby { after h with ao := { (after h).ao with epoch := (after h).ao.epoch + 1 } })) ∧
   (s.pair.pstate = .active → s.pair.handoverAt = none → exec .pairHandoverBoundary s = .next s)) ∧
  (∀ ps g q, s.pair.pstate = .resync → s.pair.lanesUp = true →
    exec (.resyncImage ps false { generation := g, rseq := q }) s =
      .next (modPair (fun p => { p with image := p.image ++ ps, imageComplete := false }) s) ∧
    exec (.resyncImage ps true { generation := g, rseq := q }) s = .next (modPair (fun p => { p with
      image := p.image ++ ps, imageComplete := true, imageGeneration := g, rseqTaken := some q }) s) ∧
    (∀ last r, s.pair.imageComplete = true →
      exec (.resyncImage ps last { generation := g, rseq := q, boundary := some r }) s = .next (modPair (fun p => { p with resyncAt := some r }) s))) ∧
  (∀ r, s.pair.pstate = .resync → s.pair.resyncAt = some r → r ≤ s.tb.frameTick + frameLen → mayResync s = true →
    let v := resynced r s
    let w := if r ≤ v.tb.frameTick then applyNow r v else v
    exec .resyncBoundary s = .next (if mayRestore s then splitRestore r w else w) ∧ v.pair.pstate = .standby) ∧
  (s.pair.resyncAt = none → exec .resyncBoundary s = .next s) ∧
  (s.pair.en = true → mayRestore s = true →
    (holdsAuthority s = true →
      (∀ f, s.pair.splitRestoreAt = some f → f ≤ s.tb.frameTick + frameLen →
        exec .splitRestore s = .next (splitRestore f (advanceTo f s))) ∧
      (s.pair.splitRestoreAt = none → exec .splitRestore s = .next s)) ∧
    (holdsAuthority s = false → let f := frameLen * ceilDiv (now s) frameLen
      exec .splitRestore s = .next (splitRestore f (advanceTo f s)))) ∧
  (∀ ws, exec (.mirrorRecord ws) s = .next (takeRecord (recordOf ws s) s)) ∧
  (∀ r : MirrorRec, s.pair.pstate = .standby → s.pair.rseqTaken.any (fun x => !rseqAfter r.rseq x) = true →
    takeRecord r s = s)

/-- Lane states: training blocks, bring-up and idle, losses of signal and lock, silence, wake (13, "Bring-up", "Electrical idle").
A row that comes with a frame boundary before its tick still to come changes nothing (`Early`): the model's choice,
assumption 178. TSTATE 2 comes with RATE_SEL_RESUME: the model's reading, assumption 174. -/
def Obligations.LaneEventsComplete : Prop := ∀ (l : Fin 16) (s : State),
  let x := getLane s l
  (∀ g pl, laneGroup s l.val = some g → lanePower s = true → x.idle = false → (x.lstate = .detect ∨ x.lstate = .train) →
    exec (.trainBlockReceive l pl true) s = .next (modLane l (fun y => { y with rxInv := !y.rxInv, agreed := 0 }) s) ∧
    (pfield pl 30 0 ≠ 0 → exec (.trainBlockReceive l pl false) s = .next (settleErrors g s
      (modLane l (fun y => { y with shErr := satInc y.shErr, ready := 0 }) (moveErrors l 0 8 s)))) ∧
    (pfield pl 30 0 = 0 → miswired g l pl s = true → exec (.trainBlockReceive l pl false) s = .next (laneEvent 0 l.val
      [wd l.val, wd (pfield pl 51 50), wd (pfield pl 49 47), wd (pfield pl 46 44)] (takeDown l .refused false s))) ∧
    (pfield pl 30 0 = 0 → miswired g l pl s = false → exec (.trainBlockReceive l pl false) s =
      .next (trainAdvance l pl (notePeer g l pl s)))) ∧
  (∀ pl inv, (x.lstate = .disabled ∨ x.lstate = .refused ∨ x.lstate = .silent ∨ x.lstate = .test) →
    exec (.trainBlockReceive l pl inv) s = .next s) ∧
  (let e := x.trainAt + usTicks 20000;
    x.lstate = .train → dueSoon e s = true → exec (.bringupTimeout l) s = .next (modLane l (fun x => { x with
      lstate := .detect, rateIdle := false, agreed := 0, ready := 0, resumed := false, trainsSent := 0, rate := 0
      peerIndex := none }) (reach e s))) ∧
  (let e := x.idleSince + usTicks 10;
    x.lstate ≠ .silent → x.lstate ≠ .sleep → x.idle = true → dueSoon e s = true →
    exec (.electricalIdleEnd l) s = .next (modLane l (fun x => { x with idle := false }) (reach e s))) ∧
  (let lost := recordCause l .lossOfSignal (modLane l (fun y => { y with los := true, losCount := satInc y.losCount }) s);
    (x.lstate = .up → exec (.laneLossOfSignal l) s = .next (leaveUp l lost)) ∧
    (x.lstate ≠ .up → x.lstate ≠ .sleep → exec (.laneLossOfSignal l) s = .next lost) ∧
    (x.lstate = .sleep → exec (.laneLossOfSignal l) s = .next s)) ∧
  (let lost := recordCause l .lossOfLock (modLane l (fun y => { y with lolCount := satInc y.lolCount }) s);
    (x.lstate = .up → exec (.laneLossOfLock l) s = .next (leaveUp l lost)) ∧
    (x.lstate ≠ .up → exec (.laneLossOfLock l) s = .next lost)) ∧
  (exec (.losClear l) s = .next (modLane l (fun x => { x with los := false }) s)) ∧
  (let e := x.idleSince + usTicks 10000;
    x.lstate = .silent → x.latched = false → dueSoon e s = true → exec (.silenceEnd l) s =
    .next (modLane l (fun y => { y with lstate := .detect, idle := false, rate := 0, peerIndex := none }) (reach e s))) ∧
  (x.lstate = .silent → x.latched = true → exec (.silenceEnd l) s = .next s) ∧
  (x.lstate = .up → exec (.idleEntry l) s = .next (takeDown l .sleep false s)) ∧
  (∀ g, laneGroup s l.val = some g → x.lstate = .up → g ≠ 2 → timingLaneOf s g ≠ some l →
    let us := (vget (vget s.ln.groups g) 0).field 15 0;
    us ≠ 0 → x.placed = [] → x.opened = [] → dueSoon (x.lastBlock + usTicks us) s = true → exec (.laneIdleTimeout l) s =
      .next (takeDown l .sleep true (sendIdleEntry g (reach (x.lastBlock + usTicks us) s)))) ∧
  (x.lstate = .sleep → exec (.laneWake l) s = .next (enterUp l s)) ∧
  (let e := x.idleSince + usTicks 1;
    x.lstate = .train → x.rateIdle = true → dueSoon e s = true → exec (.rateSelResume l) s = .next (modLane l (fun y =>
      { y with rateIdle := false, resumed := true, ready := 0, trainsSent := 0, rate := y.rateSel }) (reach e s))) ∧
  ((x.lstate = .sleep ∨ x.lstate = .up) → exec (.fastExitTimeout l) s = .next (leaveUp l s)) ∧
  (Early (x.trainAt + usTicks 20000) (.bringupTimeout l) s ∧ Early (x.idleSince + usTicks 10) (.electricalIdleEnd l) s ∧
    Early (x.idleSince + usTicks 10000) (.silenceEnd l) s ∧ Early (x.idleSince + usTicks 1) (.rateSelResume l) s) ∧
  (∀ g, laneGroup s l.val = some g →
    Early (x.lastBlock + usTicks ((vget (vget s.ln.groups g) 0).field 15 0)) (.laneIdleTimeout l) s)

/-- Messages and their flow control over a lane (13, "Messages", "Acknowledgement, credits and order").
A data block or EOM outside a message counts as a receive error: the model's reading, assumption 169. A row that comes
with a frame boundary before its tick still to come changes nothing (`Early`): the model's choice, assumption 178. -/
def Obligations.MessageEventsComplete : Prop := ∀ (l : Fin 16) (g : Fin 3) (s : State),
  let failed := settleErrors g s (modLane l (fun y => { y with shErr := satInc y.shErr }) (moveErrors l 0 8 s))
  (exec (.messageReceive l []) s = .next s) ∧
  (laneGroup s l.val = some g → (getLane s l).lstate = .up →
    let r := modLane l (fun y => { y with lastBlock := now s }) s
    let open_ := (getLane r l).receiving
    (∀ b bs, exec (.messageReceive l (b :: bs)) s = exec (.messageReceive l bs) (receiveBlock g l b r)) ∧
    (∀ m, receiveBlock g l (.som m) r =
      modLane l (fun y => { y with receiving := { som := m, words := [], bad := 0 } :: open_ }) r) ∧
    (∀ v w ok i rest, open_ = i :: rest → receiveBlock g l (.data v w ok) r = modLane l (fun y =>
      { y with receiving := { i with words := i.words ++ [v, w], bad := i.bad + b01 (!ok) } :: rest }) r) ∧
    (∀ e i rest, open_ = i :: rest → receiveBlock g l (.eom e) r = receiveMessage g l
      { som := i.som, words := i.words, eom := e, badHeaders := i.bad } (modLane l (fun y => { y with receiving := rest }) r)) ∧
    (open_ = [] → ∀ v w ok e, let n := settleErrors g r (modLane l (fun y => { y with shErr := satInc y.shErr }) (moveErrors l 0 8 r))
      receiveBlock g l (.data v w ok) r = n ∧ receiveBlock g l (.eom e) r = n) ∧
    (∀ pl, pfield pl 39 24 ≠ 0 → exec (.flow l pl) s = .next failed) ∧
    (∀ pl, pfield pl 39 24 = 0 → let c : Fin 4 := fin 4 (pfield pl 55 54)
      let k := getLink s g c
      let n := if pfield pl 40 40 = 1 then ackedCount k (BitVec.ofNat 12 (pfield pl 53 42)) else 0
      let v := modLink g c (fun k => { k with replay := k.replay.drop n, creditCum := BitVec.ofNat 24 (pfield pl 23 0) })
        ((k.replay.take n).foldl (fun t x => acknowledge x t) s)
      exec (.flow l pl) s = .next (settleErrors g s (if pfield pl 41 41 = 1 then resend g c (fun _ => true) v else v)))) ∧
  (∀ m, let c : Fin 4 := fin 4 (pfield m.som 55 54)
    let v := settleErrors g s (moveErrors l 0 (-1) s)
    let q : BitVec 12 := BitVec.ofNat 12 (pfield m.som 35 24)
    (receivedCorrectly m = false → receiveMessage g l m s =
      settleErrors g s (sendFlow g c true (modLane l (fun x => { x with
        crcErr := satInc x.crcErr, shErr := satAdd x.shErr (failedBlocks m) })
        (moveErrors l 0 (8 * (1 + failedBlocks m : Nat)) s)))) ∧
    (receivedCorrectly m = true → (c ≠ 0 ∨ v.ao.heldMessages.length < 32) → (q - (getLink v g c).expected).toNat < 2048 →
      (getLink v g c).ahead.any (fun a => a.1 == q) = false → receiveMessage g l m s =
      sendFlow g c false (takeMessages g c 2048 (modLink g c (fun k => { k with
        ahead := k.ahead ++ [(q, m)], aheadAt := if k.ahead.isEmpty then now s else k.aheadAt }) v))) ∧
    (receivedCorrectly m = true → (c ≠ 0 ∨ v.ao.heldMessages.length < 32) →
      (2048 ≤ (q - (getLink v g c).expected).toNat ∨ (getLink v g c).ahead.any (fun a => a.1 == q) = true) →
      receiveMessage g l m s = sendFlow g c false v) ∧
    (receivedCorrectly m = true → c = 0 → 32 ≤ v.ao.heldMessages.length → receiveMessage g l m s = v)) ∧
  (∀ c, let k := getLink s g c
    let e := k.aheadAt + usTicks 2;
    k.ahead.isEmpty = false → dueSoon e s = true → exec (.missingLseqTimeout g c) s =
      .next (sendFlow g c true (modLink g c (fun k => { k with aheadAt := now (reach e s) }) (reach e s)))) ∧
  (∀ c x xs, (getLink s g c).replay = x :: xs →
    let e := xs.foldl (fun a y => min a y.sentAt) x.sentAt + replayTicks g s;
    dueSoon e s = true → exec (.replayTimeout g c) s =
      .next (settleErrors g (reach e s) (resend g c (fun _ => true) (reach e s)))) ∧
  (∀ c, Early ((getLink s g c).aheadAt + usTicks 2) (.missingLseqTimeout g c) s) ∧
  (∀ c x xs, (getLink s g c).replay = x :: xs →
    Early (xs.foldl (fun a y => min a y.sentAt) x.sentAt + replayTicks g s) (.replayTimeout g c) s)

/-- Streams: partial entries, stalled packets, segments set up and lost, delivery to a queue (12).
A contract that changes waits for the next frame boundary: assumption 176. -/
def Obligations.StreamEventsComplete : Prop := ∀ (h : HubId) (fn : BitVec 4) (k : BitVec 2) (s : State),
  (exec (.partialEntryCommit h fn k) s =
    .next ((s.st.segments.filter (fun g => g.of h fn k && g.assembly != 0)).foldl
      (fun t g => commitPartial g (reach (g.lastWord + 49) t)) s)) ∧
  (h ≠ s.ring.hubId → ∀ g, s.st.segments.filter (fun g => g.of h fn k && !g.open_.isEmpty) = [g] →
    exec (.packetStallTimeout h fn k) s = .next (closePacket g (reach g.stallsAt s))) ∧
  (∀ g, s.st.segments.filter (fun g => g.of s.ring.hubId fn k && !g.open_.isEmpty) = [g] →
    exec (.packetStallTimeout s.ring.hubId fn k) s =
      .next (modStream (streamIndex fn k.toNat)
        (fun x => { x with stallCloses := satInc x.stallCloses }) (closePacket g (reach g.stallsAt s)))) ∧
  (∀ x : SegmentSetup, x.action = .setup →
    (∀ st, segmentRefusal x.word0 (localChannels x.ranges s) s = some st →
      exec (.segmentSetup h x) s = .next (sendSegmentReply h x.fn x.stream st.code s)) ∧
    (segmentRefusal x.word0 (localChannels x.ranges s) s = none → exec (.segmentSetup h x) s =
      .next (sendSegmentReply h x.fn x.stream (b01 (placeSegment h x s).2 * 256) (placeSegment h x s).1))) ∧
  (∀ x : SegmentSetup, x.action = .withdraw → exec (.segmentSetup h x) s =
    .next (sendSegmentReply h x.fn x.stream 0 (withdrawSegment h x.fn x.stream x.cfgSeq x.f s))) ∧
  (∀ x : SegmentSetup, x.action = .flush → exec (.segmentSetup h x) s = .next (sendSegmentReply h x.fn x.stream 0
    ((s.st.segments.filter (fun g => g.of h x.fn x.stream)).foldl (fun t g => flushSegment g t) s))) ∧
  (∀ x : SegmentSetup, x.action = .contract → exec (.segmentSetup h x) s = .next { s with st := { s.st with
    segments := s.st.segments.map (fun g =>
      if g.of h x.fn x.stream then { g with newContract := some (x.share, x.weight, x.cls) } else g) } }) ∧
  (∀ late, let i := streamIndex fn k.toNat
    (getStream s i).awaits.contains h = true → late < 2 → exec (.segmentReply h fn k (late * 256)) s =
    .next (settleStream i (modStream i (fun x => { x with
      awaits := x.awaits.filter (fun y => y != h), lateSegments := satAdd x.lateSegments late
      origins := x.origins.map (fun o => if o.hub == h && !o.ending then { o with accepted := true } else o) }) s))) ∧
  (∀ st, let i := streamIndex fn k.toNat
    (getStream s i).awaits.contains h = true → st % 256 ≠ 0 →
    let v := raiseEvent .critical 0x0C03 fn h.toNat [wd h.toNat, wd (st % 256)] s
    exec (.segmentReply h fn k st) s =
      .next (settle (.streamSetup fn k.toNat) (Status.ofCode (st % 256)) [wd h.toNat] (now s) (cancelSetup i (some h) v))) ∧
  (∀ cause : Fin 4, h ≠ s.ring.hubId →
    exec (.segmentOriginLost h cause) s = .next ((List.range 36).foldl (fun t i => loseOrigin i h cause t) s) ∧
    exec (.segmentHomeLost h cause) s = .next ((s.st.segments.filter (fun g =>
      g.home == h && lostFor h g.incarnation cause s)).foldl (fun t g =>
      raiseAbandoned g.fn g.stream.toNat s.ring.hubId g.lastSeq 0xF (discardSegment g t)) s)) ∧
  (∀ (f : Fin 9) (n : Fin 4) w last rest, let i := 4 * f.val + n.val
    let q := getQueue s (fin 10 f.val) (3 + n.val)
    (getStream s i).delivery = (w, last) :: rest → (getStream s i).word0.bit 19 = false → s.host.compat = false →
    q.en = true → q.error = false → ceilDiv w.length 16 ≤ queueRoom s (fin 10 f.val) (3 + n.val) →
    Completes (.streamPacketDeliver f n) s (fun t => (getStream t i).delivery = rest ∧
      (getStream t i).packets = satInc (getStream s i).packets))

/-- Captures: pin edges, command triggers, shared triggers, a record's close, a pulse's end (09, "Triggers", "Records").
A row that comes with a frame boundary before its tick still to come changes nothing (`Early`): the model's choice,
assumption 178. -/
def Obligations.CaptureEventsComplete : Prop := ∀ (s : State),
  (∀ (n : Fin 4) rising tick persist, (vget s.cap.pins n).word.bit 31 = false → (vget s.cap.pins n).word.field 15 0 ≤ persist →
    (rising = true → vget s.pwr.rails 8 = true) →
    exec (.triggerPinEdge n rising tick persist) s = .next (triggerSets (fun t => (vget t.trigger 0).bit (27 + n.val) &&
      (vget t.trigger 0).bit (2 * n.val + (if rising then 0 else 1))) (1 + n.val) tick (advanceTo tick s))) ∧
  (∀ (n : Fin 4) rising tick persist, ((vget s.cap.pins n).word.bit 31 = true ∨ persist < (vget s.cap.pins n).word.field 15 0 ∨
    rising = true ∧ vget s.pwr.rails 8 = false) →
    exec (.triggerPinEdge n rising tick persist) s = .next s) ∧
  (∀ i : Fin 16, let t := getSet s i
    t.pendingTick ≠ 0 → dueSoon t.pendingTick s = true →
    let u := { s with tb := { s.tb with tick := max s.tb.tick t.pendingTick } }
    let v := modSet i (fun t => { t with pendingTick := 0 }) (settlePatterns (now u) u)
    ((vget t.trigger 0).bit 25 = true →
      exec (.commandTriggerDue i) s = .next (decideTrigger i 6 t.pendingTick (now v) v)) ∧
    ((vget t.trigger 0).bit 25 = false → exec (.commandTriggerDue i) s = .next v)) ∧
  (∀ g tick o, o ≠ s.ring.hubId → exec (.trigShare g tick o) s =
    .next (triggerSets (fun t => (vget t.trigger 0).bit 24 && (vget t.trigger 0).field 22 19 == g) 7 tick s)) ∧
  (∀ g tick, exec (.trigShare g tick s.ring.hubId) s = .next s) ∧
  (∀ i : Fin 16, mayClose i s = true → recordStreams i s = [] → exec (.recordClose i) s = .next (closeRecord i s)) ∧
  (∀ i : Fin 16, mayClose i s = false → exec (.recordClose i) s = .next s) ∧
  (∀ (n : Fin 4) e, (vget s.cap.pins n).pulseEnd = some e → let u := reach e s;
    (dueSoon e s = true → exec (.outputPulseEnd n) s =
      .next { u with cap := { u.cap with pins := vmod u.cap.pins n (fun p => { p with pulseEnd := none }) } }) ∧
    Early e (.outputPulseEnd n) s) ∧
  (∀ i : Fin 16, Early (getSet s i).pendingTick (.commandTriggerDue i) s)

/-- The memory's controller: initialisation, training failures, refresh, MR4, ZQ, oscillators, scrubbing (10).
A row that comes with a frame boundary before its tick still to come changes nothing (`Early`): the model's choice,
assumption 178; tREFI under MR4 code 4 and the window of two channels are the model's (assumptions 192 and 189). -/
def Obligations.MemoryEventsComplete : Prop := ∀ (s : State),
  (∀ r2 (d : Fin 4), (s.mem.mstate = .training ∨ s.mem.mstate = .filling) → d ≠ 3 → (d ≠ 2 ∨ r2 = false) →
    Completes (.memInitComplete r2 d) s (fun t => t.mem.mstate = .ready ∧ t.mem.capPages = pagesOf r2 d.val ∧ t.mem.bytes = [])) ∧
  (∀ r2 (d : Fin 4), (s.mem.mstate = .training ∨ s.mem.mstate = .filling) → (d = 3 ∨ d = 2 ∧ r2 = true) →
    Completes (.memInitComplete r2 d) s (fun t => t.mem.mstate = .failed)) ∧
  (∀ (st : Fin 7) (ch rank : Fin 2), s.mem.mstate = .training → st ≠ 0 →
    Completes (.memTrainFail st ch rank) s (fun t => t.mem.mstate = .failed ∧ t.mem.failStep = BitVec.ofNat 4 st.val)) ∧
  (∀ q soft r, completable q (applySoft soft s) = some r →
    (r.write = true → exec (.memWriteDrain q soft) s = .next (drainWrite r (applySoft soft s))) ∧
    (r.write = false → exec (.memReadReturn q soft) s = .next (returnRead r (applySoft soft s)))) ∧
  (∀ (ch rank : Fin 2) n, let e := ceilDiv (refreshEnd ch.val rank.val s) 1000000;
    (s.mem.mstate = .ready → (rank = 0 ∨ s.mem.rank2 = true) → dueSoon e s = true →
      exec (.refreshInterval ch rank n) s = .next (refreshRank ch.val rank.val n (nextRefresh ch.val rank.val (reach e s)))) ∧
    Early e (.refreshInterval ch rank n) s) ∧
  (∀ (ch : Fin 2) (c : Fin 8), s.mem.mstate = .ready →
    Completes (.mr4Poll ch c) s (fun t => t.mem.mr4 = vset s.mem.mr4 ch (BitVec.ofNat 3 c.val))) ∧
  (∀ ch, exec (.zqCalibration ch) s = .next s) ∧
  (∀ ch n, s.mem.mstate = .ready → exec (.dqsOscillatorRead ch n) s =
    .next { s with mem := { s.mem with dqsCount := vset s.mem.dqsCount ch n } }) ∧
  (let e := ceilDiv (s.mem.windowAt + windowLen s) 1000000;
    (dueSoon e s = true → exec .refreshWindowRestart s = .next (nextWindow (reach e s)) ∧
      (nextWindow (reach e s)).mem.rowCounts = [] ∧ (nextWindow (reach e s)).mem.throttled = []) ∧
    Early e .refreshWindowRestart s) ∧
  (∀ g, exec (.captureGroupFlush g) s = .next ((s.mem.capture.filter (CapRow.sameRow (rowsPerBank s) g)).foldl (fun t r => issueRow r t)
    { s with mem := { s.mem with capture := s.mem.capture.filter (fun r => !CapRow.sameRow (rowsPerBank s) g r) } })) ∧
  (∀ soft, s.mem.mstate = .ready → s.mem.policy0.bit 31 = true → s.mem.requests = [] → exec (.scrubRead soft) s =
    .next (scrubAdvance (scrubGroup s.mem.scrubPos (touchRow 4 0xF (256 * s.mem.scrubPos) (applySoft soft s))))) ∧
  (∀ (f : Fn) write off len data, fnExists s f = true → f.val ≠ 9 → let x := getFn s f
    let n := if write then data.length else len
    let base := if f.val = 0 then 0 else 4096 * x.rangePage
    n ≠ 0 → (if f.val = 0 then off + n ≤ 4294967296 else off + n ≤ 4096 * x.rangePages) → memCheck (base + off) n s = 0 →
    exec (.captureWindowAccess f write off len data) s = .next (acceptRequest
      { requester := 2, fn := fnCode f, write := write, addr := base + off, len := n, data := if write then data else []
        use := .host } s))

/-- Compression jobs: the start, a tier's end, the job's end (11, "Jobs").
The turn's unit is a tier: the model's reading, assumption 170. -/
def Obligations.CompressionEventsComplete : Prop := ∀ (f : Fin 9) (s : State),
  let fn := BitVec.ofNat 4 f.val
  (∀ j, runningJob fn s = none → s.cmp.jobs.find? (fun j => j.fn == fn) = some j →
    let r := { j with running := true, crc := 0xFFFFFFFF }
    (j.inflates = true → exec (.jobStart f) s = .next (startInflate r (putJob r s))) ∧
    (j.inflates = false → exec (.jobStart f) s = .next (startDeflate r (putJob r s)))) ∧
  (∀ j faults, tierDue f.val s = some j → s.cmp.turn.pick 9 (fun f => (tierDue f s).isSome) = some f.val →
    let v := { s with cmp := { s.cmp with turn := s.cmp.turn.served f.val 1 } }
    (j.inflates = true → exec (.tierEnd f faults) s = .next (tierBoundary fn (inflateTier j v))) ∧
    (j.inflates = false → exec (.tierEnd f faults) s = .next (tierBoundary fn (deflateTier j faults v)))) ∧
  (∀ j, runningJob fn s = some j →
    (∀ r d, j.result = some (r, d) → exec (.jobEnd f) s = .next (endJob j r d 0 s)) ∧
    (j.result = none → j.nsamp ≤ j.done → j.inflates = true → exec (.jobEnd f) s = .next (commitInflate j s)) ∧
    (j.result = none → j.nsamp ≤ j.done → j.inflates = false → exec (.jobEnd f) s = .next (commitDeflate j s)))

/-- Events, the watchdog, temperature, the peak budget, droop, the ledger and the calendar (16).
A row that comes with a frame boundary before its tick still to come changes nothing (`Early`): the model's choice,
assumption 178. -/
def Obligations.HealthEventsComplete : Prop := ∀ (s : State),
  (∀ ws, ws.length = 16 → (entryOf ws).hub ≠ s.ring.hubId → let e := { entryOf ws with remote := true }
    exec (.faultNote ws) s = .next (offerEq 9 e (offerEq 0 e (logEvent e s)))) ∧
  (∀ (f : Fn) hub code func inst h,
    let mine := fun (h : EqHold) => h.fn == f && h.entry.hub == hub && h.entry.code == code && h.entry.func == func && h.entry.inst == inst
    let u := reach (h.since + usTicks 1000) s;
    s.hl.holds.find? mine = some h → dueSoon (h.since + usTicks 1000) s = true →
    (h.held = 0 → exec (.eventCoalesceInterval f hub code func inst) s =
      .next { u with hl := { u.hl with holds := u.hl.holds.filter (fun x => !mine x) } }) ∧
    (h.held ≠ 0 → let v := pushEq f h.entry { u with hl := { u.hl with holds := u.hl.holds.map (fun x =>
        if mine x then { x with entry := { x.entry with repeated := 0 }, held := 0, since := now u } else x) } };
      (f.val ≠ 0 → exec (.eventCoalesceInterval f hub code func inst) s = .next v) ∧
      (f.val = 0 → exec (.eventCoalesceInterval f hub code func inst) s = .next (pushSpiEvent h.entry v)))) ∧
  (∀ (f : Fn) hub code func inst h, s.hl.holds.find? (fun h => h.fn == f && h.entry.hub == hub && h.entry.code == code &&
      h.entry.func == func && h.entry.inst == inst) = some h →
    Early (h.since + usTicks 1000) (.eventCoalesceInterval f hub code func inst) s) ∧
  (exec .watchdogRestart s = .next { s with hl := { s.hl with watchdogTick := now s } }) ∧
  (let e := s.hl.watchdogTick + usTicks (1000 * s.hl.wdMs.toNat);
    s.pwr.held = false → dueSoon e s = true → exec .watchdogExpiry s = .next (chipReset 1 true 4 [] (some 3)
      (graceBeats (raiseEvent .fatal 0x0F07 0xF 0 [wd (reach e s).hl.wdMs.toNat] (reach e s))))) ∧
  (∀ (k : Fin 12) r, s.pwr.held = false → exec (.thermalTrip k r) s = .next (thermalTrip k.val r s)) ∧
  (exec .thermalRestart s = .next { s with hl := { s.hl with thermalHold := false } }) ∧
  (let e := s.hl.levelSince + 2 * ticksPerSecond
    let u := reach e s;
    s.hl.hot = true → dueSoon e s = true → exec .shedLevelTimer s =
      .next { u with hl := { u.hl with lThermal := min 5 (s.hl.lThermal + 1), levelSince := now u } }) ∧
  (let e := s.hl.levelSince + 30 * ticksPerSecond
    let u := reach e s;
    s.hl.hot = false → s.hl.cool = true → dueSoon e s = true → exec .shedLevelTimer s =
      .next { u with hl := { u.hl with lThermal := s.hl.lThermal - 1, levelSince := now u } }) ∧
  (s.hl.hot = false → s.hl.cool = false → exec .shedLevelTimer s = .next s) ∧
  (let p := s.ao.peak
   let n := (p.bucket + 1) % 96
   exec .peakBucketEnd s = .next (checkBudgets (writeStress
     { s with ao := { s.ao with peak := { p with bucket := n, buckets := vsetD p.buckets n 0 } } }))) ∧
  (s.hl.pll300 = false → exec .droopDetect s = .next { s with hl := { s.hl with droop := true } }) ∧
  (s.hl.droop = true → ∀ ns, exec (.droopClear ns) s = .next (noteStretch (min 32000 ns) s)) ∧
  (s.hl.droop = true → exec .hlDroopSustained s = .next (crit 0x0F06 0 (split64 (now s))
    { noteStretch 32000 s with hl := { (noteStretch 32000 s).hl with pll300 := true } })) ∧
  (exec .corePllReturn s = .next { s with hl := { s.hl with pll300 := false } }) ∧
  (let v := if vget s.pwr.rails 0 then countLedger 0 1 s else s
   let w := { v with ao := { v.ao with ledger := { v.ao.ledger with hourly := vall 30 0 } } }
   exec (.ledgerCommit [] none) s = .next (commitAll (List.finRange 30) w)) ∧
  (refreshHours * (s.ao.ledger.refreshes + 1) ≤ powerHours s.ao.ledger → exec .ledgerRefresh s = .next { s with ao := { s.ao with ledger := { s.ao.ledger with refreshes := s.ao.ledger.refreshes + 1 } } }) ∧
  (calendarFollows s = false → ∀ x, Completes (.calendarSecond x) s (fun t =>
    t.ao.calendar = { s.ao.calendar with sec := s.ao.calendar.sec + 1, sub := 0, repeated := false })) ∧
  Early (s.hl.watchdogTick + usTicks (1000 * s.hl.wdMs.toNat)) .watchdogExpiry s ∧
  Early (s.hl.levelSince + (if s.hl.hot then 2 else 30) * ticksPerSecond) .shedLevelTimer s ∧
  (powerHours s.ao.ledger < refreshHours * (s.ao.ledger.refreshes + 1) → exec .ledgerRefresh s = .next s)

/-- Self-tests: what each unit's end does to its run and its record, schedules, and the test access port (17).
A row that comes with a frame boundary before its tick still to come changes nothing (`Early`): the model's choice,
assumption 178. PERIOD_H runs from the schedule in force or the last one due: the model's reading, assumption 181. -/
def Obligations.SelfTestEventsComplete : Prop := ∀ (s : State),
  (∀ (m : Fin 7) b (c : Fin 3) v r, let u := blockUnit m.val b
    startedRun s 1 = some r → r.left.contains u = true → (m.val ≠ 1 ∨ s.fh.restarting = false) →
    (blockReached s m.val b = false → exec (.sramBlockTest m b c v) s = .next (finishIfDone 1 (skipUnit 1 u s))) ∧
    (blockReached s m.val b = true → Early (blockDue s) (.sramBlockTest m b c v) s) ∧
    (blockReached s m.val b = true → dueSoon (blockDue s) s = true → let w := reach (blockDue s) s
      let w := { w with ts := { w.ts with blockAt := some (now w) } };
      (c.val = 2 → m.val < 2 → exec (.sramBlockTest m b c v) s = .next (closeRun 1 3 (judgeUnit 1 u 2 v w))) ∧
      (c.val = 0 → exec (.sramBlockTest m b c v) s = .next (finishIfDone 1 (judgeUnit 1 u 0 v w))))) ∧
  (∀ (c : Fin 3) v r, startedRun s 2 = some r → s.mem.mstate = .ready →
    let g := r.next
    let x := readMemory 5 0xF (256 * g) 256 s
    let judged := if x.2.1 ≠ 0 then judgeUnit 2 g 3 v x.1 else judgeUnit 2 g c.val v (writeMemory 5 0xF (256 * g) x.2.2 x.1).1
    applySoft [] s = s → exec (.dramGroupTest c v []) s =
      .next (finishIfDone 2 (settleGroups (modRun 2 (fun x => { x with next := g + 1, left := r.left }) judged)))) ∧
  (∀ (m : Fin 288) (first second : ModReading) x, s.ts.modTests.find? (fun x => x.m == m && x.back.isNone) = some x →
    dueSoon (x.began + 9 * frameLen) s = true → let w := reach (x.began + 9 * frameLen) s
    let readings := #v[first, second]
    let u := judgeUnit 3 m.val (modVerdict readings).1 (modVerdict readings).2 (stopStimulus m.val
      (setMod (m.val / 9) (m.val % 9) .spare { w with ts := { w.ts with modTests := w.ts.modTests.filter (fun y => y.m != m) } }));
    ((modVerdict readings).1 = 0 → exec (.modulatorTestEnd m first second) s = .next (finishIfDone 3 u)) ∧
    ((modVerdict readings).1 ≠ 0 → exec (.modulatorTestEnd m first second) s =
      .next (finishIfDone 3 (failModulator (m.val / 9) (m.val % 9) 3 (now w) u)))) ∧
  (∀ (i : Fin 128) na r, startedRun s 4 = some r → r.left.contains i.val = true →
    (∀ st, sourceIdle s i.val = false → exec (.sourceTestStep i st na) s = .next (finishIfDone 4 (skipUnit 4 i.val s))) ∧
    (sourceIdle s i.val = true → (sourceStep s i.val).1 = 0 → accurate 0 na = true →
      exec (.sourceTestStep i 0 na) s = .next (finishIfDone 4 (setSourceStep i 1 0 s))) ∧
    (sourceIdle s i.val = true → (sourceStep s i.val).1 = 0 → accurate 0 na = false →
      exec (.sourceTestStep i 0 na) s = .next (finishIfDone 4 (judgeUnit 4 i.val 1 (BitVec.ofInt 32 na) s)))) ∧
  (∀ r a b, measuring 5 s = some r →
    (2500 < (a - 1250000).natAbs →
      exec (.referenceTestEnd a b) s = .next (endMeasurement r (judgeUnit 5 0 1 (BitVec.ofInt 32 a)) s)) ∧
    ((a - 1250000).natAbs ≤ 2500 → (b - 1250000).natAbs ≤ 2500 → (a - b).natAbs ≤ 250 →
      exec (.referenceTestEnd a b) s = .next (endMeasurement r (judgeUnit 5 0 0 (BitVec.ofInt 32 (a - b))) s))) ∧
  (∀ r (res leak drv : Vector Int 2), measuring 6 s = some r →
    (∀ k, (vget drv k).natAbs ≤ 50000 ∧ vget res k ≤ 250 ∧ (vget leak k).natAbs ≤ 5000) →
    exec (.testBusTestEnd res leak drv) s = .next (endMeasurement r (fun t =>
      judgeUnit 6 1 0 (BitVec.ofInt 32 (vget leak 1)) (judgeUnit 6 0 0 (BitVec.ofInt 32 (vget leak 0)) t)) s)) ∧
  (∀ (port : Fin 128) (above below : Vector TripReading 4) r, startedRun s 7 = some r → r.left.contains port.val = true →
    (portIdle s port.val = true → exec (.isolationTestPort port above below) s =
      .next (finishIfDone 7 (judgeUnit 7 port.val (tripVerdict above below).1 (tripVerdict above below).2 s))) ∧
    (portIdle s port.val = false → exec (.isolationTestPort port above below) s = .next (finishIfDone 7 (skipUnit 7 port.val s)))) ∧
  (∀ k : Fin 8, k ≠ 0 → hasBit s.ts.sched (k.val - 1) = true →
    let e := vget s.ts.schedFrom k + 3600 * s.ts.periodH.toNat * ticksPerSecond
    let u := reach e s
    let v := { u with ts := { u.ts with schedFrom := vset u.ts.schedFrom k (now u) } };
    dueSoon e s = true →
    ((runOf v k.val).isSome = true → exec (.scheduledTestDue k) s =
      .next (modRecord k.val (fun x => { x with schedSkips := satInc x.schedSkips }) v)) ∧
    ((runOf v k.val).isSome = false → v.ts.schedDue.contains k.val = false → exec (.scheduledTestDue k) s =
      .next { v with ts := { v.ts with schedDue := v.ts.schedDue ++ [k.val] } })) ∧
  (∀ op : Byte, let allowed := pinOpcode op && !s.pwr.porstN && (op != 0x80 || s.ao.scanArmed)
    (vget s.pwr.rails 7 = false → exec (.tapInstructionUpdate op) s = .next s) ∧
    (vget s.pwr.rails 7 = true → exec (.tapInstructionUpdate op) s = .next { s with ts := { s.ts with
      tapInstruction := op, tapPinControl := allowed, scanUsed := s.ts.scanUsed || (allowed && op == 0x80) } })) ∧
  (exec .tapTestLogicReset s = .next { s with ts := { s.ts with tapInstruction := 0x01, tapPinControl := false } }) ∧
  (∀ (c : Fin 3) u v, s.pwr.held = false → s.fh.fwReady = false → startupDue s = true →
    (startupRecord c.val u v s).ao.result8.rstate ≠ 1 →
    exec (.startupBistEnd c u v) s = .next (startupRecord c.val u v s)) ∧
  (∀ (m : Fin 288) first second x, s.ts.modTests.find? (fun x => x.m == m && x.back.isNone) = some x →
    Early (x.began + 9 * frameLen) (.modulatorTestEnd m first second) s) ∧
  (measuring 5 s = none → ∀ a b, exec (.referenceTestEnd a b) s = .next s) ∧
  (measuring 6 s = none → ∀ a b c, exec (.testBusTestEnd a b c) s = .next s) ∧
  (∀ k : Fin 8, Early (vget s.ts.schedFrom k + 3600 * s.ts.periodH.toNat * ticksPerSecond) (.scheduledTestDue k) s)

/-- Power: PORST_N, rails, VBAT, the release of the internal reset, standby (18). -/
def Obligations.PowerEventsComplete : Prop := ∀ (s : State),
  (s.pwr.porstN = true → let v := { s with pwr := { s.pwr with porstN := false } }
    (s.pwr.standby = true → exec .porstAssert s = .next v) ∧
    (s.pwr.standby = false → exec .porstAssert s = .next (chipReset 0 false 1 [] (some 2) v))) ∧
  (s.pwr.porstN = false → s.ts.scanUsed = false →
    exec .porstRelease s = .next { s with pwr := { s.pwr with porstN := true } }) ∧
  (∀ k : Fin 12, vget s.pwr.rails k = true → k.val ≠ 11 → s.pwr.standby = false →
    let v := countLedger 5 1 (bankLost k { s with pwr := { s.pwr with rails := vset s.pwr.rails k false } });
    (stoppingRail k = true → (s.pwr.held = false ∨ s.host.lastReset ≠ 0) →
      exec (.railBrownout k false) s = .next (chipReset 0 false 2 [wd k.val] (some 2) v)) ∧
    (stoppingRail k = false → s.pwr.held = false → exec (.railBrownout k false) s =
      .next (crit 0x0111 0 (wd k.val :: split64 (now v)) (railAction k v)))) ∧
  (∀ k : Fin 12, vget s.pwr.rails k = false →
    let v := bankBack k { s with pwr := { s.pwr with rails := vset s.pwr.rails k true } };
    ((k.val = 11 ∨ s.pwr.held = true ∨ stoppingRail k = true) → exec (.railValid k false) s = .next v) ∧
    (k.val ≠ 11 → s.pwr.held = false → stoppingRail k = false →
      exec (.railValid k false) s = .next (info 0x0112 0 (wd k.val :: split64 (now v)) v))) ∧
  (exec .vbatLoss s = .next { s with ao := alwaysOnAfterLoss s.hl.ro.toList s.ao, pwr := { s.pwr with pwrEn := false } }) ∧
  (∀ st, mayRelease s = true →
    let v := applyStraps st (restoreLedger { s with
      pwr := { s.pwr with held := false }, ao := { s.ao with incarnation := s.ao.incarnation + 1 } })
    exec (.internalResetRelease st) s = .next (checkStraps st (if v.ao.zeroPending then zeroise 3 v else v))) ∧
  (∀ st, mayRelease s = false → exec (.internalResetRelease st) s = .next s) ∧
  (s.pwr.standby = false → Completes .standbyEntry s (fun t => t.pwr.standby = true ∧ t.pwr.stbyN = false ∧ t.pwr.pwrEn = false ∧
    t.mem.mstate = .selfRefresh)) ∧
  (s.pwr.standby = true → Completes .standbyWake s (fun t => t.pwr.standby = false ∧ t.pwr.stbyN = true ∧ t.pwr.pwrEn = true ∧
    t.mem.mstate = .uninit))
end

