-- ==== Sys2Proof/Laws/State.lean ====
section
/-! SUPPORT. What each named update of one part of the state leaves as it is: every other part. -/

namespace Sys2Proof.Machine
open Sys2Proof

@[simp] theorem setFn_pending (s : State) (f : Fn) (x : Func) : (setFn s f x).pending = s.pending := rfl
@[simp] theorem setFn_tb (s : State) (f : Fn) (x : Func) : (setFn s f x).tb = s.tb := rfl
@[simp] theorem setFn_ring (s : State) (f : Fn) (x : Func) : (setFn s f x).ring = s.ring := rfl
@[simp] theorem setFn_pair (s : State) (f : Fn) (x : Func) : (setFn s f x).pair = s.pair := rfl
@[simp] theorem setFn_fe (s : State) (f : Fn) (x : Func) : (setFn s f x).fe = s.fe := rfl
@[simp] theorem setFn_cv (s : State) (f : Fn) (x : Func) : (setFn s f x).cv = s.cv := rfl
@[simp] theorem setFn_fl (s : State) (f : Fn) (x : Func) : (setFn s f x).fl = s.fl := rfl
@[simp] theorem setFn_cal (s : State) (f : Fn) (x : Func) : (setFn s f x).cal = s.cal := rfl
@[simp] theorem setFn_cap (s : State) (f : Fn) (x : Func) : (setFn s f x).cap = s.cap := rfl
@[simp] theorem setFn_mem (s : State) (f : Fn) (x : Func) : (setFn s f x).mem = s.mem := rfl
@[simp] theorem setFn_cmp (s : State) (f : Fn) (x : Func) : (setFn s f x).cmp = s.cmp := rfl
@[simp] theorem setFn_st (s : State) (f : Fn) (x : Func) : (setFn s f x).st = s.st := rfl
@[simp] theorem setFn_ln (s : State) (f : Fn) (x : Func) : (setFn s f x).ln = s.ln := rfl
@[simp] theorem setFn_fh (s : State) (f : Fn) (x : Func) : (setFn s f x).fh = s.fh := rfl
@[simp] theorem setFn_hl (s : State) (f : Fn) (x : Func) : (setFn s f x).hl = s.hl := rfl
@[simp] theorem setFn_ts (s : State) (f : Fn) (x : Func) : (setFn s f x).ts = s.ts := rfl
@[simp] theorem setFn_pwr (s : State) (f : Fn) (x : Func) : (setFn s f x).pwr = s.pwr := rfl
@[simp] theorem setFn_ao (s : State) (f : Fn) (x : Func) : (setFn s f x).ao = s.ao := rfl
@[simp] theorem setFn_staged (s : State) (f : Fn) (x : Func) : (setFn s f x).staged = s.staged := rfl
@[simp] theorem setFn_freeCtr (s : State) (f : Fn) (x : Func) : (setFn s f x).freeCtr = s.freeCtr := rfl
@[simp] theorem setFn_out (s : State) (f : Fn) (x : Func) : (setFn s f x).out = s.out := rfl

@[simp] theorem modFn_pending (s : State) (f : Fn) (g : Func → Func) : (modFn s f g).pending = s.pending := rfl
@[simp] theorem modFn_tb (s : State) (f : Fn) (g : Func → Func) : (modFn s f g).tb = s.tb := rfl
@[simp] theorem modFn_ring (s : State) (f : Fn) (g : Func → Func) : (modFn s f g).ring = s.ring := rfl
@[simp] theorem modFn_pair (s : State) (f : Fn) (g : Func → Func) : (modFn s f g).pair = s.pair := rfl
@[simp] theorem modFn_fe (s : State) (f : Fn) (g : Func → Func) : (modFn s f g).fe = s.fe := rfl
@[simp] theorem modFn_cv (s : State) (f : Fn) (g : Func → Func) : (modFn s f g).cv = s.cv := rfl
@[simp] theorem modFn_fl (s : State) (f : Fn) (g : Func → Func) : (modFn s f g).fl = s.fl := rfl
@[simp] theorem modFn_cal (s : State) (f : Fn) (g : Func → Func) : (modFn s f g).cal = s.cal := rfl
@[simp] theorem modFn_cap (s : State) (f : Fn) (g : Func → Func) : (modFn s f g).cap = s.cap := rfl
@[simp] theorem modFn_mem (s : State) (f : Fn) (g : Func → Func) : (modFn s f g).mem = s.mem := rfl
@[simp] theorem modFn_cmp (s : State) (f : Fn) (g : Func → Func) : (modFn s f g).cmp = s.cmp := rfl
@[simp] theorem modFn_st (s : State) (f : Fn) (g : Func → Func) : (modFn s f g).st = s.st := rfl
@[simp] theorem modFn_ln (s : State) (f : Fn) (g : Func → Func) : (modFn s f g).ln = s.ln := rfl
@[simp] theorem modFn_fh (s : State) (f : Fn) (g : Func → Func) : (modFn s f g).fh = s.fh := rfl
@[simp] theorem modFn_hl (s : State) (f : Fn) (g : Func → Func) : (modFn s f g).hl = s.hl := rfl
@[simp] theorem modFn_ts (s : State) (f : Fn) (g : Func → Func) : (modFn s f g).ts = s.ts := rfl
@[simp] theorem modFn_pwr (s : State) (f : Fn) (g : Func → Func) : (modFn s f g).pwr = s.pwr := rfl
@[simp] theorem modFn_ao (s : State) (f : Fn) (g : Func → Func) : (modFn s f g).ao = s.ao := rfl
@[simp] theorem modFn_staged (s : State) (f : Fn) (g : Func → Func) : (modFn s f g).staged = s.staged := rfl
@[simp] theorem modFn_freeCtr (s : State) (f : Fn) (g : Func → Func) : (modFn s f g).freeCtr = s.freeCtr := rfl
@[simp] theorem modFn_out (s : State) (f : Fn) (g : Func → Func) : (modFn s f g).out = s.out := rfl

@[simp] theorem countLedger_pending (id : Fin 30) (n : Nat) (s : State) : (countLedger id n s).pending = s.pending := rfl
@[simp] theorem countLedger_tb (id : Fin 30) (n : Nat) (s : State) : (countLedger id n s).tb = s.tb := rfl
@[simp] theorem countLedger_ring (id : Fin 30) (n : Nat) (s : State) : (countLedger id n s).ring = s.ring := rfl
@[simp] theorem countLedger_pair (id : Fin 30) (n : Nat) (s : State) : (countLedger id n s).pair = s.pair := rfl
@[simp] theorem countLedger_fe (id : Fin 30) (n : Nat) (s : State) : (countLedger id n s).fe = s.fe := rfl
@[simp] theorem countLedger_cv (id : Fin 30) (n : Nat) (s : State) : (countLedger id n s).cv = s.cv := rfl
@[simp] theorem countLedger_fl (id : Fin 30) (n : Nat) (s : State) : (countLedger id n s).fl = s.fl := rfl
@[simp] theorem countLedger_cal (id : Fin 30) (n : Nat) (s : State) : (countLedger id n s).cal = s.cal := rfl
@[simp] theorem countLedger_cap (id : Fin 30) (n : Nat) (s : State) : (countLedger id n s).cap = s.cap := rfl
@[simp] theorem countLedger_mem (id : Fin 30) (n : Nat) (s : State) : (countLedger id n s).mem = s.mem := rfl
@[simp] theorem countLedger_cmp (id : Fin 30) (n : Nat) (s : State) : (countLedger id n s).cmp = s.cmp := rfl
@[simp] theorem countLedger_st (id : Fin 30) (n : Nat) (s : State) : (countLedger id n s).st = s.st := rfl
@[simp] theorem countLedger_ln (id : Fin 30) (n : Nat) (s : State) : (countLedger id n s).ln = s.ln := rfl
@[simp] theorem countLedger_host (id : Fin 30) (n : Nat) (s : State) : (countLedger id n s).host = s.host := rfl
@[simp] theorem countLedger_fh (id : Fin 30) (n : Nat) (s : State) : (countLedger id n s).fh = s.fh := rfl
@[simp] theorem countLedger_hl (id : Fin 30) (n : Nat) (s : State) : (countLedger id n s).hl = s.hl := rfl
@[simp] theorem countLedger_ts (id : Fin 30) (n : Nat) (s : State) : (countLedger id n s).ts = s.ts := rfl
@[simp] theorem countLedger_pwr (id : Fin 30) (n : Nat) (s : State) : (countLedger id n s).pwr = s.pwr := rfl
@[simp] theorem countLedger_staged (id : Fin 30) (n : Nat) (s : State) : (countLedger id n s).staged = s.staged := rfl
@[simp] theorem countLedger_freeCtr (id : Fin 30) (n : Nat) (s : State) : (countLedger id n s).freeCtr = s.freeCtr := rfl
@[simp] theorem countLedger_out (id : Fin 30) (n : Nat) (s : State) : (countLedger id n s).out = s.out := rfl

@[simp] theorem modLane_pending (l : Fin 16) (f : Lane → Lane) (s : State) : (modLane l f s).pending = s.pending := rfl
@[simp] theorem modLane_tb (l : Fin 16) (f : Lane → Lane) (s : State) : (modLane l f s).tb = s.tb := rfl
@[simp] theorem modLane_ring (l : Fin 16) (f : Lane → Lane) (s : State) : (modLane l f s).ring = s.ring := rfl
@[simp] theorem modLane_pair (l : Fin 16) (f : Lane → Lane) (s : State) : (modLane l f s).pair = s.pair := rfl
@[simp] theorem modLane_fe (l : Fin 16) (f : Lane → Lane) (s : State) : (modLane l f s).fe = s.fe := rfl
@[simp] theorem modLane_cv (l : Fin 16) (f : Lane → Lane) (s : State) : (modLane l f s).cv = s.cv := rfl
@[simp] theorem modLane_fl (l : Fin 16) (f : Lane → Lane) (s : State) : (modLane l f s).fl = s.fl := rfl
@[simp] theorem modLane_cal (l : Fin 16) (f : Lane → Lane) (s : State) : (modLane l f s).cal = s.cal := rfl
@[simp] theorem modLane_cap (l : Fin 16) (f : Lane → Lane) (s : State) : (modLane l f s).cap = s.cap := rfl
@[simp] theorem modLane_mem (l : Fin 16) (f : Lane → Lane) (s : State) : (modLane l f s).mem = s.mem := rfl
@[simp] theorem modLane_cmp (l : Fin 16) (f : Lane → Lane) (s : State) : (modLane l f s).cmp = s.cmp := rfl
@[simp] theorem modLane_st (l : Fin 16) (f : Lane → Lane) (s : State) : (modLane l f s).st = s.st := rfl
@[simp] theorem modLane_host (l : Fin 16) (f : Lane → Lane) (s : State) : (modLane l f s).host = s.host := rfl
@[simp] theorem modLane_fh (l : Fin 16) (f : Lane → Lane) (s : State) : (modLane l f s).fh = s.fh := rfl
@[simp] theorem modLane_hl (l : Fin 16) (f : Lane → Lane) (s : State) : (modLane l f s).hl = s.hl := rfl
@[simp] theorem modLane_ts (l : Fin 16) (f : Lane → Lane) (s : State) : (modLane l f s).ts = s.ts := rfl
@[simp] theorem modLane_pwr (l : Fin 16) (f : Lane → Lane) (s : State) : (modLane l f s).pwr = s.pwr := rfl
@[simp] theorem modLane_ao (l : Fin 16) (f : Lane → Lane) (s : State) : (modLane l f s).ao = s.ao := rfl
@[simp] theorem modLane_staged (l : Fin 16) (f : Lane → Lane) (s : State) : (modLane l f s).staged = s.staged := rfl
@[simp] theorem modLane_freeCtr (l : Fin 16) (f : Lane → Lane) (s : State) : (modLane l f s).freeCtr = s.freeCtr := rfl
@[simp] theorem modLane_out (l : Fin 16) (f : Lane → Lane) (s : State) : (modLane l f s).out = s.out := rfl

@[simp] theorem modLink_pending (g : Fin 3) (c : Fin 4) (f : LinkClass → LinkClass) (s : State) : (modLink g c f s).pending = s.pending := rfl
@[simp] theorem modLink_tb (g : Fin 3) (c : Fin 4) (f : LinkClass → LinkClass) (s : State) : (modLink g c f s).tb = s.tb := rfl
@[simp] theorem modLink_ring (g : Fin 3) (c : Fin 4) (f : LinkClass → LinkClass) (s : State) : (modLink g c f s).ring = s.ring := rfl
@[simp] theorem modLink_pair (g : Fin 3) (c : Fin 4) (f : LinkClass → LinkClass) (s : State) : (modLink g c f s).pair = s.pair := rfl
@[simp] theorem modLink_fe (g : Fin 3) (c : Fin 4) (f : LinkClass → LinkClass) (s : State) : (modLink g c f s).fe = s.fe := rfl
@[simp] theorem modLink_cv (g : Fin 3) (c : Fin 4) (f : LinkClass → LinkClass) (s : State) : (modLink g c f s).cv = s.cv := rfl
@[simp] theorem modLink_fl (g : Fin 3) (c : Fin 4) (f : LinkClass → LinkClass) (s : State) : (modLink g c f s).fl = s.fl := rfl
@[simp] theorem modLink_cal (g : Fin 3) (c : Fin 4) (f : LinkClass → LinkClass) (s : State) : (modLink g c f s).cal = s.cal := rfl
@[simp] theorem modLink_cap (g : Fin 3) (c : Fin 4) (f : LinkClass → LinkClass) (s : State) : (modLink g c f s).cap = s.cap := rfl
@[simp] theorem modLink_mem (g : Fin 3) (c : Fin 4) (f : LinkClass → LinkClass) (s : State) : (modLink g c f s).mem = s.mem := rfl
@[simp] theorem modLink_cmp (g : Fin 3) (c : Fin 4) (f : LinkClass → LinkClass) (s : State) : (modLink g c f s).cmp = s.cmp := rfl
@[simp] theorem modLink_st (g : Fin 3) (c : Fin 4) (f : LinkClass → LinkClass) (s : State) : (modLink g c f s).st = s.st := rfl
@[simp] theorem modLink_host (g : Fin 3) (c : Fin 4) (f : LinkClass → LinkClass) (s : State) : (modLink g c f s).host = s.host := rfl
@[simp] theorem modLink_fh (g : Fin 3) (c : Fin 4) (f : LinkClass → LinkClass) (s : State) : (modLink g c f s).fh = s.fh := rfl
@[simp] theorem modLink_hl (g : Fin 3) (c : Fin 4) (f : LinkClass → LinkClass) (s : State) : (modLink g c f s).hl = s.hl := rfl
@[simp] theorem modLink_ts (g : Fin 3) (c : Fin 4) (f : LinkClass → LinkClass) (s : State) : (modLink g c f s).ts = s.ts := rfl
@[simp] theorem modLink_pwr (g : Fin 3) (c : Fin 4) (f : LinkClass → LinkClass) (s : State) : (modLink g c f s).pwr = s.pwr := rfl
@[simp] theorem modLink_ao (g : Fin 3) (c : Fin 4) (f : LinkClass → LinkClass) (s : State) : (modLink g c f s).ao = s.ao := rfl
@[simp] theorem modLink_staged (g : Fin 3) (c : Fin 4) (f : LinkClass → LinkClass) (s : State) : (modLink g c f s).staged = s.staged := rfl
@[simp] theorem modLink_freeCtr (g : Fin 3) (c : Fin 4) (f : LinkClass → LinkClass) (s : State) : (modLink g c f s).freeCtr = s.freeCtr := rfl
@[simp] theorem modLink_out (g : Fin 3) (c : Fin 4) (f : LinkClass → LinkClass) (s : State) : (modLink g c f s).out = s.out := rfl

@[simp] theorem stage_pending (at_ : Nat) (c : Change) (s : State) : (stage at_ c s).pending = s.pending := rfl
@[simp] theorem stage_tb (at_ : Nat) (c : Change) (s : State) : (stage at_ c s).tb = s.tb := rfl
@[simp] theorem stage_ring (at_ : Nat) (c : Change) (s : State) : (stage at_ c s).ring = s.ring := rfl
@[simp] theorem stage_pair (at_ : Nat) (c : Change) (s : State) : (stage at_ c s).pair = s.pair := rfl
@[simp] theorem stage_fe (at_ : Nat) (c : Change) (s : State) : (stage at_ c s).fe = s.fe := rfl
@[simp] theorem stage_cv (at_ : Nat) (c : Change) (s : State) : (stage at_ c s).cv = s.cv := rfl
@[simp] theorem stage_fl (at_ : Nat) (c : Change) (s : State) : (stage at_ c s).fl = s.fl := rfl
@[simp] theorem stage_cal (at_ : Nat) (c : Change) (s : State) : (stage at_ c s).cal = s.cal := rfl
@[simp] theorem stage_cap (at_ : Nat) (c : Change) (s : State) : (stage at_ c s).cap = s.cap := rfl
@[simp] theorem stage_mem (at_ : Nat) (c : Change) (s : State) : (stage at_ c s).mem = s.mem := rfl
@[simp] theorem stage_cmp (at_ : Nat) (c : Change) (s : State) : (stage at_ c s).cmp = s.cmp := rfl
@[simp] theorem stage_st (at_ : Nat) (c : Change) (s : State) : (stage at_ c s).st = s.st := rfl
@[simp] theorem stage_ln (at_ : Nat) (c : Change) (s : State) : (stage at_ c s).ln = s.ln := rfl
@[simp] theorem stage_host (at_ : Nat) (c : Change) (s : State) : (stage at_ c s).host = s.host := rfl
@[simp] theorem stage_fh (at_ : Nat) (c : Change) (s : State) : (stage at_ c s).fh = s.fh := rfl
@[simp] theorem stage_hl (at_ : Nat) (c : Change) (s : State) : (stage at_ c s).hl = s.hl := rfl
@[simp] theorem stage_ts (at_ : Nat) (c : Change) (s : State) : (stage at_ c s).ts = s.ts := rfl
@[simp] theorem stage_pwr (at_ : Nat) (c : Change) (s : State) : (stage at_ c s).pwr = s.pwr := rfl
@[simp] theorem stage_ao (at_ : Nat) (c : Change) (s : State) : (stage at_ c s).ao = s.ao := rfl
@[simp] theorem stage_freeCtr (at_ : Nat) (c : Change) (s : State) : (stage at_ c s).freeCtr = s.freeCtr := rfl
@[simp] theorem stage_out (at_ : Nat) (c : Change) (s : State) : (stage at_ c s).out = s.out := rfl

@[simp] theorem queueReply_pending (src : Source) (r : Reply) (s : State) : (queueReply src r s).pending = s.pending := rfl
@[simp] theorem queueReply_tb (src : Source) (r : Reply) (s : State) : (queueReply src r s).tb = s.tb := rfl
@[simp] theorem queueReply_ring (src : Source) (r : Reply) (s : State) : (queueReply src r s).ring = s.ring := rfl
@[simp] theorem queueReply_pair (src : Source) (r : Reply) (s : State) : (queueReply src r s).pair = s.pair := rfl
@[simp] theorem queueReply_fe (src : Source) (r : Reply) (s : State) : (queueReply src r s).fe = s.fe := rfl
@[simp] theorem queueReply_cv (src : Source) (r : Reply) (s : State) : (queueReply src r s).cv = s.cv := rfl
@[simp] theorem queueReply_fl (src : Source) (r : Reply) (s : State) : (queueReply src r s).fl = s.fl := rfl
@[simp] theorem queueReply_cal (src : Source) (r : Reply) (s : State) : (queueReply src r s).cal = s.cal := rfl
@[simp] theorem queueReply_cap (src : Source) (r : Reply) (s : State) : (queueReply src r s).cap = s.cap := rfl
@[simp] theorem queueReply_mem (src : Source) (r : Reply) (s : State) : (queueReply src r s).mem = s.mem := rfl
@[simp] theorem queueReply_cmp (src : Source) (r : Reply) (s : State) : (queueReply src r s).cmp = s.cmp := rfl
@[simp] theorem queueReply_st (src : Source) (r : Reply) (s : State) : (queueReply src r s).st = s.st := rfl
@[simp] theorem queueReply_ln (src : Source) (r : Reply) (s : State) : (queueReply src r s).ln = s.ln := rfl
@[simp] theorem queueReply_host (src : Source) (r : Reply) (s : State) : (queueReply src r s).host = s.host := rfl
@[simp] theorem queueReply_hl (src : Source) (r : Reply) (s : State) : (queueReply src r s).hl = s.hl := rfl
@[simp] theorem queueReply_ts (src : Source) (r : Reply) (s : State) : (queueReply src r s).ts = s.ts := rfl
@[simp] theorem queueReply_pwr (src : Source) (r : Reply) (s : State) : (queueReply src r s).pwr = s.pwr := rfl
@[simp] theorem queueReply_ao (src : Source) (r : Reply) (s : State) : (queueReply src r s).ao = s.ao := rfl
@[simp] theorem queueReply_staged (src : Source) (r : Reply) (s : State) : (queueReply src r s).staged = s.staged := rfl
@[simp] theorem queueReply_freeCtr (src : Source) (r : Reply) (s : State) : (queueReply src r s).freeCtr = s.freeCtr := rfl
@[simp] theorem queueReply_out (src : Source) (r : Reply) (s : State) : (queueReply src r s).out = s.out := rfl

@[simp] theorem storeSeq_pending (f : Fn) (seq : Word) (s : State) : (storeSeq f seq s).pending = s.pending := rfl
@[simp] theorem storeSeq_tb (f : Fn) (seq : Word) (s : State) : (storeSeq f seq s).tb = s.tb := rfl
@[simp] theorem storeSeq_ring (f : Fn) (seq : Word) (s : State) : (storeSeq f seq s).ring = s.ring := rfl
@[simp] theorem storeSeq_pair (f : Fn) (seq : Word) (s : State) : (storeSeq f seq s).pair = s.pair := rfl
@[simp] theorem storeSeq_fe (f : Fn) (seq : Word) (s : State) : (storeSeq f seq s).fe = s.fe := rfl
@[simp] theorem storeSeq_cv (f : Fn) (seq : Word) (s : State) : (storeSeq f seq s).cv = s.cv := rfl
@[simp] theorem storeSeq_fl (f : Fn) (seq : Word) (s : State) : (storeSeq f seq s).fl = s.fl := rfl
@[simp] theorem storeSeq_cal (f : Fn) (seq : Word) (s : State) : (storeSeq f seq s).cal = s.cal := rfl
@[simp] theorem storeSeq_cap (f : Fn) (seq : Word) (s : State) : (storeSeq f seq s).cap = s.cap := rfl
@[simp] theorem storeSeq_mem (f : Fn) (seq : Word) (s : State) : (storeSeq f seq s).mem = s.mem := rfl
@[simp] theorem storeSeq_cmp (f : Fn) (seq : Word) (s : State) : (storeSeq f seq s).cmp = s.cmp := rfl
@[simp] theorem storeSeq_st (f : Fn) (seq : Word) (s : State) : (storeSeq f seq s).st = s.st := rfl
@[simp] theorem storeSeq_ln (f : Fn) (seq : Word) (s : State) : (storeSeq f seq s).ln = s.ln := rfl
@[simp] theorem storeSeq_host (f : Fn) (seq : Word) (s : State) : (storeSeq f seq s).host = s.host := rfl
@[simp] theorem storeSeq_fh (f : Fn) (seq : Word) (s : State) : (storeSeq f seq s).fh = s.fh := rfl
@[simp] theorem storeSeq_hl (f : Fn) (seq : Word) (s : State) : (storeSeq f seq s).hl = s.hl := rfl
@[simp] theorem storeSeq_ts (f : Fn) (seq : Word) (s : State) : (storeSeq f seq s).ts = s.ts := rfl
@[simp] theorem storeSeq_pwr (f : Fn) (seq : Word) (s : State) : (storeSeq f seq s).pwr = s.pwr := rfl
@[simp] theorem storeSeq_staged (f : Fn) (seq : Word) (s : State) : (storeSeq f seq s).staged = s.staged := rfl
@[simp] theorem storeSeq_freeCtr (f : Fn) (seq : Word) (s : State) : (storeSeq f seq s).freeCtr = s.freeCtr := rfl
@[simp] theorem storeSeq_out (f : Fn) (seq : Word) (s : State) : (storeSeq f seq s).out = s.out := rfl

@[simp] theorem setBranch_pending (i : Nat) (x : Branch) (s : State) : (setBranch i x s).pending = s.pending := rfl
@[simp] theorem setBranch_tb (i : Nat) (x : Branch) (s : State) : (setBranch i x s).tb = s.tb := rfl
@[simp] theorem setBranch_ring (i : Nat) (x : Branch) (s : State) : (setBranch i x s).ring = s.ring := rfl
@[simp] theorem setBranch_pair (i : Nat) (x : Branch) (s : State) : (setBranch i x s).pair = s.pair := rfl
@[simp] theorem setBranch_fe (i : Nat) (x : Branch) (s : State) : (setBranch i x s).fe = s.fe := rfl
@[simp] theorem setBranch_cv (i : Nat) (x : Branch) (s : State) : (setBranch i x s).cv = s.cv := rfl
@[simp] theorem setBranch_cal (i : Nat) (x : Branch) (s : State) : (setBranch i x s).cal = s.cal := rfl
@[simp] theorem setBranch_cap (i : Nat) (x : Branch) (s : State) : (setBranch i x s).cap = s.cap := rfl
@[simp] theorem setBranch_mem (i : Nat) (x : Branch) (s : State) : (setBranch i x s).mem = s.mem := rfl
@[simp] theorem setBranch_cmp (i : Nat) (x : Branch) (s : State) : (setBranch i x s).cmp = s.cmp := rfl
@[simp] theorem setBranch_st (i : Nat) (x : Branch) (s : State) : (setBranch i x s).st = s.st := rfl
@[simp] theorem setBranch_ln (i : Nat) (x : Branch) (s : State) : (setBranch i x s).ln = s.ln := rfl
@[simp] theorem setBranch_host (i : Nat) (x : Branch) (s : State) : (setBranch i x s).host = s.host := rfl
@[simp] theorem setBranch_fh (i : Nat) (x : Branch) (s : State) : (setBranch i x s).fh = s.fh := rfl
@[simp] theorem setBranch_hl (i : Nat) (x : Branch) (s : State) : (setBranch i x s).hl = s.hl := rfl
@[simp] theorem setBranch_ts (i : Nat) (x : Branch) (s : State) : (setBranch i x s).ts = s.ts := rfl
@[simp] theorem setBranch_pwr (i : Nat) (x : Branch) (s : State) : (setBranch i x s).pwr = s.pwr := rfl
@[simp] theorem setBranch_ao (i : Nat) (x : Branch) (s : State) : (setBranch i x s).ao = s.ao := rfl
@[simp] theorem setBranch_staged (i : Nat) (x : Branch) (s : State) : (setBranch i x s).staged = s.staged := rfl
@[simp] theorem setBranch_freeCtr (i : Nat) (x : Branch) (s : State) : (setBranch i x s).freeCtr = s.freeCtr := rfl
@[simp] theorem setBranch_out (i : Nat) (x : Branch) (s : State) : (setBranch i x s).out = s.out := rfl

@[simp] theorem modDetector_pending (c : Nat) (g : Detector → Detector) (s : State) : (modDetector c g s).pending = s.pending := rfl
@[simp] theorem modDetector_tb (c : Nat) (g : Detector → Detector) (s : State) : (modDetector c g s).tb = s.tb := rfl
@[simp] theorem modDetector_ring (c : Nat) (g : Detector → Detector) (s : State) : (modDetector c g s).ring = s.ring := rfl
@[simp] theorem modDetector_pair (c : Nat) (g : Detector → Detector) (s : State) : (modDetector c g s).pair = s.pair := rfl
@[simp] theorem modDetector_fe (c : Nat) (g : Detector → Detector) (s : State) : (modDetector c g s).fe = s.fe := rfl
@[simp] theorem modDetector_cv (c : Nat) (g : Detector → Detector) (s : State) : (modDetector c g s).cv = s.cv := rfl
@[simp] theorem modDetector_cal (c : Nat) (g : Detector → Detector) (s : State) : (modDetector c g s).cal = s.cal := rfl
@[simp] theorem modDetector_cap (c : Nat) (g : Detector → Detector) (s : State) : (modDetector c g s).cap = s.cap := rfl
@[simp] theorem modDetector_mem (c : Nat) (g : Detector → Detector) (s : State) : (modDetector c g s).mem = s.mem := rfl
@[simp] theorem modDetector_cmp (c : Nat) (g : Detector → Detector) (s : State) : (modDetector c g s).cmp = s.cmp := rfl
@[simp] theorem modDetector_st (c : Nat) (g : Detector → Detector) (s : State) : (modDetector c g s).st = s.st := rfl
@[simp] theorem modDetector_ln (c : Nat) (g : Detector → Detector) (s : State) : (modDetector c g s).ln = s.ln := rfl
@[simp] theorem modDetector_host (c : Nat) (g : Detector → Detector) (s : State) : (modDetector c g s).host = s.host := rfl
@[simp] theorem modDetector_fh (c : Nat) (g : Detector → Detector) (s : State) : (modDetector c g s).fh = s.fh := rfl
@[simp] theorem modDetector_hl (c : Nat) (g : Detector → Detector) (s : State) : (modDetector c g s).hl = s.hl := rfl
@[simp] theorem modDetector_ts (c : Nat) (g : Detector → Detector) (s : State) : (modDetector c g s).ts = s.ts := rfl
@[simp] theorem modDetector_pwr (c : Nat) (g : Detector → Detector) (s : State) : (modDetector c g s).pwr = s.pwr := rfl
@[simp] theorem modDetector_ao (c : Nat) (g : Detector → Detector) (s : State) : (modDetector c g s).ao = s.ao := rfl
@[simp] theorem modDetector_staged (c : Nat) (g : Detector → Detector) (s : State) : (modDetector c g s).staged = s.staged := rfl
@[simp] theorem modDetector_freeCtr (c : Nat) (g : Detector → Detector) (s : State) : (modDetector c g s).freeCtr = s.freeCtr := rfl
@[simp] theorem modDetector_out (c : Nat) (g : Detector → Detector) (s : State) : (modDetector c g s).out = s.out := rfl

@[simp] theorem modCal_pending (b : Nat) (f : CalBasin → CalBasin) (s : State) : (modCal b f s).pending = s.pending := rfl
@[simp] theorem modCal_tb (b : Nat) (f : CalBasin → CalBasin) (s : State) : (modCal b f s).tb = s.tb := rfl
@[simp] theorem modCal_ring (b : Nat) (f : CalBasin → CalBasin) (s : State) : (modCal b f s).ring = s.ring := rfl
@[simp] theorem modCal_pair (b : Nat) (f : CalBasin → CalBasin) (s : State) : (modCal b f s).pair = s.pair := rfl
@[simp] theorem modCal_fe (b : Nat) (f : CalBasin → CalBasin) (s : State) : (modCal b f s).fe = s.fe := rfl
@[simp] theorem modCal_cv (b : Nat) (f : CalBasin → CalBasin) (s : State) : (modCal b f s).cv = s.cv := rfl
@[simp] theorem modCal_fl (b : Nat) (f : CalBasin → CalBasin) (s : State) : (modCal b f s).fl = s.fl := rfl
@[simp] theorem modCal_cap (b : Nat) (f : CalBasin → CalBasin) (s : State) : (modCal b f s).cap = s.cap := rfl
@[simp] theorem modCal_mem (b : Nat) (f : CalBasin → CalBasin) (s : State) : (modCal b f s).mem = s.mem := rfl
@[simp] theorem modCal_cmp (b : Nat) (f : CalBasin → CalBasin) (s : State) : (modCal b f s).cmp = s.cmp := rfl
@[simp] theorem modCal_st (b : Nat) (f : CalBasin → CalBasin) (s : State) : (modCal b f s).st = s.st := rfl
@[simp] theorem modCal_ln (b : Nat) (f : CalBasin → CalBasin) (s : State) : (modCal b f s).ln = s.ln := rfl
@[simp] theorem modCal_host (b : Nat) (f : CalBasin → CalBasin) (s : State) : (modCal b f s).host = s.host := rfl
@[simp] theorem modCal_fh (b : Nat) (f : CalBasin → CalBasin) (s : State) : (modCal b f s).fh = s.fh := rfl
@[simp] theorem modCal_hl (b : Nat) (f : CalBasin → CalBasin) (s : State) : (modCal b f s).hl = s.hl := rfl
@[simp] theorem modCal_ts (b : Nat) (f : CalBasin → CalBasin) (s : State) : (modCal b f s).ts = s.ts := rfl
@[simp] theorem modCal_pwr (b : Nat) (f : CalBasin → CalBasin) (s : State) : (modCal b f s).pwr = s.pwr := rfl
@[simp] theorem modCal_ao (b : Nat) (f : CalBasin → CalBasin) (s : State) : (modCal b f s).ao = s.ao := rfl
@[simp] theorem modCal_staged (b : Nat) (f : CalBasin → CalBasin) (s : State) : (modCal b f s).staged = s.staged := rfl
@[simp] theorem modCal_freeCtr (b : Nat) (f : CalBasin → CalBasin) (s : State) : (modCal b f s).freeCtr = s.freeCtr := rfl
@[simp] theorem modCal_out (b : Nat) (f : CalBasin → CalBasin) (s : State) : (modCal b f s).out = s.out := rfl

@[simp] theorem modSet_pending (i : Fin 16) (f : CapSet → CapSet) (s : State) : (modSet i f s).pending = s.pending := rfl
@[simp] theorem modSet_tb (i : Fin 16) (f : CapSet → CapSet) (s : State) : (modSet i f s).tb = s.tb := rfl
@[simp] theorem modSet_ring (i : Fin 16) (f : CapSet → CapSet) (s : State) : (modSet i f s).ring = s.ring := rfl
@[simp] theorem modSet_pair (i : Fin 16) (f : CapSet → CapSet) (s : State) : (modSet i f s).pair = s.pair := rfl
@[simp] theorem modSet_fe (i : Fin 16) (f : CapSet → CapSet) (s : State) : (modSet i f s).fe = s.fe := rfl
@[simp] theorem modSet_cv (i : Fin 16) (f : CapSet → CapSet) (s : State) : (modSet i f s).cv = s.cv := rfl
@[simp] theorem modSet_fl (i : Fin 16) (f : CapSet → CapSet) (s : State) : (modSet i f s).fl = s.fl := rfl
@[simp] theorem modSet_cal (i : Fin 16) (f : CapSet → CapSet) (s : State) : (modSet i f s).cal = s.cal := rfl
@[simp] theorem modSet_mem (i : Fin 16) (f : CapSet → CapSet) (s : State) : (modSet i f s).mem = s.mem := rfl
@[simp] theorem modSet_cmp (i : Fin 16) (f : CapSet → CapSet) (s : State) : (modSet i f s).cmp = s.cmp := rfl
@[simp] theorem modSet_st (i : Fin 16) (f : CapSet → CapSet) (s : State) : (modSet i f s).st = s.st := rfl
@[simp] theorem modSet_ln (i : Fin 16) (f : CapSet → CapSet) (s : State) : (modSet i f s).ln = s.ln := rfl
@[simp] theorem modSet_host (i : Fin 16) (f : CapSet → CapSet) (s : State) : (modSet i f s).host = s.host := rfl
@[simp] theorem modSet_fh (i : Fin 16) (f : CapSet → CapSet) (s : State) : (modSet i f s).fh = s.fh := rfl
@[simp] theorem modSet_hl (i : Fin 16) (f : CapSet → CapSet) (s : State) : (modSet i f s).hl = s.hl := rfl
@[simp] theorem modSet_ts (i : Fin 16) (f : CapSet → CapSet) (s : State) : (modSet i f s).ts = s.ts := rfl
@[simp] theorem modSet_pwr (i : Fin 16) (f : CapSet → CapSet) (s : State) : (modSet i f s).pwr = s.pwr := rfl
@[simp] theorem modSet_ao (i : Fin 16) (f : CapSet → CapSet) (s : State) : (modSet i f s).ao = s.ao := rfl
@[simp] theorem modSet_staged (i : Fin 16) (f : CapSet → CapSet) (s : State) : (modSet i f s).staged = s.staged := rfl
@[simp] theorem modSet_freeCtr (i : Fin 16) (f : CapSet → CapSet) (s : State) : (modSet i f s).freeCtr = s.freeCtr := rfl
@[simp] theorem modSet_out (i : Fin 16) (f : CapSet → CapSet) (s : State) : (modSet i f s).out = s.out := rfl

@[simp] theorem putJob_pending (j : Job) (s : State) : (putJob j s).pending = s.pending := rfl
@[simp] theorem putJob_tb (j : Job) (s : State) : (putJob j s).tb = s.tb := rfl
@[simp] theorem putJob_ring (j : Job) (s : State) : (putJob j s).ring = s.ring := rfl
@[simp] theorem putJob_pair (j : Job) (s : State) : (putJob j s).pair = s.pair := rfl
@[simp] theorem putJob_fe (j : Job) (s : State) : (putJob j s).fe = s.fe := rfl
@[simp] theorem putJob_cv (j : Job) (s : State) : (putJob j s).cv = s.cv := rfl
@[simp] theorem putJob_fl (j : Job) (s : State) : (putJob j s).fl = s.fl := rfl
@[simp] theorem putJob_cal (j : Job) (s : State) : (putJob j s).cal = s.cal := rfl
@[simp] theorem putJob_cap (j : Job) (s : State) : (putJob j s).cap = s.cap := rfl
@[simp] theorem putJob_mem (j : Job) (s : State) : (putJob j s).mem = s.mem := rfl
@[simp] theorem putJob_st (j : Job) (s : State) : (putJob j s).st = s.st := rfl
@[simp] theorem putJob_ln (j : Job) (s : State) : (putJob j s).ln = s.ln := rfl
@[simp] theorem putJob_host (j : Job) (s : State) : (putJob j s).host = s.host := rfl
@[simp] theorem putJob_fh (j : Job) (s : State) : (putJob j s).fh = s.fh := rfl
@[simp] theorem putJob_hl (j : Job) (s : State) : (putJob j s).hl = s.hl := rfl
@[simp] theorem putJob_ts (j : Job) (s : State) : (putJob j s).ts = s.ts := rfl
@[simp] theorem putJob_pwr (j : Job) (s : State) : (putJob j s).pwr = s.pwr := rfl
@[simp] theorem putJob_ao (j : Job) (s : State) : (putJob j s).ao = s.ao := rfl
@[simp] theorem putJob_staged (j : Job) (s : State) : (putJob j s).staged = s.staged := rfl
@[simp] theorem putJob_freeCtr (j : Job) (s : State) : (putJob j s).freeCtr = s.freeCtr := rfl
@[simp] theorem putJob_out (j : Job) (s : State) : (putJob j s).out = s.out := rfl

@[simp] theorem modStream_pending (i : Nat) (f : Stream → Stream) (s : State) : (modStream i f s).pending = s.pending := rfl
@[simp] theorem modStream_tb (i : Nat) (f : Stream → Stream) (s : State) : (modStream i f s).tb = s.tb := rfl
@[simp] theorem modStream_ring (i : Nat) (f : Stream → Stream) (s : State) : (modStream i f s).ring = s.ring := rfl
@[simp] theorem modStream_pair (i : Nat) (f : Stream → Stream) (s : State) : (modStream i f s).pair = s.pair := rfl
@[simp] theorem modStream_fe (i : Nat) (f : Stream → Stream) (s : State) : (modStream i f s).fe = s.fe := rfl
@[simp] theorem modStream_cv (i : Nat) (f : Stream → Stream) (s : State) : (modStream i f s).cv = s.cv := rfl
@[simp] theorem modStream_fl (i : Nat) (f : Stream → Stream) (s : State) : (modStream i f s).fl = s.fl := rfl
@[simp] theorem modStream_cal (i : Nat) (f : Stream → Stream) (s : State) : (modStream i f s).cal = s.cal := rfl
@[simp] theorem modStream_cap (i : Nat) (f : Stream → Stream) (s : State) : (modStream i f s).cap = s.cap := rfl
@[simp] theorem modStream_mem (i : Nat) (f : Stream → Stream) (s : State) : (modStream i f s).mem = s.mem := rfl
@[simp] theorem modStream_cmp (i : Nat) (f : Stream → Stream) (s : State) : (modStream i f s).cmp = s.cmp := rfl
@[simp] theorem modStream_ln (i : Nat) (f : Stream → Stream) (s : State) : (modStream i f s).ln = s.ln := rfl
@[simp] theorem modStream_host (i : Nat) (f : Stream → Stream) (s : State) : (modStream i f s).host = s.host := rfl
@[simp] theorem modStream_fh (i : Nat) (f : Stream → Stream) (s : State) : (modStream i f s).fh = s.fh := rfl
@[simp] theorem modStream_hl (i : Nat) (f : Stream → Stream) (s : State) : (modStream i f s).hl = s.hl := rfl
@[simp] theorem modStream_ts (i : Nat) (f : Stream → Stream) (s : State) : (modStream i f s).ts = s.ts := rfl
@[simp] theorem modStream_pwr (i : Nat) (f : Stream → Stream) (s : State) : (modStream i f s).pwr = s.pwr := rfl
@[simp] theorem modStream_ao (i : Nat) (f : Stream → Stream) (s : State) : (modStream i f s).ao = s.ao := rfl
@[simp] theorem modStream_staged (i : Nat) (f : Stream → Stream) (s : State) : (modStream i f s).staged = s.staged := rfl
@[simp] theorem modStream_freeCtr (i : Nat) (f : Stream → Stream) (s : State) : (modStream i f s).freeCtr = s.freeCtr := rfl
@[simp] theorem modStream_out (i : Nat) (f : Stream → Stream) (s : State) : (modStream i f s).out = s.out := rfl

@[simp] theorem modSv_pending (v : Fin 4) (f : Survey → Survey) (s : State) : (modSv v f s).pending = s.pending := rfl
@[simp] theorem modSv_tb (v : Fin 4) (f : Survey → Survey) (s : State) : (modSv v f s).tb = s.tb := rfl
@[simp] theorem modSv_ring (v : Fin 4) (f : Survey → Survey) (s : State) : (modSv v f s).ring = s.ring := rfl
@[simp] theorem modSv_pair (v : Fin 4) (f : Survey → Survey) (s : State) : (modSv v f s).pair = s.pair := rfl
@[simp] theorem modSv_fe (v : Fin 4) (f : Survey → Survey) (s : State) : (modSv v f s).fe = s.fe := rfl
@[simp] theorem modSv_fl (v : Fin 4) (f : Survey → Survey) (s : State) : (modSv v f s).fl = s.fl := rfl
@[simp] theorem modSv_cal (v : Fin 4) (f : Survey → Survey) (s : State) : (modSv v f s).cal = s.cal := rfl
@[simp] theorem modSv_cap (v : Fin 4) (f : Survey → Survey) (s : State) : (modSv v f s).cap = s.cap := rfl
@[simp] theorem modSv_mem (v : Fin 4) (f : Survey → Survey) (s : State) : (modSv v f s).mem = s.mem := rfl
@[simp] theorem modSv_cmp (v : Fin 4) (f : Survey → Survey) (s : State) : (modSv v f s).cmp = s.cmp := rfl
@[simp] theorem modSv_st (v : Fin 4) (f : Survey → Survey) (s : State) : (modSv v f s).st = s.st := rfl
@[simp] theorem modSv_ln (v : Fin 4) (f : Survey → Survey) (s : State) : (modSv v f s).ln = s.ln := rfl
@[simp] theorem modSv_host (v : Fin 4) (f : Survey → Survey) (s : State) : (modSv v f s).host = s.host := rfl
@[simp] theorem modSv_fh (v : Fin 4) (f : Survey → Survey) (s : State) : (modSv v f s).fh = s.fh := rfl
@[simp] theorem modSv_hl (v : Fin 4) (f : Survey → Survey) (s : State) : (modSv v f s).hl = s.hl := rfl
@[simp] theorem modSv_ts (v : Fin 4) (f : Survey → Survey) (s : State) : (modSv v f s).ts = s.ts := rfl
@[simp] theorem modSv_pwr (v : Fin 4) (f : Survey → Survey) (s : State) : (modSv v f s).pwr = s.pwr := rfl
@[simp] theorem modSv_ao (v : Fin 4) (f : Survey → Survey) (s : State) : (modSv v f s).ao = s.ao := rfl
@[simp] theorem modSv_staged (v : Fin 4) (f : Survey → Survey) (s : State) : (modSv v f s).staged = s.staged := rfl
@[simp] theorem modSv_freeCtr (v : Fin 4) (f : Survey → Survey) (s : State) : (modSv v f s).freeCtr = s.freeCtr := rfl
@[simp] theorem modSv_out (v : Fin 4) (f : Survey → Survey) (s : State) : (modSv v f s).out = s.out := rfl

@[simp] theorem modTimer_pending (t : Fin 8) (f : Timer → Timer) (s : State) : (modTimer t f s).pending = s.pending := rfl
@[simp] theorem modTimer_tb (t : Fin 8) (f : Timer → Timer) (s : State) : (modTimer t f s).tb = s.tb := rfl
@[simp] theorem modTimer_ring (t : Fin 8) (f : Timer → Timer) (s : State) : (modTimer t f s).ring = s.ring := rfl
@[simp] theorem modTimer_pair (t : Fin 8) (f : Timer → Timer) (s : State) : (modTimer t f s).pair = s.pair := rfl
@[simp] theorem modTimer_fe (t : Fin 8) (f : Timer → Timer) (s : State) : (modTimer t f s).fe = s.fe := rfl
@[simp] theorem modTimer_fl (t : Fin 8) (f : Timer → Timer) (s : State) : (modTimer t f s).fl = s.fl := rfl
@[simp] theorem modTimer_cal (t : Fin 8) (f : Timer → Timer) (s : State) : (modTimer t f s).cal = s.cal := rfl
@[simp] theorem modTimer_cap (t : Fin 8) (f : Timer → Timer) (s : State) : (modTimer t f s).cap = s.cap := rfl
@[simp] theorem modTimer_mem (t : Fin 8) (f : Timer → Timer) (s : State) : (modTimer t f s).mem = s.mem := rfl
@[simp] theorem modTimer_cmp (t : Fin 8) (f : Timer → Timer) (s : State) : (modTimer t f s).cmp = s.cmp := rfl
@[simp] theorem modTimer_st (t : Fin 8) (f : Timer → Timer) (s : State) : (modTimer t f s).st = s.st := rfl
@[simp] theorem modTimer_ln (t : Fin 8) (f : Timer → Timer) (s : State) : (modTimer t f s).ln = s.ln := rfl
@[simp] theorem modTimer_host (t : Fin 8) (f : Timer → Timer) (s : State) : (modTimer t f s).host = s.host := rfl
@[simp] theorem modTimer_fh (t : Fin 8) (f : Timer → Timer) (s : State) : (modTimer t f s).fh = s.fh := rfl
@[simp] theorem modTimer_hl (t : Fin 8) (f : Timer → Timer) (s : State) : (modTimer t f s).hl = s.hl := rfl
@[simp] theorem modTimer_ts (t : Fin 8) (f : Timer → Timer) (s : State) : (modTimer t f s).ts = s.ts := rfl
@[simp] theorem modTimer_pwr (t : Fin 8) (f : Timer → Timer) (s : State) : (modTimer t f s).pwr = s.pwr := rfl
@[simp] theorem modTimer_ao (t : Fin 8) (f : Timer → Timer) (s : State) : (modTimer t f s).ao = s.ao := rfl
@[simp] theorem modTimer_staged (t : Fin 8) (f : Timer → Timer) (s : State) : (modTimer t f s).staged = s.staged := rfl
@[simp] theorem modTimer_freeCtr (t : Fin 8) (f : Timer → Timer) (s : State) : (modTimer t f s).freeCtr = s.freeCtr := rfl
@[simp] theorem modTimer_out (t : Fin 8) (f : Timer → Timer) (s : State) : (modTimer t f s).out = s.out := rfl

@[simp] theorem modBeacon_pending (f : Beacon → Beacon) (s : State) : (modBeacon f s).pending = s.pending := rfl
@[simp] theorem modBeacon_ring (f : Beacon → Beacon) (s : State) : (modBeacon f s).ring = s.ring := rfl
@[simp] theorem modBeacon_pair (f : Beacon → Beacon) (s : State) : (modBeacon f s).pair = s.pair := rfl
@[simp] theorem modBeacon_fe (f : Beacon → Beacon) (s : State) : (modBeacon f s).fe = s.fe := rfl
@[simp] theorem modBeacon_cv (f : Beacon → Beacon) (s : State) : (modBeacon f s).cv = s.cv := rfl
@[simp] theorem modBeacon_fl (f : Beacon → Beacon) (s : State) : (modBeacon f s).fl = s.fl := rfl
@[simp] theorem modBeacon_cal (f : Beacon → Beacon) (s : State) : (modBeacon f s).cal = s.cal := rfl
@[simp] theorem modBeacon_cap (f : Beacon → Beacon) (s : State) : (modBeacon f s).cap = s.cap := rfl
@[simp] theorem modBeacon_mem (f : Beacon → Beacon) (s : State) : (modBeacon f s).mem = s.mem := rfl
@[simp] theorem modBeacon_cmp (f : Beacon → Beacon) (s : State) : (modBeacon f s).cmp = s.cmp := rfl
@[simp] theorem modBeacon_st (f : Beacon → Beacon) (s : State) : (modBeacon f s).st = s.st := rfl
@[simp] theorem modBeacon_ln (f : Beacon → Beacon) (s : State) : (modBeacon f s).ln = s.ln := rfl
@[simp] theorem modBeacon_host (f : Beacon → Beacon) (s : State) : (modBeacon f s).host = s.host := rfl
@[simp] theorem modBeacon_fh (f : Beacon → Beacon) (s : State) : (modBeacon f s).fh = s.fh := rfl
@[simp] theorem modBeacon_hl (f : Beacon → Beacon) (s : State) : (modBeacon f s).hl = s.hl := rfl
@[simp] theorem modBeacon_ts (f : Beacon → Beacon) (s : State) : (modBeacon f s).ts = s.ts := rfl
@[simp] theorem modBeacon_pwr (f : Beacon → Beacon) (s : State) : (modBeacon f s).pwr = s.pwr := rfl
@[simp] theorem modBeacon_ao (f : Beacon → Beacon) (s : State) : (modBeacon f s).ao = s.ao := rfl
@[simp] theorem modBeacon_staged (f : Beacon → Beacon) (s : State) : (modBeacon f s).staged = s.staged := rfl
@[simp] theorem modBeacon_freeCtr (f : Beacon → Beacon) (s : State) : (modBeacon f s).freeCtr = s.freeCtr := rfl
@[simp] theorem modBeacon_out (f : Beacon → Beacon) (s : State) : (modBeacon f s).out = s.out := rfl

@[simp] theorem modPair_pending (f : Pair → Pair) (s : State) : (modPair f s).pending = s.pending := rfl
@[simp] theorem modPair_tb (f : Pair → Pair) (s : State) : (modPair f s).tb = s.tb := rfl
@[simp] theorem modPair_ring (f : Pair → Pair) (s : State) : (modPair f s).ring = s.ring := rfl
@[simp] theorem modPair_fe (f : Pair → Pair) (s : State) : (modPair f s).fe = s.fe := rfl
@[simp] theorem modPair_cv (f : Pair → Pair) (s : State) : (modPair f s).cv = s.cv := rfl
@[simp] theorem modPair_fl (f : Pair → Pair) (s : State) : (modPair f s).fl = s.fl := rfl
@[simp] theorem modPair_cal (f : Pair → Pair) (s : State) : (modPair f s).cal = s.cal := rfl
@[simp] theorem modPair_cap (f : Pair → Pair) (s : State) : (modPair f s).cap = s.cap := rfl
@[simp] theorem modPair_mem (f : Pair → Pair) (s : State) : (modPair f s).mem = s.mem := rfl
@[simp] theorem modPair_cmp (f : Pair → Pair) (s : State) : (modPair f s).cmp = s.cmp := rfl
@[simp] theorem modPair_st (f : Pair → Pair) (s : State) : (modPair f s).st = s.st := rfl
@[simp] theorem modPair_ln (f : Pair → Pair) (s : State) : (modPair f s).ln = s.ln := rfl
@[simp] theorem modPair_host (f : Pair → Pair) (s : State) : (modPair f s).host = s.host := rfl
@[simp] theorem modPair_fh (f : Pair → Pair) (s : State) : (modPair f s).fh = s.fh := rfl
@[simp] theorem modPair_hl (f : Pair → Pair) (s : State) : (modPair f s).hl = s.hl := rfl
@[simp] theorem modPair_ts (f : Pair → Pair) (s : State) : (modPair f s).ts = s.ts := rfl
@[simp] theorem modPair_pwr (f : Pair → Pair) (s : State) : (modPair f s).pwr = s.pwr := rfl
@[simp] theorem modPair_ao (f : Pair → Pair) (s : State) : (modPair f s).ao = s.ao := rfl
@[simp] theorem modPair_staged (f : Pair → Pair) (s : State) : (modPair f s).staged = s.staged := rfl
@[simp] theorem modPair_freeCtr (f : Pair → Pair) (s : State) : (modPair f s).freeCtr = s.freeCtr := rfl
@[simp] theorem modPair_out (f : Pair → Pair) (s : State) : (modPair f s).out = s.out := rfl

@[simp] theorem modRun_pending (t : Nat) (f : TestRun → TestRun) (s : State) : (modRun t f s).pending = s.pending := rfl
@[simp] theorem modRun_tb (t : Nat) (f : TestRun → TestRun) (s : State) : (modRun t f s).tb = s.tb := rfl
@[simp] theorem modRun_ring (t : Nat) (f : TestRun → TestRun) (s : State) : (modRun t f s).ring = s.ring := rfl
@[simp] theorem modRun_pair (t : Nat) (f : TestRun → TestRun) (s : State) : (modRun t f s).pair = s.pair := rfl
@[simp] theorem modRun_fe (t : Nat) (f : TestRun → TestRun) (s : State) : (modRun t f s).fe = s.fe := rfl
@[simp] theorem modRun_cv (t : Nat) (f : TestRun → TestRun) (s : State) : (modRun t f s).cv = s.cv := rfl
@[simp] theorem modRun_fl (t : Nat) (f : TestRun → TestRun) (s : State) : (modRun t f s).fl = s.fl := rfl
@[simp] theorem modRun_cal (t : Nat) (f : TestRun → TestRun) (s : State) : (modRun t f s).cal = s.cal := rfl
@[simp] theorem modRun_cap (t : Nat) (f : TestRun → TestRun) (s : State) : (modRun t f s).cap = s.cap := rfl
@[simp] theorem modRun_mem (t : Nat) (f : TestRun → TestRun) (s : State) : (modRun t f s).mem = s.mem := rfl
@[simp] theorem modRun_cmp (t : Nat) (f : TestRun → TestRun) (s : State) : (modRun t f s).cmp = s.cmp := rfl
@[simp] theorem modRun_st (t : Nat) (f : TestRun → TestRun) (s : State) : (modRun t f s).st = s.st := rfl
@[simp] theorem modRun_ln (t : Nat) (f : TestRun → TestRun) (s : State) : (modRun t f s).ln = s.ln := rfl
@[simp] theorem modRun_host (t : Nat) (f : TestRun → TestRun) (s : State) : (modRun t f s).host = s.host := rfl
@[simp] theorem modRun_fh (t : Nat) (f : TestRun → TestRun) (s : State) : (modRun t f s).fh = s.fh := rfl
@[simp] theorem modRun_hl (t : Nat) (f : TestRun → TestRun) (s : State) : (modRun t f s).hl = s.hl := rfl
@[simp] theorem modRun_pwr (t : Nat) (f : TestRun → TestRun) (s : State) : (modRun t f s).pwr = s.pwr := rfl
@[simp] theorem modRun_ao (t : Nat) (f : TestRun → TestRun) (s : State) : (modRun t f s).ao = s.ao := rfl
@[simp] theorem modRun_staged (t : Nat) (f : TestRun → TestRun) (s : State) : (modRun t f s).staged = s.staged := rfl
@[simp] theorem modRun_freeCtr (t : Nat) (f : TestRun → TestRun) (s : State) : (modRun t f s).freeCtr = s.freeCtr := rfl
@[simp] theorem modRun_out (t : Nat) (f : TestRun → TestRun) (s : State) : (modRun t f s).out = s.out := rfl

@[simp] theorem setPending_pending (point : Nat) (k : List Word) (m : Option WeirMark) (s : State) : (setPending point k m s).pending = s.pending := rfl
@[simp] theorem setPending_tb (point : Nat) (k : List Word) (m : Option WeirMark) (s : State) : (setPending point k m s).tb = s.tb := rfl
@[simp] theorem setPending_ring (point : Nat) (k : List Word) (m : Option WeirMark) (s : State) : (setPending point k m s).ring = s.ring := rfl
@[simp] theorem setPending_pair (point : Nat) (k : List Word) (m : Option WeirMark) (s : State) : (setPending point k m s).pair = s.pair := rfl
@[simp] theorem setPending_fe (point : Nat) (k : List Word) (m : Option WeirMark) (s : State) : (setPending point k m s).fe = s.fe := rfl
@[simp] theorem setPending_cv (point : Nat) (k : List Word) (m : Option WeirMark) (s : State) : (setPending point k m s).cv = s.cv := rfl
@[simp] theorem setPending_fl (point : Nat) (k : List Word) (m : Option WeirMark) (s : State) : (setPending point k m s).fl = s.fl := rfl
@[simp] theorem setPending_cal (point : Nat) (k : List Word) (m : Option WeirMark) (s : State) : (setPending point k m s).cal = s.cal := rfl
@[simp] theorem setPending_cap (point : Nat) (k : List Word) (m : Option WeirMark) (s : State) : (setPending point k m s).cap = s.cap := rfl
@[simp] theorem setPending_mem (point : Nat) (k : List Word) (m : Option WeirMark) (s : State) : (setPending point k m s).mem = s.mem := rfl
@[simp] theorem setPending_cmp (point : Nat) (k : List Word) (m : Option WeirMark) (s : State) : (setPending point k m s).cmp = s.cmp := rfl
@[simp] theorem setPending_ln (point : Nat) (k : List Word) (m : Option WeirMark) (s : State) : (setPending point k m s).ln = s.ln := rfl
@[simp] theorem setPending_host (point : Nat) (k : List Word) (m : Option WeirMark) (s : State) : (setPending point k m s).host = s.host := rfl
@[simp] theorem setPending_fh (point : Nat) (k : List Word) (m : Option WeirMark) (s : State) : (setPending point k m s).fh = s.fh := rfl
@[simp] theorem setPending_hl (point : Nat) (k : List Word) (m : Option WeirMark) (s : State) : (setPending point k m s).hl = s.hl := rfl
@[simp] theorem setPending_ts (point : Nat) (k : List Word) (m : Option WeirMark) (s : State) : (setPending point k m s).ts = s.ts := rfl
@[simp] theorem setPending_pwr (point : Nat) (k : List Word) (m : Option WeirMark) (s : State) : (setPending point k m s).pwr = s.pwr := rfl
@[simp] theorem setPending_ao (point : Nat) (k : List Word) (m : Option WeirMark) (s : State) : (setPending point k m s).ao = s.ao := rfl
@[simp] theorem setPending_staged (point : Nat) (k : List Word) (m : Option WeirMark) (s : State) : (setPending point k m s).staged = s.staged := rfl
@[simp] theorem setPending_freeCtr (point : Nat) (k : List Word) (m : Option WeirMark) (s : State) : (setPending point k m s).freeCtr = s.freeCtr := rfl
@[simp] theorem setPending_out (point : Nat) (k : List Word) (m : Option WeirMark) (s : State) : (setPending point k m s).out = s.out := rfl

end Sys2Proof.Machine
end

