-- ==== Sys2Proof/Laws/Aside.lean ====
section
/-! SUPPORT. What an event and a message of the hub leave as they are. Raising an event touches the log, the host's queues and
causes, the lanes, the ledger and the last words, and nothing else; sending a message touches the lanes alone. -/

namespace Sys2Proof.Machine
open Sys2Proof

/-- `t` is `s` but for the parts that events and messages act on: lanes, host, health, always-on domain and what leaves. -/
structure Aside (s t : State) : Prop where
  pending : t.pending = s.pending
  tb : t.tb = s.tb
  ring : t.ring = s.ring
  pair : t.pair = s.pair
  fe : t.fe = s.fe
  cv : t.cv = s.cv
  fl : t.fl = s.fl
  cal : t.cal = s.cal
  cap : t.cap = s.cap
  mem : t.mem = s.mem
  cmp : t.cmp = s.cmp
  st : t.st = s.st
  fh : t.fh = s.fh
  ts : t.ts = s.ts
  pwr : t.pwr = s.pwr
  staged : t.staged = s.staged
  freeCtr : t.freeCtr = s.freeCtr

theorem Aside.refl (s : State) : Aside s s := by constructor <;> rfl

theorem Aside.trans {s t u : State} (h : Aside s t) (k : Aside t u) : Aside s u :=
  ⟨k.1.trans h.1, k.2.trans h.2, k.3.trans h.3, k.4.trans h.4, k.5.trans h.5, k.6.trans h.6, k.7.trans h.7, k.8.trans h.8,
    k.9.trans h.9, k.10.trans h.10, k.11.trans h.11, k.12.trans h.12, k.13.trans h.13, k.14.trans h.14, k.15.trans h.15,
    k.16.trans h.16, k.17.trans h.17⟩

theorem aside_ite {c : Prop} [Decidable c] {s a b : State} (ha : Aside s a) (hb : Aside s b) : Aside s (if c then a else b) := by
  split
  · exact ha
  · exact hb

theorem aside_foldl {α : Type} {g : State → α → State} (h : ∀ t x, Aside t (g t x)) (l : List α) (s : State) :
    Aside s (l.foldl g s) := by
  induction l generalizing s with
  | nil => exact Aside.refl s
  | cons x xs ih => exact (h s x).trans (ih _)

theorem aside_of_host (h : HostIf) (s : State) : Aside s { s with host := h } := by constructor <;> rfl

theorem aside_of_hl (h : Health) (s : State) : Aside s { s with hl := h } := by constructor <;> rfl

theorem aside_of_ao (h : AlwaysOn) (s : State) : Aside s { s with ao := h } := by constructor <;> rfl

theorem aside_of_out (h : Outbox) (s : State) : Aside s { s with out := h } := by constructor <;> rfl

theorem aside_of_ln (h : Lanes) (s : State) : Aside s { s with ln := h } := by constructor <;> rfl

theorem modFn_aside (s : State) (f : Fn) (g : Func → Func) : Aside s (modFn s f g) := aside_of_host _ s

theorem setQueue_aside (s : State) (f : Fn) (q : Nat) (x : Queue) : Aside s (setQueue s f q x) :=
  aside_ite (aside_of_host _ s) (modFn_aside s f _)

theorem sendVector_aside (f : Fn) (v : Nat) (s : State) : Aside s (sendVector f v s) :=
  aside_ite (modFn_aside s f _) (aside_of_out _ s)

theorem deliverInterrupts_aside (f : Fn) (before : List Nat) (s : State) : Aside s (deliverInterrupts f before s) :=
  aside_ite (aside_foldl (fun t v => sendVector_aside f v t) _ s) (Aside.refl s)

theorem writeCause_aside (f : Fn) (cause : Word) (s : State) : Aside s (writeCause f cause s) :=
  (modFn_aside s f _).trans (deliverInterrupts_aside f _ _)

theorem setCause_aside (f : Fn) (c : Nat) (s : State) : Aside s (setCause f c s) := writeCause_aside f _ s

theorem moderated_aside (f : Fn) (c : Nat) {g : State → State} (h : ∀ t, Aside t (g t)) (s : State) : Aside s (moderated f c g s) :=
  aside_ite (h s) (aside_ite (modFn_aside s f _) ((h s).trans (modFn_aside _ f _)))

theorem queueCause_aside (f : Fn) (c : Nat) (urgent : Bool) (s : State) : Aside s (queueCause f c urgent s) :=
  aside_ite (setCause_aside f c s) (moderated_aside f c (setCause_aside f c) s)

theorem countLedger_aside (id : Fin 30) (n : Nat) (s : State) : Aside s (countLedger id n s) := aside_of_ao _ s

theorem startMessage_aside (g : Fin 3) (c : Fin 4) (l : Fin 16) (x : Sent) (s : State) : Aside s (startMessage g c l x s) := by
  constructor <;> rfl

theorem enqueue_aside (g : Fin 3) (c : Fin 4) (x : Sent) (s : State) : Aside s (enqueue g c x s) :=
  aside_ite (Aside.refl s) (aside_of_ln _ s)

/-- A message of the hub's own leaves the host, the health state and the always-on domain as they are. -/
theorem enqueue_rest (g : Fin 3) (c : Fin 4) (x : Sent) (s : State) :
    (enqueue g c x s).host = s.host ∧ (enqueue g c x s).hl = s.hl ∧ (enqueue g c x s).ao = s.ao := by
  unfold enqueue
  split <;> exact ⟨rfl, rfl, rfl⟩

theorem send_rest (m : Message) (s : State) :
    (send m s).host = s.host ∧ (send m s).hl = s.hl ∧ (send m s).ao = s.ao := by
  have h : ∀ (x : Sent) (gs : List (Fin 3)) (t : State), (gs.foldl (fun t g => enqueue g (fin 4 m.cls) x t) t).host = t.host
      ∧ (gs.foldl (fun t g => enqueue g (fin 4 m.cls) x t) t).hl = t.hl
      ∧ (gs.foldl (fun t g => enqueue g (fin 4 m.cls) x t) t).ao = t.ao := by
    intro x gs
    induction gs with
    | nil => exact fun _ => ⟨rfl, rfl, rfl⟩
    | cons g gs ih =>
      intro t
      have e := enqueue_rest g (fin 4 m.cls) x t
      have k := ih (enqueue g (fin 4 m.cls) x t)
      exact ⟨k.1.trans e.1, k.2.1.trans e.2.1, k.2.2.trans e.2.2⟩
  exact h _ _ s

@[simp] theorem send_host (m : Message) (s : State) : (send m s).host = s.host := (send_rest m s).1

@[simp] theorem send_hl (m : Message) (s : State) : (send m s).hl = s.hl := (send_rest m s).2.1

@[simp] theorem send_ao (m : Message) (s : State) : (send m s).ao = s.ao := (send_rest m s).2.2

theorem send_aside (m : Message) (s : State) : Aside s (send m s) := by
  unfold send
  exact aside_foldl (fun t g => enqueue_aside g _ _ t) _ s

theorem pushLastWords_aside (r : LastWords) (s : State) : Aside s (pushLastWords r s) := by
  unfold pushLastWords
  dsimp only
  split
  · exact aside_of_ao _ s
  · split
    · exact aside_of_ao _ s
    · exact (aside_of_ao _ s).trans (countLedger_aside _ _ _)

theorem logEvent_aside (e : EventEntry) (s : State) : Aside s (logEvent e s) := by
  unfold logEvent
  split
  · exact aside_of_hl _ s
  · split
    · exact aside_of_hl _ s
    · split
      · exact aside_of_hl _ s
      · exact (aside_of_hl _ s).trans (countLedger_aside _ _ _)

theorem pushEq_aside (f : Fn) (e : EventEntry) (s : State) : Aside s (pushEq f e s) := by
  unfold pushEq
  dsimp only
  split
  · exact Aside.refl s
  · split
    · exact setQueue_aside s f 2 _
    · exact (setQueue_aside s f 2 _).trans (setCause_aside f 11 _)

theorem pushSpiEvent_aside (e : EventEntry) (s : State) : Aside s (pushSpiEvent e s) :=
  aside_ite (aside_ite (aside_of_host _ s) (aside_of_host _ s)) (Aside.refl s)

theorem offerEq_aside (f : Fn) (e : EventEntry) (s : State) : Aside s (offerEq f e s) := by
  unfold offerEq
  dsimp only
  split
  · exact aside_of_hl _ s
  · split
    · exact ((aside_of_hl _ s).trans (pushEq_aside f _ _)).trans (pushSpiEvent_aside _ _)
    · exact (aside_of_hl _ s).trans (pushEq_aside f _ _)

theorem fatalCapture_aside (e : EventEntry) (s : State) : Aside s (fatalCapture e s) := pushLastWords_aside _ s

theorem faultNote_aside (e : EventEntry) (s : State) : Aside s (faultNote e s) := by
  unfold faultNote
  dsimp only
  split
  · exact send_aside _ s
  · split
    · exact aside_of_hl _ s
    · exact (aside_of_hl _ s).trans (send_aside _ _)
  · exact Aside.refl s

theorem deliverEvent_aside (e : EventEntry) (s : State) : Aside s (deliverEvent e s) := by
  unfold deliverEvent
  have h : Aside s (offerEq 9 e (offerEq 0 e (logEvent e s))) :=
    ((logEvent_aside e s).trans (offerEq_aside 0 e _)).trans (offerEq_aside 9 e _)
  dsimp only
  split
  · split
    · exact h
    · split
      · exact h
      · exact h.trans (offerEq_aside _ e _)
  · exact h

theorem raiseEvent_aside (sev : Severity) (code : Nat) (func : BitVec 4) (inst : Nat) (data : List Word) (s : State) :
    Aside s (raiseEvent sev code func inst data s) := by
  unfold raiseEvent
  dsimp only
  have h : ∀ e, Aside s (faultNote e (deliverEvent e s)) := fun e => (deliverEvent_aside e s).trans (faultNote_aside e _)
  split
  · exact (((h _).trans (aside_of_hl _ _)).trans (fatalCapture_aside _ _)).trans (countLedger_aside _ _ _)
  · exact h _

theorem info_aside (code inst : Nat) (data : List Word) (s : State) : Aside s (info code inst data s) :=
  raiseEvent_aside .informational code 0xF inst data s

theorem crit_aside (code inst : Nat) (data : List Word) (s : State) : Aside s (crit code inst data s) :=
  raiseEvent_aside .critical code 0xF inst data s

@[simp] theorem raiseEvent_pending (sev : Severity) (code : Nat) (func : BitVec 4) (inst : Nat) (data : List Word) (s : State) :
    (raiseEvent sev code func inst data s).pending = s.pending := (raiseEvent_aside sev code func inst data s).pending
@[simp] theorem raiseEvent_tb (sev : Severity) (code : Nat) (func : BitVec 4) (inst : Nat) (data : List Word) (s : State) :
    (raiseEvent sev code func inst data s).tb = s.tb := (raiseEvent_aside sev code func inst data s).tb
@[simp] theorem raiseEvent_ring (sev : Severity) (code : Nat) (func : BitVec 4) (inst : Nat) (data : List Word) (s : State) :
    (raiseEvent sev code func inst data s).ring = s.ring := (raiseEvent_aside sev code func inst data s).ring
@[simp] theorem raiseEvent_pair (sev : Severity) (code : Nat) (func : BitVec 4) (inst : Nat) (data : List Word) (s : State) :
    (raiseEvent sev code func inst data s).pair = s.pair := (raiseEvent_aside sev code func inst data s).pair
@[simp] theorem raiseEvent_fe (sev : Severity) (code : Nat) (func : BitVec 4) (inst : Nat) (data : List Word) (s : State) :
    (raiseEvent sev code func inst data s).fe = s.fe := (raiseEvent_aside sev code func inst data s).fe
@[simp] theorem raiseEvent_cv (sev : Severity) (code : Nat) (func : BitVec 4) (inst : Nat) (data : List Word) (s : State) :
    (raiseEvent sev code func inst data s).cv = s.cv := (raiseEvent_aside sev code func inst data s).cv
@[simp] theorem raiseEvent_fl (sev : Severity) (code : Nat) (func : BitVec 4) (inst : Nat) (data : List Word) (s : State) :
    (raiseEvent sev code func inst data s).fl = s.fl := (raiseEvent_aside sev code func inst data s).fl
@[simp] theorem raiseEvent_cal (sev : Severity) (code : Nat) (func : BitVec 4) (inst : Nat) (data : List Word) (s : State) :
    (raiseEvent sev code func inst data s).cal = s.cal := (raiseEvent_aside sev code func inst data s).cal
@[simp] theorem raiseEvent_cap (sev : Severity) (code : Nat) (func : BitVec 4) (inst : Nat) (data : List Word) (s : State) :
    (raiseEvent sev code func inst data s).cap = s.cap := (raiseEvent_aside sev code func inst data s).cap
@[simp] theorem raiseEvent_mem (sev : Severity) (code : Nat) (func : BitVec 4) (inst : Nat) (data : List Word) (s : State) :
    (raiseEvent sev code func inst data s).mem = s.mem := (raiseEvent_aside sev code func inst data s).mem
@[simp] theorem raiseEvent_cmp (sev : Severity) (code : Nat) (func : BitVec 4) (inst : Nat) (data : List Word) (s : State) :
    (raiseEvent sev code func inst data s).cmp = s.cmp := (raiseEvent_aside sev code func inst data s).cmp
@[simp] theorem raiseEvent_st (sev : Severity) (code : Nat) (func : BitVec 4) (inst : Nat) (data : List Word) (s : State) :
    (raiseEvent sev code func inst data s).st = s.st := (raiseEvent_aside sev code func inst data s).st
@[simp] theorem raiseEvent_fh (sev : Severity) (code : Nat) (func : BitVec 4) (inst : Nat) (data : List Word) (s : State) :
    (raiseEvent sev code func inst data s).fh = s.fh := (raiseEvent_aside sev code func inst data s).fh
@[simp] theorem raiseEvent_ts (sev : Severity) (code : Nat) (func : BitVec 4) (inst : Nat) (data : List Word) (s : State) :
    (raiseEvent sev code func inst data s).ts = s.ts := (raiseEvent_aside sev code func inst data s).ts
@[simp] theorem raiseEvent_pwr (sev : Severity) (code : Nat) (func : BitVec 4) (inst : Nat) (data : List Word) (s : State) :
    (raiseEvent sev code func inst data s).pwr = s.pwr := (raiseEvent_aside sev code func inst data s).pwr
@[simp] theorem raiseEvent_staged (sev : Severity) (code : Nat) (func : BitVec 4) (inst : Nat) (data : List Word) (s : State) :
    (raiseEvent sev code func inst data s).staged = s.staged := (raiseEvent_aside sev code func inst data s).staged
@[simp] theorem raiseEvent_freeCtr (sev : Severity) (code : Nat) (func : BitVec 4) (inst : Nat) (data : List Word) (s : State) :
    (raiseEvent sev code func inst data s).freeCtr = s.freeCtr := (raiseEvent_aside sev code func inst data s).freeCtr

@[simp] theorem info_pending (code inst : Nat) (data : List Word) (s : State) :
    (info code inst data s).pending = s.pending := (info_aside code inst data s).pending
@[simp] theorem info_tb (code inst : Nat) (data : List Word) (s : State) :
    (info code inst data s).tb = s.tb := (info_aside code inst data s).tb
@[simp] theorem info_ring (code inst : Nat) (data : List Word) (s : State) :
    (info code inst data s).ring = s.ring := (info_aside code inst data s).ring
@[simp] theorem info_pair (code inst : Nat) (data : List Word) (s : State) :
    (info code inst data s).pair = s.pair := (info_aside code inst data s).pair
@[simp] theorem info_fe (code inst : Nat) (data : List Word) (s : State) :
    (info code inst data s).fe = s.fe := (info_aside code inst data s).fe
@[simp] theorem info_cv (code inst : Nat) (data : List Word) (s : State) :
    (info code inst data s).cv = s.cv := (info_aside code inst data s).cv
@[simp] theorem info_fl (code inst : Nat) (data : List Word) (s : State) :
    (info code inst data s).fl = s.fl := (info_aside code inst data s).fl
@[simp] theorem info_cal (code inst : Nat) (data : List Word) (s : State) :
    (info code inst data s).cal = s.cal := (info_aside code inst data s).cal
@[simp] theorem info_cap (code inst : Nat) (data : List Word) (s : State) :
    (info code inst data s).cap = s.cap := (info_aside code inst data s).cap
@[simp] theorem info_mem (code inst : Nat) (data : List Word) (s : State) :
    (info code inst data s).mem = s.mem := (info_aside code inst data s).mem
@[simp] theorem info_cmp (code inst : Nat) (data : List Word) (s : State) :
    (info code inst data s).cmp = s.cmp := (info_aside code inst data s).cmp
@[simp] theorem info_st (code inst : Nat) (data : List Word) (s : State) :
    (info code inst data s).st = s.st := (info_aside code inst data s).st
@[simp] theorem info_fh (code inst : Nat) (data : List Word) (s : State) :
    (info code inst data s).fh = s.fh := (info_aside code inst data s).fh
@[simp] theorem info_ts (code inst : Nat) (data : List Word) (s : State) :
    (info code inst data s).ts = s.ts := (info_aside code inst data s).ts
@[simp] theorem info_pwr (code inst : Nat) (data : List Word) (s : State) :
    (info code inst data s).pwr = s.pwr := (info_aside code inst data s).pwr
@[simp] theorem info_staged (code inst : Nat) (data : List Word) (s : State) :
    (info code inst data s).staged = s.staged := (info_aside code inst data s).staged
@[simp] theorem info_freeCtr (code inst : Nat) (data : List Word) (s : State) :
    (info code inst data s).freeCtr = s.freeCtr := (info_aside code inst data s).freeCtr

@[simp] theorem crit_pending (code inst : Nat) (data : List Word) (s : State) :
    (crit code inst data s).pending = s.pending := (crit_aside code inst data s).pending
@[simp] theorem crit_tb (code inst : Nat) (data : List Word) (s : State) :
    (crit code inst data s).tb = s.tb := (crit_aside code inst data s).tb
@[simp] theorem crit_ring (code inst : Nat) (data : List Word) (s : State) :
    (crit code inst data s).ring = s.ring := (crit_aside code inst data s).ring
@[simp] theorem crit_pair (code inst : Nat) (data : List Word) (s : State) :
    (crit code inst data s).pair = s.pair := (crit_aside code inst data s).pair
@[simp] theorem crit_fe (code inst : Nat) (data : List Word) (s : State) :
    (crit code inst data s).fe = s.fe := (crit_aside code inst data s).fe
@[simp] theorem crit_cv (code inst : Nat) (data : List Word) (s : State) :
    (crit code inst data s).cv = s.cv := (crit_aside code inst data s).cv
@[simp] theorem crit_fl (code inst : Nat) (data : List Word) (s : State) :
    (crit code inst data s).fl = s.fl := (crit_aside code inst data s).fl
@[simp] theorem crit_cal (code inst : Nat) (data : List Word) (s : State) :
    (crit code inst data s).cal = s.cal := (crit_aside code inst data s).cal
@[simp] theorem crit_cap (code inst : Nat) (data : List Word) (s : State) :
    (crit code inst data s).cap = s.cap := (crit_aside code inst data s).cap
@[simp] theorem crit_mem (code inst : Nat) (data : List Word) (s : State) :
    (crit code inst data s).mem = s.mem := (crit_aside code inst data s).mem
@[simp] theorem crit_cmp (code inst : Nat) (data : List Word) (s : State) :
    (crit code inst data s).cmp = s.cmp := (crit_aside code inst data s).cmp
@[simp] theorem crit_st (code inst : Nat) (data : List Word) (s : State) :
    (crit code inst data s).st = s.st := (crit_aside code inst data s).st
@[simp] theorem crit_fh (code inst : Nat) (data : List Word) (s : State) :
    (crit code inst data s).fh = s.fh := (crit_aside code inst data s).fh
@[simp] theorem crit_ts (code inst : Nat) (data : List Word) (s : State) :
    (crit code inst data s).ts = s.ts := (crit_aside code inst data s).ts
@[simp] theorem crit_pwr (code inst : Nat) (data : List Word) (s : State) :
    (crit code inst data s).pwr = s.pwr := (crit_aside code inst data s).pwr
@[simp] theorem crit_staged (code inst : Nat) (data : List Word) (s : State) :
    (crit code inst data s).staged = s.staged := (crit_aside code inst data s).staged
@[simp] theorem crit_freeCtr (code inst : Nat) (data : List Word) (s : State) :
    (crit code inst data s).freeCtr = s.freeCtr := (crit_aside code inst data s).freeCtr

@[simp] theorem send_pending (m : Message) (s : State) :
    (send m s).pending = s.pending := (send_aside m s).pending
@[simp] theorem send_tb (m : Message) (s : State) :
    (send m s).tb = s.tb := (send_aside m s).tb
@[simp] theorem send_ring (m : Message) (s : State) :
    (send m s).ring = s.ring := (send_aside m s).ring
@[simp] theorem send_pair (m : Message) (s : State) :
    (send m s).pair = s.pair := (send_aside m s).pair
@[simp] theorem send_fe (m : Message) (s : State) :
    (send m s).fe = s.fe := (send_aside m s).fe
@[simp] theorem send_cv (m : Message) (s : State) :
    (send m s).cv = s.cv := (send_aside m s).cv
@[simp] theorem send_fl (m : Message) (s : State) :
    (send m s).fl = s.fl := (send_aside m s).fl
@[simp] theorem send_cal (m : Message) (s : State) :
    (send m s).cal = s.cal := (send_aside m s).cal
@[simp] theorem send_cap (m : Message) (s : State) :
    (send m s).cap = s.cap := (send_aside m s).cap
@[simp] theorem send_mem (m : Message) (s : State) :
    (send m s).mem = s.mem := (send_aside m s).mem
@[simp] theorem send_cmp (m : Message) (s : State) :
    (send m s).cmp = s.cmp := (send_aside m s).cmp
@[simp] theorem send_st (m : Message) (s : State) :
    (send m s).st = s.st := (send_aside m s).st
@[simp] theorem send_fh (m : Message) (s : State) :
    (send m s).fh = s.fh := (send_aside m s).fh
@[simp] theorem send_ts (m : Message) (s : State) :
    (send m s).ts = s.ts := (send_aside m s).ts
@[simp] theorem send_pwr (m : Message) (s : State) :
    (send m s).pwr = s.pwr := (send_aside m s).pwr
@[simp] theorem send_staged (m : Message) (s : State) :
    (send m s).staged = s.staged := (send_aside m s).staged
@[simp] theorem send_freeCtr (m : Message) (s : State) :
    (send m s).freeCtr = s.freeCtr := (send_aside m s).freeCtr

@[simp] theorem setCause_pending (f : Fn) (c : Nat) (s : State) :
    (setCause f c s).pending = s.pending := (setCause_aside f c s).pending
@[simp] theorem setCause_tb (f : Fn) (c : Nat) (s : State) :
    (setCause f c s).tb = s.tb := (setCause_aside f c s).tb
@[simp] theorem setCause_ring (f : Fn) (c : Nat) (s : State) :
    (setCause f c s).ring = s.ring := (setCause_aside f c s).ring
@[simp] theorem setCause_pair (f : Fn) (c : Nat) (s : State) :
    (setCause f c s).pair = s.pair := (setCause_aside f c s).pair
@[simp] theorem setCause_fe (f : Fn) (c : Nat) (s : State) :
    (setCause f c s).fe = s.fe := (setCause_aside f c s).fe
@[simp] theorem setCause_cv (f : Fn) (c : Nat) (s : State) :
    (setCause f c s).cv = s.cv := (setCause_aside f c s).cv
@[simp] theorem setCause_fl (f : Fn) (c : Nat) (s : State) :
    (setCause f c s).fl = s.fl := (setCause_aside f c s).fl
@[simp] theorem setCause_cal (f : Fn) (c : Nat) (s : State) :
    (setCause f c s).cal = s.cal := (setCause_aside f c s).cal
@[simp] theorem setCause_cap (f : Fn) (c : Nat) (s : State) :
    (setCause f c s).cap = s.cap := (setCause_aside f c s).cap
@[simp] theorem setCause_mem (f : Fn) (c : Nat) (s : State) :
    (setCause f c s).mem = s.mem := (setCause_aside f c s).mem
@[simp] theorem setCause_cmp (f : Fn) (c : Nat) (s : State) :
    (setCause f c s).cmp = s.cmp := (setCause_aside f c s).cmp
@[simp] theorem setCause_st (f : Fn) (c : Nat) (s : State) :
    (setCause f c s).st = s.st := (setCause_aside f c s).st
@[simp] theorem setCause_fh (f : Fn) (c : Nat) (s : State) :
    (setCause f c s).fh = s.fh := (setCause_aside f c s).fh
@[simp] theorem setCause_ts (f : Fn) (c : Nat) (s : State) :
    (setCause f c s).ts = s.ts := (setCause_aside f c s).ts
@[simp] theorem setCause_pwr (f : Fn) (c : Nat) (s : State) :
    (setCause f c s).pwr = s.pwr := (setCause_aside f c s).pwr
@[simp] theorem setCause_staged (f : Fn) (c : Nat) (s : State) :
    (setCause f c s).staged = s.staged := (setCause_aside f c s).staged
@[simp] theorem setCause_freeCtr (f : Fn) (c : Nat) (s : State) :
    (setCause f c s).freeCtr = s.freeCtr := (setCause_aside f c s).freeCtr

@[simp] theorem setQueue_pending (s : State) (f : Fn) (q : Nat) (x : Queue) :
    (setQueue s f q x).pending = s.pending := (setQueue_aside s f q x).pending
@[simp] theorem setQueue_tb (s : State) (f : Fn) (q : Nat) (x : Queue) :
    (setQueue s f q x).tb = s.tb := (setQueue_aside s f q x).tb
@[simp] theorem setQueue_ring (s : State) (f : Fn) (q : Nat) (x : Queue) :
    (setQueue s f q x).ring = s.ring := (setQueue_aside s f q x).ring
@[simp] theorem setQueue_pair (s : State) (f : Fn) (q : Nat) (x : Queue) :
    (setQueue s f q x).pair = s.pair := (setQueue_aside s f q x).pair
@[simp] theorem setQueue_fe (s : State) (f : Fn) (q : Nat) (x : Queue) :
    (setQueue s f q x).fe = s.fe := (setQueue_aside s f q x).fe
@[simp] theorem setQueue_cv (s : State) (f : Fn) (q : Nat) (x : Queue) :
    (setQueue s f q x).cv = s.cv := (setQueue_aside s f q x).cv
@[simp] theorem setQueue_fl (s : State) (f : Fn) (q : Nat) (x : Queue) :
    (setQueue s f q x).fl = s.fl := (setQueue_aside s f q x).fl
@[simp] theorem setQueue_cal (s : State) (f : Fn) (q : Nat) (x : Queue) :
    (setQueue s f q x).cal = s.cal := (setQueue_aside s f q x).cal
@[simp] theorem setQueue_cap (s : State) (f : Fn) (q : Nat) (x : Queue) :
    (setQueue s f q x).cap = s.cap := (setQueue_aside s f q x).cap
@[simp] theorem setQueue_mem (s : State) (f : Fn) (q : Nat) (x : Queue) :
    (setQueue s f q x).mem = s.mem := (setQueue_aside s f q x).mem
@[simp] theorem setQueue_cmp (s : State) (f : Fn) (q : Nat) (x : Queue) :
    (setQueue s f q x).cmp = s.cmp := (setQueue_aside s f q x).cmp
@[simp] theorem setQueue_st (s : State) (f : Fn) (q : Nat) (x : Queue) :
    (setQueue s f q x).st = s.st := (setQueue_aside s f q x).st
@[simp] theorem setQueue_fh (s : State) (f : Fn) (q : Nat) (x : Queue) :
    (setQueue s f q x).fh = s.fh := (setQueue_aside s f q x).fh
@[simp] theorem setQueue_ts (s : State) (f : Fn) (q : Nat) (x : Queue) :
    (setQueue s f q x).ts = s.ts := (setQueue_aside s f q x).ts
@[simp] theorem setQueue_pwr (s : State) (f : Fn) (q : Nat) (x : Queue) :
    (setQueue s f q x).pwr = s.pwr := (setQueue_aside s f q x).pwr
@[simp] theorem setQueue_staged (s : State) (f : Fn) (q : Nat) (x : Queue) :
    (setQueue s f q x).staged = s.staged := (setQueue_aside s f q x).staged
@[simp] theorem setQueue_freeCtr (s : State) (f : Fn) (q : Nat) (x : Queue) :
    (setQueue s f q x).freeCtr = s.freeCtr := (setQueue_aside s f q x).freeCtr

@[simp] theorem pushLastWords_pending (r : LastWords) (s : State) :
    (pushLastWords r s).pending = s.pending := (pushLastWords_aside r s).pending
@[simp] theorem pushLastWords_tb (r : LastWords) (s : State) :
    (pushLastWords r s).tb = s.tb := (pushLastWords_aside r s).tb
@[simp] theorem pushLastWords_ring (r : LastWords) (s : State) :
    (pushLastWords r s).ring = s.ring := (pushLastWords_aside r s).ring
@[simp] theorem pushLastWords_pair (r : LastWords) (s : State) :
    (pushLastWords r s).pair = s.pair := (pushLastWords_aside r s).pair
@[simp] theorem pushLastWords_fe (r : LastWords) (s : State) :
    (pushLastWords r s).fe = s.fe := (pushLastWords_aside r s).fe
@[simp] theorem pushLastWords_cv (r : LastWords) (s : State) :
    (pushLastWords r s).cv = s.cv := (pushLastWords_aside r s).cv
@[simp] theorem pushLastWords_fl (r : LastWords) (s : State) :
    (pushLastWords r s).fl = s.fl := (pushLastWords_aside r s).fl
@[simp] theorem pushLastWords_cal (r : LastWords) (s : State) :
    (pushLastWords r s).cal = s.cal := (pushLastWords_aside r s).cal
@[simp] theorem pushLastWords_cap (r : LastWords) (s : State) :
    (pushLastWords r s).cap = s.cap := (pushLastWords_aside r s).cap
@[simp] theorem pushLastWords_mem (r : LastWords) (s : State) :
    (pushLastWords r s).mem = s.mem := (pushLastWords_aside r s).mem
@[simp] theorem pushLastWords_cmp (r : LastWords) (s : State) :
    (pushLastWords r s).cmp = s.cmp := (pushLastWords_aside r s).cmp
@[simp] theorem pushLastWords_st (r : LastWords) (s : State) :
    (pushLastWords r s).st = s.st := (pushLastWords_aside r s).st
@[simp] theorem pushLastWords_fh (r : LastWords) (s : State) :
    (pushLastWords r s).fh = s.fh := (pushLastWords_aside r s).fh
@[simp] theorem pushLastWords_ts (r : LastWords) (s : State) :
    (pushLastWords r s).ts = s.ts := (pushLastWords_aside r s).ts
@[simp] theorem pushLastWords_pwr (r : LastWords) (s : State) :
    (pushLastWords r s).pwr = s.pwr := (pushLastWords_aside r s).pwr
@[simp] theorem pushLastWords_staged (r : LastWords) (s : State) :
    (pushLastWords r s).staged = s.staged := (pushLastWords_aside r s).staged
@[simp] theorem pushLastWords_freeCtr (r : LastWords) (s : State) :
    (pushLastWords r s).freeCtr = s.freeCtr := (pushLastWords_aside r s).freeCtr

end Sys2Proof.Machine
end

