-- ==== Sys2Proof/Laws/Answers.lean ====
section
/-! SUPPORT. What delivering a reply leaves as it is: it touches Fountainhead, the power state's boot script, and what events and
messages act on, and nothing else. -/

namespace Sys2Proof.Machine
open Sys2Proof

/-- `t` is `s` but for Fountainhead, the power state, and the parts that events and messages act on. -/
structure Answers (s t : State) : Prop where
  pending : t.pending = s.pending
  tb : t.tb = s.tb
  ring : t.ring = s.ring
  pair : t.pair = s.pair
  fe : t.fe = s.fe
  cv : t.cv = s.cv
  fl : t.fl = s.fl
  cal : t.cal = s.cal
  cap : t.cap = s.cap
  mem : t.mem = s.mem
  cmp : t.cmp = s.cmp
  st : t.st = s.st
  ts : t.ts = s.ts
  staged : t.staged = s.staged
  freeCtr : t.freeCtr = s.freeCtr

theorem Answers.refl (s : State) : Answers s s := by constructor <;> rfl

theorem Answers.trans {s t u : State} (h : Answers s t) (k : Answers t u) : Answers s u :=
  ⟨k.1.trans h.1, k.2.trans h.2, k.3.trans h.3, k.4.trans h.4, k.5.trans h.5, k.6.trans h.6, k.7.trans h.7, k.8.trans h.8,
    k.9.trans h.9, k.10.trans h.10, k.11.trans h.11, k.12.trans h.12, k.13.trans h.13, k.14.trans h.14, k.15.trans h.15⟩

theorem Aside.answers {s t : State} (h : Aside s t) : Answers s t :=
  ⟨h.pending, h.tb, h.ring, h.pair, h.fe, h.cv, h.fl, h.cal, h.cap, h.mem, h.cmp, h.st, h.ts, h.staged, h.freeCtr⟩

theorem answers_of_fh (h : Fountainhead) (s : State) : Answers s { s with fh := h } := by constructor <;> rfl

theorem answers_of_pwr (h : Power) (s : State) : Answers s { s with pwr := h } := by constructor <;> rfl

theorem answers_foldl {α : Type} {g : State → α → State} (h : ∀ t x, Answers t (g t x)) (l : List α) (s : State) :
    Answers s (l.foldl g s) := by
  induction l generalizing s with
  | nil => exact Answers.refl s
  | cons x xs ih => exact (h s x).trans (ih _)

theorem scriptReply_answers (op : Nat) (st : Status) (s : State) : Answers s (scriptReply op st s) := by
  unfold scriptReply
  split
  · exact answers_of_pwr _ s
  · exact (answers_of_pwr _ s).trans (raiseEvent_aside _ _ _ _ _ _).answers

theorem deliverReply_answers (op : Nat) (p : Packet) (r : Reply) (s : State) : Answers s (deliverReply op p r s) := by
  unfold deliverReply
  split
  · split
    · exact Answers.refl s
    · exact answers_of_fh _ s
  · split
    · exact Answers.refl s
    · exact answers_of_fh _ s
  · exact (answers_of_fh _ s).trans (send_aside _ _).answers
  · split
    · exact scriptReply_answers op _ s
    · exact Answers.refl s
  · exact Answers.refl s
  · exact Answers.refl s

theorem answer_answers (op : Nat) (p : Packet) (st : Status) (data : List Word) (t : Nat) (s : State) :
    Answers s (answer op p st data t s) := deliverReply_answers op p _ s

theorem closeRelay_answers (id : BitVec 16) (reply : Packet → Reply) (s : State) : Answers s (closeRelay id reply s) := by
  unfold closeRelay
  dsimp only
  split
  · exact (answers_of_fh _ s).trans (deliverReply_answers _ _ _ _)
  · exact answers_of_fh _ s

theorem closeBroadcast_answers (id : BitVec 16) (expired : Bool) (s : State) : Answers s (closeBroadcast id expired s) := by
  unfold closeBroadcast
  split
  · exact Answers.refl s
  · dsimp only
    split
    · exact Answers.refl s
    · exact closeRelay_answers id _ s

theorem memberReply_answers (id : BitVec 16) (hub : HubId) (r : Reply) (s : State) : Answers s (memberReply id hub r s) := by
  unfold memberReply
  dsimp only
  refine Answers.trans ?_ (closeBroadcast_answers _ _ _)
  split
  · exact (deliverReply_answers _ _ _ s).trans (answers_of_fh _ _)
  · exact answers_of_fh _ s

theorem settleOne_answers (o : Owed) (st : Status) (data : List Word) (t : Nat) (s : State) :
    Answers s (settleOne o st data t s) := by
  unfold settleOne
  split
  · exact answer_answers _ _ _ _ _ s
  · exact memberReply_answers _ _ _ s
  · exact answer_answers _ _ _ _ _ s

/-- Settling what is owed delivers replies and does nothing else. -/
theorem settle_answers (why : Owing) (st : Status) (data : List Word) (t : Nat) (s : State) :
    Answers s (settle why st data t s) :=
  (answers_of_fh _ s).trans (answers_foldl (fun u o => settleOne_answers o st data t u) _ _)

@[simp] theorem settle_pending (why : Owing) (st : Status) (data : List Word) (t : Nat) (s : State) :
    (settle why st data t s).pending = s.pending := (settle_answers why st data t s).pending
@[simp] theorem settle_tb (why : Owing) (st : Status) (data : List Word) (t : Nat) (s : State) :
    (settle why st data t s).tb = s.tb := (settle_answers why st data t s).tb
@[simp] theorem settle_ring (why : Owing) (st : Status) (data : List Word) (t : Nat) (s : State) :
    (settle why st data t s).ring = s.ring := (settle_answers why st data t s).ring
@[simp] theorem settle_pair (why : Owing) (st : Status) (data : List Word) (t : Nat) (s : State) :
    (settle why st data t s).pair = s.pair := (settle_answers why st data t s).pair
@[simp] theorem settle_fe (why : Owing) (st : Status) (data : List Word) (t : Nat) (s : State) :
    (settle why st data t s).fe = s.fe := (settle_answers why st data t s).fe
@[simp] theorem settle_cv (why : Owing) (st : Status) (data : List Word) (t : Nat) (s : State) :
    (settle why st data t s).cv = s.cv := (settle_answers why st data t s).cv
@[simp] theorem settle_fl (why : Owing) (st : Status) (data : List Word) (t : Nat) (s : State) :
    (settle why st data t s).fl = s.fl := (settle_answers why st data t s).fl
@[simp] theorem settle_cal (why : Owing) (st : Status) (data : List Word) (t : Nat) (s : State) :
    (settle why st data t s).cal = s.cal := (settle_answers why st data t s).cal
@[simp] theorem settle_cap (why : Owing) (st : Status) (data : List Word) (t : Nat) (s : State) :
    (settle why st data t s).cap = s.cap := (settle_answers why st data t s).cap
@[simp] theorem settle_mem (why : Owing) (st : Status) (data : List Word) (t : Nat) (s : State) :
    (settle why st data t s).mem = s.mem := (settle_answers why st data t s).mem
@[simp] theorem settle_cmp (why : Owing) (st : Status) (data : List Word) (t : Nat) (s : State) :
    (settle why st data t s).cmp = s.cmp := (settle_answers why st data t s).cmp
@[simp] theorem settle_st (why : Owing) (st : Status) (data : List Word) (t : Nat) (s : State) :
    (settle why st data t s).st = s.st := (settle_answers why st data t s).st
@[simp] theorem settle_ts (why : Owing) (st : Status) (data : List Word) (t : Nat) (s : State) :
    (settle why st data t s).ts = s.ts := (settle_answers why st data t s).ts
@[simp] theorem settle_staged (why : Owing) (st : Status) (data : List Word) (t : Nat) (s : State) :
    (settle why st data t s).staged = s.staged := (settle_answers why st data t s).staged
@[simp] theorem settle_freeCtr (why : Owing) (st : Status) (data : List Word) (t : Nat) (s : State) :
    (settle why st data t s).freeCtr = s.freeCtr := (settle_answers why st data t s).freeCtr

@[simp] theorem answer_pending (op : Nat) (p : Packet) (st : Status) (data : List Word) (t : Nat) (s : State) :
    (answer op p st data t s).pending = s.pending := (answer_answers op p st data t s).pending
@[simp] theorem answer_tb (op : Nat) (p : Packet) (st : Status) (data : List Word) (t : Nat) (s : State) :
    (answer op p st data t s).tb = s.tb := (answer_answers op p st data t s).tb
@[simp] theorem answer_ring (op : Nat) (p : Packet) (st : Status) (data : List Word) (t : Nat) (s : State) :
    (answer op p st data t s).ring = s.ring := (answer_answers op p st data t s).ring
@[simp] theorem answer_pair (op : Nat) (p : Packet) (st : Status) (data : List Word) (t : Nat) (s : State) :
    (answer op p st data t s).pair = s.pair := (answer_answers op p st data t s).pair
@[simp] theorem answer_fe (op : Nat) (p : Packet) (st : Status) (data : List Word) (t : Nat) (s : State) :
    (answer op p st data t s).fe = s.fe := (answer_answers op p st data t s).fe
@[simp] theorem answer_cv (op : Nat) (p : Packet) (st : Status) (data : List Word) (t : Nat) (s : State) :
    (answer op p st data t s).cv = s.cv := (answer_answers op p st data t s).cv
@[simp] theorem answer_fl (op : Nat) (p : Packet) (st : Status) (data : List Word) (t : Nat) (s : State) :
    (answer op p st data t s).fl = s.fl := (answer_answers op p st data t s).fl
@[simp] theorem answer_cal (op : Nat) (p : Packet) (st : Status) (data : List Word) (t : Nat) (s : State) :
    (answer op p st data t s).cal = s.cal := (answer_answers op p st data t s).cal
@[simp] theorem answer_cap (op : Nat) (p : Packet) (st : Status) (data : List Word) (t : Nat) (s : State) :
    (answer op p st data t s).cap = s.cap := (answer_answers op p st data t s).cap
@[simp] theorem answer_mem (op : Nat) (p : Packet) (st : Status) (data : List Word) (t : Nat) (s : State) :
    (answer op p st data t s).mem = s.mem := (answer_answers op p st data t s).mem
@[simp] theorem answer_cmp (op : Nat) (p : Packet) (st : Status) (data : List Word) (t : Nat) (s : State) :
    (answer op p st data t s).cmp = s.cmp := (answer_answers op p st data t s).cmp
@[simp] theorem answer_st (op : Nat) (p : Packet) (st : Status) (data : List Word) (t : Nat) (s : State) :
    (answer op p st data t s).st = s.st := (answer_answers op p st data t s).st
@[simp] theorem answer_ts (op : Nat) (p : Packet) (st : Status) (data : List Word) (t : Nat) (s : State) :
    (answer op p st data t s).ts = s.ts := (answer_answers op p st data t s).ts
@[simp] theorem answer_staged (op : Nat) (p : Packet) (st : Status) (data : List Word) (t : Nat) (s : State) :
    (answer op p st data t s).staged = s.staged := (answer_answers op p st data t s).staged
@[simp] theorem answer_freeCtr (op : Nat) (p : Packet) (st : Status) (data : List Word) (t : Nat) (s : State) :
    (answer op p st data t s).freeCtr = s.freeCtr := (answer_answers op p st data t s).freeCtr

end Sys2Proof.Machine
end

