-- ==== Sys2Proof/Laws/Commands.lean ====
section
/-! SUPPORT. What taking a command does once its checks pass: its effect, its reply, or the reply it owes. -/

namespace Sys2Proof.Machine
open Sys2Proof

/-- Every command's rules carry its own opcode. -/
theorem opRules_op (o : Op) : (opRules o).op = o := by cases o <;> rfl

/-- A packet whose checks pass is executed here. -/
theorem takeCommand_accepts {o : Op} {p : Packet} {s : State} (h : Accepts o p s = true) :
    takeCommand (opRules o) p s = execute (opRules o) p (authed p s)
      ∧ executingCheck (opRules o) p (authed p s) = none ∧ unprepared o p (authed p s) = true
      ∧ mirrorGate (opRules o) p (authed p s) = none := by
  simp only [Accepts, Bool.and_eq_true, Option.isNone_iff_eq_none, Bool.not_eq_true'] at h
  obtain ⟨⟨⟨⟨⟨⟨⟨⟨⟨ht, hs⟩, hh⟩, hp⟩, ha⟩, hi⟩, hr⟩, he⟩, hb⟩, hm⟩ := h
  refine ⟨?_, he, hb, hm⟩
  unfold takeCommand
  rw [if_pos ht]
  unfold decideTaken
  unfold authed at hi hr ⊢
  rw [← opRules_op o] at hh ha
  split
  · rename_i q; rw [q] at hs; exact absurd hs (by simp [Source.ofHost])
  · rename_i q; rw [q] at hs; exact absurd hs (by simp [Source.ofHost])
  · rename_i q; rw [q] at hs; exact absurd hs (by simp [Source.ofHost])
  · simp only [hh, hp, ha, Bool.not_true, Bool.false_eq_true, if_false]
    rw [hi, hr]
    simp only [Bool.false_eq_true, if_false]

/-- Accepted, and done at once or staged. -/
theorem takeCommand_done {o : Op} {p : Packet} {s t : State} {data : List Word} {c : Nat} (h : Accepts o p s = true)
    (hr : (opRules o).run p (authed p s) = .done t data c) :
    takeCommand (opRules o) p s = completed o p s t data c := by
  obtain ⟨h1, he, hb, hm⟩ := takeCommand_accepts h
  rw [h1]
  simp only [unprepared, hr, Bool.not_eq_true'] at hb
  simp only [execute, executeResult, he, hr, acceptGate, hb, hm, completed, carried, opRules_op, Bool.false_eq_true, if_false]

/-- Accepted, its reply owed. -/
theorem takeCommand_owe {o : Op} {p : Packet} {s t : State} {why : Owing} (h : Accepts o p s = true)
    (hr : (opRules o).run p (authed p s) = .owe t why) :
    takeCommand (opRules o) p s = owing o p s t why := by
  obtain ⟨h1, he, hb, hm⟩ := takeCommand_accepts h
  rw [h1]
  simp only [unprepared, hr, Bool.not_eq_true'] at hb
  simp only [execute, executeResult, he, hr, acceptGate, hb, hm, owing, carried, opRules_op, Bool.false_eq_true, if_false]

end Sys2Proof.Machine
end

