-- ==== Sys2Proof/Laws/Memory.lean ====
section
/-!
SUPPORT. Laws of the capture memory: its canonical form is kept by every operation on it, and a read after a write.
-/
namespace Sys2Proof.Machine
open Sys2Proof

theorem cellsFrom_mono {lo lo' : Nat} (h : lo' ≤ lo) : ∀ {m : List Host.Cell}, cellsFrom lo m = true → cellsFrom lo' m = true
  | [], _ => rfl
  | (a, v) :: rest, hm => by
    simp only [cellsFrom, Bool.and_eq_true, decide_eq_true_eq] at hm ⊢
    exact ⟨⟨Nat.le_trans h hm.1.1, hm.1.2⟩, hm.2⟩

/-- Putting a byte keeps the canonical form above any bound that the address respects. -/
theorem cellsFrom_putByte : ∀ {m : List Host.Cell} {lo a : Nat} {v : Byte}, cellsFrom lo m = true → lo ≤ a →
    cellsFrom lo (putByte m a v) = true
  | [], lo, a, v, _, ha => by
    by_cases hv : v = 0#8
    · simp [putByte, cellsFrom, hv]
    · simp [putByte, cellsFrom, hv, ha]
  | (b, w) :: rest, lo, a, v, hm, ha => by
    simp only [cellsFrom, Bool.and_eq_true, decide_eq_true_eq, bne_iff_ne, ne_eq] at hm
    obtain ⟨⟨hlo, hw0⟩, hrest⟩ := hm
    have hw : ¬ w = 0#8 := hw0
    by_cases h1 : a < b
    · by_cases hv : v = 0#8
      · simp [putByte, h1, hv, cellsFrom, hlo, hw, hrest]
      · simp [putByte, h1, hv, cellsFrom, ha, hw, hrest, Nat.succ_le_of_lt h1]
    · by_cases h2 : a = b
      · subst h2
        by_cases hv : v = 0#8
        · simp [putByte, hv, cellsFrom_mono (Nat.le_trans hlo (Nat.le_succ a)) hrest]
        · simp [putByte, hv, cellsFrom, hlo, hrest]
      · simp only [putByte, h1, h2, if_false, cellsFrom, Bool.and_eq_true, decide_eq_true_eq, bne_iff_ne, ne_eq]
        exact ⟨⟨hlo, hw⟩, cellsFrom_putByte hrest (by omega)⟩

/-- Every write of bytes keeps the canonical form. -/
theorem cellsFrom_putBytes : ∀ (vs : List Byte) {m : List Host.Cell} (a : Nat), cellsFrom 0 m = true →
    cellsFrom 0 (putBytes m a vs) = true
  | [], _, _, hm => hm
  | _ :: vs, _, a, hm => cellsFrom_putBytes vs (a + 1) (cellsFrom_putByte hm (Nat.zero_le a))

/-- The form needs no address below its bound. -/
theorem getByte_below : ∀ {m : List Host.Cell} {lo a : Nat}, cellsFrom lo m = true → a < lo → getByte m a = 0
  | [], _, _, _, _ => rfl
  | (b, w) :: rest, lo, a, hm, ha => by
    simp only [cellsFrom, Bool.and_eq_true, decide_eq_true_eq] at hm
    have hb : ¬ b = a := by omega
    have := getByte_below hm.2 (show a < b + 1 by omega)
    simpa [getByte, List.find?_cons, hb] using this

/-- A read after a write of one byte: the address written reads the byte, every other address as before. -/
theorem getByte_putByte : ∀ {m : List Host.Cell} {lo : Nat} (a : Nat) (v : Byte) (x : Nat), cellsFrom lo m = true →
    getByte (putByte m a v) x = if x = a then v else getByte m x
  | [], _, a, v, x, _ => by
    by_cases hv : v = 0#8 <;> by_cases hx : a = x <;> simp [putByte, getByte, hv, hx, eq_comm]
  | (b, w) :: rest, lo, a, v, x, hm => by
    have hm' := hm
    simp only [cellsFrom, Bool.and_eq_true, decide_eq_true_eq] at hm
    obtain ⟨_, hrest⟩ := hm
    by_cases h1 : a < b
    · by_cases hx : x = a
      · subst hx
        have hb : ¬ b = x := by omega
        have h0 := getByte_below hrest (show x < b + 1 by omega)
        by_cases hv : v = 0#8
        · simpa [putByte, h1, hv, getByte, List.find?_cons, hb] using h0
        · simp [putByte, h1, hv, getByte]
      · have hax : ¬ a = x := fun h => hx h.symm
        by_cases hv : v = 0#8 <;> simp [putByte, h1, hv, getByte, List.find?_cons, hx, hax]
    · by_cases h2 : a = b
      · subst h2
        by_cases hx : x = a
        · subst hx
          have h0 := getByte_below hrest (Nat.lt_succ_self x)
          by_cases hv : v = 0#8
          · simpa [putByte, hv] using h0
          · simp [putByte, hv, getByte]
        · have hax : ¬ a = x := fun h => hx h.symm
          by_cases hv : v = 0#8 <;> simp [putByte, hv, getByte, hx, hax]
      · have ih := getByte_putByte (m := rest) a v x hrest
        by_cases hbx : b = x
        · subst hbx
          have : ¬ b = a := fun h => h2 h.symm
          simp [putByte, h1, h2, getByte, this]
        · simp only [putByte, h1, h2, if_false]
          simpa [getByte, List.find?_cons, hbx] using ih

/-- A write of bytes: an address outside the bytes reads as before. -/
theorem getByte_putBytes_outside : ∀ (vs : List Byte) {m : List Host.Cell} (a x : Nat), cellsFrom 0 m = true →
    (x < a ∨ a + vs.length ≤ x) → getByte (putBytes m a vs) x = getByte m x
  | [], _, _, _, _, _ => rfl
  | v :: vs, m, a, x, hm, hx => by
    have h1 := getByte_putBytes_outside vs (a + 1) x (cellsFrom_putByte (v := v) hm (Nat.zero_le a))
      (by simp only [List.length_cons] at hx; omega)
    have h2 := getByte_putByte a v x hm
    have hne : ¬ x = a := by simp only [List.length_cons] at hx; omega
    simp only [putBytes, h1, h2, hne, if_false]

/-- A write of bytes: byte `i` of them is read back. -/
theorem getByte_putBytes_inside : ∀ (vs : List Byte) {m : List Host.Cell} (a i : Nat) (h : i < vs.length),
    cellsFrom 0 m = true → getByte (putBytes m a vs) (a + i) = vs[i]
  | [], _, _, _, h, _ => absurd h (Nat.not_lt_zero _)
  | v :: vs, m, a, 0, _, hm => by
    have h1 := getByte_putBytes_outside vs (a + 1) a (cellsFrom_putByte (v := v) hm (Nat.zero_le a)) (by omega)
    have h2 := getByte_putByte a v a hm
    simp only [putBytes, Nat.add_zero, h1, h2, if_true, List.getElem_cons_zero]
  | v :: vs, m, a, i + 1, h, hm => by
    have ih := getByte_putBytes_inside vs (m := putByte m a v) (a + 1) i (by simpa using h)
      (cellsFrom_putByte hm (Nat.zero_le a))
    have e : a + (i + 1) = a + 1 + i := by omega
    simp only [putBytes, e, ih, List.getElem_cons_succ]

end Sys2Proof.Machine
end

