-- ==== Sys2Proof/Laws/Keep.lean ====
section
/-! SUPPORT. How the queue, the memory bytes and the memory's canonical form go through folds, choices and a command's result. -/

namespace Sys2Proof.Machine
open Sys2Proof

theorem foldl_keeps_of {α : Type} {g : State → α → State} {l : List α} {u s : State}
    (h : ∀ t x, (g t x).pending = t.pending ∧ (g t x).mem.bytes = t.mem.bytes)
    (hu : u.pending = s.pending ∧ u.mem.bytes = s.mem.bytes) :
    (l.foldl g u).pending = s.pending ∧ (l.foldl g u).mem.bytes = s.mem.bytes := by
  induction l generalizing u with
  | nil => exact hu
  | cons x xs ih => exact ih ⟨(h u x).1.trans hu.1, (h u x).2.trans hu.2⟩

theorem foldl_pending_of {α : Type} {g : State → α → State} {l : List α} {u s : State}
    (h : ∀ t x, (g t x).pending = t.pending) (hu : u.pending = s.pending) : (l.foldl g u).pending = s.pending := by
  induction l generalizing u with
  | nil => exact hu
  | cons x xs ih => exact ih ((h u x).trans hu)

theorem foldl_wf_of {α : Type} {g : State → α → State} {l : List α} {u : State}
    (h : ∀ t x, cellsFrom 0 t.mem.bytes = true → cellsFrom 0 (g t x).mem.bytes = true)
    (hu : cellsFrom 0 u.mem.bytes = true) : cellsFrom 0 (l.foldl g u).mem.bytes = true := by
  induction l generalizing u with
  | nil => exact hu
  | cons x xs ih => exact ih (h u x hu)

/-- The same for a fold that carries something beside the state. -/
theorem foldl_fst_keeps_of {α β : Type} {g : State × β → α → State × β} {l : List α} {u : State × β} {s : State}
    (h : ∀ t x, (g t x).1.pending = t.1.pending ∧ (g t x).1.mem.bytes = t.1.mem.bytes)
    (hu : u.1.pending = s.pending ∧ u.1.mem.bytes = s.mem.bytes) :
    (l.foldl g u).1.pending = s.pending ∧ (l.foldl g u).1.mem.bytes = s.mem.bytes := by
  induction l generalizing u with
  | nil => exact hu
  | cons x xs ih => exact ih ⟨(h u x).1.trans hu.1, (h u x).2.trans hu.2⟩

theorem foldl_fst_pending_of {α β : Type} {g : State × β → α → State × β} {l : List α} {u : State × β} {s : State}
    (h : ∀ t x, (g t x).1.pending = t.1.pending) (hu : u.1.pending = s.pending) : (l.foldl g u).1.pending = s.pending := by
  induction l generalizing u with
  | nil => exact hu
  | cons x xs ih => exact ih ((h u x).trans hu)

theorem foldl_fst_wf_of {α β : Type} {g : State × β → α → State × β} {l : List α} {u : State × β}
    (h : ∀ t x, cellsFrom 0 t.1.mem.bytes = true → cellsFrom 0 (g t x).1.mem.bytes = true)
    (hu : cellsFrom 0 u.1.mem.bytes = true) : cellsFrom 0 (l.foldl g u).1.mem.bytes = true := by
  induction l generalizing u with
  | nil => exact hu
  | cons x xs ih => exact ih (h u x hu)

theorem ite_pending {c : Prop} [Decidable c] {a b s : State} (ha : a.pending = s.pending) (hb : b.pending = s.pending) :
    (if c then a else b).pending = s.pending := by
  split
  · exact ha
  · exact hb

theorem ite_wf {c : Prop} [Decidable c] {a b : State} (ha : cellsFrom 0 a.mem.bytes = true)
    (hb : cellsFrom 0 b.mem.bytes = true) : cellsFrom 0 (if c then a else b).mem.bytes = true := by
  split
  · exact ha
  · exact hb

/-- What a command's own rules decide leaves the queue and the memory bytes as they are. -/
def Result.keeps (s : State) : Result → Prop
  | .reject _ _ => True
  | .done t _ _ => t.pending = s.pending ∧ t.mem.bytes = s.mem.bytes
  | .owe t _ => t.pending = s.pending ∧ t.mem.bytes = s.mem.bytes
end Sys2Proof.Machine
end

