-- ==== Sys2Proof/Laws/KeepOps.lean ====
section
/-! SUPPORT. What the shared operations and the taking of a command leave as they are: the queue of commands and the bytes of the capture memory. A definition that
writes memory bytes has two lemmas instead: its queue is unchanged, and the memory keeps its canonical form. -/

namespace Sys2Proof.Machine
open Sys2Proof
set_option linter.unusedSimpArgs false
set_option linter.unusedVariables false

theorem setFn_keeps (s : State) (f : Fn) (x : Func) :
    (setFn s f x).pending = s.pending ∧ (setFn s f x).mem.bytes = s.mem.bytes := by
  simp only [setFn, and_self]

theorem modFn_keeps (s : State) (f : Fn) (g : Func → Func) :
    (modFn s f g).pending = s.pending ∧ (modFn s f g).mem.bytes = s.mem.bytes := by
  simp only [modFn, setFn_keeps, and_self]

theorem setQueue_keeps (s : State) (f : Fn) (q : Nat) (x : Queue) :
    (setQueue s f q x).pending = s.pending ∧ (setQueue s f q x).mem.bytes = s.mem.bytes := by
  simp only [setQueue]
  split <;> simp only [modFn_keeps, and_self]

theorem sendVector_keeps (f : Fn) (v : Nat) (s : State) :
    (sendVector f v s).pending = s.pending ∧ (sendVector f v s).mem.bytes = s.mem.bytes := by
  simp only [sendVector]
  split <;> simp only [modFn_keeps, and_self]

theorem deliverInterrupts_keeps (f : Fn) (before : List Nat) (s : State) :
    (deliverInterrupts f before s).pending = s.pending ∧ (deliverInterrupts f before s).mem.bytes = s.mem.bytes := by
  unfold deliverInterrupts
  repeat' first
    | (constructor <;> with_reducible rfl)
    | with_reducible assumption
    | (simp only [sendVector_keeps, and_self])
    | (with_reducible refine foldl_keeps_of ?_ ?_; intro _ _)
    | split

theorem writeCause_keeps (f : Fn) (cause : Word) (s : State) :
    (writeCause f cause s).pending = s.pending ∧ (writeCause f cause s).mem.bytes = s.mem.bytes := by
  simp only [writeCause, deliverInterrupts_keeps, modFn_keeps, and_self]

theorem setCause_keeps (f : Fn) (c : Nat) (s : State) :
    (setCause f c s).pending = s.pending ∧ (setCause f c s).mem.bytes = s.mem.bytes := by
  simp only [setCause, writeCause_keeps, and_self]

/-- What an occurrence of a cause leaves, from what setting it leaves. -/
theorem moderated_keeps (f : Fn) (c : Nat) (g : State → State) (s : State)
    (h : ∀ t, (g t).pending = t.pending ∧ (g t).mem.bytes = t.mem.bytes) :
    (moderated f c g s).pending = s.pending ∧ (moderated f c g s).mem.bytes = s.mem.bytes := by
  unfold moderated moderate
  split
  · exact h s
  · split <;> simp only [modFn_keeps, h, and_self]

theorem queueCause_keeps (f : Fn) (c : Nat) (urgent : Bool) (s : State) :
    (queueCause f c urgent s).pending = s.pending ∧ (queueCause f c urgent s).mem.bytes = s.mem.bytes := by
  unfold queueCause
  split
  · exact setCause_keeps _ _ _
  · exact moderated_keeps _ _ _ _ (setCause_keeps f c)

theorem countLedger_keeps (id : Fin 30) (n : Nat) (s : State) :
    (countLedger id n s).pending = s.pending ∧ (countLedger id n s).mem.bytes = s.mem.bytes := by
  simp only [countLedger, and_self]

theorem countFraction_keeps (id : Fin 30) (n unit : Nat) (s : State) :
    (countFraction id n unit s).pending = s.pending ∧ (countFraction id n unit s).mem.bytes = s.mem.bytes := by
  simp only [countFraction]
  split <;> simp only [countLedger_keeps, and_self]

theorem modLane_keeps (l : Fin 16) (f : Lane → Lane) (s : State) :
    (modLane l f s).pending = s.pending ∧ (modLane l f s).mem.bytes = s.mem.bytes := by
  simp only [modLane, and_self]

theorem modLink_keeps (g : Fin 3) (c : Fin 4) (f : LinkClass → LinkClass) (s : State) :
    (modLink g c f s).pending = s.pending ∧ (modLink g c f s).mem.bytes = s.mem.bytes := by
  simp only [modLink, and_self]

theorem placeOn_keeps (l : Fin 16) (first : Bool) (xs : List Sent) (s : State) :
    (placeOn l first xs s).pending = s.pending ∧ (placeOn l first xs s).mem.bytes = s.mem.bytes := by
  unfold placeOn
  exact foldl_keeps_of (fun _ _ => by simp only [modLane_keeps, and_self]) ⟨rfl, rfl⟩

theorem startMessage_keeps (g : Fin 3) (c : Fin 4) (l : Fin 16) (x : Sent) (s : State) :
    (startMessage g c l x s).pending = s.pending ∧ (startMessage g c l x s).mem.bytes = s.mem.bytes := by
  simp only [startMessage, modLink_keeps, placeOn_keeps, and_self]

theorem enqueue_keeps (g : Fin 3) (c : Fin 4) (x : Sent) (s : State) :
    (enqueue g c x s).pending = s.pending ∧ (enqueue g c x s).mem.bytes = s.mem.bytes := by
  simp only [enqueue]
  split <;> simp only [modLink_keeps, and_self]

theorem send_keeps (m : Message) (s : State) : (send m s).pending = s.pending ∧ (send m s).mem.bytes = s.mem.bytes := by
  unfold send
  exact foldl_keeps_of (fun _ _ => by simp only [enqueue_keeps, and_self]) ⟨rfl, rfl⟩

theorem pushLastWords_keeps (r : LastWords) (s : State) :
    (pushLastWords r s).pending = s.pending ∧ (pushLastWords r s).mem.bytes = s.mem.bytes := by
  unfold pushLastWords
  (repeat' split) <;> simp only [countLedger_keeps, and_self]

theorem logEvent_keeps (e : EventEntry) (s : State) :
    (logEvent e s).pending = s.pending ∧ (logEvent e s).mem.bytes = s.mem.bytes := by
  unfold logEvent
  (repeat' split) <;> simp only [countLedger_keeps, and_self]

theorem pushEq_keeps (f : Fn) (e : EventEntry) (s : State) :
    (pushEq f e s).pending = s.pending ∧ (pushEq f e s).mem.bytes = s.mem.bytes := by
  unfold pushEq
  dsimp only
  (repeat' split) <;> simp only [setCause_keeps, setQueue_keeps, and_self]

theorem pushSpiEvent_keeps (e : EventEntry) (s : State) :
    (pushSpiEvent e s).pending = s.pending ∧ (pushSpiEvent e s).mem.bytes = s.mem.bytes := by
  unfold pushSpiEvent
  (repeat' split) <;> simp only [and_self]

theorem offerEq_keeps (f : Fn) (e : EventEntry) (s : State) :
    (offerEq f e s).pending = s.pending ∧ (offerEq f e s).mem.bytes = s.mem.bytes := by
  unfold offerEq
  dsimp only
  (repeat' split) <;> simp only [pushEq_keeps, pushSpiEvent_keeps, and_self]

theorem fatalCapture_keeps (e : EventEntry) (s : State) :
    (fatalCapture e s).pending = s.pending ∧ (fatalCapture e s).mem.bytes = s.mem.bytes := by
  simp only [fatalCapture, pushLastWords_keeps, and_self]

theorem faultNote_keeps (e : EventEntry) (s : State) :
    (faultNote e s).pending = s.pending ∧ (faultNote e s).mem.bytes = s.mem.bytes := by
  unfold faultNote
  dsimp only
  (repeat' split) <;> simp only [send_keeps, and_self]

theorem deliverEvent_keeps (e : EventEntry) (s : State) :
    (deliverEvent e s).pending = s.pending ∧ (deliverEvent e s).mem.bytes = s.mem.bytes := by
  unfold deliverEvent
  (repeat' split) <;> simp only [logEvent_keeps, offerEq_keeps, and_self]

theorem recordEvent_keeps (e : EventEntry) (s : State) :
    (recordEvent e s).pending = s.pending ∧ (recordEvent e s).mem.bytes = s.mem.bytes := by
  simp only [recordEvent, deliverEvent_keeps, faultNote_keeps, and_self]

theorem raiseEvent_keeps (sev : Severity) (code : Nat) (func : BitVec 4) (inst : Nat) (data : List Word) (s : State) :
    (raiseEvent sev code func inst data s).pending = s.pending
      ∧ (raiseEvent sev code func inst data s).mem.bytes = s.mem.bytes := by
  simp only [raiseEvent]
  split <;> simp only [countLedger_keeps, fatalCapture_keeps, recordEvent_keeps, and_self]

theorem info_keeps (code inst : Nat) (data : List Word) (s : State) :
    (info code inst data s).pending = s.pending ∧ (info code inst data s).mem.bytes = s.mem.bytes := by
  simp only [info, raiseEvent_keeps, and_self]

theorem crit_keeps (code inst : Nat) (data : List Word) (s : State) :
    (crit code inst data s).pending = s.pending ∧ (crit code inst data s).mem.bytes = s.mem.bytes := by
  simp only [crit, raiseEvent_keeps, and_self]

theorem stage_keeps (at_ : Nat) (c : Change) (s : State) :
    (stage at_ c s).pending = s.pending ∧ (stage at_ c s).mem.bytes = s.mem.bytes := by
  simp only [stage, and_self]

theorem mark_keeps (k : MarkKind) (channels : BitVec 256) (first last : Nat) (s : State) :
    (mark k channels first last s).pending = s.pending ∧ (mark k channels first last s).mem.bytes = s.mem.bytes := by
  simp only [mark]
  split <;> simp only [and_self]

theorem queueReply_keeps (src : Source) (r : Reply) (s : State) :
    (queueReply src r s).pending = s.pending ∧ (queueReply src r s).mem.bytes = s.mem.bytes := by
  simp only [queueReply, and_self]

theorem scriptReply_keeps (op : Nat) (st : Status) (s : State) :
    (scriptReply op st s).pending = s.pending ∧ (scriptReply op st s).mem.bytes = s.mem.bytes := by
  simp only [scriptReply]
  split <;> simp only [crit_keeps, and_self]

theorem deliverReply_keeps (op : Nat) (p : Packet) (r : Reply) (s : State) :
    (deliverReply op p r s).pending = s.pending ∧ (deliverReply op p r s).mem.bytes = s.mem.bytes := by
  unfold deliverReply
  (repeat' split) <;> simp only [queueReply_keeps, scriptReply_keeps, send_keeps, and_self]

theorem answer_keeps (op : Nat) (p : Packet) (st : Status) (data : List Word) (t : Nat) (s : State) :
    (answer op p st data t s).pending = s.pending ∧ (answer op p st data t s).mem.bytes = s.mem.bytes := by
  simp only [answer, deliverReply_keeps, and_self]

theorem countDecision_keeps (st : Status) (s : State) :
    (countDecision st s).pending = s.pending ∧ (countDecision st s).mem.bytes = s.mem.bytes := by
  simp only [countDecision]
  split <;> simp only [and_self]

theorem rejectPacket_keeps (op : Nat) (p : Packet) (r : Rejection) (s : State) :
    (rejectPacket op p r s).pending = s.pending ∧ (rejectPacket op p r s).mem.bytes = s.mem.bytes := by
  simp only [rejectPacket, answer_keeps, countDecision_keeps, and_self]

theorem storeSeq_keeps (f : Fn) (seq : Word) (s : State) :
    (storeSeq f seq s).pending = s.pending ∧ (storeSeq f seq s).mem.bytes = s.mem.bytes := by
  simp only [storeSeq, and_self]

theorem authFailure_keeps (op : Op) (p : Packet) (cause : Nat) (s : State) :
    (authFailure op p cause s).pending = s.pending ∧ (authFailure op p cause s).mem.bytes = s.mem.bytes := by
  simp only [authFailure]
  split <;> simp only [raiseEvent_keeps, and_self]

theorem mirrorOut_keeps (op : Op) (p : Packet) (f : Nat) (s : State) :
    (mirrorOut op p f s).pending = s.pending ∧ (mirrorOut op p f s).mem.bytes = s.mem.bytes := by
  simp only [mirrorOut]
  split <;> simp only [send_keeps, and_self]

theorem lockConfig_keeps (r : Rules) (s : State) :
    (lockConfig r s).pending = s.pending ∧ (lockConfig r s).mem.bytes = s.mem.bytes := by
  simp only [lockConfig]
  split <;> simp only [and_self]

theorem executeResult_keeps {r : Rules} (hr : ∀ p s, (r.run p s).keeps s) (p : Packet) (s : State) :
    (executeResult r p s).keeps s := by
  have h := hr p s
  unfold executeResult
  split
  · trivial
  · revert h
    cases r.run p s with
    | reject _ _ => intro _; trivial
    | done t d c =>
      intro h
      simp only [Result.keeps] at h
      dsimp only
      split
      · trivial
      · simp only [Result.keeps, lockConfig_keeps]
        split <;> simp only [mirrorOut_keeps, h, and_self]
    | owe t w =>
      intro h
      simp only [Result.keeps] at h
      dsimp only
      split
      · trivial
      · simp only [Result.keeps, lockConfig_keeps]
        split <;> simp only [mirrorOut_keeps, h, and_self]

theorem execute_keeps {r : Rules} (hr : ∀ p s, (r.run p s).keeps s) (p : Packet) (s : State) :
    (execute r p s).pending = s.pending ∧ (execute r p s).mem.bytes = s.mem.bytes := by
  have h := executeResult_keeps hr p s
  unfold execute
  revert h
  cases executeResult r p s with
  | reject _ _ => intro _; simp only [rejectPacket_keeps, and_self]
  | done t d c => intro h; simp only [Result.keeps] at h; simp only [answer_keeps, countDecision_keeps, h, and_self]
  | owe t w => intro h; simp only [Result.keeps] at h; simp only [countDecision_keeps, h, and_self]

theorem closeRelay_keeps (id : BitVec 16) (reply : Packet → Reply) (s : State) :
    (closeRelay id reply s).pending = s.pending ∧ (closeRelay id reply s).mem.bytes = s.mem.bytes := by
  simp only [closeRelay]
  split <;> simp only [deliverReply_keeps, and_self]

theorem closeBroadcast_keeps (id : BitVec 16) (expired : Bool) (s : State) :
    (closeBroadcast id expired s).pending = s.pending ∧ (closeBroadcast id expired s).mem.bytes = s.mem.bytes := by
  unfold closeBroadcast
  dsimp only
  (repeat' split) <;> simp only [closeRelay_keeps, and_self]

theorem memberReply_keeps (id : BitVec 16) (hub : HubId) (r : Reply) (s : State) :
    (memberReply id hub r s).pending = s.pending ∧ (memberReply id hub r s).mem.bytes = s.mem.bytes := by
  simp only [memberReply]
  split <;> simp only [closeBroadcast_keeps, deliverReply_keeps, mark_keeps, and_self]

theorem relayOut_keeps {r : Rules} (hr : ∀ p s, (r.run p s).keeps s) (p : Packet) (s : State) :
    (relayOut r p s).pending = s.pending ∧ (relayOut r p s).mem.bytes = s.mem.bytes := by
  unfold relayOut
  dsimp only
  split
  · simp only [send_keeps, and_self]
  · generalize hx : send _ _ = x
    have hk : x.pending = s.pending ∧ x.mem.bytes = s.mem.bytes := by
      rw [← hx]; simp only [send_keeps, and_self]
    have h := executeResult_keeps hr p x
    revert h
    cases executeResult r p x with
    | reject _ _ => intro _; simp only [memberReply_keeps, countDecision_keeps, hk, and_self]
    | done t d c => intro h; simp only [Result.keeps] at h; simp only [memberReply_keeps, countDecision_keeps, h, hk, and_self]
    | owe t w => intro h; simp only [Result.keeps] at h; simp only [countDecision_keeps, h, hk, and_self]

theorem decideTaken_keeps {r : Rules} (hr : ∀ p s, (r.run p s).keeps s) (p : Packet) (s : State) :
    (decideTaken r p s).pending = s.pending ∧ (decideTaken r p s).mem.bytes = s.mem.bytes := by
  unfold decideTaken
  repeat' first
    | (constructor <;> with_reducible rfl)
    | (simp only [rejectPacket_keeps, authFailure_keeps, storeSeq_keeps, execute_keeps hr, relayOut_keeps hr, and_self]; done)
    | split
    | (simp only [rejectPacket_keeps, authFailure_keeps, storeSeq_keeps, execute_keeps hr, relayOut_keeps hr, and_self])

theorem takeCommand_keeps {r : Rules} (hr : ∀ p s, (r.run p s).keeps s) (p : Packet) (s : State) :
    (takeCommand r p s).pending = s.pending ∧ (takeCommand r p s).mem.bytes = s.mem.bytes := by
  unfold takeCommand
  split
  · exact decideTaken_keeps hr p s
  · constructor <;> rfl

theorem settleOne_keeps (o : Owed) (st : Status) (data : List Word) (t : Nat) (s : State) :
    (settleOne o st data t s).pending = s.pending ∧ (settleOne o st data t s).mem.bytes = s.mem.bytes := by
  simp only [settleOne]
  split <;> simp only [answer_keeps, memberReply_keeps, and_self]

theorem settle_keeps (why : Owing) (st : Status) (data : List Word) (t : Nat) (s : State) :
    (settle why st data t s).pending = s.pending ∧ (settle why st data t s).mem.bytes = s.mem.bytes := by
  unfold settle
  exact foldl_keeps_of (fun _ _ => by simp only [settleOne_keeps, and_self]) ⟨rfl, rfl⟩

end Sys2Proof.Machine
end

