-- ==== Sys2Proof/Laws/KeepSignal.lean ====
section
/-! SUPPORT. What converters, filters, detectors and calibration leave as they are: the queue of commands and the bytes of the capture memory. A definition that
writes memory bytes has two lemmas instead: its queue is unchanged, and the memory keeps its canonical form. -/

namespace Sys2Proof.Machine
open Sys2Proof
set_option linter.unusedSimpArgs false
set_option linter.unusedVariables false

theorem setMod_keeps (b i : Nat) (x : ModState) (s : State) :
    (setMod b i x s).pending = s.pending ∧ (setMod b i x s).mem.bytes = s.mem.bytes := by
  simp only [setMod, and_self]

theorem enterState_keeps (b i : Nat) (x : ModState) (s : State) :
    (enterState b i x s).pending = s.pending ∧ (enterState b i x s).mem.bytes = s.mem.bytes := by
  unfold enterState
  (repeat' split) <;> simp only [setMod_keeps, and_self]

theorem noteFailed_keeps (b i : Nat) (s : State) :
    (noteFailed b i s).pending = s.pending ∧ (noteFailed b i s).mem.bytes = s.mem.bytes := by
  simp only [noteFailed, and_self]

theorem setAssign_keeps (b k i : Nat) (s : State) :
    (setAssign b k i s).pending = s.pending ∧ (setAssign b k i s).mem.bytes = s.mem.bytes := by
  simp only [setAssign, and_self]

theorem closeMark_keeps (k : MarkKind) (channel last : Nat) (excl : Bool) (s : State) :
    (closeMark k channel last excl s).pending = s.pending ∧ (closeMark k channel last excl s).mem.bytes = s.mem.bytes := by
  simp only [closeMark, and_self]

theorem skipUnit_keeps (test unit : Nat) (s : State) :
    (skipUnit test unit s).pending = s.pending ∧ (skipUnit test unit s).mem.bytes = s.mem.bytes := by
  simp only [skipUnit]
  split <;> simp only [and_self]

theorem stopStimulus_keeps (m : Nat) (s : State) :
    (stopStimulus m s).pending = s.pending ∧ (stopStimulus m s).mem.bytes = s.mem.bytes := by
  simp only [stopStimulus, and_self]

theorem abandonTest_keeps (m : Nat) (s : State) :
    (abandonTest m s).pending = s.pending ∧ (abandonTest m s).mem.bytes = s.mem.bytes := by
  simp only [abandonTest]
  split <;> simp only [skipUnit_keeps, stopStimulus_keeps, and_self]

theorem dropVisit_keeps (b i : Nat) (s : State) :
    (dropVisit b i s).pending = s.pending ∧ (dropVisit b i s).mem.bytes = s.mem.bytes := by
  simp only [dropVisit, stopStimulus_keeps, and_self]

theorem abandonCalibration_keeps (b i : Nat) (s : State) :
    (abandonCalibration b i s).pending = s.pending ∧ (abandonCalibration b i s).mem.bytes = s.mem.bytes := by
  unfold abandonCalibration
  dsimp only
  (repeat' split) <;> simp only [abandonTest_keeps, dropVisit_keeps, and_self]

theorem checkNoSpare_keeps (before : State) (b : Nat) (s : State) :
    (checkNoSpare before b s).pending = s.pending ∧ (checkNoSpare before b s).mem.bytes = s.mem.bytes := by
  simp only [checkNoSpare]
  split <;> simp only [crit_keeps, and_self]

theorem retire_keeps (b i : Nat) (s : State) :
    (retire b i s).pending = s.pending ∧ (retire b i s).mem.bytes = s.mem.bytes := by
  simp only [retire, enterState_keeps, noteFailed_keeps, and_self]

theorem beginSubstitution_keeps (c failed i t : Nat) (s : State) :
    (beginSubstitution c failed i t s).pending = s.pending
      ∧ (beginSubstitution c failed i t s).mem.bytes = s.mem.bytes := by
  simp only [beginSubstitution]
  split <;> simp only [abandonCalibration_keeps, mark_keeps, and_self]

theorem substitute_keeps (c failed t : Nat) (s : State) :
    (substitute c failed t s).pending = s.pending ∧ (substitute c failed t s).mem.bytes = s.mem.bytes := by
  simp only [substitute]
  split <;> simp only [beginSubstitution_keeps, crit_keeps, mark_keeps, setMod_keeps, and_self]

theorem offerEach_keeps (b : Nat) : ∀ (n : Nat) (s : State),
    (offerEach b n s).pending = s.pending ∧ (offerEach b n s).mem.bytes = s.mem.bytes
  | 0, _ => ⟨rfl, rfl⟩
  | n + 1, s => by
    unfold offerEach
    split
    · simp only [offerEach_keeps b n, beginSubstitution_keeps, and_self]
    · exact ⟨rfl, rfl⟩

theorem offerFree_keeps (b : Nat) (s : State) :
    (offerFree b s).pending = s.pending ∧ (offerFree b s).mem.bytes = s.mem.bytes := by
  simp only [offerFree, offerEach_keeps, and_self]

theorem raiseModFail_keeps (b i : Nat) (chan : Option Nat) (reason t : Nat) (s : State) :
    (raiseModFail b i chan reason t s).pending = s.pending
      ∧ (raiseModFail b i chan reason t s).mem.bytes = s.mem.bytes := by
  simp only [raiseModFail, countLedger_keeps, crit_keeps, noteFailed_keeps, and_self]

theorem rechoose_keeps (x : Substitution) (t : Nat) (s : State) :
    (rechoose x t s).pending = s.pending ∧ (rechoose x t s).mem.bytes = s.mem.bytes := by
  simp only [rechoose]
  split <;> simp only [beginSubstitution_keeps, closeMark_keeps, crit_keeps, mark_keeps, setMod_keeps, and_self]

theorem failNow_keeps (b i reason t : Nat) (s : State) :
    (failNow b i reason t s).pending = s.pending ∧ (failNow b i reason t s).mem.bytes = s.mem.bytes := by
  unfold failNow
  dsimp only
  (repeat' split) <;> simp only [abandonCalibration_keeps, checkNoSpare_keeps, mark_keeps, raiseModFail_keeps, rechoose_keeps, retire_keeps, substitute_keeps, and_self]

theorem failModulator_keeps (b i reason t : Nat) (s : State) :
    (failModulator b i reason t s).pending = s.pending ∧ (failModulator b i reason t s).mem.bytes = s.mem.bytes := by
  unfold failModulator
  (repeat' split) <;> simp only [failNow_keeps, noteFailed_keeps, and_self]

theorem stepSubstitution_keeps (f : Nat) (x : Substitution) (s : State) :
    (stepSubstitution f x s).pending = s.pending ∧ (stepSubstitution f x s).mem.bytes = s.mem.bytes := by
  unfold stepSubstitution
  dsimp only
  (repeat' split) <;> simp only [checkNoSpare_keeps, closeMark_keeps, info_keeps, mark_keeps, retire_keeps, setAssign_keeps, setMod_keeps, settle_keeps, and_self]

theorem stepSubstitutions_keeps (f : Nat) (s : State) :
    (stepSubstitutions f s).pending = s.pending ∧ (stepSubstitutions f s).mem.bytes = s.mem.bytes := by
  unfold stepSubstitutions
  exact foldl_keeps_of (fun _ _ => by simp only [stepSubstitution_keeps, and_self]) ⟨rfl, rfl⟩

theorem beginOverlap_keeps (b k i f : Nat) (s : State) :
    (beginOverlap b k i f s).pending = s.pending ∧ (beginOverlap b k i f s).mem.bytes = s.mem.bytes := by
  simp only [beginOverlap, setMod_keeps, and_self]

theorem abortOverlap_keeps (b cause : Nat) (s : State) :
    (abortOverlap b cause s).pending = s.pending ∧ (abortOverlap b cause s).mem.bytes = s.mem.bytes := by
  simp only [abortOverlap]
  split <;> simp only [info_keeps, and_self]

theorem returnShadows_keeps (f : Nat) (s : State) :
    (returnShadows f s).pending = s.pending ∧ (returnShadows f s).mem.bytes = s.mem.bytes := by
  unfold returnShadows
  repeat' first
    | (constructor <;> with_reducible rfl)
    | with_reducible assumption
    | (simp only [offerFree_keeps, setMod_keeps, and_self]; done)
    | (with_reducible refine foldl_keeps_of ?_ ?_; intro _ _)
    | split

theorem swapOverlap_keeps (b f : Nat) (o : Overlap) (s : State) :
    (swapOverlap b f o s).pending = s.pending ∧ (swapOverlap b f o s).mem.bytes = s.mem.bytes := by
  simp only [swapOverlap, mark_keeps, setAssign_keeps, setMod_keeps, and_self]

theorem dropSubstitution_keeps (c : Nat) (s : State) :
    (dropSubstitution c s).pending = s.pending ∧ (dropSubstitution c s).mem.bytes = s.mem.bytes := by
  unfold dropSubstitution
  repeat' first
    | (constructor <;> with_reducible rfl)
    | with_reducible assumption
    | (simp only [setMod_keeps, and_self]; done)
    | (with_reducible refine foldl_keeps_of ?_ ?_; intro _ _)
    | split

theorem parkChannel_keeps (b k : Nat) (s : State) :
    (parkChannel b k s).pending = s.pending ∧ (parkChannel b k s).mem.bytes = s.mem.bytes := by
  unfold parkChannel
  dsimp only
  (repeat' split) <;> simp only [closeMark_keeps, dropSubstitution_keeps, enterState_keeps, retire_keeps, setAssign_keeps, and_self]

theorem unparkChannel_keeps (b k f : Nat) (s : State) :
    (unparkChannel b k f s).pending = s.pending ∧ (unparkChannel b k f s).mem.bytes = s.mem.bytes := by
  simp only [unparkChannel]
  split <;> simp only [abandonCalibration_keeps, crit_keeps, enterState_keeps, mark_keeps, setAssign_keeps, settle_keeps, and_self]

theorem applyChannels_keeps (b : Nat) (w : Word) (f : Nat) (s : State) :
    (applyChannels b w f s).pending = s.pending ∧ (applyChannels b w f s).mem.bytes = s.mem.bytes := by
  unfold applyChannels
  repeat' first
    | (constructor <;> with_reducible rfl)
    | with_reducible assumption
    | (simp only [abortOverlap_keeps, checkNoSpare_keeps, mark_keeps, offerFree_keeps, parkChannel_keeps, settle_keeps, unparkChannel_keeps, and_self]; done)
    | (with_reducible refine foldl_keeps_of ?_ ?_; intro _ _)
    | split
    | (simp only [abortOverlap_keeps, checkNoSpare_keeps, mark_keeps, offerFree_keeps, parkChannel_keeps, settle_keeps, unparkChannel_keeps, and_self])

theorem setBranch_keeps (i : Nat) (x : Branch) (s : State) :
    (setBranch i x s).pending = s.pending ∧ (setBranch i x s).mem.bytes = s.mem.bytes := by
  simp only [setBranch, and_self]

theorem boundaryMissed_keeps (c e : Nat) (s : State) :
    (boundaryMissed c e s).pending = s.pending ∧ (boundaryMissed c e s).mem.bytes = s.mem.bytes := by
  simp only [boundaryMissed]
  split <;> simp only [info_keeps, and_self]

theorem lcRestored_keeps (t : Nat) (s : State) :
    (lcRestored t s).pending = s.pending ∧ (lcRestored t s).mem.bytes = s.mem.bytes := by
  simp only [lcRestored]
  split <;> simp only [info_keeps, and_self]

theorem beginWindow_keeps (i b : Nat) (s : State) :
    (beginWindow i b s).pending = s.pending ∧ (beginWindow i b s).mem.bytes = s.mem.bytes := by
  unfold beginWindow
  dsimp only
  (repeat' split) <;> simp only [boundaryMissed_keeps, lcRestored_keeps, setBranch_keeps, and_self]

theorem startRegime_keeps (i : Nat) (ws : Vector Word 3) (t : Nat) (s : State) :
    (startRegime i ws t s).pending = s.pending ∧ (startRegime i ws t s).mem.bytes = s.mem.bytes := by
  simp only [startRegime, beginWindow_keeps, setBranch_keeps, and_self]

theorem applyBranch_keeps (i : Nat) (ws : Vector Word 3) (regime : Bool) (f : Nat) (s : State) :
    (applyBranch i ws regime f s).pending = s.pending ∧ (applyBranch i ws regime f s).mem.bytes = s.mem.bytes := by
  unfold applyBranch
  dsimp only
  (repeat' split) <;> simp only [setBranch_keeps, startRegime_keeps, and_self]

theorem applyFir_keeps (b : Fin 32) (ws : Vector Word 8) (f : Nat) (s : State) :
    (applyFir b ws f s).pending = s.pending ∧ (applyFir b ws f s).mem.bytes = s.mem.bytes := by
  simp only [applyFir, mark_keeps, and_self]

theorem modDetector_keeps (c : Nat) (g : Detector → Detector) (s : State) :
    (modDetector c g s).pending = s.pending ∧ (modDetector c g s).mem.bytes = s.mem.bytes := by
  simp only [modDetector, and_self]

theorem applyDetectors_keeps (c : Fin 256) (w : Word) (s : State) :
    (applyDetectors c w s).pending = s.pending ∧ (applyDetectors c w s).mem.bytes = s.mem.bytes := by
  simp only [applyDetectors, modDetector_keeps, and_self]

theorem applyComparator_keeps (c : Fin 256) (ws : Vector Word 4) (s : State) :
    (applyComparator c ws s).pending = s.pending ∧ (applyComparator c ws s).mem.bytes = s.mem.bytes := by
  simp only [applyComparator, modDetector_keeps, and_self]

theorem keepPast_keeps (f : Nat) (old s : State) :
    (keepPast f old s).pending = s.pending ∧ (keepPast f old s).mem.bytes = s.mem.bytes := by
  simp only [keepPast, and_self]

theorem sampleEvent_keeps (e : EventEntry) (s : State) :
    (sampleEvent e s).pending = s.pending ∧ (sampleEvent e s).mem.bytes = s.mem.bytes := by
  unfold sampleEvent
  (repeat' split) <;> simp only [countLedger_keeps, recordEvent_keeps, and_self]

theorem drainExits_keeps (s : State) : (drainExits s).pending = s.pending ∧ (drainExits s).mem.bytes = s.mem.bytes := by
  unfold drainExits
  exact foldl_keeps_of (fun _ _ => by simp only [recordEvent_keeps, and_self]) ⟨rfl, rfl⟩

theorem compareInput_keeps (c : Nat) (x : Int) (t : Nat) (s : State) :
    (compareInput c x t s).pending = s.pending ∧ (compareInput c x t s).mem.bytes = s.mem.bytes := by
  simp only [compareInput]
  split <;> simp only [modDetector_keeps, sampleEvent_keeps, and_self]

theorem compareWindow_keeps (c b : Nat) (v : Int) (held blockEnd : Bool) (t : Nat) (s : State) :
    (compareWindow c b v held blockEnd t s).pending = s.pending
      ∧ (compareWindow c b v held blockEnd t s).mem.bytes = s.mem.bytes := by
  unfold compareWindow
  dsimp only
  (repeat' split) <;> simp only [compareInput_keeps, and_self]

theorem noteShed_keeps (t : Nat) (s : State) :
    (noteShed t s).pending = s.pending ∧ (noteShed t s).mem.bytes = s.mem.bytes := by
  simp only [noteShed]
  split <;> simp only [info_keeps, and_self]

theorem closeBlock_keeps (c : Nat) (out : Nat) (s : State) :
    (closeBlock c out s).1.pending = s.pending ∧ (closeBlock c out s).1.mem.bytes = s.mem.bytes := by
  simp only [closeBlock]
  split <;> simp only [modDetector_keeps, noteShed_keeps, and_self]

theorem detectWindow_keeps (c b : Nat) (x : Branch) (v : Int) (fl : SampleFlags) (e : Nat) (takes blockEnd : Bool) (s : State) :
    (detectWindow c b x v fl e takes blockEnd s).1.pending = s.pending
      ∧ (detectWindow c b x v fl e takes blockEnd s).1.mem.bytes = s.mem.bytes := by
  unfold detectWindow
  (repeat' split) <;> simp only [closeBlock_keeps, compareWindow_keeps, modDetector_keeps, and_self]

theorem noteWindow_keeps (e : Nat) (s : State) :
    (noteWindow e s).pending = s.pending ∧ (noteWindow e s).mem.bytes = s.mem.bytes := by
  simp only [noteWindow, and_self]

theorem followWindow_keeps (c i : Nat) (x a : Branch) (v : Int) (held : Bool) (next : Nat) (obs : WindowObs) (s : State) :
    (followWindow c i x a v held next obs s).pending = s.pending
      ∧ (followWindow c i x a v held next obs s).mem.bytes = s.mem.bytes := by
  unfold followWindow
  (repeat' split) <;> simp only [beginWindow_keeps, noteWindow_keeps, setBranch_keeps, startRegime_keeps, and_self]

theorem formWindow_keeps (c b : Nat) (obs : WindowObs) (s : State) :
    ∀ t, formWindow c b obs s = some t → t.1.pending = s.pending ∧ t.1.mem.bytes = s.mem.bytes := by
  intro t h
  unfold formWindow at h
  extract_lets at h
  split at h
  · cases h
  · dsimp only at h
    cases h
    simp only [followWindow_keeps]
    exact detectWindow_keeps _ _ _ _ _ _ _ _ _

theorem execLcBoundaryMissed_keeps (c : Fin 256) (branch : Fin 2) (s : State) :
    ∀ t, execLcBoundaryMissed c branch s = .next t → t.pending = s.pending ∧ t.mem.bytes = s.mem.bytes := by
  intro t h; simp only [execLcBoundaryMissed, Host.Outcome.next.injEq] at h; subst h
  split <;> simp only [boundaryMissed_keeps, setBranch_keeps, and_self]

theorem setClaimant_keeps (c u : Nat) (o : Option Owner) (s : State) :
    (setClaimant c u o s).pending = s.pending ∧ (setClaimant c u o s).mem.bytes = s.mem.bytes := by
  simp only [setClaimant, and_self]

theorem claimUnits_keeps (u : Nat) (p : Packet) (s : State) :
    (claimUnits u p s).pending = s.pending ∧ (claimUnits u p s).mem.bytes = s.mem.bytes := by
  unfold claimUnits
  repeat' first
    | (constructor <;> with_reducible rfl)
    | with_reducible assumption
    | (simp only [setClaimant_keeps, and_self])
    | (with_reducible refine foldl_keeps_of ?_ ?_; intro _ _)
    | split

theorem dropReplaced_keeps (i : Nat) (s : State) :
    (dropReplaced i s).pending = s.pending ∧ (dropReplaced i s).mem.bytes = s.mem.bytes := by
  simp only [dropReplaced, and_self]

theorem stageBranch_keeps (i : Nat) (ws : Vector Word 3) (f : Nat) (s : State) :
    (stageBranch i ws f s).pending = s.pending ∧ (stageBranch i ws f s).mem.bytes = s.mem.bytes := by
  simp only [stageBranch]
  split <;> simp only [dropReplaced_keeps, setBranch_keeps, stage_keeps, and_self]

theorem rulesFlSetBranch_keeps (p : Packet) (s : State) : (rulesFlSetBranch.run p s).keeps s := by
  simp only [rulesFlSetBranch]
  repeat' first
    | with_reducible exact trivial
    | with_reducible assumption
    | (simp only [claimUnits_keeps, stageBranch_keeps, and_self, Result.keeps]; done)
    | (with_reducible refine foldl_keeps_of ?_ ?_; intro _ _)
    | split
    | (simp only [claimUnits_keeps, stageBranch_keeps, and_self, Result.keeps])

theorem execFlSetBranch_keeps (p : Packet) (s : State) :
    ∀ t, execFlSetBranch p s = .next t → t.pending = s.pending ∧ t.mem.bytes = s.mem.bytes := by
  intro t h; simp only [execFlSetBranch, Host.Outcome.next.injEq] at h; subst h
  exact takeCommand_keeps rulesFlSetBranch_keeps p s

theorem rulesFlSetFir_keeps (p : Packet) (s : State) : (rulesFlSetFir.run p s).keeps s := by
  simp only [rulesFlSetFir]
  split <;> simp only [Result.keeps, stage_keeps, and_self]

theorem execFlSetFir_keeps (p : Packet) (s : State) :
    ∀ t, execFlSetFir p s = .next t → t.pending = s.pending ∧ t.mem.bytes = s.mem.bytes := by
  intro t h; simp only [execFlSetFir, Host.Outcome.next.injEq] at h; subst h
  exact takeCommand_keeps rulesFlSetFir_keeps p s

theorem rulesFlSetDetectors_keeps (p : Packet) (s : State) : (rulesFlSetDetectors.run p s).keeps s := by
  simp only [rulesFlSetDetectors]
  repeat' first
    | with_reducible exact trivial
    | with_reducible assumption
    | (simp only [claimUnits_keeps, stage_keeps, and_self, Result.keeps]; done)
    | (with_reducible refine foldl_keeps_of ?_ ?_; intro _ _)
    | split
    | (simp only [claimUnits_keeps, stage_keeps, and_self, Result.keeps])

theorem execFlSetDetectors_keeps (p : Packet) (s : State) :
    ∀ t, execFlSetDetectors p s = .next t → t.pending = s.pending ∧ t.mem.bytes = s.mem.bytes := by
  intro t h; simp only [execFlSetDetectors, Host.Outcome.next.injEq] at h; subst h
  exact takeCommand_keeps rulesFlSetDetectors_keeps p s

theorem rulesFlSetComparator_keeps (p : Packet) (s : State) : (rulesFlSetComparator.run p s).keeps s := by
  simp only [rulesFlSetComparator]
  repeat' first
    | with_reducible exact trivial
    | with_reducible assumption
    | (simp only [claimUnits_keeps, stage_keeps, and_self, Result.keeps]; done)
    | (with_reducible refine foldl_keeps_of ?_ ?_; intro _ _)
    | split
    | (simp only [claimUnits_keeps, stage_keeps, and_self, Result.keeps])

theorem execFlSetComparator_keeps (p : Packet) (s : State) :
    ∀ t, execFlSetComparator p s = .next t → t.pending = s.pending ∧ t.mem.bytes = s.mem.bytes := by
  intro t h; simp only [execFlSetComparator, Host.Outcome.next.injEq] at h; subst h
  exact takeCommand_keeps rulesFlSetComparator_keeps p s

theorem rulesFlReadChannel_keeps (p : Packet) (s : State) : (rulesFlReadChannel.run p s).keeps s := by
  simp only [rulesFlReadChannel, Result.keeps, and_self]

theorem execFlReadChannel_keeps (p : Packet) (s : State) :
    ∀ t, execFlReadChannel p s = .next t → t.pending = s.pending ∧ t.mem.bytes = s.mem.bytes := by
  intro t h; simp only [execFlReadChannel, Host.Outcome.next.injEq] at h; subst h
  exact takeCommand_keeps rulesFlReadChannel_keeps p s

theorem releaseUnits_keeps (c mask : Nat) (s : State) :
    (releaseUnits c mask s).pending = s.pending ∧ (releaseUnits c mask s).mem.bytes = s.mem.bytes := by
  unfold releaseUnits
  repeat' first
    | (constructor <;> with_reducible rfl)
    | with_reducible assumption
    | (simp only [setClaimant_keeps, and_self])
    | (with_reducible refine foldl_keeps_of ?_ ?_; intro _ _)
    | split

theorem rulesFlRelease_keeps (p : Packet) (s : State) : (rulesFlRelease.run p s).keeps s := by
  simp only [rulesFlRelease]
  repeat' first
    | with_reducible exact trivial
    | with_reducible assumption
    | (simp only [releaseUnits_keeps, stage_keeps, and_self, Result.keeps]; done)
    | (with_reducible refine foldl_keeps_of ?_ ?_; intro _ _)
    | split
    | (simp only [releaseUnits_keeps, stage_keeps, and_self, Result.keeps])

theorem execFlRelease_keeps (p : Packet) (s : State) :
    ∀ t, execFlRelease p s = .next t → t.pending = s.pending ∧ t.mem.bytes = s.mem.bytes := by
  intro t h; simp only [execFlRelease, Host.Outcome.next.injEq] at h; subst h
  exact takeCommand_keeps rulesFlRelease_keeps p s

theorem rulesFlReadFir_keeps (p : Packet) (s : State) : (rulesFlReadFir.run p s).keeps s := by
  simp only [rulesFlReadFir, Result.keeps, and_self]

theorem execFlReadFir_keeps (p : Packet) (s : State) :
    ∀ t, execFlReadFir p s = .next t → t.pending = s.pending ∧ t.mem.bytes = s.mem.bytes := by
  intro t h; simp only [execFlReadFir, Host.Outcome.next.injEq] at h; subst h
  exact takeCommand_keeps rulesFlReadFir_keeps p s

theorem modCal_keeps (b : Nat) (f : CalBasin → CalBasin) (s : State) :
    (modCal b f s).pending = s.pending ∧ (modCal b f s).mem.bytes = s.mem.bytes := by
  simp only [modCal, and_self]

theorem writeTrim_keeps (m g f : Nat) (w : Word) (s : State) :
    (writeTrim m g f w s).pending = s.pending ∧ (writeTrim m g f w s).mem.bytes = s.mem.bytes := by
  unfold writeTrim
  (repeat' split) <;> simp only [mark_keeps, and_self]

theorem writeDigital_keeps (m f : Nat) (d : Digital) (s : State) :
    (writeDigital m f d s).pending = s.pending ∧ (writeDigital m f d s).mem.bytes = s.mem.bytes := by
  unfold writeDigital
  (repeat' split) <;> simp only [mark_keeps, and_self]

theorem newTrim_keeps (m g f : Nat) (w : Word) (d : Option Digital) (serves : Bool) (s : State) :
    (newTrim m g f w d serves s).pending = s.pending ∧ (newTrim m g f w d serves s).mem.bytes = s.mem.bytes := by
  unfold newTrim
  (repeat' split) <;> simp only [writeDigital_keeps, writeTrim_keeps, and_self]

theorem stepRamp_keeps (f : Nat) (r : Ramp) (s : State) :
    (stepRamp f r s).pending = s.pending ∧ (stepRamp f r s).mem.bytes = s.mem.bytes := by
  unfold stepRamp
  dsimp only
  (repeat' split) <;> simp only [writeDigital_keeps, writeTrim_keeps, and_self]

theorem stepRamps_keeps (f : Nat) (s : State) :
    (stepRamps f s).pending = s.pending ∧ (stepRamps f s).mem.bytes = s.mem.bytes := by
  unfold stepRamps
  exact foldl_keeps_of (fun _ _ => by simp only [stepRamp_keeps, and_self]) ⟨rfl, rfl⟩

theorem setRejRun_keeps (m g n : Nat) (s : State) :
    (setRejRun m g n s).pending = s.pending ∧ (setRejRun m g n s).mem.bytes = s.mem.bytes := by
  simp only [setRejRun, and_self]

theorem setCalTick_keeps (m g : Nat) (t : Option Nat) (s : State) :
    (setCalTick m g t s).pending = s.pending ∧ (setCalTick m g t s).mem.bytes = s.mem.bytes := by
  simp only [setCalTick, and_self]

theorem rejectCalibration_keeps (m g cause : Nat) (q : Word) (s : State) :
    (rejectCalibration m g cause q s).pending = s.pending ∧ (rejectCalibration m g cause q s).mem.bytes = s.mem.bytes := by
  unfold rejectCalibration
  dsimp only
  (repeat' split) <;> simp only [countFraction_keeps, failModulator_keeps, info_keeps, modCal_keeps, setCalTick_keeps, setRejRun_keeps, and_self]

theorem execCalibrationDecision_keeps (m : Fin 288) (a b : RunObs) (s : State) :
    ∀ t, execCalibrationDecision m a b s = .next t → t.pending = s.pending ∧ t.mem.bytes = s.mem.bytes := by
  intro t h; simp only [execCalibrationDecision, Host.Outcome.next.injEq] at h; subst h
  (repeat' split) <;> simp only [countFraction_keeps, crit_keeps, failModulator_keeps, info_keeps, modCal_keeps, rejectCalibration_keeps, setRejRun_keeps, and_self]

theorem applyLoad_keeps (f : Nat) (l : TrimLoad) (s : State) :
    (applyLoad f l s).pending = s.pending ∧ (applyLoad f l s).mem.bytes = s.mem.bytes := by
  unfold applyLoad
  dsimp only
  (repeat' split) <;> simp only [modCal_keeps, newTrim_keeps, setCalTick_keeps, and_self]

theorem applyLoads_keeps (f : Nat) (s : State) :
    (applyLoads f s).pending = s.pending ∧ (applyLoads f s).mem.bytes = s.mem.bytes := by
  unfold applyLoads
  exact foldl_keeps_of (fun _ _ => by simp only [applyLoad_keeps, and_self]) ⟨rfl, rfl⟩

theorem setStimuli_keeps (f : Nat) (s : State) :
    (setStimuli f s).pending = s.pending ∧ (setStimuli f s).mem.bytes = s.mem.bytes := by
  simp only [setStimuli, and_self]

theorem beginVisit_keeps (b i g f : Nat) (s : State) :
    (beginVisit b i g f s).pending = s.pending ∧ (beginVisit b i g f s).mem.bytes = s.mem.bytes := by
  simp only [beginVisit, setMod_keeps, and_self]

theorem execCalibrationCycleStart_keeps (b : Fin 32) (s : State) :
    ∀ t, execCalibrationCycleStart b s = .next t → t.pending = s.pending ∧ t.mem.bytes = s.mem.bytes := by
  intro t h; simp only [execCalibrationCycleStart, Host.Outcome.next.injEq] at h; subst h
  (repeat' split) <;> simp only [beginOverlap_keeps, beginVisit_keeps, modCal_keeps, setStimuli_keeps, and_self]

theorem stepCycle_keeps (f : Nat) (b : Fin 32) (s : State) :
    (stepCycle f b s).pending = s.pending ∧ (stepCycle f b s).mem.bytes = s.mem.bytes := by
  unfold stepCycle
  dsimp only
  (repeat' split) <;> simp only [beginVisit_keeps, offerFree_keeps, setMod_keeps, swapOverlap_keeps, and_self]

theorem calibrationFrame_keeps (f : Nat) (s : State) :
    (calibrationFrame f s).pending = s.pending ∧ (calibrationFrame f s).mem.bytes = s.mem.bytes := by
  unfold calibrationFrame
  repeat' first
    | with_reducible assumption
    | (simp only [applyLoads_keeps, stepCycle_keeps, stepRamps_keeps, and_self]; done)
    | (with_reducible refine foldl_keeps_of ?_ ?_; intro _ _)
    | split
    | (simp only [applyLoads_keeps, stepCycle_keeps, stepRamps_keeps, and_self])

theorem startCalibration_keeps (t : Nat) (s : State) :
    (startCalibration t s).pending = s.pending ∧ (startCalibration t s).mem.bytes = s.mem.bytes := by
  simp only [startCalibration, and_self]

theorem applyChannelWord_keeps (b : Fin 32) (w : Word) (f : Nat) (s : State) :
    (applyChannelWord b w f s).pending = s.pending ∧ (applyChannelWord b w f s).mem.bytes = s.mem.bytes := by
  simp only [applyChannelWord, applyChannels_keeps, mark_keeps, modCal_keeps, and_self]

theorem execForegroundStart_keeps (b : Fin 32) (s : State) :
    ∀ t, execForegroundStart b s = .next t → t.pending = s.pending ∧ t.mem.bytes = s.mem.bytes := by
  intro t h; simp only [execForegroundStart, Host.Outcome.next.injEq] at h; subst h
  repeat' first
    | (constructor <;> with_reducible rfl)
    | with_reducible assumption
    | (simp only [countLedger_keeps, info_keeps, mark_keeps, modCal_keeps, returnShadows_keeps, setMod_keeps, setStimuli_keeps, and_self]; done)
    | (with_reducible refine foldl_keeps_of ?_ ?_; intro _ _)
    | split
    | (simp only [countLedger_keeps, info_keeps, mark_keeps, modCal_keeps, returnShadows_keeps, setMod_keeps, setStimuli_keeps, and_self])

theorem discardResults_keeps (b i : Nat) (g : Foreground) (s : State) :
    (discardResults b i g s).pending = s.pending ∧ (discardResults b i g s).mem.bytes = s.mem.bytes := by
  unfold discardResults
  (repeat' split) <;> simp only [modCal_keeps, setCalTick_keeps, and_self]

theorem execForegroundEnd_keeps (b : Fin 32) (s : State) :
    ∀ t, execForegroundEnd b s = .next t → t.pending = s.pending ∧ t.mem.bytes = s.mem.bytes := by
  intro t h; simp only [execForegroundEnd, Host.Outcome.next.injEq] at h; subst h
  repeat' first
    | (constructor <;> with_reducible rfl)
    | with_reducible assumption
    | (simp only [discardResults_keeps, failNow_keeps, info_keeps, keepPast_keeps, mark_keeps, modCal_keeps, setMod_keeps, setStimuli_keeps, settle_keeps, and_self]; done)
    | (with_reducible refine foldl_keeps_of ?_ ?_; intro _ _)
    | split
    | (simp only [discardResults_keeps, failNow_keeps, info_keeps, keepPast_keeps, mark_keeps, modCal_keeps, setMod_keeps, setStimuli_keeps, settle_keeps, and_self])

theorem followReference_keeps (mean : Int) (s : State) :
    (followReference mean s).pending = s.pending ∧ (followReference mean s).mem.bytes = s.mem.bytes := by
  unfold followReference
  dsimp only
  (repeat' split) <;> simp only [crit_keeps, info_keeps, and_self]

theorem applyCalPolicy_keeps (b : Fin 32) (policy tolerance : Word) (f : Nat) (s : State) :
    (applyCalPolicy b policy tolerance f s).pending = s.pending
      ∧ (applyCalPolicy b policy tolerance f s).mem.bytes = s.mem.bytes := by
  simp only [applyCalPolicy, modCal_keeps, and_self]

theorem applyTrim_keeps (m : Fin 288) (g : Fin 8) (w : Word) (f : Nat) (s : State) :
    (applyTrim m g w f s).pending = s.pending ∧ (applyTrim m g w f s).mem.bytes = s.mem.bytes := by
  unfold applyTrim
  dsimp only
  (repeat' split) <;> simp only [dropVisit_keeps, newTrim_keeps, setMod_keeps, and_self]

theorem applyRefcheck_keeps (w : Word) (s : State) :
    (applyRefcheck w s).pending = s.pending ∧ (applyRefcheck w s).mem.bytes = s.mem.bytes := by
  simp only [applyRefcheck, and_self]

theorem rulesCalSetPolicy_keeps (p : Packet) (s : State) : (rulesCalSetPolicy.run p s).keeps s := by
  simp only [rulesCalSetPolicy]
  repeat' first
    | with_reducible exact trivial
    | with_reducible assumption
    | (simp only [stage_keeps, and_self, Result.keeps]; done)
    | (with_reducible refine foldl_keeps_of ?_ ?_; intro _ _)
    | split
    | (simp only [stage_keeps, and_self, Result.keeps])

theorem execCalSetPolicy_keeps (p : Packet) (s : State) :
    ∀ t, execCalSetPolicy p s = .next t → t.pending = s.pending ∧ t.mem.bytes = s.mem.bytes := by
  intro t h; simp only [execCalSetPolicy, Host.Outcome.next.injEq] at h; subst h
  exact takeCommand_keeps rulesCalSetPolicy_keeps p s

theorem stageForeground_keeps (b start : Nat) (s : State) :
    (stageForeground b start s).pending = s.pending ∧ (stageForeground b start s).mem.bytes = s.mem.bytes := by
  unfold stageForeground
  repeat' first
    | with_reducible assumption
    | (simp only [abandonTest_keeps, abortOverlap_keeps, dropVisit_keeps, modCal_keeps, setMod_keeps, and_self]; done)
    | (with_reducible refine foldl_keeps_of ?_ ?_; intro _ _)
    | split
    | (simp only [abandonTest_keeps, abortOverlap_keeps, dropVisit_keeps, modCal_keeps, setMod_keeps, and_self])

theorem rulesCalForeground_keeps (p : Packet) (s : State) : (rulesCalForeground.run p s).keeps s := by
  simp only [rulesCalForeground]
  (repeat' split) <;> simp only [Result.keeps, stageForeground_keeps, and_self]

theorem execCalForeground_keeps (p : Packet) (s : State) :
    ∀ t, execCalForeground p s = .next t → t.pending = s.pending ∧ t.mem.bytes = s.mem.bytes := by
  intro t h; simp only [execCalForeground, Host.Outcome.next.injEq] at h; subst h
  exact takeCommand_keeps rulesCalForeground_keeps p s

theorem rulesCalReadBasin_keeps (p : Packet) (s : State) : (rulesCalReadBasin.run p s).keeps s := by
  simp only [rulesCalReadBasin, Result.keeps, and_self]

theorem execCalReadBasin_keeps (p : Packet) (s : State) :
    ∀ t, execCalReadBasin p s = .next t → t.pending = s.pending ∧ t.mem.bytes = s.mem.bytes := by
  intro t h; simp only [execCalReadBasin, Host.Outcome.next.injEq] at h; subst h
  exact takeCommand_keeps rulesCalReadBasin_keeps p s

theorem rulesCalReadTrims_keeps (p : Packet) (s : State) : (rulesCalReadTrims.run p s).keeps s := by
  simp only [rulesCalReadTrims, Result.keeps, and_self]

theorem execCalReadTrims_keeps (p : Packet) (s : State) :
    ∀ t, execCalReadTrims p s = .next t → t.pending = s.pending ∧ t.mem.bytes = s.mem.bytes := by
  intro t h; simp only [execCalReadTrims, Host.Outcome.next.injEq] at h; subst h
  exact takeCommand_keeps rulesCalReadTrims_keeps p s

theorem rulesCalWriteTrim_keeps (p : Packet) (s : State) : (rulesCalWriteTrim.run p s).keeps s := by
  simp only [rulesCalWriteTrim]
  split <;> simp only [Result.keeps, stage_keeps, and_self]

theorem execCalWriteTrim_keeps (p : Packet) (s : State) :
    ∀ t, execCalWriteTrim p s = .next t → t.pending = s.pending ∧ t.mem.bytes = s.mem.bytes := by
  intro t h; simp only [execCalWriteTrim, Host.Outcome.next.injEq] at h; subst h
  exact takeCommand_keeps rulesCalWriteTrim_keeps p s

theorem rulesCalSetRefcheck_keeps (p : Packet) (s : State) : (rulesCalSetRefcheck.run p s).keeps s := by
  simp only [rulesCalSetRefcheck, Result.keeps, stage_keeps, and_self]

theorem execCalSetRefcheck_keeps (p : Packet) (s : State) :
    ∀ t, execCalSetRefcheck p s = .next t → t.pending = s.pending ∧ t.mem.bytes = s.mem.bytes := by
  intro t h; simp only [execCalSetRefcheck, Host.Outcome.next.injEq] at h; subst h
  exact takeCommand_keeps rulesCalSetRefcheck_keeps p s

end Sys2Proof.Machine
end

