-- ==== Sys2Proof/Laws/KeepMemory.lean ====
section
/-! SUPPORT. What the capture memory, capture and the memory path leave as they are: the queue of commands and the bytes of the capture memory. A definition that
writes memory bytes has two lemmas instead: its queue is unchanged, and the memory keeps its canonical form. -/

namespace Sys2Proof.Machine
open Sys2Proof
set_option linter.unusedSimpArgs false
set_option linter.unusedVariables false

theorem setFlip_keeps (w : Nat) (m : BitVec 72) (s : State) :
    (setFlip w m s).pending = s.pending ∧ (setFlip w m s).mem.bytes = s.mem.bytes := by
  simp only [setFlip, and_self]

theorem applySoft_keeps (soft : SoftErrors) (s : State) :
    (applySoft soft s).pending = s.pending ∧ (applySoft soft s).mem.bytes = s.mem.bytes := by
  unfold applySoft
  repeat' first
    | (constructor <;> with_reducible rfl)
    | with_reducible assumption
    | (simp only [setFlip_keeps, and_self])
    | (with_reducible refine foldl_keeps_of ?_ ?_; intro _ _)
    | split

theorem countCorrected_keeps (w : Nat) (s : State) :
    (countCorrected w s).pending = s.pending ∧ (countCorrected w s).mem.bytes = s.mem.bytes := by
  simp only [countCorrected]
  split <;> simp only [countLedger_keeps, info_keeps, setFlip_keeps, and_self]

theorem countUncorrectable_keeps (kind : Nat) (requester : Fin 6) (fn : BitVec 4) (w : Nat) (s : State) :
    (countUncorrectable kind requester fn w s).pending = s.pending
      ∧ (countUncorrectable kind requester fn w s).mem.bytes = s.mem.bytes := by
  simp only [countUncorrectable, countLedger_keeps, crit_keeps, and_self]

theorem readWord_keeps (kind : Nat) (requester : Fin 6) (fn : BitVec 4) (w : Nat) (s : State) :
    (readWord kind requester fn w s).1.pending = s.pending
      ∧ (readWord kind requester fn w s).1.mem.bytes = s.mem.bytes := by
  unfold readWord
  dsimp only
  (repeat' split) <;> simp only [countCorrected_keeps, countUncorrectable_keeps, and_self]

theorem countActivate_keeps (requester : Fin 6) (fn : BitVec 4) (p : Place) (s : State) :
    (countActivate requester fn p s).pending = s.pending ∧ (countActivate requester fn p s).mem.bytes = s.mem.bytes := by
  unfold countActivate
  dsimp only
  (repeat' split) <;> simp only [crit_keeps, and_self]

theorem touchRow_keeps (requester : Fin 6) (fn : BitVec 4) (a : Nat) (s : State) :
    (touchRow requester fn a s).pending = s.pending ∧ (touchRow requester fn a s).mem.bytes = s.mem.bytes := by
  simp only [touchRow]
  split <;> simp only [countActivate_keeps, and_self]

theorem performRead_keeps (requester : Fin 6) (fn : BitVec 4) (a len : Nat) (s : State) :
    (performRead requester fn a len s).1.pending = s.pending
      ∧ (performRead requester fn a len s).1.mem.bytes = s.mem.bytes := by
  unfold performRead
  repeat' first
    | (constructor <;> with_reducible rfl)
    | with_reducible assumption
    | (simp only [readWord_keeps, touchRow_keeps, and_self]; done)
    | (with_reducible refine foldl_keeps_of ?_ ?_; intro _ _)
    | (with_reducible refine foldl_fst_keeps_of ?_ ?_; intro _ _)

theorem writeWordAt_pending (requester : Fin 6) (fn : BitVec 4) (a : Nat) (data : List Byte) (w : Nat) (s : State) :
    (writeWordAt requester fn a data w s).1.pending = s.pending := by
  unfold writeWordAt
  repeat' first
    | (with_reducible rfl)
    | with_reducible assumption
    | (simp only [readWord_keeps, setFlip_keeps, and_self]; done)
    | (rename_i h; replace h := congrArg Prod.fst h; simp only at h; subst h)
    | split
    | (simp only [readWord_keeps, setFlip_keeps, and_self])

theorem writeWordAt_wf (requester : Fin 6) (fn : BitVec 4) (a : Nat) (data : List Byte) (w : Nat) (s : State)
    (hw : cellsFrom 0 s.mem.bytes = true) :
    cellsFrom 0 (writeWordAt requester fn a data w s).1.mem.bytes = true := by
  have hr := readWord_keeps 2 requester fn w s
  unfold writeWordAt
  dsimp only
  split
  · dsimp only; rw [(setFlip_keeps _ _ _).2]; exact cellsFrom_putBytes _ _ hw
  · split
    · rename_i h; rw [h] at hr; dsimp only at hr ⊢; rw [(setFlip_keeps _ _ _).2]
      exact cellsFrom_putBytes _ _ (cellsFrom_putBytes _ _ (by rw [hr.2]; exact hw))
    · rename_i h; rw [h] at hr; dsimp only at hr ⊢; rw [hr.2]; exact hw

theorem performWrite_pending (requester : Fin 6) (fn : BitVec 4) (a : Nat) (data : List Byte) (s : State) :
    (performWrite requester fn a data s).1.pending = s.pending := by
  unfold performWrite
  repeat' first
    | (with_reducible rfl)
    | with_reducible assumption
    | (simp only [touchRow_keeps, writeWordAt_pending, and_self]; done)
    | (with_reducible refine foldl_pending_of ?_ ?_; intro _ _)
    | (with_reducible refine foldl_fst_pending_of ?_ ?_; intro _ _)

theorem performWrite_wf (requester : Fin 6) (fn : BitVec 4) (a : Nat) (data : List Byte) (s : State) (hw : cellsFrom 0 s.mem.bytes = true) :
    cellsFrom 0 (performWrite requester fn a data s).1.mem.bytes = true := by
  unfold performWrite
  repeat' first
    | with_reducible assumption
    | with_reducible assumption
    | (simp only [touchRow_keeps, writeWordAt_pending, and_self]; done)
    | (with_reducible apply writeWordAt_wf)
    | (with_reducible refine foldl_wf_of ?_ ?_; intro _ _ _)
    | (with_reducible refine foldl_fst_wf_of ?_ ?_; intro _ _ _)
    | split
    | (simp only [touchRow_keeps, writeWordAt_pending, and_self])

theorem acceptRequest_keeps (r : MemReq) (s : State) :
    (acceptRequest r s).pending = s.pending ∧ (acceptRequest r s).mem.bytes = s.mem.bytes := by
  simp only [acceptRequest, and_self]

theorem spendDram_keeps (f n : Nat) (s : State) :
    (spendDram f n s).pending = s.pending ∧ (spendDram f n s).mem.bytes = s.mem.bytes := by
  simp only [spendDram]
  split <;> simp only [and_self]

theorem chargeRequest_keeps (r : MemReq) (s : State) :
    (chargeRequest r s).pending = s.pending ∧ (chargeRequest r s).mem.bytes = s.mem.bytes := by
  simp only [chargeRequest, spendDram_keeps, and_self]

theorem refreshRank_keeps (ch rank perBank : Nat) (s : State) :
    (refreshRank ch rank perBank s).pending = s.pending ∧ (refreshRank ch rank perBank s).mem.bytes = s.mem.bytes := by
  simp only [refreshRank]
  split <;> simp only [info_keeps, and_self]

theorem execMr4Poll_keeps (ch : Fin 2) (code : Fin 8) (s : State) :
    ∀ t, execMr4Poll ch code s = .next t → t.pending = s.pending ∧ t.mem.bytes = s.mem.bytes := by
  intro t h; simp only [execMr4Poll, Host.Outcome.next.injEq] at h; subst h
  (repeat' split) <;> simp only [crit_keeps, and_self]

theorem execZqCalibration_keeps (_ch : Fin 2) (s : State) :
    ∀ t, execZqCalibration _ch s = .next t → t.pending = s.pending ∧ t.mem.bytes = s.mem.bytes := by
  intro t h; simp only [execZqCalibration, Host.Outcome.next.injEq] at h; subst h
  simp only [and_self]

theorem execDqsOscillatorRead_keeps (ch : Fin 2) (count : Nat) (s : State) :
    ∀ t, execDqsOscillatorRead ch count s = .next t → t.pending = s.pending ∧ t.mem.bytes = s.mem.bytes := by
  intro t h; simp only [execDqsOscillatorRead, Host.Outcome.next.injEq] at h; subst h
  split <;> simp only [and_self]

theorem scrubGroup_keeps (g : Nat) (s : State) :
    (scrubGroup g s).pending = s.pending ∧ (scrubGroup g s).mem.bytes = s.mem.bytes := by
  unfold scrubGroup
  repeat' first
    | (constructor <;> with_reducible rfl)
    | with_reducible assumption
    | (simp only [readWord_keeps, and_self]; done)
    | (with_reducible refine foldl_keeps_of ?_ ?_; intro _ _)
    | (rename_i h; replace h := congrArg Prod.fst h; simp only at h; subst h)
    | split
    | (simp only [readWord_keeps, and_self])

theorem scrubAdvance_keeps (s : State) :
    (scrubAdvance s).pending = s.pending ∧ (scrubAdvance s).mem.bytes = s.mem.bytes := by
  simp only [scrubAdvance]
  split <;> simp only [info_keeps, and_self]

theorem execScrubRead_keeps (soft : SoftErrors) (s : State) :
    ∀ t, execScrubRead soft s = .next t → t.pending = s.pending ∧ t.mem.bytes = s.mem.bytes := by
  intro t h; simp only [execScrubRead, Host.Outcome.next.injEq] at h; subst h
  (repeat' split) <;> simp only [applySoft_keeps, scrubAdvance_keeps, scrubGroup_keeps, touchRow_keeps, and_self]

theorem failTraining_keeps (step ch rank : Nat) (s : State) :
    (failTraining step ch rank s).pending = s.pending ∧ (failTraining step ch rank s).mem.bytes = s.mem.bytes := by
  simp only [failTraining, crit_keeps, and_self]

theorem execMemTrainFail_keeps (step : Fin 7) (ch rank : Fin 2) (s : State) :
    ∀ t, execMemTrainFail step ch rank s = .next t → t.pending = s.pending ∧ t.mem.bytes = s.mem.bytes := by
  intro t h; simp only [execMemTrainFail, Host.Outcome.next.injEq] at h; subst h
  split <;> simp only [failTraining_keeps, and_self]

theorem execMemInitComplete_pending (rank2 : Bool) (density : Fin 4) (s : State) :
    ∀ t, execMemInitComplete rank2 density s = .next t → t.pending = s.pending := by
  intro t h; simp only [execMemInitComplete, Host.Outcome.next.injEq] at h; subst h
  (repeat' split) <;> simp only [failTraining_keeps, info_keeps]

theorem execMemInitComplete_wf (rank2 : Bool) (density : Fin 4) (s : State) (hw : cellsFrom 0 s.mem.bytes = true) :
    ∀ t, execMemInitComplete rank2 density s = .next t → cellsFrom 0 t.mem.bytes = true := by
  intro t h; simp only [execMemInitComplete, Host.Outcome.next.injEq] at h; subst h
  repeat' first
    | with_reducible assumption
    | (simp only [failTraining_keeps, info_keeps]; first | with_reducible assumption | rfl)
    | split

theorem memoryFrame_keeps (f : Nat) (s : State) :
    (memoryFrame f s).pending = s.pending ∧ (memoryFrame f s).mem.bytes = s.mem.bytes := by
  simp only [memoryFrame]
  split <;> simp only [and_self]

theorem rulesMemInit_keeps (p : Packet) (s : State) : (rulesMemInit.run p s).keeps s := by
  simp only [rulesMemInit]
  split <;> simp only [Result.keeps, and_self]

theorem execMemInit_keeps (p : Packet) (s : State) :
    ∀ t, execMemInit p s = .next t → t.pending = s.pending ∧ t.mem.bytes = s.mem.bytes := by
  intro t h; simp only [execMemInit, Host.Outcome.next.injEq] at h; subst h
  exact takeCommand_keeps rulesMemInit_keeps p s

theorem rulesMemSetPolicy_keeps (p : Packet) (s : State) : (rulesMemSetPolicy.run p s).keeps s := by
  simp only [rulesMemSetPolicy, Result.keeps, stage_keeps, and_self]

theorem execMemSetPolicy_keeps (p : Packet) (s : State) :
    ∀ t, execMemSetPolicy p s = .next t → t.pending = s.pending ∧ t.mem.bytes = s.mem.bytes := by
  intro t h; simp only [execMemSetPolicy, Host.Outcome.next.injEq] at h; subst h
  exact takeCommand_keeps rulesMemSetPolicy_keeps p s

theorem rulesMemReadStatus_keeps (p : Packet) (s : State) : (rulesMemReadStatus.run p s).keeps s := by
  simp only [rulesMemReadStatus, Result.keeps, and_self]

theorem execMemReadStatus_keeps (p : Packet) (s : State) :
    ∀ t, execMemReadStatus p s = .next t → t.pending = s.pending ∧ t.mem.bytes = s.mem.bytes := by
  intro t h; simp only [execMemReadStatus, Host.Outcome.next.injEq] at h; subst h
  exact takeCommand_keeps rulesMemReadStatus_keeps p s

theorem rulesMemReadErrlog_keeps (p : Packet) (s : State) : (rulesMemReadErrlog.run p s).keeps s := by
  simp only [rulesMemReadErrlog]
  split <;> simp only [Result.keeps, and_self]

theorem execMemReadErrlog_keeps (p : Packet) (s : State) :
    ∀ t, execMemReadErrlog p s = .next t → t.pending = s.pending ∧ t.mem.bytes = s.mem.bytes := by
  intro t h; simp only [execMemReadErrlog, Host.Outcome.next.injEq] at h; subst h
  exact takeCommand_keeps rulesMemReadErrlog_keeps p s

theorem rulesMemInjectError_keeps (p : Packet) (s : State) : (rulesMemInjectError.run p s).keeps s := by
  simp only [rulesMemInjectError]
  split <;> simp only [Result.keeps, acceptRequest_keeps, and_self]

theorem execMemInjectError_keeps (p : Packet) (s : State) :
    ∀ t, execMemInjectError p s = .next t → t.pending = s.pending ∧ t.mem.bytes = s.mem.bytes := by
  intro t h; simp only [execMemInjectError, Host.Outcome.next.injEq] at h; subst h
  exact takeCommand_keeps rulesMemInjectError_keeps p s

theorem modSet_keeps (i : Fin 16) (f : CapSet → CapSet) (s : State) :
    (modSet i f s).pending = s.pending ∧ (modSet i f s).mem.bytes = s.mem.bytes := by
  simp only [modSet, and_self]

theorem noteMoment_keeps (s : State) : (noteMoment s).pending = s.pending ∧ (noteMoment s).mem.bytes = s.mem.bytes := by
  unfold noteMoment
  dsimp only
  (repeat' split) <;> simp only [and_self]

theorem closeGap_keeps (i : Fin 16) (g : CapGap) (s : State) :
    (closeGap i g s).pending = s.pending ∧ (closeGap i g s).mem.bytes = s.mem.bytes := by
  simp only [closeGap, modSet_keeps, raiseEvent_keeps, and_self]

theorem closeGaps_keeps (sel : CapGap → Bool) (i : Fin 16) (s : State) :
    (closeGaps sel i s).pending = s.pending ∧ (closeGaps sel i s).mem.bytes = s.mem.bytes := by
  unfold closeGaps
  exact foldl_keeps_of (fun _ _ => by simp only [closeGap_keeps, and_self]) ⟨rfl, rfl⟩

theorem noteGap_keeps (i : Fin 16) (cause sect : BitVec 4) (a b : Nat) (s : State) :
    (noteGap i cause sect a b s).pending = s.pending ∧ (noteGap i cause sect a b s).mem.bytes = s.mem.bytes := by
  simp only [noteGap, closeGaps_keeps, modSet_keeps, and_self]

theorem endGaps_keeps (i : Fin 16) (sect a : Nat) (s : State) :
    (endGaps i sect a s).pending = s.pending ∧ (endGaps i sect a s).mem.bytes = s.mem.bytes := by
  simp only [endGaps, closeGaps_keeps, and_self]

theorem putRow_keeps (i : Fin 16) (sect : Nat) (a b offset : Nat) (ws : List Word) (s : State) :
    (putRow i sect a b offset ws s).pending = s.pending ∧ (putRow i sect a b offset ws s).mem.bytes = s.mem.bytes := by
  simp only [putRow]
  split <;> simp only [endGaps_keeps, noteGap_keeps, and_self]

theorem writeSlot_pending (i : Fin 16) (offset : Nat) (ws : List Word) (s : State) :
    (writeSlot i offset ws s).pending = s.pending := by
  simp only [writeSlot]
  split <;> simp only [performWrite_pending]

theorem writeSlot_wf (i : Fin 16) (offset : Nat) (ws : List Word) (s : State) (hw : cellsFrom 0 s.mem.bytes = true) :
    cellsFrom 0 (writeSlot i offset ws s).mem.bytes = true := by
  unfold writeSlot
  repeat' first
    | with_reducible assumption
    | with_reducible assumption
    | (simp only [performWrite_pending, and_self]; done)
    | (with_reducible apply performWrite_wf)
    | split
    | (simp only [performWrite_pending, and_self])

theorem checkArmed_keeps (i : Fin 16) (s : State) :
    (checkArmed i s).pending = s.pending ∧ (checkArmed i s).mem.bytes = s.mem.bytes := by
  simp only [checkArmed]
  split <;> simp only [modSet_keeps, and_self]

theorem openSlot_pending (i : Fin 16) (a : Nat) (s : State) : (openSlot i a s).pending = s.pending := by
  simp only [openSlot, checkArmed_keeps, modSet_keeps, writeSlot_pending]

theorem openSlot_wf (i : Fin 16) (a : Nat) (s : State) (hw : cellsFrom 0 s.mem.bytes = true) :
    cellsFrom 0 (openSlot i a s).mem.bytes = true := by
  unfold openSlot
  repeat' first
    | with_reducible assumption
    | with_reducible assumption
    | (simp only [checkArmed_keeps, modSet_keeps, writeSlot_pending, and_self]; done)
    | (with_reducible apply writeSlot_wf)
    | split
    | (simp only [checkArmed_keeps, modSet_keeps, writeSlot_pending, and_self])

theorem nextSlot_pending (i : Fin 16) (a : Nat) (s : State) : (nextSlot i a s).pending = s.pending := by
  unfold nextSlot
  dsimp only
  (repeat' split) <;> simp only [modSet_keeps, raiseEvent_keeps, openSlot_pending]

theorem nextSlot_wf (i : Fin 16) (a : Nat) (s : State) (hw : cellsFrom 0 s.mem.bytes = true) :
    cellsFrom 0 (nextSlot i a s).mem.bytes = true := by
  unfold nextSlot
  repeat' first
    | with_reducible assumption
    | with_reducible assumption
    | (simp only [modSet_keeps, raiseEvent_keeps, openSlot_pending, and_self]; done)
    | (with_reducible apply openSlot_wf)
    | split
    | (simp only [modSet_keeps, raiseEvent_keeps, openSlot_pending, and_self])

theorem checkSpan_keeps (i : Fin 16) (s : State) :
    (checkSpan i s).pending = s.pending ∧ (checkSpan i s).mem.bytes = s.mem.bytes := by
  simp only [checkSpan]
  split <;> simp only [modSet_keeps, and_self]

theorem pulsePins_keeps (i : Fin 16) (decided : Nat) (s : State) :
    (pulsePins i decided s).pending = s.pending ∧ (pulsePins i decided s).mem.bytes = s.mem.bytes := by
  simp only [pulsePins, and_self]

theorem shareOut_keeps (i : Fin 16) (bit : Nat) (s : State) :
    (shareOut i bit s).pending = s.pending ∧ (shareOut i bit s).mem.bytes = s.mem.bytes := by
  simp only [shareOut]
  split <;> simp only [send_keeps, and_self]

theorem acceptTrigger_keeps (i : Fin 16) (bit k tick decided : Nat) (s : State) :
    (acceptTrigger i bit k tick decided s).pending = s.pending
      ∧ (acceptTrigger i bit k tick decided s).mem.bytes = s.mem.bytes := by
  simp only [acceptTrigger, checkSpan_keeps, modSet_keeps, pulsePins_keeps, raiseEvent_keeps, shareOut_keeps, and_self]

theorem decideTrigger_keeps (i : Fin 16) (bit tick decided : Nat) (s : State) :
    (decideTrigger i bit tick decided s).pending = s.pending
      ∧ (decideTrigger i bit tick decided s).mem.bytes = s.mem.bytes := by
  unfold decideTrigger
  dsimp only
  (repeat' split) <;> simp only [acceptTrigger_keeps, modSet_keeps, shareOut_keeps, and_self]

theorem evaluateSet_keeps (t : Nat) (i : Fin 16) (s : State) :
    (evaluateSet t i s).pending = s.pending ∧ (evaluateSet t i s).mem.bytes = s.mem.bytes := by
  unfold evaluateSet
  dsimp only
  (repeat' split) <;> simp only [acceptTrigger_keeps, decideTrigger_keeps, modSet_keeps, and_self]

theorem evaluateSets_keeps (t : Nat) (s : State) :
    (evaluateSets t s).pending = s.pending ∧ (evaluateSets t s).mem.bytes = s.mem.bytes := by
  unfold evaluateSets
  exact foldl_keeps_of (fun _ _ => by simp only [evaluateSet_keeps, and_self]) ⟨rfl, rfl⟩

theorem settlePatterns_keeps (t : Nat) (s : State) :
    (settlePatterns t s).pending = s.pending ∧ (settlePatterns t s).mem.bytes = s.mem.bytes := by
  unfold settlePatterns
  (repeat' split) <;> simp only [evaluateSets_keeps, and_self]

theorem advanceTo_keeps (t : Nat) (s : State) :
    (advanceTo t s).pending = s.pending ∧ (advanceTo t s).mem.bytes = s.mem.bytes := by
  simp only [advanceTo, settlePatterns_keeps, and_self]

theorem reach_keeps (t : Nat) (s : State) : (reach t s).pending = s.pending ∧ (reach t s).mem.bytes = s.mem.bytes := by
  simp only [reach]
  split <;> simp only [advanceTo_keeps, and_self]

theorem triggerSets_keeps (enabled : CapSet → Bool) (bit tick : Nat) (s : State) :
    (triggerSets enabled bit tick s).pending = s.pending ∧ (triggerSets enabled bit tick s).mem.bytes = s.mem.bytes := by
  unfold triggerSets
  repeat' first
    | (constructor <;> with_reducible rfl)
    | with_reducible assumption
    | (simp only [decideTrigger_keeps, settlePatterns_keeps, and_self]; done)
    | (with_reducible refine foldl_keeps_of ?_ ?_; intro _ _)
    | split

theorem timerTrigger_keeps (code tick : Nat) (s : State) :
    (timerTrigger code tick s).pending = s.pending ∧ (timerTrigger code tick s).mem.bytes = s.mem.bytes := by
  simp only [timerTrigger, triggerSets_keeps, and_self]

theorem endBlock_keeps (i : Fin 16) (c : CapChan) (s : State) :
    (endBlock i c s).pending = s.pending ∧ (endBlock i c s).mem.bytes = s.mem.bytes := by
  unfold endBlock
  repeat' first
    | (constructor <;> with_reducible rfl)
    | with_reducible assumption
    | (simp only [noteGap_keeps, putRow_keeps, and_self]; done)
    | (with_reducible refine foldl_keeps_of ?_ ?_; intro _ _)
    | split
    | (simp only [noteGap_keeps, putRow_keeps, and_self])

theorem setCapChan_keeps (i : Fin 16) (c : CapChan) (s : State) :
    (setCapChan i c s).pending = s.pending ∧ (setCapChan i c s).mem.bytes = s.mem.bytes := by
  simp only [setCapChan, modSet_keeps, and_self]

theorem flushBlock_keeps (i : Fin 16) (c : CapChan) (s : State) :
    (flushBlock i c s).pending = s.pending ∧ (flushBlock i c s).mem.bytes = s.mem.bytes := by
  simp only [flushBlock]
  split <;> simp only [endBlock_keeps, setCapChan_keeps, and_self]

theorem settleSet_pending (i : Fin 16) (cause : Nat) (after : SetState) (tick : Nat) (s : State) :
    (settleSet i cause after tick s).pending = s.pending := by
  unfold settleSet
  (repeat' split) <;> simp only [modSet_keeps, raiseEvent_keeps, nextSlot_pending]

theorem settleSet_wf (i : Fin 16) (cause : Nat) (after : SetState) (tick : Nat) (s : State) (hw : cellsFrom 0 s.mem.bytes = true) :
    cellsFrom 0 (settleSet i cause after tick s).mem.bytes = true := by
  unfold settleSet
  repeat' first
    | with_reducible assumption
    | with_reducible assumption
    | (simp only [modSet_keeps, raiseEvent_keeps, nextSlot_pending, and_self]; done)
    | (with_reducible apply nextSlot_wf)
    | split
    | (simp only [modSet_keeps, raiseEvent_keeps, nextSlot_pending, and_self])

theorem truncateSet_pending (i : Fin 16) (cause : Nat) (after : SetState) (tick : Nat) (s : State) :
    (truncateSet i cause after tick s).pending = s.pending := by
  unfold truncateSet
  repeat' first
    | (with_reducible rfl)
    | with_reducible assumption
    | (simp only [flushBlock_keeps, modSet_keeps, raiseEvent_keeps, settleSet_pending, and_self]; done)
    | (with_reducible refine foldl_pending_of ?_ ?_; intro _ _)
    | split
    | (simp only [flushBlock_keeps, modSet_keeps, raiseEvent_keeps, settleSet_pending, and_self])

theorem truncateSet_wf (i : Fin 16) (cause : Nat) (after : SetState) (tick : Nat) (s : State) (hw : cellsFrom 0 s.mem.bytes = true) :
    cellsFrom 0 (truncateSet i cause after tick s).mem.bytes = true := by
  unfold truncateSet
  repeat' first
    | with_reducible assumption
    | with_reducible assumption
    | (simp only [flushBlock_keeps, modSet_keeps, raiseEvent_keeps, settleSet_pending, and_self]; done)
    | (with_reducible apply settleSet_wf)
    | (with_reducible refine foldl_wf_of ?_ ?_; intro _ _ _)
    | split
    | (simp only [flushBlock_keeps, modSet_keeps, raiseEvent_keeps, settleSet_pending, and_self])

theorem captureRegime_pending (c b : Nat) (lc : Bool) (t : Nat) (s : State) :
    (captureRegime c b lc t s).pending = s.pending := by
  unfold captureRegime
  repeat' first
    | (with_reducible rfl)
    | with_reducible assumption
    | (simp only [truncateSet_pending, and_self]; done)
    | (with_reducible refine foldl_pending_of ?_ ?_; intro _ _)
    | split
    | (simp only [truncateSet_pending, and_self])

theorem captureRegime_wf (c b : Nat) (lc : Bool) (t : Nat) (s : State) (hw : cellsFrom 0 s.mem.bytes = true) :
    cellsFrom 0 (captureRegime c b lc t s).mem.bytes = true := by
  unfold captureRegime
  repeat' first
    | with_reducible assumption
    | with_reducible assumption
    | (simp only [truncateSet_pending, and_self]; done)
    | (with_reducible apply truncateSet_wf)
    | (with_reducible refine foldl_wf_of ?_ ?_; intro _ _ _)
    | split
    | (simp only [truncateSet_pending, and_self])

theorem captureGeneration_pending (f : Nat) (s : State) : (captureGeneration f s).pending = s.pending := by
  unfold captureGeneration
  repeat' first
    | (with_reducible rfl)
    | with_reducible assumption
    | (simp only [truncateSet_pending, and_self])
    | (with_reducible refine foldl_pending_of ?_ ?_; intro _ _)
    | split

theorem captureGeneration_wf (f : Nat) (s : State) (hw : cellsFrom 0 s.mem.bytes = true) :
    cellsFrom 0 (captureGeneration f s).mem.bytes = true := by
  unfold captureGeneration
  repeat' first
    | with_reducible assumption
    | with_reducible assumption
    | (with_reducible apply truncateSet_wf)
    | (with_reducible refine foldl_wf_of ?_ ?_; intro _ _ _)
    | split

theorem clearSets_keeps (fn : BitVec 4) (s : State) :
    (clearSets fn s).pending = s.pending ∧ (clearSets fn s).mem.bytes = s.mem.bytes := by
  unfold clearSets
  repeat' first
    | (constructor <;> with_reducible rfl)
    | with_reducible assumption
    | (simp only [raiseEvent_keeps, and_self]; done)
    | (with_reducible refine foldl_keeps_of ?_ ?_; intro _ _)
    | split
    | (simp only [raiseEvent_keeps, and_self])

theorem sampleRows_keeps (i : Fin 16) (c : CapChan) (f : Formed) (shedding : Bool) (s : State) :
    (sampleRows i c f shedding s).pending = s.pending ∧ (sampleRows i c f shedding s).mem.bytes = s.mem.bytes := by
  unfold sampleRows
  dsimp only
  (repeat' split) <;> simp only [noteGap_keeps, putRow_keeps, and_self]

theorem setWindow_keeps (f : Formed) (i : Fin 16) (s : State) :
    (setWindow f i s).pending = s.pending ∧ (setWindow f i s).mem.bytes = s.mem.bytes := by
  unfold setWindow
  dsimp only
  (repeat' split) <;> simp only [checkArmed_keeps, checkSpan_keeps, endBlock_keeps, flushBlock_keeps, modSet_keeps, sampleRows_keeps, setCapChan_keeps, and_self]

theorem captureWindow_keeps (f : Formed) (s : State) :
    (captureWindow f s).pending = s.pending ∧ (captureWindow f s).mem.bytes = s.mem.bytes := by
  unfold captureWindow
  repeat' first
    | (constructor <;> with_reducible rfl)
    | with_reducible assumption
    | (simp only [setWindow_keeps, and_self]; done)
    | (with_reducible refine foldl_keeps_of ?_ ?_; intro _ _)

theorem closeRecord_pending (i : Fin 16) (s : State) : (closeRecord i s).pending = s.pending := by
  unfold closeRecord
  dsimp only
  (repeat' split) <;> simp only [closeGaps_keeps, modSet_keeps, raiseEvent_keeps, setCause_keeps, nextSlot_pending, settleSet_pending, writeSlot_pending]

theorem closeRecord_wf (i : Fin 16) (s : State) (hw : cellsFrom 0 s.mem.bytes = true) :
    cellsFrom 0 (closeRecord i s).mem.bytes = true := by
  unfold closeRecord
  repeat' first
    | with_reducible assumption
    | with_reducible assumption
    | (simp only [closeGaps_keeps, modSet_keeps, raiseEvent_keeps, setCause_keeps, nextSlot_pending, settleSet_pending, writeSlot_pending, and_self]; done)
    | (with_reducible apply nextSlot_wf)
    | (with_reducible apply settleSet_wf)
    | (with_reducible apply writeSlot_wf)
    | split
    | (simp only [closeGaps_keeps, modSet_keeps, raiseEvent_keeps, setCause_keeps, nextSlot_pending, settleSet_pending, writeSlot_pending, and_self])

theorem execTriggerPinEdge_keeps (n : Fin 4) (rising : Bool) (tick persist : Nat) (s : State) :
    ∀ t, execTriggerPinEdge n rising tick persist s = .next t → t.pending = s.pending ∧ t.mem.bytes = s.mem.bytes := by
  intro t h; simp only [execTriggerPinEdge, Host.Outcome.next.injEq] at h; subst h
  split <;> simp only [advanceTo_keeps, triggerSets_keeps, and_self]

theorem execCommandTriggerDue_keeps (set : Fin 16) (s : State) :
    ∀ t, execCommandTriggerDue set s = .next t → t.pending = s.pending ∧ t.mem.bytes = s.mem.bytes := by
  intro t h; simp only [execCommandTriggerDue, Host.Outcome.next.injEq] at h; subst h
  (repeat' split) <;> simp only [decideTrigger_keeps, modSet_keeps, settlePatterns_keeps, and_self]

theorem execTrigShare_keeps (group : Nat) (tick : Nat) (origin : HubId) (s : State) :
    ∀ t, execTrigShare group tick origin s = .next t → t.pending = s.pending ∧ t.mem.bytes = s.mem.bytes := by
  intro t h; simp only [execTrigShare, Host.Outcome.next.injEq] at h; subst h
  split <;> simp only [triggerSets_keeps, and_self]

theorem execOutputPulseEnd_keeps (n : Fin 4) (s : State) :
    ∀ t, execOutputPulseEnd n s = .next t → t.pending = s.pending ∧ t.mem.bytes = s.mem.bytes := by
  intro t h; simp only [execOutputPulseEnd, Host.Outcome.next.injEq] at h; subst h
  simp only [atDue]
  (repeat' split) <;> simp only [reach_keeps, and_self]

theorem applyCapArm_pending (i : Fin 16) (arm : Bool) (f : Nat) (s : State) :
    (applyCapArm i arm f s).pending = s.pending := by
  unfold applyCapArm
  dsimp only
  (repeat' split) <;> simp only [modSet_keeps, nextSlot_pending, truncateSet_pending]

theorem applyCapArm_wf (i : Fin 16) (arm : Bool) (f : Nat) (s : State) (hw : cellsFrom 0 s.mem.bytes = true) :
    cellsFrom 0 (applyCapArm i arm f s).mem.bytes = true := by
  unfold applyCapArm
  repeat' first
    | with_reducible assumption
    | with_reducible assumption
    | (simp only [modSet_keeps, nextSlot_pending, truncateSet_pending, and_self]; done)
    | (with_reducible apply nextSlot_wf)
    | (with_reducible apply truncateSet_wf)
    | split
    | (simp only [modSet_keeps, nextSlot_pending, truncateSet_pending, and_self])

theorem applyCapDelete_pending (i : Fin 16) (f : Nat) (s : State) : (applyCapDelete i f s).pending = s.pending := by
  simp only [applyCapDelete, truncateSet_pending]

theorem applyCapDelete_wf (i : Fin 16) (f : Nat) (s : State) (hw : cellsFrom 0 s.mem.bytes = true) :
    cellsFrom 0 (applyCapDelete i f s).mem.bytes = true := by
  unfold applyCapDelete; apply truncateSet_wf; exact hw

theorem applyCapTrigger_keeps (i : Fin 16) (ws : Vector Word 6) (s : State) :
    (applyCapTrigger i ws s).pending = s.pending ∧ (applyCapTrigger i ws s).mem.bytes = s.mem.bytes := by
  simp only [applyCapTrigger, modSet_keeps, and_self]

theorem applyCapRelease_pending (i : Fin 16) (f : Nat) (s : State) : (applyCapRelease i f s).pending = s.pending := by
  simp only [applyCapRelease]
  split <;> simp only [openSlot_pending]

theorem applyCapRelease_wf (i : Fin 16) (f : Nat) (s : State) (hw : cellsFrom 0 s.mem.bytes = true) :
    cellsFrom 0 (applyCapRelease i f s).mem.bytes = true := by
  unfold applyCapRelease
  repeat' first
    | with_reducible assumption
    | with_reducible assumption
    | (simp only [openSlot_pending, and_self]; done)
    | (with_reducible apply openSlot_wf)
    | split
    | (simp only [openSlot_pending, and_self])

theorem applyCapPins_keeps (ws : Vector Word 4) (s : State) :
    (applyCapPins ws s).pending = s.pending ∧ (applyCapPins ws s).mem.bytes = s.mem.bytes := by
  simp only [applyCapPins, and_self]

theorem claimSet_keeps (i : Fin 16) (p : Packet) (s : State) :
    (claimSet i p s).pending = s.pending ∧ (claimSet i p s).mem.bytes = s.mem.bytes := by
  simp only [claimSet, modSet_keeps, and_self]

theorem rulesCapSetConfig_keeps (p : Packet) (s : State) : (rulesCapSetConfig.run p s).keeps s := by
  simp only [rulesCapSetConfig]
  (repeat' split) <;> simp only [Result.keeps, claimSet_keeps, modSet_keeps, and_self]

theorem execCapSetConfig_keeps (p : Packet) (s : State) :
    ∀ t, execCapSetConfig p s = .next t → t.pending = s.pending ∧ t.mem.bytes = s.mem.bytes := by
  intro t h; simp only [execCapSetConfig, Host.Outcome.next.injEq] at h; subst h
  exact takeCommand_keeps rulesCapSetConfig_keeps p s

theorem rulesCapSetTrigger_keeps (p : Packet) (s : State) : (rulesCapSetTrigger.run p s).keeps s := by
  simp only [rulesCapSetTrigger, Result.keeps, claimSet_keeps, stage_keeps, and_self]

theorem execCapSetTrigger_keeps (p : Packet) (s : State) :
    ∀ t, execCapSetTrigger p s = .next t → t.pending = s.pending ∧ t.mem.bytes = s.mem.bytes := by
  intro t h; simp only [execCapSetTrigger, Host.Outcome.next.injEq] at h; subst h
  exact takeCommand_keeps rulesCapSetTrigger_keeps p s

theorem rulesCapArm_keeps (p : Packet) (s : State) : (rulesCapArm.run p s).keeps s := by
  simp only [rulesCapArm]
  split <;> simp only [Result.keeps, stage_keeps, and_self]

theorem execCapArm_keeps (p : Packet) (s : State) :
    ∀ t, execCapArm p s = .next t → t.pending = s.pending ∧ t.mem.bytes = s.mem.bytes := by
  intro t h; simp only [execCapArm, Host.Outcome.next.injEq] at h; subst h
  exact takeCommand_keeps rulesCapArm_keeps p s

theorem commandTriggers_keeps (p : Packet) (s : State) :
    (commandTriggers p s).pending = s.pending ∧ (commandTriggers p s).mem.bytes = s.mem.bytes := by
  unfold commandTriggers
  repeat' first
    | (constructor <;> with_reducible rfl)
    | with_reducible assumption
    | (simp only [decideTrigger_keeps, modSet_keeps, settlePatterns_keeps, and_self]; done)
    | (with_reducible refine foldl_keeps_of ?_ ?_; intro _ _)
    | split

theorem rulesCapTrigger_keeps (p : Packet) (s : State) : (rulesCapTrigger.run p s).keeps s := by
  simp only [rulesCapTrigger, Result.keeps, commandTriggers_keeps, and_self]

theorem execCapTrigger_keeps (p : Packet) (s : State) :
    ∀ t, execCapTrigger p s = .next t → t.pending = s.pending ∧ t.mem.bytes = s.mem.bytes := by
  intro t h; simp only [execCapTrigger, Host.Outcome.next.injEq] at h; subst h
  exact takeCommand_keeps rulesCapTrigger_keeps p s

theorem rulesCapRelease_keeps (p : Packet) (s : State) : (rulesCapRelease.run p s).keeps s := by
  simp only [rulesCapRelease]
  (repeat' split) <;> simp only [Result.keeps, modSet_keeps, stage_keeps, and_self]

theorem execCapRelease_keeps (p : Packet) (s : State) :
    ∀ t, execCapRelease p s = .next t → t.pending = s.pending ∧ t.mem.bytes = s.mem.bytes := by
  intro t h; simp only [execCapRelease, Host.Outcome.next.injEq] at h; subst h
  exact takeCommand_keeps rulesCapRelease_keeps p s

theorem rulesCapDelete_keeps (p : Packet) (s : State) : (rulesCapDelete.run p s).keeps s := by
  simp only [rulesCapDelete, Result.keeps, stage_keeps, and_self]

theorem execCapDelete_keeps (p : Packet) (s : State) :
    ∀ t, execCapDelete p s = .next t → t.pending = s.pending ∧ t.mem.bytes = s.mem.bytes := by
  intro t h; simp only [execCapDelete, Host.Outcome.next.injEq] at h; subst h
  exact takeCommand_keeps rulesCapDelete_keeps p s

theorem rulesCapReadStatus_keeps (p : Packet) (s : State) : (rulesCapReadStatus.run p s).keeps s := by
  simp only [rulesCapReadStatus, Result.keeps, settlePatterns_keeps, and_self]

theorem execCapReadStatus_keeps (p : Packet) (s : State) :
    ∀ t, execCapReadStatus p s = .next t → t.pending = s.pending ∧ t.mem.bytes = s.mem.bytes := by
  intro t h; simp only [execCapReadStatus, Host.Outcome.next.injEq] at h; subst h
  exact takeCommand_keeps rulesCapReadStatus_keeps p s

theorem rulesCapSetPins_keeps (p : Packet) (s : State) : (rulesCapSetPins.run p s).keeps s := by
  simp only [rulesCapSetPins, Result.keeps, stage_keeps, and_self]

theorem execCapSetPins_keeps (p : Packet) (s : State) :
    ∀ t, execCapSetPins p s = .next t → t.pending = s.pending ∧ t.mem.bytes = s.mem.bytes := by
  intro t h; simp only [execCapSetPins, Host.Outcome.next.injEq] at h; subst h
  exact takeCommand_keeps rulesCapSetPins_keeps p s

theorem nextRefresh_keeps (ch rank : Nat) (s : State) :
    (nextRefresh ch rank s).pending = s.pending ∧ (nextRefresh ch rank s).mem.bytes = s.mem.bytes := by
  unfold nextRefresh
  split <;> simp only [and_self]

theorem nextWindow_keeps (s : State) :
    (nextWindow s).pending = s.pending ∧ (nextWindow s).mem.bytes = s.mem.bytes := by
  simp only [nextWindow, and_self]

theorem execRefreshInterval_keeps (ch rank : Fin 2) (perBank : Nat) (s : State) :
    ∀ t, execRefreshInterval ch rank perBank s = .next t → t.pending = s.pending ∧ t.mem.bytes = s.mem.bytes := by
  intro t h; simp only [execRefreshInterval, Host.Outcome.next.injEq] at h; subst h
  simp only [atDue]
  (repeat' split) <;> simp only [refreshRank_keeps, nextRefresh_keeps, reach_keeps, and_self]

theorem execRefreshWindowRestart_keeps (s : State) :
    ∀ t, execRefreshWindowRestart s = .next t → t.pending = s.pending ∧ t.mem.bytes = s.mem.bytes := by
  intro t h; simp only [execRefreshWindowRestart, Host.Outcome.next.injEq] at h; subst h
  simp only [atDue]
  split <;> simp only [nextWindow_keeps, reach_keeps, and_self]

theorem hostMemError_keeps (f : Fn) (code : Nat) (write : Bool) (addr : Nat) (s : State) :
    (hostMemError f code write addr s).pending = s.pending
      ∧ (hostMemError f code write addr s).mem.bytes = s.mem.bytes := by
  simp only [hostMemError, modFn_keeps, raiseEvent_keeps, setCause_keeps, and_self]

theorem hostCompletion_keeps (f : Fn) (status : Completion) (data : List Byte) (s : State) :
    (hostCompletion f status data s).pending = s.pending ∧ (hostCompletion f status data s).mem.bytes = s.mem.bytes := by
  simp only [hostCompletion, and_self]

theorem execCaptureWindowAccess_keeps (fn : Fn) (write : Bool) (offset len : Nat) (data : List Byte) (s : State) :
    ∀ t, execCaptureWindowAccess fn write offset len data s = .next t → t.pending = s.pending
      ∧ t.mem.bytes = s.mem.bytes := by
  intro t h; simp only [execCaptureWindowAccess, Host.Outcome.next.injEq] at h; subst h
  (repeat' split) <;> simp only [acceptRequest_keeps, hostCompletion_keeps, hostMemError_keeps, and_self]

theorem rowAbsent_keeps (set : Fin 16) (sect : Fin 4) (a b : Nat) (s : State) :
    (rowAbsent set sect a b s).pending = s.pending ∧ (rowAbsent set sect a b s).mem.bytes = s.mem.bytes := by
  simp only [rowAbsent]
  split <;> simp only [noteGap_keeps, and_self]

theorem issueRow_keeps (r : CapRow) (s : State) :
    (issueRow r s).pending = s.pending ∧ (issueRow r s).mem.bytes = s.mem.bytes := by
  simp only [issueRow]
  split <;> simp only [acceptRequest_keeps, rowAbsent_keeps, and_self]

theorem execCaptureGroupFlush_keeps (group : Nat) (s : State) :
    ∀ t, execCaptureGroupFlush group s = .next t → t.pending = s.pending ∧ t.mem.bytes = s.mem.bytes := by
  intro t h; simp only [execCaptureGroupFlush, Host.Outcome.next.injEq] at h; subst h
  repeat' first
    | (constructor <;> with_reducible rfl)
    | with_reducible assumption
    | (simp only [issueRow_keeps, and_self])
    | (with_reducible refine foldl_keeps_of ?_ ?_; intro _ _)

theorem dropRequest_keeps (r : MemReq) (s : State) :
    (dropRequest r s).pending = s.pending ∧ (dropRequest r s).mem.bytes = s.mem.bytes := by
  simp only [dropRequest, chargeRequest_keeps, and_self]

theorem injectError_pending (a : Nat) (m : BitVec 72) (s : State) : (injectError a m s).pending = s.pending := by
  unfold injectError
  repeat' first
    | (with_reducible rfl)
    | with_reducible assumption
    | (simp only [readWord_keeps, setFlip_keeps, touchRow_keeps, and_self]; done)
    | (rename_i h; replace h := congrArg Prod.fst h; simp only at h; subst h)
    | split

theorem injectError_wf (a : Nat) (m : BitVec 72) (s : State) (hw : cellsFrom 0 s.mem.bytes = true) :
    cellsFrom 0 (injectError a m s).mem.bytes = true := by
  have hr := readWord_keeps 1 3 0 (a / 8) (touchRow 3 0 (a / 256 * 256) s)
  rw [(touchRow_keeps _ _ _ _).2] at hr
  unfold injectError
  split
  · rename_i h; rw [h] at hr; dsimp only at hr ⊢; rw [(setFlip_keeps _ _ _).2]
    exact cellsFrom_putBytes _ _ (by rw [hr.2]; exact hw)
  · rename_i h; rw [h] at hr; dsimp only at hr ⊢; rw [hr.2]; exact hw

theorem drainWrite_pending (r : MemReq) (s : State) : (drainWrite r s).pending = s.pending := by
  unfold drainWrite
  dsimp only
  (repeat' split) <;> simp only [dropRequest_keeps, hostMemError_keeps, rowAbsent_keeps, injectError_pending, performWrite_pending]

theorem drainWrite_wf (r : MemReq) (s : State) (hw : cellsFrom 0 s.mem.bytes = true) :
    cellsFrom 0 (drainWrite r s).mem.bytes = true := by
  unfold drainWrite
  repeat' first
    | with_reducible assumption
    | with_reducible assumption
    | (simp only [dropRequest_keeps, hostMemError_keeps, rowAbsent_keeps, injectError_pending, performWrite_pending, and_self]; done)
    | (with_reducible apply injectError_wf)
    | (with_reducible apply performWrite_wf)
    | split
    | (simp only [dropRequest_keeps, hostMemError_keeps, rowAbsent_keeps, injectError_pending, performWrite_pending, and_self])

theorem returnRead_keeps (r : MemReq) (s : State) :
    (returnRead r s).pending = s.pending ∧ (returnRead r s).mem.bytes = s.mem.bytes := by
  unfold returnRead
  dsimp only
  (repeat' split) <;> simp only [dropRequest_keeps, hostCompletion_keeps, hostMemError_keeps, performRead_keeps, and_self]

theorem execMemWriteDrain_pending (requester : Fin 6) (soft : SoftErrors) (s : State) :
    ∀ t, execMemWriteDrain requester soft s = .next t → t.pending = s.pending := by
  intro t h; simp only [execMemWriteDrain, Host.Outcome.next.injEq] at h; subst h
  (repeat' split) <;> simp only [applySoft_keeps, drainWrite_pending]

theorem execMemWriteDrain_wf (requester : Fin 6) (soft : SoftErrors) (s : State) (hw : cellsFrom 0 s.mem.bytes = true) :
    ∀ t, execMemWriteDrain requester soft s = .next t → cellsFrom 0 t.mem.bytes = true := by
  intro t h; simp only [execMemWriteDrain, Host.Outcome.next.injEq] at h; subst h
  repeat' first
    | with_reducible assumption
    | with_reducible assumption
    | (simp only [applySoft_keeps, drainWrite_pending, and_self]; done)
    | (with_reducible apply drainWrite_wf)
    | split
    | (simp only [applySoft_keeps, drainWrite_pending, and_self])

theorem execMemReadReturn_keeps (requester : Fin 6) (soft : SoftErrors) (s : State) :
    ∀ t, execMemReadReturn requester soft s = .next t → t.pending = s.pending ∧ t.mem.bytes = s.mem.bytes := by
  intro t h; simp only [execMemReadReturn, Host.Outcome.next.injEq] at h; subst h
  (repeat' split) <;> simp only [applySoft_keeps, returnRead_keeps, and_self]

theorem settleRange_pending (write : Bool) (a len : Nat) : ∀ (n : Nat) (s : State),
    (settleRange write a len n s).pending = s.pending
  | 0, _ => rfl
  | n + 1, s => by
    unfold settleRange
    dsimp only
    split
    · split
      · rw [settleRange_pending write a len n]
        split
        · simp only [drainWrite_pending]
        · simp only [returnRead_keeps]
      · rfl
    · rfl

theorem settleRange_wf (write : Bool) (a len : Nat) : ∀ (n : Nat) (s : State) (_ : cellsFrom 0 s.mem.bytes = true),
    cellsFrom 0 (settleRange write a len n s).mem.bytes = true
  | 0, _, hw => hw
  | n + 1, s, hw => by
    unfold settleRange
    dsimp only
    split
    · split
      · apply settleRange_wf write a len n
        split
        · exact drainWrite_wf _ _ hw
        · simp only [returnRead_keeps]; exact hw
      · exact hw
    · exact hw

theorem readMemory_pending (requester : Fin 6) (fn : BitVec 4) (a len : Nat) (s : State) :
    (readMemory requester fn a len s).1.pending = s.pending := by
  unfold readMemory
  repeat' first
    | (with_reducible rfl)
    | with_reducible assumption
    | (simp only [performRead_keeps, spendDram_keeps, settleRange_pending, and_self]; done)
    | (rename_i h; replace h := congrArg Prod.fst h; simp only at h; subst h)
    | split
    | (simp only [performRead_keeps, spendDram_keeps, settleRange_pending, and_self])

theorem readMemory_wf (requester : Fin 6) (fn : BitVec 4) (a len : Nat) (s : State) (hw : cellsFrom 0 s.mem.bytes = true) :
    cellsFrom 0 (readMemory requester fn a len s).1.mem.bytes = true := by
  unfold readMemory
  repeat' first
    | with_reducible assumption
    | with_reducible assumption
    | (simp only [performRead_keeps, spendDram_keeps, settleRange_pending, and_self]; done)
    | (with_reducible apply settleRange_wf)
    | (rename_i h; replace h := congrArg Prod.fst h; simp only at h; subst h)
    | split
    | (simp only [performRead_keeps, spendDram_keeps, settleRange_pending, and_self])

theorem writeMemory_pending (requester : Fin 6) (fn : BitVec 4) (a : Nat) (data : List Byte) (s : State) :
    (writeMemory requester fn a data s).1.pending = s.pending := by
  unfold writeMemory
  repeat' first
    | (with_reducible rfl)
    | with_reducible assumption
    | (simp only [spendDram_keeps, performWrite_pending, settleRange_pending, and_self]; done)
    | (rename_i h; replace h := congrArg Prod.fst h; simp only at h; subst h)
    | split
    | (simp only [spendDram_keeps, performWrite_pending, settleRange_pending, and_self])

theorem writeMemory_wf (requester : Fin 6) (fn : BitVec 4) (a : Nat) (data : List Byte) (s : State) (hw : cellsFrom 0 s.mem.bytes = true) :
    cellsFrom 0 (writeMemory requester fn a data s).1.mem.bytes = true := by
  unfold writeMemory
  repeat' first
    | with_reducible assumption
    | with_reducible assumption
    | (simp only [spendDram_keeps, performWrite_pending, settleRange_pending, and_self]; done)
    | (with_reducible apply performWrite_wf)
    | (with_reducible apply settleRange_wf)
    | (rename_i h; replace h := congrArg Prod.fst h; simp only at h; subst h)
    | split
    | (simp only [spendDram_keeps, performWrite_pending, settleRange_pending, and_self])

end Sys2Proof.Machine
end

