-- ==== Sys2Proof/Laws/KeepStream.lean ====
section
/-! SUPPORT. What compression and streams leave as they are: the queue of commands and the bytes of the capture memory. A definition that
writes memory bytes has two lemmas instead: its queue is unchanged, and the memory keeps its canonical form. -/

namespace Sys2Proof.Machine
open Sys2Proof
set_option linter.unusedSimpArgs false
set_option linter.unusedVariables false

theorem putJob_keeps (j : Job) (s : State) : (putJob j s).pending = s.pending ∧ (putJob j s).mem.bytes = s.mem.bytes := by
  simp only [putJob, and_self]

theorem failJob_keeps (j : Job) (result resp : Nat) (s : State) :
    (failJob j result resp s).pending = s.pending ∧ (failJob j result resp s).mem.bytes = s.mem.bytes := by
  simp only [failJob, putJob_keeps, and_self]

theorem jobRead_pending (j : Job) (a n : Nat) (s : State) : (jobRead j a n s).1.pending = s.pending := by
  simp only [jobRead, readMemory_pending]

theorem jobRead_wf (j : Job) (a n : Nat) (s : State) (hw : cellsFrom 0 s.mem.bytes = true) :
    cellsFrom 0 (jobRead j a n s).1.mem.bytes = true := by
  unfold jobRead; apply readMemory_wf; exact hw

theorem jobWrite_pending (j : Job) (a : Nat) (ws : List Word) (s : State) : (jobWrite j a ws s).1.pending = s.pending := by
  simp only [jobWrite, writeMemory_pending]

theorem jobWrite_wf (j : Job) (a : Nat) (ws : List Word) (s : State) (hw : cellsFrom 0 s.mem.bytes = true) :
    cellsFrom 0 (jobWrite j a ws s).1.mem.bytes = true := by
  unfold jobWrite; apply writeMemory_wf; exact hw

theorem clearHeads_pending (j : Job) (s : State) : (clearHeads j s).1.pending = s.pending := by
  unfold clearHeads
  dsimp only
  (repeat' split) <;> simp only [jobWrite_pending]

theorem clearHeads_wf (j : Job) (s : State) (hw : cellsFrom 0 s.mem.bytes = true) :
    cellsFrom 0 (clearHeads j s).1.mem.bytes = true := by
  unfold clearHeads
  repeat' first
    | with_reducible assumption
    | with_reducible assumption
    | (simp only [jobWrite_pending, and_self]; done)
    | (with_reducible apply jobWrite_wf)
    | (rename_i h; replace h := congrArg Prod.fst h; simp only at h; subst h)
    | split

theorem loadStates_pending (j : Job) (s : State) : (loadStates j s).pending = s.pending := by
  unfold loadStates
  dsimp only
  (repeat' split) <;> simp only [failJob_keeps, putJob_keeps, jobRead_pending]

theorem loadStates_wf (j : Job) (s : State) (hw : cellsFrom 0 s.mem.bytes = true) :
    cellsFrom 0 (loadStates j s).mem.bytes = true := by
  unfold loadStates
  repeat' first
    | with_reducible assumption
    | with_reducible assumption
    | (simp only [failJob_keeps, putJob_keeps, jobRead_pending, and_self]; done)
    | (with_reducible apply jobRead_wf)
    | (rename_i h; replace h := congrArg Prod.fst h; simp only at h; subst h)
    | split
    | (simp only [failJob_keeps, putJob_keeps, jobRead_pending, and_self])

theorem startDeflate_pending (j : Job) (s : State) : (startDeflate j s).pending = s.pending := by
  unfold startDeflate
  repeat' first
    | (with_reducible rfl)
    | with_reducible assumption
    | (simp only [failJob_keeps, clearHeads_pending, loadStates_pending, and_self]; done)
    | (rename_i h; replace h := congrArg Prod.fst h; simp only at h; subst h)
    | split
    | (simp only [failJob_keeps, clearHeads_pending, loadStates_pending, and_self])

theorem startDeflate_wf (j : Job) (s : State) (hw : cellsFrom 0 s.mem.bytes = true) :
    cellsFrom 0 (startDeflate j s).mem.bytes = true := by
  unfold startDeflate
  repeat' first
    | with_reducible assumption
    | with_reducible assumption
    | (simp only [failJob_keeps, clearHeads_pending, loadStates_pending, and_self]; done)
    | (with_reducible apply clearHeads_wf)
    | (with_reducible apply loadStates_wf)
    | (rename_i h; replace h := congrArg Prod.fst h; simp only at h; subst h)
    | split
    | (simp only [failJob_keeps, clearHeads_pending, loadStates_pending, and_self])

theorem startInflate_pending (j : Job) (s : State) : (startInflate j s).pending = s.pending := by
  unfold startInflate
  repeat' first
    | (with_reducible rfl)
    | with_reducible assumption
    | (simp only [failJob_keeps, clearHeads_pending, jobRead_pending, loadStates_pending, and_self]; done)
    | (rename_i h; replace h := congrArg Prod.fst h; simp only at h; subst h)
    | split
    | (simp only [failJob_keeps, clearHeads_pending, jobRead_pending, loadStates_pending, and_self])

theorem startInflate_wf (j : Job) (s : State) (hw : cellsFrom 0 s.mem.bytes = true) :
    cellsFrom 0 (startInflate j s).mem.bytes = true := by
  unfold startInflate
  repeat' first
    | with_reducible assumption
    | with_reducible assumption
    | (simp only [failJob_keeps, clearHeads_pending, jobRead_pending, loadStates_pending, and_self]; done)
    | (with_reducible apply clearHeads_wf)
    | (with_reducible apply jobRead_wf)
    | (with_reducible apply loadStates_wf)
    | (rename_i h; replace h := congrArg Prod.fst h; simp only at h; subst h)
    | split
    | (simp only [failJob_keeps, clearHeads_pending, jobRead_pending, loadStates_pending, and_self])

theorem execJobStart_pending (fn : Fin 9) (s : State) : ∀ t, execJobStart fn s = .next t → t.pending = s.pending := by
  intro t h; simp only [execJobStart, Host.Outcome.next.injEq] at h; subst h
  (repeat' split) <;> simp only [putJob_keeps, startDeflate_pending, startInflate_pending]

theorem execJobStart_wf (fn : Fin 9) (s : State) (hw : cellsFrom 0 s.mem.bytes = true) :
    ∀ t, execJobStart fn s = .next t → cellsFrom 0 t.mem.bytes = true := by
  intro t h; simp only [execJobStart, Host.Outcome.next.injEq] at h; subst h
  repeat' first
    | with_reducible assumption
    | with_reducible assumption
    | (simp only [putJob_keeps, startDeflate_pending, startInflate_pending, and_self]; done)
    | (with_reducible apply startDeflate_wf)
    | (with_reducible apply startInflate_wf)
    | split
    | (simp only [putJob_keeps, startDeflate_pending, startInflate_pending, and_self])

theorem raiseVerify_keeps (fn : BitVec 4) (inst : Nat) (id : Word) (tier : Nat) (failed : List Nat) (s : State) :
    (raiseVerify fn inst id tier failed s).pending = s.pending
      ∧ (raiseVerify fn inst id tier failed s).mem.bytes = s.mem.bytes := by
  unfold raiseVerify
  exact foldl_keeps_of (fun _ _ => by simp only [raiseEvent_keeps, and_self]) ⟨rfl, rfl⟩

theorem readRows_pending (j : Job) (ns : Nat) (s : State) : (readRows j ns s).1.pending = s.pending := by
  unfold readRows
  repeat' first
    | (with_reducible rfl)
    | with_reducible assumption
    | (simp only [jobRead_pending, and_self]; done)
    | (with_reducible refine foldl_fst_pending_of ?_ ?_; intro _ _)
    | split

theorem readRows_wf (j : Job) (ns : Nat) (s : State) (hw : cellsFrom 0 s.mem.bytes = true) :
    cellsFrom 0 (readRows j ns s).1.mem.bytes = true := by
  unfold readRows
  repeat' first
    | with_reducible assumption
    | with_reducible assumption
    | (simp only [jobRead_pending, and_self]; done)
    | (with_reducible apply jobRead_wf)
    | (with_reducible refine foldl_fst_wf_of ?_ ?_; intro _ _ _)
    | split

theorem deflateTier_pending (j : Job) (faults : List Nat) (s : State) : (deflateTier j faults s).pending = s.pending := by
  unfold deflateTier
  dsimp only
  (repeat' split) <;> simp only [failJob_keeps, putJob_keeps, raiseVerify_keeps, jobWrite_pending, readRows_pending]

theorem deflateTier_wf (j : Job) (faults : List Nat) (s : State) (hw : cellsFrom 0 s.mem.bytes = true) :
    cellsFrom 0 (deflateTier j faults s).mem.bytes = true := by
  unfold deflateTier
  repeat' first
    | with_reducible assumption
    | with_reducible assumption
    | (simp only [failJob_keeps, putJob_keeps, raiseVerify_keeps, jobWrite_pending, readRows_pending, and_self]; done)
    | (with_reducible apply jobWrite_wf)
    | (with_reducible apply readRows_wf)
    | split
    | (simp only [failJob_keeps, putJob_keeps, raiseVerify_keeps, jobWrite_pending, readRows_pending, and_self])

theorem readPayload_pending (j : Job) (ns : Nat) (s : State) : (readPayload j ns s).1.pending = s.pending := by
  simp only [readPayload, jobRead_pending]

theorem readPayload_wf (j : Job) (ns : Nat) (s : State) (hw : cellsFrom 0 s.mem.bytes = true) :
    cellsFrom 0 (readPayload j ns s).1.mem.bytes = true := by
  unfold readPayload; apply jobRead_wf; exact hw

theorem inflateTier_pending (j : Job) (s : State) : (inflateTier j s).pending = s.pending := by
  unfold inflateTier
  dsimp only
  (repeat' split) <;> simp only [failJob_keeps, putJob_keeps, jobWrite_pending, readPayload_pending]

theorem inflateTier_wf (j : Job) (s : State) (hw : cellsFrom 0 s.mem.bytes = true) :
    cellsFrom 0 (inflateTier j s).mem.bytes = true := by
  unfold inflateTier
  repeat' first
    | with_reducible assumption
    | with_reducible assumption
    | (simp only [failJob_keeps, putJob_keeps, jobWrite_pending, readPayload_pending, and_self]; done)
    | (with_reducible apply jobWrite_wf)
    | (with_reducible apply readPayload_wf)
    | split
    | (simp only [failJob_keeps, putJob_keeps, jobWrite_pending, readPayload_pending, and_self])

theorem tierBoundary_keeps (fn : BitVec 4) (s : State) :
    (tierBoundary fn s).pending = s.pending ∧ (tierBoundary fn s).mem.bytes = s.mem.bytes := by
  unfold tierBoundary
  (repeat' split) <;> simp only [failJob_keeps, putJob_keeps, and_self]

theorem execTierEnd_pending (fn : Fin 9) (faults : List Nat) (s : State) :
    ∀ t, execTierEnd fn faults s = .next t → t.pending = s.pending := by
  intro t h; simp only [execTierEnd, Host.Outcome.next.injEq] at h; subst h
  (repeat' split) <;> simp only [tierBoundary_keeps, deflateTier_pending, inflateTier_pending]

theorem execTierEnd_wf (fn : Fin 9) (faults : List Nat) (s : State) (hw : cellsFrom 0 s.mem.bytes = true) :
    ∀ t, execTierEnd fn faults s = .next t → cellsFrom 0 t.mem.bytes = true := by
  intro t h; simp only [execTierEnd, Host.Outcome.next.injEq] at h; subst h
  repeat' first
    | with_reducible assumption
    | with_reducible assumption
    | (simp only [tierBoundary_keeps, deflateTier_pending, inflateTier_pending, and_self]; done)
    | (with_reducible apply deflateTier_wf)
    | (with_reducible apply inflateTier_wf)
    | split
    | (simp only [tierBoundary_keeps, deflateTier_pending, inflateTier_pending, and_self])

theorem keepResult_keeps (j : Job) (ws : List Word) (s : State) :
    (keepResult j ws s).pending = s.pending ∧ (keepResult j ws s).mem.bytes = s.mem.bytes := by
  simp only [keepResult, and_self]

theorem endJob_keeps (j : Job) (result resp out : Nat) (s : State) :
    (endJob j result resp out s).pending = s.pending ∧ (endJob j result resp out s).mem.bytes = s.mem.bytes := by
  unfold endJob
  (repeat' split) <;> simp only [keepResult_keeps, raiseEvent_keeps, setCause_keeps, and_self]

theorem abandonJobs_keeps (which : Job → Bool) (s : State) :
    (abandonJobs which s).pending = s.pending ∧ (abandonJobs which s).mem.bytes = s.mem.bytes := by
  unfold abandonJobs
  exact foldl_keeps_of (fun _ _ => by simp only [keepResult_keeps, and_self]) ⟨rfl, rfl⟩

theorem jobWrites_pending (j : Job) (ws : List (Nat × List Word)) (s : State) :
    (jobWrites j ws s).1.pending = s.pending := by
  unfold jobWrites
  repeat' first
    | (with_reducible rfl)
    | with_reducible assumption
    | (simp only [jobWrite_pending, and_self])
    | (with_reducible refine foldl_fst_pending_of ?_ ?_; intro _ _)
    | split

theorem jobWrites_wf (j : Job) (ws : List (Nat × List Word)) (s : State) (hw : cellsFrom 0 s.mem.bytes = true) :
    cellsFrom 0 (jobWrites j ws s).1.mem.bytes = true := by
  unfold jobWrites
  repeat' first
    | with_reducible assumption
    | with_reducible assumption
    | (with_reducible apply jobWrite_wf)
    | (with_reducible refine foldl_fst_wf_of ?_ ?_; intro _ _ _)
    | split

theorem commitDeflate_pending (j : Job) (s : State) : (commitDeflate j s).pending = s.pending := by
  simp only [commitDeflate]
  split <;> simp only [endJob_keeps, jobWrites_pending]

theorem commitDeflate_wf (j : Job) (s : State) (hw : cellsFrom 0 s.mem.bytes = true) :
    cellsFrom 0 (commitDeflate j s).mem.bytes = true := by
  unfold commitDeflate
  repeat' first
    | with_reducible assumption
    | with_reducible assumption
    | (simp only [endJob_keeps, jobWrites_pending, and_self]; done)
    | (with_reducible apply jobWrites_wf)
    | split
    | (simp only [endJob_keeps, jobWrites_pending, and_self])

theorem commitInflate_pending (j : Job) (s : State) : (commitInflate j s).pending = s.pending := by
  unfold commitInflate
  dsimp only
  (repeat' split) <;> simp only [endJob_keeps, jobRead_pending, jobWrites_pending]

theorem commitInflate_wf (j : Job) (s : State) (hw : cellsFrom 0 s.mem.bytes = true) :
    cellsFrom 0 (commitInflate j s).mem.bytes = true := by
  unfold commitInflate
  repeat' first
    | with_reducible assumption
    | with_reducible assumption
    | (simp only [endJob_keeps, jobRead_pending, jobWrites_pending, and_self]; done)
    | (with_reducible apply jobRead_wf)
    | (with_reducible apply jobWrites_wf)
    | (rename_i h; replace h := congrArg Prod.fst h; simp only at h; subst h)
    | split
    | (simp only [endJob_keeps, jobRead_pending, jobWrites_pending, and_self])

theorem execJobEnd_pending (fn : Fin 9) (s : State) : ∀ t, execJobEnd fn s = .next t → t.pending = s.pending := by
  intro t h; simp only [execJobEnd, Host.Outcome.next.injEq] at h; subst h
  (repeat' split) <;> simp only [endJob_keeps, commitDeflate_pending, commitInflate_pending]

theorem execJobEnd_wf (fn : Fin 9) (s : State) (hw : cellsFrom 0 s.mem.bytes = true) :
    ∀ t, execJobEnd fn s = .next t → cellsFrom 0 t.mem.bytes = true := by
  intro t h; simp only [execJobEnd, Host.Outcome.next.injEq] at h; subst h
  repeat' first
    | with_reducible assumption
    | with_reducible assumption
    | (simp only [endJob_keeps, commitDeflate_pending, commitInflate_pending, and_self]; done)
    | (with_reducible apply commitDeflate_wf)
    | (with_reducible apply commitInflate_wf)
    | split
    | (simp only [endJob_keeps, commitDeflate_pending, commitInflate_pending, and_self])

theorem followEffortShed_keeps (s : State) :
    (followEffortShed s).pending = s.pending ∧ (followEffortShed s).mem.bytes = s.mem.bytes := by
  simp only [followEffortShed]
  split <;> simp only [info_keeps, and_self]

theorem rulesCmpSetMap_keeps (p : Packet) (s : State) : (rulesCmpSetMap.run p s).keeps s := by
  simp only [rulesCmpSetMap]
  repeat' first
    | with_reducible exact trivial
    | with_reducible assumption
    | (simp only [and_self, Result.keeps]; done)
    | (with_reducible refine foldl_keeps_of ?_ ?_; intro _ _)
    | split
    | (simp only [and_self, Result.keeps])

theorem execCmpSetMap_keeps (p : Packet) (s : State) :
    ∀ t, execCmpSetMap p s = .next t → t.pending = s.pending ∧ t.mem.bytes = s.mem.bytes := by
  intro t h; simp only [execCmpSetMap, Host.Outcome.next.injEq] at h; subst h
  exact takeCommand_keeps rulesCmpSetMap_keeps p s

theorem rulesCmpReadMap_keeps (p : Packet) (s : State) : (rulesCmpReadMap.run p s).keeps s := by
  simp only [rulesCmpReadMap, Result.keeps, and_self]

theorem execCmpReadMap_keeps (p : Packet) (s : State) :
    ∀ t, execCmpReadMap p s = .next t → t.pending = s.pending ∧ t.mem.bytes = s.mem.bytes := by
  intro t h; simp only [execCmpReadMap, Host.Outcome.next.injEq] at h; subst h
  exact takeCommand_keeps rulesCmpReadMap_keeps p s

theorem rulesCmpSubmit_keeps (p : Packet) (s : State) : (rulesCmpSubmit.run p s).keeps s := by
  simp only [rulesCmpSubmit]
  (repeat' split) <;> simp only [Result.keeps, and_self]

theorem execCmpSubmit_keeps (p : Packet) (s : State) :
    ∀ t, execCmpSubmit p s = .next t → t.pending = s.pending ∧ t.mem.bytes = s.mem.bytes := by
  intro t h; simp only [execCmpSubmit, Host.Outcome.next.injEq] at h; subst h
  exact takeCommand_keeps rulesCmpSubmit_keeps p s

theorem rulesCmpReadJob_keeps (p : Packet) (s : State) : (rulesCmpReadJob.run p s).keeps s := by
  simp only [rulesCmpReadJob]
  (repeat' split) <;> simp only [Result.keeps, and_self]

theorem execCmpReadJob_keeps (p : Packet) (s : State) :
    ∀ t, execCmpReadJob p s = .next t → t.pending = s.pending ∧ t.mem.bytes = s.mem.bytes := by
  intro t h; simp only [execCmpReadJob, Host.Outcome.next.injEq] at h; subst h
  exact takeCommand_keeps rulesCmpReadJob_keeps p s

theorem rulesCmpCancel_keeps (p : Packet) (s : State) : (rulesCmpCancel.run p s).keeps s := by
  simp only [rulesCmpCancel]
  (repeat' split) <;> simp only [Result.keeps, endJob_keeps, putJob_keeps, and_self]

theorem execCmpCancel_keeps (p : Packet) (s : State) :
    ∀ t, execCmpCancel p s = .next t → t.pending = s.pending ∧ t.mem.bytes = s.mem.bytes := by
  intro t h; simp only [execCmpCancel, Host.Outcome.next.injEq] at h; subst h
  exact takeCommand_keeps rulesCmpCancel_keeps p s

theorem rulesCmpReadStatus_keeps (p : Packet) (s : State) : (rulesCmpReadStatus.run p s).keeps s := by
  simp only [rulesCmpReadStatus, Result.keeps, and_self]

theorem execCmpReadStatus_keeps (p : Packet) (s : State) :
    ∀ t, execCmpReadStatus p s = .next t → t.pending = s.pending ∧ t.mem.bytes = s.mem.bytes := by
  intro t h; simp only [execCmpReadStatus, Host.Outcome.next.injEq] at h; subst h
  exact takeCommand_keeps rulesCmpReadStatus_keeps p s

theorem setPending_keeps (point : Nat) (k : List Word) (m : Option WeirMark) (s : State) :
    (setPending point k m s).pending = s.pending ∧ (setPending point k m s).mem.bytes = s.mem.bytes := by
  simp only [setPending, and_self]

theorem raiseWeir_keeps (home : HubId) (fn : BitVec 4) (stream : Nat) (origin : HubId) (m : WeirMark) (s : State) :
    (raiseWeir home fn stream origin m s).pending = s.pending
      ∧ (raiseWeir home fn stream origin m s).mem.bytes = s.mem.bytes := by
  simp only [raiseWeir, raiseEvent_keeps, and_self]

theorem weirPass_keeps (point : Nat) (fits : Nat → State → Bool) (emit : List Word → Nat → State → State) (k : List Word)
    (last : Nat) (s : State)
    (he : ∀ k l t, (emit k l t).pending = t.pending ∧ (emit k l t).mem.bytes = t.mem.bytes) :
    (weirPass point fits emit k last s).pending = s.pending ∧ (weirPass point fits emit k last s).mem.bytes = s.mem.bytes := by
  unfold weirPass
  repeat' first
    | (constructor <;> with_reducible rfl)
    | (simp only [he, raiseWeir_keeps, setPending_keeps, and_self]; done)
    | split
    | (simp only [he, raiseWeir_keeps, setPending_keeps, and_self])

theorem ringPacket_keeps (k : List Word) (last : Nat) (s : State) :
    (ringPacket k last s).pending = s.pending ∧ (ringPacket k last s).mem.bytes = s.mem.bytes := by
  unfold ringPacket
  exact weirPass_keeps _ _ _ _ _ _ (fun _ _ _ => send_keeps _ _)

theorem modStream_keeps (i : Nat) (f : Stream → Stream) (s : State) :
    (modStream i f s).pending = s.pending ∧ (modStream i f s).mem.bytes = s.mem.bytes := by
  simp only [modStream, and_self]

theorem deliver_keeps (i : Nat) (k : List Word) (last : Nat) (s : State) :
    (deliver i k last s).pending = s.pending ∧ (deliver i k last s).mem.bytes = s.mem.bytes := by
  simp only [deliver, modStream_keeps, and_self]

theorem receivePacket_keeps (k : List Word) (last : Nat) (s : State) :
    (receivePacket k last s).pending = s.pending ∧ (receivePacket k last s).mem.bytes = s.mem.bytes := by
  unfold receivePacket
  dsimp only
  split
  · constructor <;> rfl
  · split
    · simp only [modStream_keeps, and_self]
    · exact weirPass_keeps _ _ _ _ _ _ (fun _ _ _ => modStream_keeps _ _ _)

theorem handOver_keeps (k : List Word) (last : Nat) (s : State) :
    (handOver k last s).pending = s.pending ∧ (handOver k last s).mem.bytes = s.mem.bytes := by
  simp only [handOver]
  split <;> simp only [receivePacket_keeps, ringPacket_keeps, and_self]

theorem execStreamPacketDeliver_keeps (fn : Fin 9) (stream : Fin 4) (s : State) :
    ∀ t, execStreamPacketDeliver fn stream s = .next t → t.pending = s.pending ∧ t.mem.bytes = s.mem.bytes := by
  intro t h; simp only [execStreamPacketDeliver, Host.Outcome.next.injEq] at h; subst h
  (repeat' split) <;> simp only [modStream_keeps, setQueue_keeps, and_self]

theorem putSegment_keeps (g : Segment) (s : State) :
    (putSegment g s).pending = s.pending ∧ (putSegment g s).mem.bytes = s.mem.bytes := by
  simp only [putSegment, and_self]

theorem dropSegment_keeps (g : Segment) (s : State) :
    (dropSegment g s).pending = s.pending ∧ (dropSegment g s).mem.bytes = s.mem.bytes := by
  simp only [dropSegment, and_self]

theorem closePacket_keeps (g0 : Segment) (s : State) :
    (closePacket g0 s).pending = s.pending ∧ (closePacket g0 s).mem.bytes = s.mem.bytes := by
  simp only [closePacket]
  split <;> simp only [handOver_keeps, putSegment_keeps, and_self]

theorem closeJob_keeps (g0 : Segment) (s : State) :
    (closeJob g0 s).pending = s.pending ∧ (closeJob g0 s).mem.bytes = s.mem.bytes := by
  unfold closeJob
  repeat' first
    | (constructor <;> with_reducible rfl)
    | with_reducible assumption
    | (simp only [handOver_keeps, putSegment_keeps, and_self]; done)
    | (with_reducible refine foldl_keeps_of ?_ ?_; intro _ _)
    | split
    | (simp only [handOver_keeps, putSegment_keeps, and_self])

theorem addToJob_keeps (g0 : Segment) (r : StreamRow) (s : State) :
    (addToJob g0 r s).pending = s.pending ∧ (addToJob g0 r s).mem.bytes = s.mem.bytes := by
  unfold addToJob
  dsimp only
  (repeat' split) <;> simp only [closeJob_keeps, putSegment_keeps, and_self]

theorem addToPacket_keeps (g0 : Segment) (r : StreamRow) (s : State) :
    (addToPacket g0 r s).pending = s.pending ∧ (addToPacket g0 r s).mem.bytes = s.mem.bytes := by
  unfold addToPacket
  dsimp only
  (repeat' split) <;> simp only [closePacket_keeps, putSegment_keeps, and_self]

theorem takeRow_keeps (g0 : Segment) (r : StreamRow) (s : State) :
    (takeRow g0 r s).pending = s.pending ∧ (takeRow g0 r s).mem.bytes = s.mem.bytes := by
  unfold takeRow
  dsimp only
  (repeat' split) <;> simp only [addToJob_keeps, addToPacket_keeps, closeJob_keeps, closePacket_keeps, handOver_keeps, putSegment_keeps, and_self]

theorem drainQueue_keeps (g0 : Segment) (s : State) :
    (drainQueue g0 s).pending = s.pending ∧ (drainQueue g0 s).mem.bytes = s.mem.bytes := by
  unfold drainQueue
  repeat' first
    | (constructor <;> with_reducible rfl)
    | with_reducible assumption
    | (simp only [putSegment_keeps, takeRow_keeps, and_self]; done)
    | (with_reducible refine foldl_keeps_of ?_ ?_; intro _ _)
    | split

theorem dropRow_keeps (g0 : Segment) (r : StreamRow) (s : State) :
    (dropRow g0 r s).pending = s.pending ∧ (dropRow g0 r s).mem.bytes = s.mem.bytes := by
  simp only [dropRow, putSegment_keeps, and_self]

theorem admitRow_keeps (g0 : Segment) (r : StreamRow) (s : State) :
    (admitRow g0 r s).pending = s.pending ∧ (admitRow g0 r s).mem.bytes = s.mem.bytes := by
  unfold admitRow
  dsimp only
  (repeat' split) <;> simp only [drainQueue_keeps, dropRow_keeps, putSegment_keeps, raiseWeir_keeps, and_self]

theorem dropStale_keeps (lc : Bool) : ∀ (n : Nat) (g : Segment) (s : State),
    (dropStale lc n g s).pending = s.pending ∧ (dropStale lc n g s).mem.bytes = s.mem.bytes
  | 0, _, _ => ⟨rfl, rfl⟩
  | n + 1, g, s => by
    unfold dropStale
    dsimp only
    split
    · exact ⟨rfl, rfl⟩
    · simp only [dropStale_keeps lc n, dropRow_keeps, putSegment_keeps, and_self]

theorem segmentWindow_keeps (f : Formed) (g : Segment) (s : State) :
    (segmentWindow f g s).pending = s.pending ∧ (segmentWindow f g s).mem.bytes = s.mem.bytes := by
  unfold segmentWindow
  dsimp only
  (repeat' split) <;> simp only [admitRow_keeps, dropStale_keeps, putSegment_keeps, and_self]

theorem streamWindow_keeps (f : Formed) (s : State) :
    (streamWindow f s).pending = s.pending ∧ (streamWindow f s).mem.bytes = s.mem.bytes := by
  unfold streamWindow
  exact foldl_keeps_of (fun _ _ => by simp only [segmentWindow_keeps, and_self]) ⟨rfl, rfl⟩

theorem commitPartial_keeps (g : Segment) (s : State) :
    (commitPartial g s).pending = s.pending ∧ (commitPartial g s).mem.bytes = s.mem.bytes := by
  simp only [commitPartial, drainQueue_keeps, putSegment_keeps, and_self]

theorem flushSegment_keeps (g : Segment) (s : State) :
    (flushSegment g s).pending = s.pending ∧ (flushSegment g s).mem.bytes = s.mem.bytes := by
  simp only [flushSegment, closeJob_keeps, closePacket_keeps, commitPartial_keeps, and_self]

theorem execPartialEntryCommit_keeps (home : HubId) (fn : BitVec 4) (stream : BitVec 2) (s : State) :
    ∀ t, execPartialEntryCommit home fn stream s = .next t → t.pending = s.pending ∧ t.mem.bytes = s.mem.bytes := by
  intro t h; simp only [execPartialEntryCommit, Host.Outcome.next.injEq] at h; subst h
  repeat' first
    | (constructor <;> with_reducible rfl)
    | with_reducible assumption
    | (simp only [commitPartial_keeps, reach_keeps, and_self])
    | (with_reducible refine foldl_keeps_of ?_ ?_; intro _ _)

theorem execPacketStallTimeout_keeps (home : HubId) (fn : BitVec 4) (stream : BitVec 2) (s : State) :
    ∀ t, execPacketStallTimeout home fn stream s = .next t → t.pending = s.pending ∧ t.mem.bytes = s.mem.bytes := by
  intro t h; simp only [execPacketStallTimeout, Host.Outcome.next.injEq] at h; subst h
  repeat' first
    | (constructor <;> with_reducible rfl)
    | with_reducible assumption
    | (simp only [closePacket_keeps, modStream_keeps, reach_keeps, and_self])
    | (with_reducible refine foldl_keeps_of ?_ ?_; intro _ _)
    | split

theorem endSegment_keeps (f : Nat) (g0 : Segment) (s : State) :
    (endSegment f g0 s).pending = s.pending ∧ (endSegment f g0 s).mem.bytes = s.mem.bytes := by
  unfold endSegment
  dsimp only
  (repeat' split) <;> simp only [dropSegment_keeps, flushSegment_keeps, handOver_keeps, raiseWeir_keeps, and_self]

theorem streamFrame_keeps (f : Nat) (s : State) :
    (streamFrame f s).pending = s.pending ∧ (streamFrame f s).mem.bytes = s.mem.bytes := by
  unfold streamFrame
  exact foldl_keeps_of (fun _ _ => by simp only [endSegment_keeps, and_self]) ⟨rfl, rfl⟩

theorem raiseAbandoned_keeps (fn : BitVec 4) (stream : Nat) (origin : HubId) (seq : Nat) (func : BitVec 4) (s : State) :
    (raiseAbandoned fn stream origin seq func s).pending = s.pending
      ∧ (raiseAbandoned fn stream origin seq func s).mem.bytes = s.mem.bytes := by
  simp only [raiseAbandoned, raiseEvent_keeps, and_self]

theorem discardWaiting_keeps (g : Segment) (s : State) :
    (discardWaiting g s).pending = s.pending ∧ (discardWaiting g s).mem.bytes = s.mem.bytes := by
  simp only [discardWaiting, and_self]

theorem discardSegment_keeps (g : Segment) (s : State) :
    (discardSegment g s).pending = s.pending ∧ (discardSegment g s).mem.bytes = s.mem.bytes := by
  simp only [discardSegment, discardWaiting_keeps, dropSegment_keeps, and_self]

theorem endSegments_keeps (home : HubId) (fn : BitVec 4) (stream : BitVec 2) (f : Nat) (s : State) :
    (endSegments home fn stream f s).pending = s.pending ∧ (endSegments home fn stream f s).mem.bytes = s.mem.bytes := by
  simp only [endSegments, and_self]

theorem placeSegment_keeps (home : HubId) (x : SegmentSetup) (s : State) :
    (placeSegment home x s).1.pending = s.pending ∧ (placeSegment home x s).1.mem.bytes = s.mem.bytes := by
  simp only [placeSegment]
  split <;> simp only [endSegments_keeps, raiseEvent_keeps, and_self]

theorem withdrawSegment_keeps (home : HubId) (fn : BitVec 4) (stream : BitVec 2) (cfg : Byte) (f : Nat) (s : State) :
    (withdrawSegment home fn stream cfg f s).pending = s.pending
      ∧ (withdrawSegment home fn stream cfg f s).mem.bytes = s.mem.bytes := by
  unfold withdrawSegment
  (repeat' split) <;> simp only [dropSegment_keeps, endSegments_keeps, putSegment_keeps, and_self]

theorem sendSetup_keeps (hub : HubId) (x : SegmentSetup) (s : State) :
    (sendSetup hub x s).pending = s.pending ∧ (sendSetup hub x s).mem.bytes = s.mem.bytes := by
  simp only [sendSetup, send_keeps, and_self]

theorem sendSegmentReply_keeps (home : HubId) (fn : BitVec 4) (stream : BitVec 2) (status : Nat) (s : State) :
    (sendSegmentReply home fn stream status s).pending = s.pending
      ∧ (sendSegmentReply home fn stream status s).mem.bytes = s.mem.bytes := by
  simp only [sendSegmentReply, send_keeps, and_self]

theorem execSegmentSetup_keeps (home : HubId) (x : SegmentSetup) (s : State) :
    ∀ t, execSegmentSetup home x s = .next t → t.pending = s.pending ∧ t.mem.bytes = s.mem.bytes := by
  intro t h; simp only [execSegmentSetup, Host.Outcome.next.injEq] at h; subst h
  repeat' first
    | (constructor <;> with_reducible rfl)
    | with_reducible assumption
    | (simp only [flushSegment_keeps, placeSegment_keeps, sendSegmentReply_keeps, withdrawSegment_keeps, and_self]; done)
    | (with_reducible refine foldl_keeps_of ?_ ?_; intro _ _)
    | split
    | (simp only [flushSegment_keeps, placeSegment_keeps, sendSegmentReply_keeps, withdrawSegment_keeps, and_self])

theorem updateContracts_keeps (fn : BitVec 4) (s : State) :
    (updateContracts fn s).pending = s.pending ∧ (updateContracts fn s).mem.bytes = s.mem.bytes := by
  unfold updateContracts
  repeat' first
    | (constructor <;> with_reducible rfl)
    | with_reducible assumption
    | (simp only [sendSetup_keeps, and_self]; done)
    | (with_reducible refine foldl_keeps_of ?_ ?_; intro _ _)
    | split

theorem cancelSetup_keeps (i : Nat) (refuser : Option HubId) (s : State) :
    (cancelSetup i refuser s).pending = s.pending ∧ (cancelSetup i refuser s).mem.bytes = s.mem.bytes := by
  unfold cancelSetup
  repeat' first
    | (constructor <;> with_reducible rfl)
    | with_reducible assumption
    | (simp only [modStream_keeps, sendSetup_keeps, withdrawSegment_keeps, and_self]; done)
    | (with_reducible refine foldl_keeps_of ?_ ?_; intro _ _)
    | split
    | (simp only [modStream_keeps, sendSetup_keeps, withdrawSegment_keeps, and_self])

theorem settleStream_keeps (i : Nat) (s : State) :
    (settleStream i s).pending = s.pending ∧ (settleStream i s).mem.bytes = s.mem.bytes := by
  simp only [settleStream]
  split <;> simp only [settle_keeps, and_self]

theorem execSegmentReply_keeps (origin : HubId) (fn : BitVec 4) (stream : BitVec 2) (status : Nat) (s : State) :
    ∀ t, execSegmentReply origin fn stream status s = .next t → t.pending = s.pending ∧ t.mem.bytes = s.mem.bytes := by
  intro t h; simp only [execSegmentReply, Host.Outcome.next.injEq] at h; subst h
  (repeat' split) <;> simp only [cancelSetup_keeps, modStream_keeps, raiseEvent_keeps, settle_keeps, settleStream_keeps, and_self]

theorem loseOrigin_keeps (i : Nat) (origin : HubId) (cause : Fin 4) (s : State) :
    (loseOrigin i origin cause s).pending = s.pending ∧ (loseOrigin i origin cause s).mem.bytes = s.mem.bytes := by
  unfold loseOrigin
  repeat' first
    | (constructor <;> with_reducible rfl)
    | with_reducible assumption
    | (simp only [modStream_keeps, raiseEvent_keeps, receivePacket_keeps, settleStream_keeps, settle_keeps, cancelSetup_keeps, and_self]; done)
    | (with_reducible refine foldl_keeps_of ?_ ?_; intro _ _)
    | split
    | (simp only [modStream_keeps, raiseEvent_keeps, receivePacket_keeps, settleStream_keeps, settle_keeps, cancelSetup_keeps, and_self])

theorem execSegmentOriginLost_keeps (origin : HubId) (cause : Fin 4) (s : State) :
    ∀ t, execSegmentOriginLost origin cause s = .next t → t.pending = s.pending ∧ t.mem.bytes = s.mem.bytes := by
  intro t h; simp only [execSegmentOriginLost, Host.Outcome.next.injEq] at h; subst h
  repeat' first
    | (constructor <;> with_reducible rfl)
    | with_reducible assumption
    | (simp only [loseOrigin_keeps, and_self])
    | (with_reducible refine foldl_keeps_of ?_ ?_; intro _ _)
    | split

theorem execSegmentHomeLost_keeps (home : HubId) (cause : Fin 4) (s : State) :
    ∀ t, execSegmentHomeLost home cause s = .next t → t.pending = s.pending ∧ t.mem.bytes = s.mem.bytes := by
  intro t h; simp only [execSegmentHomeLost, Host.Outcome.next.injEq] at h; subst h
  repeat' first
    | (constructor <;> with_reducible rfl)
    | with_reducible assumption
    | (simp only [discardSegment_keeps, raiseAbandoned_keeps, and_self])
    | (with_reducible refine foldl_keeps_of ?_ ?_; intro _ _)
    | split

theorem clearStreams_keeps (fn : BitVec 4) (s : State) :
    (clearStreams fn s).pending = s.pending ∧ (clearStreams fn s).mem.bytes = s.mem.bytes := by
  unfold clearStreams
  repeat' first
    | (constructor <;> with_reducible rfl)
    | with_reducible assumption
    | (simp only [discardSegment_keeps, modStream_keeps, raiseAbandoned_keeps, sendSetup_keeps, and_self]; done)
    | (with_reducible refine foldl_keeps_of ?_ ?_; intro _ _)
    | split
    | (simp only [discardSegment_keeps, modStream_keeps, raiseAbandoned_keeps, sendSetup_keeps, and_self])

theorem applyStream_keeps (fn : BitVec 4) (stream : BitVec 2) (w0 w1 w4 : Word) (s : State) :
    (applyStream fn stream w0 w1 w4 s).pending = s.pending
      ∧ (applyStream fn stream w0 w1 w4 s).mem.bytes = s.mem.bytes := by
  simp only [applyStream, modStream_keeps, and_self]

theorem drawWords_keeps (n : Nat) (s : State) :
    (drawWords n s).1.pending = s.pending ∧ (drawWords n s).1.mem.bytes = s.mem.bytes := by
  simp only [drawWords, and_self]

theorem recordWords_pending (fn : BitVec 4) (a n : Nat) (s : State) : (recordWords fn a n s).1.pending = s.pending := by
  unfold recordWords
  repeat' first
    | (with_reducible rfl)
    | with_reducible assumption
    | (simp only [drawWords_keeps, readMemory_pending, and_self]; done)
    | (rename_i h; replace h := congrArg Prod.fst h; simp only at h; subst h)
    | split

theorem recordWords_wf (fn : BitVec 4) (a n : Nat) (s : State) (hw : cellsFrom 0 s.mem.bytes = true) :
    cellsFrom 0 (recordWords fn a n s).1.mem.bytes = true := by
  unfold recordWords
  repeat' first
    | with_reducible assumption
    | with_reducible assumption
    | (simp only [drawWords_keeps, readMemory_pending, and_self]; done)
    | (with_reducible apply readMemory_wf)
    | (rename_i h; replace h := congrArg Prod.fst h; simp only at h; subst h)
    | split
    | (simp only [drawWords_keeps, readMemory_pending, and_self])

theorem sendRecord_pending (k : Nat) (i : Fin 16) (t : CapSet) (tick : Nat) (holdover : Bool) (gaps : List (List Word)) (s : State) :
    (sendRecord k i t tick holdover gaps s).pending = s.pending := by
  unfold sendRecord
  repeat' first
    | (with_reducible rfl)
    | with_reducible assumption
    | (simp only [receivePacket_keeps, recordWords_pending, and_self]; done)
    | (with_reducible refine foldl_pending_of ?_ ?_; intro _ _)

theorem sendRecord_wf (k : Nat) (i : Fin 16) (t : CapSet) (tick : Nat) (holdover : Bool) (gaps : List (List Word)) (s : State) (hw : cellsFrom 0 s.mem.bytes = true) :
    cellsFrom 0 (sendRecord k i t tick holdover gaps s).mem.bytes = true := by
  unfold sendRecord
  repeat' first
    | with_reducible assumption
    | with_reducible assumption
    | (simp only [receivePacket_keeps, recordWords_pending, and_self]; done)
    | (with_reducible apply recordWords_wf)
    | (with_reducible refine foldl_wf_of ?_ ?_; intro _ _ _)
    | split
    | (simp only [receivePacket_keeps, recordWords_pending, and_self])

theorem execRecordClose_pending (set : Fin 16) (s : State) :
    ∀ t, execRecordClose set s = .next t → t.pending = s.pending := by
  intro t h; simp only [execRecordClose, Host.Outcome.next.injEq] at h; subst h
  repeat' first
    | (with_reducible rfl)
    | with_reducible assumption
    | (simp only [closeGaps_keeps, closeRecord_pending, sendRecord_pending, and_self])
    | (with_reducible refine foldl_pending_of ?_ ?_; intro _ _)
    | split

theorem execRecordClose_wf (set : Fin 16) (s : State) (hw : cellsFrom 0 s.mem.bytes = true) :
    ∀ t, execRecordClose set s = .next t → cellsFrom 0 t.mem.bytes = true := by
  intro t h; simp only [execRecordClose, Host.Outcome.next.injEq] at h; subst h
  repeat' first
    | with_reducible assumption
    | with_reducible assumption
    | (with_reducible apply closeRecord_wf)
    | (with_reducible apply sendRecord_wf)
    | (with_reducible refine foldl_wf_of ?_ ?_; intro _ _ _)
    | split

theorem endOrigins_keeps (i : Nat) (f : Nat) (keep : List HubId) (s : State) :
    (endOrigins i f keep s).pending = s.pending ∧ (endOrigins i f keep s).mem.bytes = s.mem.bytes := by
  unfold endOrigins
  exact foldl_keeps_of (fun _ _ => by simp only [modStream_keeps, sendSetup_keeps, and_self]) ⟨rfl, rfl⟩

theorem setStream_keeps (p : Packet) (f : Nat) (s : State) :
    (setStream p f s).pending = s.pending ∧ (setStream p f s).mem.bytes = s.mem.bytes := by
  unfold setStream
  repeat' first
    | with_reducible assumption
    | (simp only [endOrigins_keeps, endSegments_keeps, modStream_keeps, placeSegment_keeps, sendSetup_keeps, stage_keeps, and_self]; done)
    | (with_reducible refine foldl_keeps_of ?_ ?_; intro _ _)
    | split
    | (simp only [endOrigins_keeps, endSegments_keeps, modStream_keeps, placeSegment_keeps, sendSetup_keeps, stage_keeps, and_self])

theorem rulesStSetStream_keeps (p : Packet) (s : State) : (rulesStSetStream.run p s).keeps s := by
  simp only [rulesStSetStream]
  (repeat' split) <;> simp only [Result.keeps, setStream_keeps, and_self]

theorem execStSetStream_keeps (p : Packet) (s : State) :
    ∀ t, execStSetStream p s = .next t → t.pending = s.pending ∧ t.mem.bytes = s.mem.bytes := by
  intro t h; simp only [execStSetStream, Host.Outcome.next.injEq] at h; subst h
  exact takeCommand_keeps rulesStSetStream_keeps p s

theorem flushStream_keeps (p : Packet) (s : State) :
    (flushStream p s).pending = s.pending ∧ (flushStream p s).mem.bytes = s.mem.bytes := by
  unfold flushStream
  repeat' first
    | (constructor <;> with_reducible rfl)
    | with_reducible assumption
    | (simp only [flushSegment_keeps, modStream_keeps, sendSetup_keeps, and_self]; done)
    | (with_reducible refine foldl_keeps_of ?_ ?_; intro _ _)
    | split
    | (simp only [flushSegment_keeps, modStream_keeps, sendSetup_keeps, and_self])

theorem rulesStFlush_keeps (p : Packet) (s : State) : (rulesStFlush.run p s).keeps s := by
  simp only [rulesStFlush]
  split <;> simp only [Result.keeps, flushStream_keeps, and_self]

theorem execStFlush_keeps (p : Packet) (s : State) :
    ∀ t, execStFlush p s = .next t → t.pending = s.pending ∧ t.mem.bytes = s.mem.bytes := by
  intro t h; simp only [execStFlush, Host.Outcome.next.injEq] at h; subst h
  exact takeCommand_keeps rulesStFlush_keeps p s

theorem deleteStream_keeps (p : Packet) (f : Nat) (s : State) :
    (deleteStream p f s).pending = s.pending ∧ (deleteStream p f s).mem.bytes = s.mem.bytes := by
  simp only [deleteStream, endOrigins_keeps, endSegments_keeps, modStream_keeps, stage_keeps, and_self]

theorem rulesStDelete_keeps (p : Packet) (s : State) : (rulesStDelete.run p s).keeps s := by
  simp only [rulesStDelete]
  (repeat' split) <;> simp only [Result.keeps, deleteStream_keeps, and_self]

theorem execStDelete_keeps (p : Packet) (s : State) :
    ∀ t, execStDelete p s = .next t → t.pending = s.pending ∧ t.mem.bytes = s.mem.bytes := by
  intro t h; simp only [execStDelete, Host.Outcome.next.injEq] at h; subst h
  exact takeCommand_keeps rulesStDelete_keeps p s

theorem rulesStReadStatus_keeps (p : Packet) (s : State) : (rulesStReadStatus.run p s).keeps s := by
  simp only [rulesStReadStatus, Result.keeps, and_self]

theorem execStReadStatus_keeps (p : Packet) (s : State) :
    ∀ t, execStReadStatus p s = .next t → t.pending = s.pending ∧ t.mem.bytes = s.mem.bytes := by
  intro t h; simp only [execStReadStatus, Host.Outcome.next.injEq] at h; subst h
  exact takeCommand_keeps rulesStReadStatus_keeps p s

end Sys2Proof.Machine
end

