-- ==== Sys2Proof/Laws/KeepTime.lean ====
section
/-! SUPPORT. What the front end, the survey and the timebase leave as they are: the queue of commands and the bytes of the capture memory. A definition that
writes memory bytes has two lemmas instead: its queue is unchanged, and the memory keeps its canonical form. -/

namespace Sys2Proof.Machine
open Sys2Proof
set_option linter.unusedSimpArgs false
set_option linter.unusedVariables false

theorem followGuards_keeps (s : State) :
    (followGuards s).pending = s.pending ∧ (followGuards s).mem.bytes = s.mem.bytes := by
  simp only [followGuards, and_self]

theorem recordFrontEnd_keeps (x : Change) (f : Nat) (s : State) :
    (recordFrontEnd x f s).pending = s.pending ∧ (recordFrontEnd x f s).mem.bytes = s.mem.bytes := by
  simp only [recordFrontEnd, and_self]

theorem disturb_keeps (is : List Nat) (b : Nat) (s : State) :
    (disturb is b s).pending = s.pending ∧ (disturb is b s).mem.bytes = s.mem.bytes := by
  simp only [disturb, and_self]

theorem settleFrontEnd_keeps (old new : FeConfig) (f : Nat) (s : State) :
    (settleFrontEnd old new f s).pending = s.pending ∧ (settleFrontEnd old new f s).mem.bytes = s.mem.bytes := by
  unfold settleFrontEnd
  repeat' first
    | (constructor <;> with_reducible rfl)
    | with_reducible assumption
    | (simp only [abortOverlap_keeps, disturb_keeps, mark_keeps, settle_keeps, and_self]; done)
    | (with_reducible refine foldl_keeps_of ?_ ?_; intro _ _)
    | split
    | (simp only [abortOverlap_keeps, disturb_keeps, mark_keeps, settle_keeps, and_self])

theorem complianceFrame_keeps (obs : FrontEndObs) (i : Fin 128) (s : State) :
    (complianceFrame obs i s).pending = s.pending ∧ (complianceFrame obs i s).mem.bytes = s.mem.bytes := by
  unfold complianceFrame
  (repeat' split) <;> simp only [countLedger_keeps, crit_keeps, info_keeps, and_self]

theorem driverFrame_keeps (obs : FrontEndObs) (b : Fin 32) (s : State) :
    (driverFrame obs b s).pending = s.pending ∧ (driverFrame obs b s).mem.bytes = s.mem.bytes := by
  unfold driverFrame
  dsimp only
  (repeat' split) <;> simp only [crit_keeps, and_self]

theorem diagResult_keeps (r : DiagReq) (status : Nat) (value : BitVec 24) (s : State) :
    (diagResult r status value s).pending = s.pending ∧ (diagResult r status value s).mem.bytes = s.mem.bytes := by
  unfold diagResult
  (repeat' split) <;> simp only [crit_keeps, settle_keeps, and_self]

theorem scheduleRepeat_keeps (r : DiagReq) (t : Nat) (s : State) :
    (scheduleRepeat r t s).pending = s.pending ∧ (scheduleRepeat r t s).mem.bytes = s.mem.bytes := by
  unfold scheduleRepeat
  (repeat' split) <;> simp only [and_self]

theorem diagMarks_keeps (r : DiagReq) (t : Nat) (s : State) :
    (diagMarks r t s).pending = s.pending ∧ (diagMarks r t s).mem.bytes = s.mem.bytes := by
  unfold diagMarks
  (repeat' split) <;> simp only [mark_keeps, and_self]

theorem passTurn_keeps (r : DiagReq) (s : State) :
    (passTurn r s).pending = s.pending ∧ (passTurn r s).mem.bytes = s.mem.bytes := by
  simp only [passTurn]
  split <;> simp only [settle_keeps, and_self]

theorem startDiagnostics_keeps (t : Nat) : ∀ (n : Nat) (s : State),
    (startDiagnostics t n s).pending = s.pending ∧ (startDiagnostics t n s).mem.bytes = s.mem.bytes
  | 0, _ => ⟨rfl, rfl⟩
  | n + 1, s => by
    unfold startDiagnostics
    split
    · dsimp only
      split
      · split
        · simp only [startDiagnostics_keeps t n, diagResult_keeps, scheduleRepeat_keeps, and_self]
        · simp only [diagMarks_keeps, scheduleRepeat_keeps, and_self]
      · simp only [startDiagnostics_keeps t n, passTurn_keeps, scheduleRepeat_keeps, and_self]
    · exact ⟨rfl, rfl⟩

theorem runDiagnostics_keeps (t : Nat) (s : State) :
    (runDiagnostics t s).pending = s.pending ∧ (runDiagnostics t s).mem.bytes = s.mem.bytes := by
  simp only [runDiagnostics, startDiagnostics_keeps, and_self]

theorem endDiagnostic_keeps (r : DiagRun) (abandoned : Bool) (status : Nat) (value : BitVec 24) (s : State) :
    (endDiagnostic r abandoned status value s).pending = s.pending
      ∧ (endDiagnostic r abandoned status value s).mem.bytes = s.mem.bytes := by
  unfold endDiagnostic
  (repeat' split) <;> simp only [diagResult_keeps, disturb_keeps, mark_keeps, settle_keeps, and_self]

theorem execDiagnosticRunEnd_keeps (overRange : Bool) (value : BitVec 24) (s : State) :
    ∀ t, execDiagnosticRunEnd overRange value s = .next t → t.pending = s.pending ∧ t.mem.bytes = s.mem.bytes := by
  intro t h; simp only [execDiagnosticRunEnd, Host.Outcome.next.injEq] at h; subst h
  (repeat' split) <;> simp only [endDiagnostic_keeps, runDiagnostics_keeps, and_self]

theorem execDiagnosticRepeatDue_keeps (slot : Fin 8) (s : State) :
    ∀ t, execDiagnosticRepeatDue slot s = .next t → t.pending = s.pending ∧ t.mem.bytes = s.mem.bytes := by
  intro t h; simp only [execDiagnosticRepeatDue, Host.Outcome.next.injEq] at h; subst h
  (repeat' split) <;> simp only [runDiagnostics_keeps, and_self]

theorem clearSlot_keeps (k : Fin 8) (s : State) :
    (clearSlot k s).pending = s.pending ∧ (clearSlot k s).mem.bytes = s.mem.bytes := by
  simp only [clearSlot, and_self]

theorem queueDiagnostic_keeps (r : DiagReq) (s : State) :
    (queueDiagnostic r s).pending = s.pending ∧ (queueDiagnostic r s).mem.bytes = s.mem.bytes := by
  simp only [queueDiagnostic]
  split <;> simp only [clearSlot_keeps, and_self]

theorem modSv_keeps (v : Fin 4) (f : Survey → Survey) (s : State) :
    (modSv v f s).pending = s.pending ∧ (modSv v f s).mem.bytes = s.mem.bytes := by
  simp only [modSv, and_self]

theorem judgeSlots_keeps (s : State) : (judgeSlots s).pending = s.pending ∧ (judgeSlots s).mem.bytes = s.mem.bytes := by
  unfold judgeSlots
  repeat' first
    | (constructor <;> with_reducible rfl)
    | with_reducible assumption
    | (simp only [modSv_keeps, and_self]; done)
    | (with_reducible refine foldl_keeps_of ?_ ?_; intro _ _)
    | split
    | (simp only [modSv_keeps, and_self])

theorem isolationMark_keeps (k : MarkKind) (p : Nat) (m : BitVec 256) (t : Nat) (s : State) :
    (isolationMark k p m t s).pending = s.pending ∧ (isolationMark k p m t s).mem.bytes = s.mem.bytes := by
  simp only [isolationMark]
  split <;> simp only [and_self]

theorem holdSwitches_keeps (p : Nat) (s : State) :
    (holdSwitches p s).pending = s.pending ∧ (holdSwitches p s).mem.bytes = s.mem.bytes := by
  simp only [holdSwitches, and_self]

theorem stopHalves_keeps (is : List Nat) (s : State) :
    (stopHalves is s).pending = s.pending ∧ (stopHalves is s).mem.bytes = s.mem.bytes := by
  simp only [stopHalves]
  split <;> simp only [and_self]

theorem isolatePort_keeps (port : Fin 128) (mask : BitVec 4) (polarity : Bool) (s : State) :
    (isolatePort port mask polarity s).pending = s.pending
      ∧ (isolatePort port mask polarity s).mem.bytes = s.mem.bytes := by
  unfold isolatePort
  dsimp only
  (repeat' split) <;> simp only [abortOverlap_keeps, holdSwitches_keeps, isolationMark_keeps, judgeSlots_keeps, stopHalves_keeps, and_self]

theorem latchPort_keeps (port : Fin 128) (s : State) :
    (latchPort port s).pending = s.pending ∧ (latchPort port s).mem.bytes = s.mem.bytes := by
  simp only [latchPort]
  split <;> simp only [crit_keeps, and_self]

theorem abandonOn_keeps (port : Fin 128) (s : State) :
    (abandonOn port s).pending = s.pending ∧ (abandonOn port s).mem.bytes = s.mem.bytes := by
  unfold abandonOn
  (repeat' split) <;> simp only [endDiagnostic_keeps, and_self]

theorem execOvTrip_keeps (port : Fin 128) (mask : BitVec 4) (polarity : Bool) (s : State) :
    ∀ t, execOvTrip port mask polarity s = .next t → t.pending = s.pending ∧ t.mem.bytes = s.mem.bytes := by
  intro t h; simp only [execOvTrip, Host.Outcome.next.injEq] at h; subst h
  split <;> simp only [abandonOn_keeps, isolatePort_keeps, latchPort_keeps, and_self]

theorem execRecloseHoldExpiry_keeps (port : Fin 128) (s : State) :
    ∀ t, execRecloseHoldExpiry port s = .next t → t.pending = s.pending ∧ t.mem.bytes = s.mem.bytes := by
  intro t h; simp only [execRecloseHoldExpiry, Host.Outcome.next.injEq] at h; subst h
  split <;> simp only [and_self]

theorem tripFrame_keeps (x : Trip) (s : State) :
    (tripFrame x s).pending = s.pending ∧ (tripFrame x s).mem.bytes = s.mem.bytes := by
  simp only [tripFrame, countLedger_keeps, crit_keeps, and_self]

theorem closeIsolation_keeps (p t : Nat) (s : State) :
    (closeIsolation p t s).pending = s.pending ∧ (closeIsolation p t s).mem.bytes = s.mem.bytes := by
  simp only [closeIsolation, and_self]

theorem reclosePort_keeps (p f : Nat) (s : State) :
    (reclosePort p f s).pending = s.pending ∧ (reclosePort p f s).mem.bytes = s.mem.bytes := by
  simp only [reclosePort, closeIsolation_keeps, disturb_keeps, judgeSlots_keeps, mark_keeps, settle_keeps, and_self]

theorem isolationFrame_keeps (f : Nat) (s : State) :
    (isolationFrame f s).pending = s.pending ∧ (isolationFrame f s).mem.bytes = s.mem.bytes := by
  unfold isolationFrame
  repeat' first
    | (constructor <;> with_reducible rfl)
    | with_reducible assumption
    | (simp only [info_keeps, reclosePort_keeps, tripFrame_keeps, and_self]; done)
    | (with_reducible refine foldl_keeps_of ?_ ?_; intro _ _)
    | split

theorem applyRelease_keeps (p : Fin 128) (f : Nat) (s : State) :
    (applyRelease p f s).pending = s.pending ∧ (applyRelease p f s).mem.bytes = s.mem.bytes := by
  simp only [applyRelease]
  split <;> simp only [reclosePort_keeps, and_self]

theorem observeFrontEnd_keeps (obs : FrontEndObs) (s : State) :
    (observeFrontEnd obs s).pending = s.pending ∧ (observeFrontEnd obs s).mem.bytes = s.mem.bytes := by
  unfold observeFrontEnd
  repeat' first
    | (constructor <;> with_reducible rfl)
    | with_reducible assumption
    | (simp only [complianceFrame_keeps, driverFrame_keeps, and_self]; done)
    | (with_reducible refine foldl_keeps_of ?_ ?_; intro _ _)

theorem rulesFeSet_keeps (op : Op) (n : Nat) (mask : Word) (change : Packet → Change) (p : Packet) (s : State) :
    ((rulesFeSet op n mask change).run p s).keeps s := by
  show (stageFrontEnd p (change p) s).keeps s
  unfold stageFrontEnd
  cases applyBoundary true p (p.w64 1) s with
  | error r => trivial
  | ok f =>
    dsimp only
    cases conflictWord ((stagedConfig f s).with (change p)) (testBusHeld s) with
    | some w => trivial
    | none => exact stage_keeps _ _ _

theorem rulesFeSetConnections_keeps (p : Packet) (s : State) :
    (rulesFeSetConnections.run p s).keeps s :=
  rulesFeSet_keeps _ _ _ _ p s

theorem execFeSetConnections_keeps (p : Packet) (s : State) :
    ∀ t, execFeSetConnections p s = .next t → t.pending = s.pending ∧ t.mem.bytes = s.mem.bytes := by
  intro t h; simp only [execFeSetConnections, Host.Outcome.next.injEq] at h; subst h
  exact takeCommand_keeps rulesFeSetConnections_keeps p s

theorem rulesFeSetExcitation_keeps (p : Packet) (s : State) :
    (rulesFeSetExcitation.run p s).keeps s :=
  rulesFeSet_keeps _ _ _ _ p s

theorem execFeSetExcitation_keeps (p : Packet) (s : State) :
    ∀ t, execFeSetExcitation p s = .next t → t.pending = s.pending ∧ t.mem.bytes = s.mem.bytes := by
  intro t h; simp only [execFeSetExcitation, Host.Outcome.next.injEq] at h; subst h
  exact takeCommand_keeps rulesFeSetExcitation_keeps p s

theorem rulesFeSetBiasGuard_keeps (p : Packet) (s : State) :
    (rulesFeSetBiasGuard.run p s).keeps s :=
  rulesFeSet_keeps _ _ _ _ p s

theorem execFeSetBiasGuard_keeps (p : Packet) (s : State) :
    ∀ t, execFeSetBiasGuard p s = .next t → t.pending = s.pending ∧ t.mem.bytes = s.mem.bytes := by
  intro t h; simp only [execFeSetBiasGuard, Host.Outcome.next.injEq] at h; subst h
  exact takeCommand_keeps rulesFeSetBiasGuard_keeps p s

theorem rulesFeSetOvervoltage_keeps (p : Packet) (s : State) : (rulesFeSetOvervoltage.run p s).keeps s := by
  simp only [rulesFeSetOvervoltage, Result.keeps, stage_keeps, and_self]

theorem execFeSetOvervoltage_keeps (p : Packet) (s : State) :
    ∀ t, execFeSetOvervoltage p s = .next t → t.pending = s.pending ∧ t.mem.bytes = s.mem.bytes := by
  intro t h; simp only [execFeSetOvervoltage, Host.Outcome.next.injEq] at h; subst h
  exact takeCommand_keeps rulesFeSetOvervoltage_keeps p s

theorem rulesFeRunDiagnostic_keeps (p : Packet) (s : State) : (rulesFeRunDiagnostic.run p s).keeps s := by
  simp only [rulesFeRunDiagnostic]
  (repeat' split) <;> simp only [Result.keeps, clearSlot_keeps, queueDiagnostic_keeps, stage_keeps, and_self]

theorem execFeRunDiagnostic_keeps (p : Packet) (s : State) :
    ∀ t, execFeRunDiagnostic p s = .next t → t.pending = s.pending ∧ t.mem.bytes = s.mem.bytes := by
  intro t h; simp only [execFeRunDiagnostic, Host.Outcome.next.injEq] at h; subst h
  exact takeCommand_keeps rulesFeRunDiagnostic_keeps p s

theorem rulesFeReadStatus_keeps (p : Packet) (s : State) : (rulesFeReadStatus.run p s).keeps s := by
  simp only [rulesFeReadStatus, Result.keeps, and_self]

theorem execFeReadStatus_keeps (p : Packet) (s : State) :
    ∀ t, execFeReadStatus p s = .next t → t.pending = s.pending ∧ t.mem.bytes = s.mem.bytes := by
  intro t h; simp only [execFeReadStatus, Host.Outcome.next.injEq] at h; subst h
  exact takeCommand_keeps rulesFeReadStatus_keeps p s

theorem rulesFeReleaseIsolation_keeps (p : Packet) (s : State) : (rulesFeReleaseIsolation.run p s).keeps s := by
  simp only [rulesFeReleaseIsolation]
  (repeat' split) <;> simp only [Result.keeps, stage_keeps, and_self]

theorem execFeReleaseIsolation_keeps (p : Packet) (s : State) :
    ∀ t, execFeReleaseIsolation p s = .next t → t.pending = s.pending ∧ t.mem.bytes = s.mem.bytes := by
  intro t h; simp only [execFeReleaseIsolation, Host.Outcome.next.injEq] at h; subst h
  exact takeCommand_keeps rulesFeReleaseIsolation_keeps p s

theorem rulesFeReadConnections_keeps (p : Packet) (s : State) : (rulesFeReadConnections.run p s).keeps s := by
  simp only [rulesFeReadConnections, Result.keeps, and_self]

theorem execFeReadConnections_keeps (p : Packet) (s : State) :
    ∀ t, execFeReadConnections p s = .next t → t.pending = s.pending ∧ t.mem.bytes = s.mem.bytes := by
  intro t h; simp only [execFeReadConnections, Host.Outcome.next.injEq] at h; subst h
  exact takeCommand_keeps rulesFeReadConnections_keeps p s

theorem beginEntry_keeps (v : Fin 4) (e : Fin 16) (at_ : Nat) (s : State) :
    (beginEntry v e at_ s).pending = s.pending ∧ (beginEntry v e at_ s).mem.bytes = s.mem.bytes := by
  simp only [beginEntry, modSv_keeps, and_self]

theorem startSequence_keeps (v : Fin 4) (s : State) :
    (startSequence v s).pending = s.pending ∧ (startSequence v s).mem.bytes = s.mem.bytes := by
  unfold startSequence
  dsimp only
  (repeat' split) <;> simp only [beginEntry_keeps, info_keeps, modSv_keeps, and_self]

theorem takeSequence_keeps (v : Fin 4) (w : Word) (es : Vector (Vector Word 5) 16) (s : State) :
    (takeSequence v w es s).pending = s.pending ∧ (takeSequence v w es s).mem.bytes = s.mem.bytes := by
  simp only [takeSequence]
  split <;> simp only [followReference_keeps, modSv_keeps, and_self]

theorem svStartEvent_keeps (src : Nat) (v : Fin 4) (s : State) :
    (svStartEvent src v s).pending = s.pending ∧ (svStartEvent src v s).mem.bytes = s.mem.bytes := by
  unfold svStartEvent
  dsimp only
  (repeat' split) <;> simp only [startSequence_keeps, takeSequence_keeps, and_self]

theorem svStart_keeps (src : Nat) (s : State) :
    (svStart src s).pending = s.pending ∧ (svStart src s).mem.bytes = s.mem.bytes := by
  unfold svStart
  exact foldl_keeps_of (fun _ _ => by simp only [svStartEvent_keeps, and_self]) ⟨rfl, rfl⟩

theorem execSurveyStartEvent_keeps (sv : Fin 4) (s : State) :
    ∀ t, execSurveyStartEvent sv s = .next t → t.pending = s.pending ∧ t.mem.bytes = s.mem.bytes := by
  intro t h; simp only [execSurveyStartEvent, Host.Outcome.next.injEq] at h; subst h
  simp only [svStartEvent_keeps, and_self]

theorem mainsReading_keeps (d x : Nat) (s : State) :
    (mainsReading d x s).pending = s.pending ∧ (mainsReading d x s).mem.bytes = s.mem.bytes := by
  unfold mainsReading
  dsimp only
  (repeat' split) <;> simp only [and_self]

theorem execMainsTrackerLoss_keeps (s : State) :
    ∀ t, execMainsTrackerLoss s = .next t → t.pending = s.pending ∧ t.mem.bytes = s.mem.bytes := by
  intro t h; simp only [execMainsTrackerLoss, Host.Outcome.next.injEq] at h; subst h
  split <;> simp only [advanceTo_keeps, crit_keeps, and_self]

theorem modResult_keeps (v : Fin 4) (e : Fin 16) (f : SurveyResult → SurveyResult) (s : State) :
    (modResult v e f s).pending = s.pending ∧ (modResult v e f s).mem.bytes = s.mem.bytes := by
  simp only [modResult, modSv_keeps, and_self]

theorem blockMean_keeps (v : Fin 4) (e : Fin 16) (mean : Int) (s : State) :
    (blockMean v e mean s).pending = s.pending ∧ (blockMean v e mean s).mem.bytes = s.mem.bytes := by
  unfold blockMean
  dsimp only
  (repeat' split) <;> simp only [crit_keeps, followReference_keeps, modResult_keeps, and_self]

theorem takeReading_keeps (v : Fin 4) (e : Fin 16) (mode1 : Bool) (endTick : Nat) (outside : Bool) (r : SurveyReading) (s : State) :
    (takeReading v e mode1 endTick outside r s).pending = s.pending
      ∧ (takeReading v e mode1 endTick outside r s).mem.bytes = s.mem.bytes := by
  unfold takeReading
  dsimp only
  (repeat' split) <;> simp only [blockMean_keeps, info_keeps, modResult_keeps, modSv_keeps, and_self]

theorem execSurveySlotEnd_keeps (sv : Fin 4) (readings : List SurveyReading) (outside : Bool) (s : State) :
    ∀ t, execSurveySlotEnd sv readings outside s = .next t → t.pending = s.pending ∧ t.mem.bytes = s.mem.bytes := by
  intro t h; simp only [execSurveySlotEnd, Host.Outcome.next.injEq] at h; subst h
  repeat' first
    | (constructor <;> with_reducible rfl)
    | with_reducible assumption
    | (simp only [advanceTo_keeps, beginEntry_keeps, mainsReading_keeps, modResult_keeps, modSv_keeps, settle_keeps, takeReading_keeps, and_self]; done)
    | (with_reducible refine foldl_keeps_of ?_ ?_; intro _ _)
    | split
    | (simp only [advanceTo_keeps, beginEntry_keeps, mainsReading_keeps, modResult_keeps, modSv_keeps, settle_keeps, takeReading_keeps, and_self])

theorem modTimer_keeps (t : Fin 8) (f : Timer → Timer) (s : State) :
    (modTimer t f s).pending = s.pending ∧ (modTimer t f s).mem.bytes = s.mem.bytes := by
  simp only [modTimer, and_self]

theorem driveBall_keeps (t : Fin 8) (s : State) :
    (driveBall t s).pending = s.pending ∧ (driveBall t s).mem.bytes = s.mem.bytes := by
  simp only [driveBall, and_self]

theorem applyTimer_keeps (t : Fin 8) (w : Word) (start : Nat) (period duty : Word) (f : Nat) (s : State) :
    (applyTimer t w start period duty f s).pending = s.pending
      ∧ (applyTimer t w start period duty f s).mem.bytes = s.mem.bytes := by
  simp only [applyTimer, driveBall_keeps, modTimer_keeps, and_self]

theorem execTimerTick_keeps (t : Fin 8) (s : State) :
    ∀ u, execTimerTick t s = .next u → u.pending = s.pending ∧ u.mem.bytes = s.mem.bytes := by
  intro t h; simp only [execTimerTick, Host.Outcome.next.injEq] at h; subst h
  split <;> simp only [advanceTo_keeps, driveBall_keeps, modTimer_keeps, svStart_keeps, timerTrigger_keeps, and_self]

theorem execPwmEdge_keeps (t : Fin 8) (s : State) :
    ∀ u, execPwmEdge t s = .next u → u.pending = s.pending ∧ u.mem.bytes = s.mem.bytes := by
  intro t h; simp only [execPwmEdge, Host.Outcome.next.injEq] at h; subst h
  (repeat' split) <;> simp only [advanceTo_keeps, driveBall_keeps, modTimer_keeps, svStart_keeps, timerTrigger_keeps, and_self]

theorem rulesCvSetChannels_keeps (p : Packet) (s : State) : (rulesCvSetChannels.run p s).keeps s := by
  simp only [rulesCvSetChannels]
  (repeat' split) <;> simp only [Result.keeps, stage_keeps, and_self]

theorem execCvSetChannels_keeps (p : Packet) (s : State) :
    ∀ t, execCvSetChannels p s = .next t → t.pending = s.pending ∧ t.mem.bytes = s.mem.bytes := by
  intro t h; simp only [execCvSetChannels, Host.Outcome.next.injEq] at h; subst h
  exact takeCommand_keeps rulesCvSetChannels_keeps p s

theorem rulesCvReadMap_keeps (p : Packet) (s : State) : (rulesCvReadMap.run p s).keeps s := by
  simp only [rulesCvReadMap, Result.keeps, and_self]

theorem execCvReadMap_keeps (p : Packet) (s : State) :
    ∀ t, execCvReadMap p s = .next t → t.pending = s.pending ∧ t.mem.bytes = s.mem.bytes := by
  intro t h; simp only [execCvReadMap, Host.Outcome.next.injEq] at h; subst h
  exact takeCommand_keeps rulesCvReadMap_keeps p s

theorem rulesCvRetireModulator_keeps (p : Packet) (s : State) : (rulesCvRetireModulator.run p s).keeps s := by
  simp only [rulesCvRetireModulator]
  split <;> simp only [Result.keeps, failModulator_keeps, retire_keeps, stage_keeps, and_self]

theorem execCvRetireModulator_keeps (p : Packet) (s : State) :
    ∀ t, execCvRetireModulator p s = .next t → t.pending = s.pending ∧ t.mem.bytes = s.mem.bytes := by
  intro t h; simp only [execCvRetireModulator, Host.Outcome.next.injEq] at h; subst h
  exact takeCommand_keeps rulesCvRetireModulator_keeps p s

theorem execClampFailureDetect_keeps (m : Fin 288) (s : State) :
    ∀ t, execClampFailureDetect m s = .next t → t.pending = s.pending ∧ t.mem.bytes = s.mem.bytes := by
  intro t h; simp only [execClampFailureDetect, Host.Outcome.next.injEq] at h; subst h
  (repeat' split) <;> simp only [failModulator_keeps, and_self]

theorem rulesSvSetSequence_keeps (p : Packet) (s : State) : (rulesSvSetSequence.run p s).keeps s := by
  simp only [rulesSvSetSequence, Result.keeps, stage_keeps, and_self]

theorem execSvSetSequence_keeps (p : Packet) (s : State) :
    ∀ t, execSvSetSequence p s = .next t → t.pending = s.pending ∧ t.mem.bytes = s.mem.bytes := by
  intro t h; simp only [execSvSetSequence, Host.Outcome.next.injEq] at h; subst h
  exact takeCommand_keeps rulesSvSetSequence_keeps p s

theorem applySequence_keeps (v : Fin 4) (w : Word) (es : Vector (Vector Word 5) 16) (s : State) :
    (applySequence v w es s).pending = s.pending ∧ (applySequence v w es s).mem.bytes = s.mem.bytes := by
  simp only [applySequence, modSv_keeps, and_self]

theorem rulesSvStart_keeps (p : Packet) (s : State) : (rulesSvStart.run p s).keeps s := by
  simp only [rulesSvStart]
  (repeat' split) <;> simp only [Result.keeps, stage_keeps, svStart_keeps, svStartEvent_keeps, and_self]

theorem execSvStart_keeps (p : Packet) (s : State) :
    ∀ t, execSvStart p s = .next t → t.pending = s.pending ∧ t.mem.bytes = s.mem.bytes := by
  intro t h; simp only [execSvStart, Host.Outcome.next.injEq] at h; subst h
  exact takeCommand_keeps rulesSvStart_keeps p s

theorem rulesSvReadAccum_keeps (p : Packet) (s : State) : (rulesSvReadAccum.run p s).keeps s := by
  simp only [rulesSvReadAccum]
  split <;> simp only [Result.keeps, modSv_keeps, and_self]

theorem execSvReadAccum_keeps (p : Packet) (s : State) :
    ∀ t, execSvReadAccum p s = .next t → t.pending = s.pending ∧ t.mem.bytes = s.mem.bytes := by
  intro t h; simp only [execSvReadAccum, Host.Outcome.next.injEq] at h; subst h
  exact takeCommand_keeps rulesSvReadAccum_keeps p s

theorem rulesTmrSet_keeps (p : Packet) (s : State) : (rulesTmrSet.run p s).keeps s := by
  simp only [rulesTmrSet]
  split <;> simp only [Result.keeps, stage_keeps, and_self]

theorem execTmrSet_keeps (p : Packet) (s : State) :
    ∀ t, execTmrSet p s = .next t → t.pending = s.pending ∧ t.mem.bytes = s.mem.bytes := by
  intro t h; simp only [execTmrSet, Host.Outcome.next.injEq] at h; subst h
  exact takeCommand_keeps rulesTmrSet_keeps p s

theorem rulesTmrRead_keeps (p : Packet) (s : State) : (rulesTmrRead.run p s).keeps s := by
  simp only [rulesTmrRead, Result.keeps, and_self]

theorem execTmrRead_keeps (p : Packet) (s : State) :
    ∀ t, execTmrRead p s = .next t → t.pending = s.pending ∧ t.mem.bytes = s.mem.bytes := by
  intro t h; simp only [execTmrRead, Host.Outcome.next.injEq] at h; subst h
  exact takeCommand_keeps rulesTmrRead_keeps p s

theorem applyTimeStep_keeps (t : TimeStep) (f : Nat) (s : State) :
    (applyTimeStep t f s).pending = s.pending ∧ (applyTimeStep t f s).mem.bytes = s.mem.bytes := by
  simp only [applyTimeStep]
  split <;> simp only [info_keeps, and_self]

theorem calendarLeap_keeps (back : Bool) (s : State) :
    (calendarLeap back s).pending = s.pending ∧ (calendarLeap back s).mem.bytes = s.mem.bytes := by
  simp only [calendarLeap]
  split <;> simp only [and_self]

theorem execLeapSecond_keeps (s : State) :
    ∀ t, execLeapSecond s = .next t → t.pending = s.pending ∧ t.mem.bytes = s.mem.bytes := by
  intro t h; simp only [execLeapSecond, Host.Outcome.next.injEq] at h; subst h
  (repeat' split) <;> simp only [calendarLeap_keeps, and_self]

theorem applySources_keeps (w0 w1 : Word) (s : State) :
    (applySources w0 w1 s).pending = s.pending ∧ (applySources w0 w1 s).mem.bytes = s.mem.bytes := by
  simp only [applySources, and_self]

theorem applyHoldover_keeps (w0 w1 w2 : Word) (s : State) :
    (applyHoldover w0 w1 w2 s).pending = s.pending ∧ (applyHoldover w0 w1 w2 s).mem.bytes = s.mem.bytes := by
  simp only [applyHoldover, and_self]

theorem applyMains_keeps (w0 w1 : Word) (s : State) :
    (applyMains w0 w1 s).pending = s.pending ∧ (applyMains w0 w1 s).mem.bytes = s.mem.bytes := by
  simp only [applyMains, and_self]

theorem applyBeaconWord_keeps (w : Word) (s : State) :
    (applyBeaconWord w s).pending = s.pending ∧ (applyBeaconWord w s).mem.bytes = s.mem.bytes := by
  simp only [applyBeaconWord, and_self]

theorem loseRefclk_keeps (s : State) : (loseRefclk s).pending = s.pending ∧ (loseRefclk s).mem.bytes = s.mem.bytes := by
  simp only [loseRefclk]
  split <;> simp only [crit_keeps, and_self]

theorem qualifyRefclk_keeps (o : TimebaseObs) (s : State) :
    (qualifyRefclk o s).pending = s.pending ∧ (qualifyRefclk o s).mem.bytes = s.mem.bytes := by
  unfold qualifyRefclk
  dsimp only
  (repeat' split) <;> simp only [loseRefclk_keeps, and_self]

theorem execRefclkLoss_keeps (s : State) :
    ∀ t, execRefclkLoss s = .next t → t.pending = s.pending ∧ t.mem.bytes = s.mem.bytes := by
  intro t h; simp only [execRefclkLoss, Host.Outcome.next.injEq] at h; subst h
  simp only [loseRefclk_keeps, and_self]

theorem execDriftModelLearn_keeps (ybar tdie : Int) (s : State) :
    ∀ t, execDriftModelLearn ybar tdie s = .next t → t.pending = s.pending ∧ t.mem.bytes = s.mem.bytes := by
  intro t h; simp only [execDriftModelLearn, Host.Outcome.next.injEq] at h; subst h
  split <;> simp only [and_self]

theorem holdoverFrameStep_keeps (f : Nat) (s : State) :
    (holdoverFrameStep f s).pending = s.pending ∧ (holdoverFrameStep f s).mem.bytes = s.mem.bytes := by
  unfold holdoverFrameStep
  dsimp only
  (repeat' split) <;> simp only [crit_keeps, and_self]

theorem enterAcquiring_keeps (offset : Rat) (s : State) :
    (enterAcquiring offset s).pending = s.pending ∧ (enterAcquiring offset s).mem.bytes = s.mem.bytes := by
  simp only [enterAcquiring, info_keeps, and_self]

theorem enterLocked_keeps (f : Nat) (s : State) :
    (enterLocked f s).pending = s.pending ∧ (enterLocked f s).mem.bytes = s.mem.bytes := by
  simp only [enterLocked, info_keeps, and_self]

theorem enterMismatch_keeps (offset : Rat) (s : State) :
    (enterMismatch offset s).pending = s.pending ∧ (enterMismatch offset s).mem.bytes = s.mem.bytes := by
  simp only [enterMismatch]
  split <;> simp only [crit_keeps, and_self]

theorem enterHoldover_keeps (f : Nat) (s : State) :
    (enterHoldover f s).pending = s.pending ∧ (enterHoldover f s).mem.bytes = s.mem.bytes := by
  simp only [enterHoldover, crit_keeps, and_self]

theorem followOffset_keeps (offset : Rat) (f : Nat) (s : State) :
    (followOffset offset f s).pending = s.pending ∧ (followOffset offset f s).mem.bytes = s.mem.bytes := by
  unfold followOffset
  dsimp only
  (repeat' split) <;> simp only [enterAcquiring_keeps, enterMismatch_keeps, and_self]

theorem changeRef_keeps (o : TimebaseObs) (r : Ref) (f : Nat) (s : State) :
    (changeRef o r f s).pending = s.pending ∧ (changeRef o r f s).mem.bytes = s.mem.bytes := by
  simp only [changeRef, followOffset_keeps, info_keeps, and_self]

theorem acquiringStep_keeps (f : Nat) (s : State) :
    (acquiringStep f s).pending = s.pending ∧ (acquiringStep f s).mem.bytes = s.mem.bytes := by
  unfold acquiringStep
  dsimp only
  (repeat' split) <;> simp only [enterLocked_keeps, and_self]

theorem lockedStep_keeps (s : State) : (lockedStep s).pending = s.pending ∧ (lockedStep s).mem.bytes = s.mem.bytes := by
  unfold lockedStep
  dsimp only
  (repeat' split) <;> simp only [enterAcquiring_keeps, and_self]

theorem followRef_keeps (o : TimebaseObs) (f : Nat) (s : State) :
    (followRef o f s).pending = s.pending ∧ (followRef o f s).mem.bytes = s.mem.bytes := by
  unfold followRef
  dsimp only
  (repeat' split) <;> simp only [acquiringStep_keeps, enterAcquiring_keeps, lockedStep_keeps, and_self]

theorem markHoldover_keeps (f : Nat) (s : State) :
    (markHoldover f s).pending = s.pending ∧ (markHoldover f s).mem.bytes = s.mem.bytes := by
  simp only [markHoldover]
  split <;> simp only [mark_keeps, and_self]

theorem adaptNotches_keeps (o : TimebaseObs) (s : State) :
    (adaptNotches o s).pending = s.pending ∧ (adaptNotches o s).mem.bytes = s.mem.bytes := by
  unfold adaptNotches
  (repeat' split) <;> simp only [and_self]

theorem timebaseFrame_keeps (o : TimebaseObs) (moved : Bool) (f : Nat) (s : State) :
    (timebaseFrame o moved f s).pending = s.pending ∧ (timebaseFrame o moved f s).mem.bytes = s.mem.bytes := by
  unfold timebaseFrame
  dsimp only
  (repeat' split) <;> simp only [adaptNotches_keeps, changeRef_keeps, enterHoldover_keeps, followRef_keeps, holdoverFrameStep_keeps, markHoldover_keeps, and_self]

theorem startTimebase_keeps (t0 : Nat) (r : Ref) (s : State) :
    (startTimebase t0 r s).pending = s.pending ∧ (startTimebase t0 r s).mem.bytes = s.mem.bytes := by
  simp only [startTimebase]
  split <;> simp only [enterAcquiring_keeps, enterLocked_keeps, and_self]

theorem rulesTbSetSources_keeps (p : Packet) (s : State) : (rulesTbSetSources.run p s).keeps s := by
  simp only [rulesTbSetSources, Result.keeps, stage_keeps, and_self]

theorem execTbSetSources_keeps (p : Packet) (s : State) :
    ∀ t, execTbSetSources p s = .next t → t.pending = s.pending ∧ t.mem.bytes = s.mem.bytes := by
  intro t h; simp only [execTbSetSources, Host.Outcome.next.injEq] at h; subst h
  exact takeCommand_keeps rulesTbSetSources_keeps p s

theorem rulesTbSetTime_keeps (p : Packet) (s : State) : (rulesTbSetTime.run p s).keeps s := by
  simp only [rulesTbSetTime]
  (repeat' split) <;> simp only [Result.keeps, stage_keeps, and_self]

theorem execTbSetTime_keeps (p : Packet) (s : State) :
    ∀ t, execTbSetTime p s = .next t → t.pending = s.pending ∧ t.mem.bytes = s.mem.bytes := by
  intro t h; simp only [execTbSetTime, Host.Outcome.next.injEq] at h; subst h
  exact takeCommand_keeps rulesTbSetTime_keeps p s

theorem rulesTbReadStatus_keeps (p : Packet) (s : State) : (rulesTbReadStatus.run p s).keeps s := by
  simp only [rulesTbReadStatus, Result.keeps, and_self]

theorem execTbReadStatus_keeps (p : Packet) (s : State) :
    ∀ t, execTbReadStatus p s = .next t → t.pending = s.pending ∧ t.mem.bytes = s.mem.bytes := by
  intro t h; simp only [execTbReadStatus, Host.Outcome.next.injEq] at h; subst h
  exact takeCommand_keeps rulesTbReadStatus_keeps p s

theorem rulesTbSetHoldover_keeps (p : Packet) (s : State) : (rulesTbSetHoldover.run p s).keeps s := by
  simp only [rulesTbSetHoldover, Result.keeps, stage_keeps, and_self]

theorem execTbSetHoldover_keeps (p : Packet) (s : State) :
    ∀ t, execTbSetHoldover p s = .next t → t.pending = s.pending ∧ t.mem.bytes = s.mem.bytes := by
  intro t h; simp only [execTbSetHoldover, Host.Outcome.next.injEq] at h; subst h
  exact takeCommand_keeps rulesTbSetHoldover_keeps p s

theorem rulesTbSetMains_keeps (p : Packet) (s : State) : (rulesTbSetMains.run p s).keeps s := by
  simp only [rulesTbSetMains, Result.keeps, stage_keeps, and_self]

theorem execTbSetMains_keeps (p : Packet) (s : State) :
    ∀ t, execTbSetMains p s = .next t → t.pending = s.pending ∧ t.mem.bytes = s.mem.bytes := by
  intro t h; simp only [execTbSetMains, Host.Outcome.next.injEq] at h; subst h
  exact takeCommand_keeps rulesTbSetMains_keeps p s

theorem rulesTbReadMains_keeps (p : Packet) (s : State) : (rulesTbReadMains.run p s).keeps s := by
  simp only [rulesTbReadMains, Result.keeps, and_self]

theorem execTbReadMains_keeps (p : Packet) (s : State) :
    ∀ t, execTbReadMains p s = .next t → t.pending = s.pending ∧ t.mem.bytes = s.mem.bytes := by
  intro t h; simp only [execTbReadMains, Host.Outcome.next.injEq] at h; subst h
  exact takeCommand_keeps rulesTbReadMains_keeps p s

end Sys2Proof.Machine
end

