-- ==== Sys2Proof/Laws/KeepRing.lean ====
section
/-! SUPPORT. What the ring, the beacon, the pair and the lanes leave as they are: the queue of commands and the bytes of the capture memory. A definition that
writes memory bytes has two lemmas instead: its queue is unchanged, and the memory keeps its canonical form. -/

namespace Sys2Proof.Machine
open Sys2Proof
set_option linter.unusedSimpArgs false
set_option linter.unusedVariables false

theorem modTransfer_keeps (g : Fin 3) (f : SideState → SideState) (s : State) :
    (modTransfer g f s).pending = s.pending ∧ (modTransfer g f s).mem.bytes = s.mem.bytes := by
  unfold modTransfer
  (repeat' split) <;> simp only [and_self]

theorem sendTiming_keeps (l : Fin 16) (type : Byte) (x : BitVec 56) (s : State) :
    (sendTiming l type x s).pending = s.pending ∧ (sendTiming l type x s).mem.bytes = s.mem.bytes := by
  simp only [sendTiming, modLane_keeps, and_self]

theorem sendControl_keeps (g : Fin 3) (x : BitVec 56) (s : State) :
    (sendControl g x s).pending = s.pending ∧ (sendControl g x s).mem.bytes = s.mem.bytes := by
  simp only [sendControl]
  split <;> simp only [sendTiming_keeps, and_self]

theorem steerOn_keeps (g : Fin 3) (theta : Rat) (s : State) :
    (steerOn g theta s).pending = s.pending ∧ (steerOn g theta s).mem.bytes = s.mem.bytes := by
  unfold steerOn
  dsimp only
  (repeat' split) <;> simp only [modTransfer_keeps, and_self]

theorem completeExchange_keeps (g : Fin 3) (t1 t4 : Nat) (s : State) :
    (completeExchange g t1 t4 s).pending = s.pending ∧ (completeExchange g t1 t4 s).mem.bytes = s.mem.bytes := by
  unfold completeExchange
  dsimp only
  (repeat' split) <;> simp only [modTransfer_keeps, steerOn_keeps, and_self]

theorem execSyncReceive_keeps (side : Fin 3) (seq : BitVec 4) (stamp departure : Nat) (s : State) :
    ∀ t, execSyncReceive side seq stamp departure s = .next t → t.pending = s.pending ∧ t.mem.bytes = s.mem.bytes := by
  intro t h; simp only [execSyncReceive, Host.Outcome.next.injEq] at h; subst h
  simp only [modTransfer_keeps, sendControl_keeps, and_self]

theorem execFollowReceive_keeps (side : Fin 3) (seq : BitVec 4) (t1 : Nat) (s : State) :
    ∀ t, execFollowReceive side seq t1 s = .next t → t.pending = s.pending ∧ t.mem.bytes = s.mem.bytes := by
  intro t h; simp only [execFollowReceive, Host.Outcome.next.injEq] at h; subst h
  split <;> simp only [modTransfer_keeps, and_self]

theorem execDreqReceive_keeps (side : Fin 3) (seq : BitVec 4) (stamp : Nat) (s : State) :
    ∀ t, execDreqReceive side seq stamp s = .next t → t.pending = s.pending ∧ t.mem.bytes = s.mem.bytes := by
  intro t h; simp only [execDreqReceive, Host.Outcome.next.injEq] at h; subst h
  split <;> simp only [sendControl_keeps, and_self]

theorem execDrespReceive_keeps (side : Fin 3) (seq : BitVec 4) (t4 : Nat) (s : State) :
    ∀ t, execDrespReceive side seq t4 s = .next t → t.pending = s.pending ∧ t.mem.bytes = s.mem.bytes := by
  intro t h; simp only [execDrespReceive, Host.Outcome.next.injEq] at h; subst h
  (repeat' split) <;> simp only [completeExchange_keeps, and_self]

theorem execStateReceive_keeps (side : Fin 3) (index : Fin 8) (data : BitVec 48) (s : State) :
    ∀ t, execStateReceive side index data s = .next t → t.pending = s.pending ∧ t.mem.bytes = s.mem.bytes := by
  intro t h; simp only [execStateReceive, Host.Outcome.next.injEq] at h; subst h
  simp only [modTransfer_keeps, and_self]

theorem beginExchange_keeps (g : Fin 3) (f : Nat) (s : State) :
    (beginExchange g f s).pending = s.pending ∧ (beginExchange g f s).mem.bytes = s.mem.bytes := by
  unfold beginExchange
  repeat' first
    | (constructor <;> with_reducible rfl)
    | with_reducible assumption
    | (simp only [modTransfer_keeps, sendControl_keeps, and_self]; done)
    | (with_reducible refine foldl_keeps_of ?_ ?_; intro _ _)
    | split

theorem ringReference_keeps (s : State) :
    (ringReference s).pending = s.pending ∧ (ringReference s).mem.bytes = s.mem.bytes := by
  simp only [ringReference, and_self]

theorem peerReference_keeps (s : State) :
    (peerReference s).pending = s.pending ∧ (peerReference s).mem.bytes = s.mem.bytes := by
  simp only [peerReference, and_self]

theorem followTime_keeps (f : Nat) (s : State) :
    (followTime f s).pending = s.pending ∧ (followTime f s).mem.bytes = s.mem.bytes := by
  unfold followTime
  dsimp only
  (repeat' split) <;> simp only [applyTimeStep_keeps, stage_keeps, and_self]

theorem updateRingState_keeps (s : State) :
    (updateRingState s).pending = s.pending ∧ (updateRingState s).mem.bytes = s.mem.bytes := by
  unfold updateRingState
  dsimp only
  (repeat' split) <;> simp only [crit_keeps, and_self]

theorem updateStable_keeps (s : State) :
    (updateStable s).pending = s.pending ∧ (updateStable s).mem.bytes = s.mem.bytes := by
  unfold updateStable
  dsimp only
  (repeat' split) <;> simp only [and_self]

theorem refuseHub_keeps (cause : BitVec 2) (uid : Nat) (s : State) :
    (refuseHub cause uid s).pending = s.pending ∧ (refuseHub cause uid s).mem.bytes = s.mem.bytes := by
  simp only [refuseHub]
  split <;> simp only [crit_keeps, and_self]

theorem takeMaster_keeps (a : Announce) (lost : Bool) (s : State) :
    (takeMaster a lost s).pending = s.pending ∧ (takeMaster a lost s).mem.bytes = s.mem.bytes := by
  simp only [takeMaster]
  split <;> simp only [and_self]

theorem changeMaster_keeps (a : Announce) (cause : Nat) (s : State) :
    (changeMaster a cause s).pending = s.pending ∧ (changeMaster a cause s).mem.bytes = s.mem.bytes := by
  simp only [changeMaster, info_keeps, takeMaster_keeps, and_self]

theorem formRing_keeps (a : Announce) (s : State) :
    (formRing a s).pending = s.pending ∧ (formRing a s).mem.bytes = s.mem.bytes := by
  simp only [formRing, info_keeps, takeMaster_keeps, and_self]

theorem offerHandover_keeps (s : State) :
    (offerHandover s).pending = s.pending ∧ (offerHandover s).mem.bytes = s.mem.bytes := by
  unfold offerHandover
  (repeat' split) <;> simp only [send_keeps, and_self]

theorem compareGenerations_keeps (s : State) :
    (compareGenerations s).pending = s.pending ∧ (compareGenerations s).mem.bytes = s.mem.bytes := by
  unfold compareGenerations
  dsimp only
  (repeat' split) <;> simp only [crit_keeps, and_self]

theorem leaveRing_keeps (gone : List HubId) (s : State) :
    (leaveRing gone s).pending = s.pending ∧ (leaveRing gone s).mem.bytes = s.mem.bytes := by
  simp only [leaveRing, and_self]

theorem noteMember_keeps (d : Side) (a : Announce) (s : State) :
    (noteMember d a s).pending = s.pending ∧ (noteMember d a s).mem.bytes = s.mem.bytes := by
  unfold noteMember
  dsimp only
  (repeat' split) <;> simp only [leaveRing_keeps, and_self]

theorem refusalCheck_keeps (a : Announce) (s : State) :
    (refusalCheck a s).pending = s.pending ∧ (refusalCheck a s).mem.bytes = s.mem.bytes := by
  unfold refusalCheck
  (repeat' split) <;> simp only [refuseHub_keeps, and_self]

theorem personalityCheck_keeps (a : Announce) (s : State) :
    (personalityCheck a s).pending = s.pending ∧ (personalityCheck a s).mem.bytes = s.mem.bytes := by
  simp only [personalityCheck]
  split <;> simp only [refuseHub_keeps, and_self]

theorem heedMaster_keeps (a : Announce) (s : State) :
    (heedMaster a s).pending = s.pending ∧ (heedMaster a s).mem.bytes = s.mem.bytes := by
  unfold heedMaster
  dsimp only
  (repeat' split) <;> simp only [formRing_keeps, takeMaster_keeps, and_self]

theorem execAnnounce_keeps (side : Side) (a : Announce) (s : State) :
    ∀ t, execAnnounce side a s = .next t → t.pending = s.pending ∧ t.mem.bytes = s.mem.bytes := by
  intro t h; simp only [execAnnounce, Host.Outcome.next.injEq] at h; subst h
  (repeat' split) <;> simp only [compareGenerations_keeps, heedMaster_keeps, noteMember_keeps, offerHandover_keeps, personalityCheck_keeps, refusalCheck_keeps, updateRingState_keeps, updateStable_keeps, and_self]

theorem pruneMembers_keeps (s : State) :
    (pruneMembers s).pending = s.pending ∧ (pruneMembers s).mem.bytes = s.mem.bytes := by
  simp only [pruneMembers, leaveRing_keeps, and_self]

theorem execAnnouncePeriod_keeps (s : State) :
    ∀ t, execAnnouncePeriod s = .next t → t.pending = s.pending ∧ t.mem.bytes = s.mem.bytes := by
  intro t h; simp only [execAnnouncePeriod, Host.Outcome.next.injEq] at h; subst h
  (repeat' split) <;> simp only [compareGenerations_keeps, offerHandover_keeps, pruneMembers_keeps, refuseHub_keeps, send_keeps, updateRingState_keeps, updateStable_keeps, and_self]

theorem electMaster_keeps (s : State) : (electMaster s).pending = s.pending ∧ (electMaster s).mem.bytes = s.mem.bytes := by
  unfold electMaster
  dsimp only
  (repeat' split) <;> simp only [changeMaster_keeps, leaveRing_keeps, updateRingState_keeps, and_self]

theorem execMasterLost_keeps (s : State) :
    ∀ t, execMasterLost s = .next t → t.pending = s.pending ∧ t.mem.bytes = s.mem.bytes := by
  intro t h; simp only [execMasterLost, Host.Outcome.next.injEq] at h; subst h
  (repeat' split) <;> simp only [electMaster_keeps, and_self]

theorem execFormingTimeout_keeps (s : State) :
    ∀ t, execFormingTimeout s = .next t → t.pending = s.pending ∧ t.mem.bytes = s.mem.bytes := by
  intro t h; simp only [execFormingTimeout, Host.Outcome.next.injEq] at h; subst h
  (repeat' split) <;> simp only [formRing_keeps, and_self]

theorem execHandover_keeps (newMaster : HubId) (h : Nat) (s : State) :
    ∀ t, execHandover newMaster h s = .next t → t.pending = s.pending ∧ t.mem.bytes = s.mem.bytes := by
  intro t h; simp only [execHandover, Host.Outcome.next.injEq] at h; subst h
  simp only [and_self]

theorem execRingHandoverBoundary_keeps (s : State) :
    ∀ t, execRingHandoverBoundary s = .next t → t.pending = s.pending ∧ t.mem.bytes = s.mem.bytes := by
  intro t h; simp only [execRingHandoverBoundary, Host.Outcome.next.injEq] at h; subst h
  (repeat' split) <;> simp only [advanceTo_keeps, changeMaster_keeps, and_self]

theorem modSide_keeps (d : Side) (f : SideState → SideState) (s : State) :
    (modSide d f s).pending = s.pending ∧ (modSide d f s).mem.bytes = s.mem.bytes := by
  simp only [modSide, modTransfer_keeps, and_self]

theorem sideUp_keeps (d : Side) (s : State) : (sideUp d s).pending = s.pending ∧ (sideUp d s).mem.bytes = s.mem.bytes := by
  simp only [sideUp]
  split <;> simp only [modSide_keeps, updateRingState_keeps, and_self]

theorem sideDown_keeps (d : Side) (s : State) :
    (sideDown d s).pending = s.pending ∧ (sideDown d s).mem.bytes = s.mem.bytes := by
  simp only [sideDown]
  split <;> simp only [countLedger_keeps, crit_keeps, modSide_keeps, send_keeps, updateRingState_keeps, and_self]

theorem execWrap_keeps (reporter : HubId) (side : Side) (s : State) :
    ∀ t, execWrap reporter side s = .next t → t.pending = s.pending ∧ t.mem.bytes = s.mem.bytes := by
  intro t h; simp only [execWrap, Host.Outcome.next.injEq] at h; subst h
  split <;> simp only [updateRingState_keeps, and_self]

theorem execSideStable_keeps (side : Side) (s : State) :
    ∀ t, execSideStable side s = .next t → t.pending = s.pending ∧ t.mem.bytes = s.mem.bytes := by
  intro t h; simp only [execSideStable, Host.Outcome.next.injEq] at h; subst h
  split <;> simp only [modSide_keeps, send_keeps, and_self]

theorem execUnwrap_keeps (reporter : HubId) (side : Side) (u : Nat) (s : State) :
    ∀ t, execUnwrap reporter side u s = .next t → t.pending = s.pending ∧ t.mem.bytes = s.mem.bytes := by
  intro t h; simp only [execUnwrap, Host.Outcome.next.injEq] at h; subst h
  split <;> simp only [modSide_keeps, updateRingState_keeps, and_self]

theorem execUnwrapBoundary_keeps (side : Side) (s : State) :
    ∀ t, execUnwrapBoundary side s = .next t → t.pending = s.pending ∧ t.mem.bytes = s.mem.bytes := by
  intro t h; simp only [execUnwrapBoundary, Host.Outcome.next.injEq] at h; subst h
  split <;> simp only [advanceTo_keeps, info_keeps, modSide_keeps, updateRingState_keeps, and_self]

theorem setAsym_keeps (d : Side) (m : Option AsymMeasure) (s : State) :
    (setAsym d m s).pending = s.pending ∧ (setAsym d m s).mem.bytes = s.mem.bytes := by
  simp only [setAsym]
  split <;> simp only [and_self]

theorem finishAsym_keeps (d : Side) (m : AsymMeasure) (s : State) :
    (finishAsym d m s).pending = s.pending ∧ (finishAsym d m s).mem.bytes = s.mem.bytes := by
  simp only [finishAsym]
  split <;> simp only [info_keeps, modSide_keeps, setAsym_keeps, and_self]

theorem pairFlash_keeps (d : Side) (own other : Flash) (m : AsymMeasure) (s : State) :
    (pairFlash d own other m s).pending = s.pending ∧ (pairFlash d own other m s).mem.bytes = s.mem.bytes := by
  simp only [pairFlash]
  split <;> simp only [finishAsym_keeps, setAsym_keeps, and_self]

theorem sendEdge_keeps (d : Side) (f : Flash) (s : State) :
    (sendEdge d f s).pending = s.pending ∧ (sendEdge d f s).mem.bytes = s.mem.bytes := by
  simp only [sendEdge, send_keeps, and_self]

theorem setAsked_keeps (d : Side) (q : Option EdgeAsk) (s : State) :
    (setAsked d q s).pending = s.pending ∧ (setAsked d q s).mem.bytes = s.mem.bytes := by
  simp only [setAsked]
  split <;> simp only [and_self]

theorem ownFlash_keeps (d : Side) (f : Flash) (s : State) :
    (ownFlash d f s).pending = s.pending ∧ (ownFlash d f s).mem.bytes = s.mem.bytes := by
  unfold ownFlash
  (repeat' split) <;> simp only [pairFlash_keeps, sendEdge_keeps, setAsked_keeps, setAsym_keeps, and_self]

theorem askEdge_keeps (d : Side) (f : Flash) (s : State) :
    (askEdge d f s).pending = s.pending ∧ (askEdge d f s).mem.bytes = s.mem.bytes := by
  unfold askEdge
  (repeat' split) <;> simp only [sendEdge_keeps, setAsked_keeps, and_self]

theorem execEdgeReport_keeps (side : Side) (srcId : Word) (edgeTime edge64 : Nat) (s : State) :
    ∀ t, execEdgeReport side srcId edgeTime edge64 s = .next t → t.pending = s.pending ∧ t.mem.bytes = s.mem.bytes := by
  intro t h; simp only [execEdgeReport, Host.Outcome.next.injEq] at h; subst h
  (repeat' split) <;> simp only [askEdge_keeps, pairFlash_keeps, setAsym_keeps, and_self]

theorem ringFrame_keeps (f : Nat) (s : State) :
    (ringFrame f s).pending = s.pending ∧ (ringFrame f s).mem.bytes = s.mem.bytes := by
  simp only [ringFrame]
  split <;> simp only [electMaster_keeps, formRing_keeps, peerReference_keeps, ringReference_keeps, updateStable_keeps, and_self]

theorem rulesRingSetPolicy_keeps (p : Packet) (s : State) : (rulesRingSetPolicy.run p s).keeps s := by
  simp only [rulesRingSetPolicy, Result.keeps, stage_keeps, and_self]

theorem execRingSetPolicy_keeps (p : Packet) (s : State) :
    ∀ t, execRingSetPolicy p s = .next t → t.pending = s.pending ∧ t.mem.bytes = s.mem.bytes := by
  intro t h; simp only [execRingSetPolicy, Host.Outcome.next.injEq] at h; subst h
  exact takeCommand_keeps rulesRingSetPolicy_keeps p s

theorem rulesRingSetHop_keeps (p : Packet) (s : State) : (rulesRingSetHop.run p s).keeps s := by
  simp only [rulesRingSetHop, Result.keeps, stage_keeps, and_self]

theorem execRingSetHop_keeps (p : Packet) (s : State) :
    ∀ t, execRingSetHop p s = .next t → t.pending = s.pending ∧ t.mem.bytes = s.mem.bytes := by
  intro t h; simp only [execRingSetHop, Host.Outcome.next.injEq] at h; subst h
  exact takeCommand_keeps rulesRingSetHop_keeps p s

theorem rulesRingSetIdentity_keeps (p : Packet) (s : State) : (rulesRingSetIdentity.run p s).keeps s := by
  simp only [rulesRingSetIdentity, Result.keeps, and_self]

theorem execRingSetIdentity_keeps (p : Packet) (s : State) :
    ∀ t, execRingSetIdentity p s = .next t → t.pending = s.pending ∧ t.mem.bytes = s.mem.bytes := by
  intro t h; simp only [execRingSetIdentity, Host.Outcome.next.injEq] at h; subst h
  exact takeCommand_keeps rulesRingSetIdentity_keeps p s

theorem rulesRingReadStatus_keeps (p : Packet) (s : State) : (rulesRingReadStatus.run p s).keeps s := by
  simp only [rulesRingReadStatus, Result.keeps, and_self]

theorem execRingReadStatus_keeps (p : Packet) (s : State) :
    ∀ t, execRingReadStatus p s = .next t → t.pending = s.pending ∧ t.mem.bytes = s.mem.bytes := by
  intro t h; simp only [execRingReadStatus, Host.Outcome.next.injEq] at h; subst h
  exact takeCommand_keeps rulesRingReadStatus_keeps p s

theorem rulesRingReadHop_keeps (p : Packet) (s : State) : (rulesRingReadHop.run p s).keeps s := by
  simp only [rulesRingReadHop, Result.keeps, and_self]

theorem execRingReadHop_keeps (p : Packet) (s : State) :
    ∀ t, execRingReadHop p s = .next t → t.pending = s.pending ∧ t.mem.bytes = s.mem.bytes := by
  intro t h; simp only [execRingReadHop, Host.Outcome.next.injEq] at h; subst h
  exact takeCommand_keeps rulesRingReadHop_keeps p s

theorem rulesRingAsymMeasure_keeps (p : Packet) (s : State) : (rulesRingAsymMeasure.run p s).keeps s := by
  simp only [rulesRingAsymMeasure, Result.keeps, setAsym_keeps, and_self]

theorem execRingAsymMeasure_keeps (p : Packet) (s : State) :
    ∀ t, execRingAsymMeasure p s = .next t → t.pending = s.pending ∧ t.mem.bytes = s.mem.bytes := by
  intro t h; simp only [execRingAsymMeasure, Host.Outcome.next.injEq] at h; subst h
  exact takeCommand_keeps rulesRingAsymMeasure_keeps p s

theorem modBeacon_keeps (f : Beacon → Beacon) (s : State) :
    (modBeacon f s).pending = s.pending ∧ (modBeacon f s).mem.bytes = s.mem.bytes := by
  simp only [modBeacon, and_self]

theorem beaconAuthFail_keeps (type counter : Nat) (s : State) :
    (beaconAuthFail type counter s).pending = s.pending ∧ (beaconAuthFail type counter s).mem.bytes = s.mem.bytes := by
  simp only [beaconAuthFail, crit_keeps, modBeacon_keeps, and_self]

theorem beaconSteer_keeps (f : BeaconFrame) (e : Rat) (s : State) :
    (beaconSteer f e s).pending = s.pending ∧ (beaconSteer f e s).mem.bytes = s.mem.bytes := by
  unfold beaconSteer
  (repeat' split) <;> simp only [stage_keeps, and_self]

theorem beaconTime_keeps (f : BeaconFrame) (s : State) :
    (beaconTime f s).pending = s.pending ∧ (beaconTime f s).mem.bytes = s.mem.bytes := by
  unfold beaconTime
  dsimp only
  (repeat' split) <;> simp only [beaconSteer_keeps, info_keeps, modBeacon_keeps, ownFlash_keeps, and_self]

theorem beaconCommand_keeps (f : BeaconFrame) (s : State) :
    (beaconCommand f s).pending = s.pending ∧ (beaconCommand f s).mem.bytes = s.mem.bytes := by
  unfold beaconCommand
  dsimp only
  (repeat' split) <;> simp only [beaconAuthFail_keeps, info_keeps, modBeacon_keeps, and_self]

theorem beaconReceive_keeps (f : BeaconFrame) (s : State) :
    (beaconReceive f s).pending = s.pending ∧ (beaconReceive f s).mem.bytes = s.mem.bytes := by
  unfold beaconReceive
  repeat' first
    | (constructor <;> with_reducible rfl)
    | with_reducible assumption
    | (simp only [beaconAuthFail_keeps, beaconCommand_keeps, beaconTime_keeps, modBeacon_keeps, and_self]; done)
    | split
    | (simp only [beaconAuthFail_keeps, beaconCommand_keeps, beaconTime_keeps, modBeacon_keeps, and_self])

theorem execBeaconTimeFrame_keeps (f : BeaconFrame) (s : State) :
    ∀ t, execBeaconTimeFrame f s = .next t → t.pending = s.pending ∧ t.mem.bytes = s.mem.bytes := by
  intro t h; simp only [execBeaconTimeFrame, Host.Outcome.next.injEq] at h; subst h
  simp only [beaconReceive_keeps, and_self]

theorem execBeaconCommandFrame_keeps (f : BeaconFrame) (s : State) :
    ∀ t, execBeaconCommandFrame f s = .next t → t.pending = s.pending ∧ t.mem.bytes = s.mem.bytes := by
  intro t h; simp only [execBeaconCommandFrame, Host.Outcome.next.injEq] at h; subst h
  simp only [beaconReceive_keeps, and_self]

theorem execBeaconSlotClose_keeps (s : State) :
    ∀ t, execBeaconSlotClose s = .next t → t.pending = s.pending ∧ t.mem.bytes = s.mem.bytes := by
  intro t h; simp only [execBeaconSlotClose, Host.Outcome.next.injEq] at h; subst h
  (repeat' split) <;> simp only [advanceTo_keeps, crit_keeps, modBeacon_keeps, and_self]

theorem rulesBcnSet_keeps (p : Packet) (s : State) : (rulesBcnSet.run p s).keeps s := by
  simp only [rulesBcnSet, Result.keeps, stage_keeps, and_self]

theorem execBcnSet_keeps (p : Packet) (s : State) :
    ∀ t, execBcnSet p s = .next t → t.pending = s.pending ∧ t.mem.bytes = s.mem.bytes := by
  intro t h; simp only [execBcnSet, Host.Outcome.next.injEq] at h; subst h
  exact takeCommand_keeps rulesBcnSet_keeps p s

theorem rulesBcnRead_keeps (p : Packet) (s : State) : (rulesBcnRead.run p s).keeps s := by
  simp only [rulesBcnRead, Result.keeps, and_self]

theorem execBcnRead_keeps (p : Packet) (s : State) :
    ∀ t, execBcnRead p s = .next t → t.pending = s.pending ∧ t.mem.bytes = s.mem.bytes := by
  intro t h; simp only [execBcnRead, Host.Outcome.next.injEq] at h; subst h
  exact takeCommand_keeps rulesBcnRead_keeps p s

theorem modPair_keeps (f : Pair → Pair) (s : State) :
    (modPair f s).pending = s.pending ∧ (modPair f s).mem.bytes = s.mem.bytes := by
  simp only [modPair, and_self]

theorem bumpEpoch_keeps (e : Word) (s : State) :
    (bumpEpoch e s).pending = s.pending ∧ (bumpEpoch e s).mem.bytes = s.mem.bytes := by
  simp only [bumpEpoch, countLedger_keeps, and_self]

theorem markRamps_keeps (is : List Nat) (d : Nat) (s : State) :
    (markRamps is d s).pending = s.pending ∧ (markRamps is d s).mem.bytes = s.mem.bytes := by
  simp only [markRamps, disturb_keeps, mark_keeps, and_self]

theorem setHalves_keeps (is : List Nat) (h : Half) (s : State) :
    (setHalves is h s).pending = s.pending ∧ (setHalves is h s).mem.bytes = s.mem.bytes := by
  simp only [setHalves, modPair_keeps, and_self]

theorem rampSources_keeps (is : List Nat) (d : Nat) (s : State) :
    (rampSources is d s).pending = s.pending ∧ (rampSources is d s).mem.bytes = s.mem.bytes := by
  simp only [rampSources, markRamps_keeps, modPair_keeps, setHalves_keeps, and_self]

theorem rampAll_keeps (d : Nat) (s : State) :
    (rampAll d s).pending = s.pending ∧ (rampAll d s).mem.bytes = s.mem.bytes := by
  simp only [rampAll]
  split <;> simp only [rampSources_keeps, and_self]

theorem splitFrame_keeps (s : State) : (splitFrame s).pending = s.pending ∧ (splitFrame s).mem.bytes = s.mem.bytes := by
  simp only [splitFrame]
  split <;> simp only [modPair_keeps, and_self]

theorem witnessFrame_keeps (f : Nat) (obs : List (Fin 128 × Int)) (s : State) :
    (witnessFrame f obs s).pending = s.pending ∧ (witnessFrame f obs s).mem.bytes = s.mem.bytes := by
  simp only [witnessFrame]
  split <;> simp only [modPair_keeps, and_self]

theorem splitRestore_keeps (f : Nat) (s : State) :
    (splitRestore f s).pending = s.pending ∧ (splitRestore f s).mem.bytes = s.mem.bytes := by
  simp only [splitRestore, disturb_keeps, info_keeps, mark_keeps, modPair_keeps, setHalves_keeps, and_self]

theorem setPState_keeps (st : PState) (s : State) :
    (setPState st s).pending = s.pending ∧ (setPState st s).mem.bytes = s.mem.bytes := by
  unfold setPState
  repeat' first
    | with_reducible assumption
    | (simp only [mark_keeps, modPair_keeps, noteMoment_keeps, and_self]; done)
    | split
    | (simp only [mark_keeps, modPair_keeps, noteMoment_keeps, and_self])

theorem enterHold_keeps (cause : Nat) (s : State) :
    (enterHold cause s).pending = s.pending ∧ (enterHold cause s).mem.bytes = s.mem.bytes := by
  simp only [enterHold, crit_keeps, setPState_keeps, and_self]

theorem takeAlone_keeps (d : Nat) (s : State) :
    (takeAlone d s).pending = s.pending ∧ (takeAlone d s).mem.bytes = s.mem.bytes := by
  simp only [takeAlone, bumpEpoch_keeps, rampAll_keeps, setPState_keeps, and_self]

theorem applyTransition_keeps (s : State) :
    (applyTransition s).pending = s.pending ∧ (applyTransition s).mem.bytes = s.mem.bytes := by
  unfold applyTransition
  dsimp only
  (repeat' split) <;> simp only [bumpEpoch_keeps, crit_keeps, enterHold_keeps, modPair_keeps, setPState_keeps, and_self]

theorem dueState_keeps (st : Option PState) (s : State) :
    (dueState st s).pending = s.pending ∧ (dueState st s).mem.bytes = s.mem.bytes := by
  simp only [dueState]
  split <;> simp only [modPair_keeps, and_self]

theorem beatAt_keeps (t : Nat) (s : State) : (beatAt t s).pending = s.pending ∧ (beatAt t s).mem.bytes = s.mem.bytes := by
  unfold beatAt
  repeat' first
    | (constructor <;> with_reducible rfl)
    | with_reducible assumption
    | (simp only [modPair_keeps, sendTiming_keeps, and_self]; done)
    | (with_reducible refine foldl_keeps_of ?_ ?_; intro _ _)
    | split
    | (simp only [modPair_keeps, sendTiming_keeps, and_self])

theorem execHeartbeatPeriod_keeps (s : State) :
    ∀ t, execHeartbeatPeriod s = .next t → t.pending = s.pending ∧ t.mem.bytes = s.mem.bytes := by
  intro t h; simp only [execHeartbeatPeriod, Host.Outcome.next.injEq] at h; subst h
  split <;> simp only [advanceTo_keeps, beatAt_keeps, and_self]

theorem graceBeats_keeps (s : State) : (graceBeats s).pending = s.pending ∧ (graceBeats s).mem.bytes = s.mem.bytes := by
  unfold graceBeats
  repeat' first
    | (constructor <;> with_reducible rfl)
    | with_reducible assumption
    | (simp only [beatAt_keeps, and_self])
    | (with_reducible refine foldl_keeps_of ?_ ?_; intro _ _)
    | split

theorem modPath_keeps (hbx : Bool) (f : BeatPath → BeatPath) (s : State) :
    (modPath hbx f s).pending = s.pending ∧ (modPath hbx f s).mem.bytes = s.mem.bytes := by
  simp only [modPath]
  split <;> simp only [modPair_keeps, and_self]

theorem conflictBeat_keeps (hbx : Bool) (s : State) :
    (conflictBeat hbx s).pending = s.pending ∧ (conflictBeat hbx s).mem.bytes = s.mem.bytes := by
  unfold conflictBeat
  dsimp only
  (repeat' split) <;> simp only [crit_keeps, modPair_keeps, modPath_keeps, and_self]

theorem aliveBeat_keeps (hbx : Bool) (start : Nat) (s : State) :
    (aliveBeat hbx start s).pending = s.pending ∧ (aliveBeat hbx start s).mem.bytes = s.mem.bytes := by
  simp only [aliveBeat]
  split <;> simp only [info_keeps, modPath_keeps, and_self]

theorem acknowledgeRecords_keeps (seq : BitVec 8) (s : State) :
    (acknowledgeRecords seq s).pending = s.pending ∧ (acknowledgeRecords seq s).mem.bytes = s.mem.bytes := by
  simp only [acknowledgeRecords]
  split <;> simp only [modPair_keeps, and_self]

theorem mergeBeat_keeps (b : BeatInfo) (s : State) :
    (mergeBeat b s).pending = s.pending ∧ (mergeBeat b s).mem.bytes = s.mem.bytes := by
  unfold mergeBeat
  dsimp only
  (repeat' split) <;> simp only [info_keeps, modPair_keeps, setPState_keeps, and_self]

theorem beatTransition_keeps (b : BeatInfo) (s : State) :
    (beatTransition b s).pending = s.pending ∧ (beatTransition b s).mem.bytes = s.mem.bytes := by
  unfold beatTransition
  dsimp only
  split <;> (repeat' split) <;>
    simp only [dueState_keeps, crit_keeps, setPState_keeps, modPair_keeps, bumpEpoch_keeps, mergeBeat_keeps, and_self]

theorem sendFragment_keeps (last : Bool) (rseq : BitVec 16) (r : Option Nat) (packet : List Word) (s : State) :
    (sendFragment last rseq r packet s).pending = s.pending
      ∧ (sendFragment last rseq r packet s).mem.bytes = s.mem.bytes := by
  simp only [sendFragment, send_keeps, and_self]

theorem sendImage_keeps (b : BeatInfo) (s : State) :
    (sendImage b s).pending = s.pending ∧ (sendImage b s).mem.bytes = s.mem.bytes := by
  unfold sendImage
  repeat' first
    | (constructor <;> with_reducible rfl)
    | with_reducible assumption
    | (simp only [modPair_keeps, send_keeps, sendFragment_keeps, and_self]; done)
    | (with_reducible refine foldl_keeps_of ?_ ?_; intro _ _)
    | split
    | (simp only [modPair_keeps, send_keeps, sendFragment_keeps, and_self])

theorem announceResync_keeps (b : BeatInfo) (s : State) :
    (announceResync b s).pending = s.pending ∧ (announceResync b s).mem.bytes = s.mem.bytes := by
  simp only [announceResync]
  split <;> simp only [modPair_keeps, sendFragment_keeps, and_self]

theorem validBeat_keeps (hbx : Bool) (start : Nat) (b : BeatInfo) (s : State) :
    (validBeat hbx start b s).pending = s.pending ∧ (validBeat hbx start b s).mem.bytes = s.mem.bytes := by
  unfold validBeat
  dsimp only
  (repeat' split) <;> simp only [acknowledgeRecords_keeps, aliveBeat_keeps, announceResync_keeps, beatTransition_keeps, modPair_keeps, noteMoment_keeps, sendImage_keeps, and_self]

theorem execHbxBeatReceive_keeps (beat : BitVec 48) (manchester : Bool) (s : State) :
    ∀ t, execHbxBeatReceive beat manchester s = .next t → t.pending = s.pending ∧ t.mem.bytes = s.mem.bytes := by
  intro t h; simp only [execHbxBeatReceive, Host.Outcome.next.injEq] at h; subst h
  (repeat' split) <;> simp only [conflictBeat_keeps, validBeat_keeps, and_self]

theorem execPairHeartbeatReceive_keeps (beat : BitVec 56) (checked : Bool) (s : State) :
    ∀ t, execPairHeartbeatReceive beat checked s = .next t → t.pending = s.pending ∧ t.mem.bytes = s.mem.bytes := by
  intro t h; simp only [execPairHeartbeatReceive, Host.Outcome.next.injEq] at h; subst h
  (repeat' split) <;> simp only [conflictBeat_keeps, validBeat_keeps, and_self]

theorem peerFailed_keeps (d : Nat) (ev : Nat) (s : State) :
    (peerFailed d ev s).pending = s.pending ∧ (peerFailed d ev s).mem.bytes = s.mem.bytes := by
  simp only [peerFailed, crit_keeps, and_self]

theorem failPeer_keeps (d : Nat) (s : State) :
    (failPeer d s).pending = s.pending ∧ (failPeer d s).mem.bytes = s.mem.bytes := by
  unfold failPeer
  dsimp only
  (repeat' split) <;> simp only [enterHold_keeps, modPair_keeps, peerFailed_keeps, rampAll_keeps, setPState_keeps, takeAlone_keeps, and_self]

theorem pathsSilent_keeps (d : Nat) (s : State) :
    (pathsSilent d s).pending = s.pending ∧ (pathsSilent d s).mem.bytes = s.mem.bytes := by
  simp only [pathsSilent, advanceTo_keeps, dueState_keeps, modPair_keeps, and_self]

theorem execPathAliveExpiry_keeps (hbx : Bool) (s : State) :
    ∀ t, execPathAliveExpiry hbx s = .next t → t.pending = s.pending ∧ t.mem.bytes = s.mem.bytes := by
  intro t h; simp only [execPathAliveExpiry, Host.Outcome.next.injEq] at h; subst h
  (repeat' split) <;> simp only [advanceTo_keeps, crit_keeps, failPeer_keeps, modPath_keeps, pathsSilent_keeps, and_self]

theorem execPeerFailure_keeps (s : State) :
    ∀ t, execPeerFailure s = .next t → t.pending = s.pending ∧ t.mem.bytes = s.mem.bytes := by
  intro t h; simp only [execPeerFailure, Host.Outcome.next.injEq] at h; subst h
  split <;> simp only [failPeer_keeps, pathsSilent_keeps, and_self]

theorem execWitnessFire_keeps (source : Fin 128) (s : State) :
    ∀ t, execWitnessFire source s = .next t → t.pending = s.pending ∧ t.mem.bytes = s.mem.bytes := by
  intro t h; simp only [execWitnessFire, Host.Outcome.next.injEq] at h; subst h
  (repeat' split) <;> simp only [crit_keeps, modPair_keeps, rampSources_keeps, takeAlone_keeps, and_self]

theorem execWitnessReturn_keeps (source : Fin 128) (s : State) :
    ∀ t, execWitnessReturn source s = .next t → t.pending = s.pending ∧ t.mem.bytes = s.mem.bytes := by
  intro t h; simp only [execWitnessReturn, Host.Outcome.next.injEq] at h; subst h
  split <;> simp only [crit_keeps, markRamps_keeps, modPair_keeps, setHalves_keeps, and_self]

theorem execFollowerEngagement_keeps (basin : Fin 32) (s : State) :
    ∀ t, execFollowerEngagement basin s = .next t → t.pending = s.pending ∧ t.mem.bytes = s.mem.bytes := by
  intro t h; simp only [execFollowerEngagement, Host.Outcome.next.injEq] at h; subst h
  (repeat' split) <;> simp only [modPair_keeps, takeAlone_keeps, and_self]

theorem execJoinTimeout_keeps (s : State) :
    ∀ t, execJoinTimeout s = .next t → t.pending = s.pending ∧ t.mem.bytes = s.mem.bytes := by
  intro t h; simp only [execJoinTimeout, Host.Outcome.next.injEq] at h; subst h
  split <;> simp only [dueState_keeps, and_self]

theorem handoverAt_keeps (h : Nat) (s : State) :
    (handoverAt h s).pending = s.pending ∧ (handoverAt h s).mem.bytes = s.mem.bytes := by
  simp only [handoverAt]
  split <;> simp only [advanceTo_keeps, bumpEpoch_keeps, modPair_keeps, setPState_keeps, and_self]

theorem execPairHandoverBoundary_keeps (s : State) :
    ∀ t, execPairHandoverBoundary s = .next t → t.pending = s.pending ∧ t.mem.bytes = s.mem.bytes := by
  intro t h; simp only [execPairHandoverBoundary, Host.Outcome.next.injEq] at h; subst h
  (repeat' split) <;> simp only [handoverAt_keeps, and_self]

theorem execResyncImage_keeps (packets : List (List Word)) (last : Bool) (note : ImageNote) (s : State) :
    ∀ t, execResyncImage packets last note s = .next t → t.pending = s.pending ∧ t.mem.bytes = s.mem.bytes := by
  intro t h; simp only [execResyncImage, Host.Outcome.next.injEq] at h; subst h
  split <;> simp only [modPair_keeps, and_self]

theorem execSplitRestore_keeps (s : State) :
    ∀ t, execSplitRestore s = .next t → t.pending = s.pending ∧ t.mem.bytes = s.mem.bytes := by
  intro t h; simp only [execSplitRestore, Host.Outcome.next.injEq] at h; subst h
  (repeat' split) <;> simp only [advanceTo_keeps, splitRestore_keeps, and_self]

theorem divergeFrame_keeps (s : State) :
    (divergeFrame s).pending = s.pending ∧ (divergeFrame s).mem.bytes = s.mem.bytes := by
  unfold divergeFrame
  dsimp only
  (repeat' split) <;> simp only [crit_keeps, modPair_keeps, and_self]

theorem announcedFrame_keeps (f : Nat) (s : State) :
    (announcedFrame f s).pending = s.pending ∧ (announcedFrame f s).mem.bytes = s.mem.bytes := by
  unfold announcedFrame
  dsimp only
  (repeat' split) <;> simp only [handoverAt_keeps, modPair_keeps, splitRestore_keeps, and_self]

theorem announceRestore_keeps (f : Nat) (s : State) :
    (announceRestore f s).pending = s.pending ∧ (announceRestore f s).mem.bytes = s.mem.bytes := by
  simp only [announceRestore]
  split <;> simp only [modPair_keeps, and_self]

theorem recordsFrame_keeps (f : Nat) (s : State) :
    (recordsFrame f s).pending = s.pending ∧ (recordsFrame f s).mem.bytes = s.mem.bytes := by
  unfold recordsFrame
  (repeat' split) <;> simp only [modPair_keeps, and_self]

theorem pairFrame_keeps (f : Nat) (s : State) :
    (pairFrame f s).pending = s.pending ∧ (pairFrame f s).mem.bytes = s.mem.bytes := by
  unfold pairFrame
  (repeat' split) <;> simp only [announceRestore_keeps, announcedFrame_keeps, applyTransition_keeps, bumpEpoch_keeps, divergeFrame_keeps, modPair_keeps, noteMoment_keeps, recordsFrame_keeps, splitFrame_keeps, and_self]

theorem pairOnly_keeps {s : State} {r : Result} (h : r.keeps s) : (pairOnly s r).keeps s := by
  unfold pairOnly
  split
  · trivial
  · exact h

theorem rulesPairSetPolicy_keeps (p : Packet) (s : State) : (rulesPairSetPolicy.run p s).keeps s := by
  simp only [rulesPairSetPolicy]
  repeat' first
    | with_reducible exact trivial
    | with_reducible assumption
    | (simp only [stage_keeps, and_self, Result.keeps]; done)
    | (with_reducible refine pairOnly_keeps ?_)

theorem execPairSetPolicy_keeps (p : Packet) (s : State) :
    ∀ t, execPairSetPolicy p s = .next t → t.pending = s.pending ∧ t.mem.bytes = s.mem.bytes := by
  intro t h; simp only [execPairSetPolicy, Host.Outcome.next.injEq] at h; subst h
  exact takeCommand_keeps rulesPairSetPolicy_keeps p s

theorem rulesPairSetLink_keeps (p : Packet) (s : State) : (rulesPairSetLink.run p s).keeps s := by
  simp only [rulesPairSetLink]
  repeat' first
    | with_reducible exact trivial
    | with_reducible assumption
    | (simp only [stage_keeps, and_self, Result.keeps]; done)
    | (with_reducible refine pairOnly_keeps ?_)

theorem execPairSetLink_keeps (p : Packet) (s : State) :
    ∀ t, execPairSetLink p s = .next t → t.pending = s.pending ∧ t.mem.bytes = s.mem.bytes := by
  intro t h; simp only [execPairSetLink, Host.Outcome.next.injEq] at h; subst h
  exact takeCommand_keeps rulesPairSetLink_keeps p s

theorem rulesPairReadStatus_keeps (p : Packet) (s : State) : (rulesPairReadStatus.run p s).keeps s := by
  simp only [rulesPairReadStatus, Result.keeps, and_self]

theorem execPairReadStatus_keeps (p : Packet) (s : State) :
    ∀ t, execPairReadStatus p s = .next t → t.pending = s.pending ∧ t.mem.bytes = s.mem.bytes := by
  intro t h; simp only [execPairReadStatus, Host.Outcome.next.injEq] at h; subst h
  exact takeCommand_keeps rulesPairReadStatus_keeps p s

theorem rulesPairHandover_keeps (p : Packet) (s : State) : (rulesPairHandover.run p s).keeps s := by
  simp only [rulesPairHandover]
  repeat' first
    | with_reducible exact trivial
    | with_reducible assumption
    | (simp only [handoverAt_keeps, modPair_keeps, and_self, Result.keeps]; done)
    | (with_reducible refine pairOnly_keeps ?_)
    | split

theorem execPairHandover_keeps (p : Packet) (s : State) :
    ∀ t, execPairHandover p s = .next t → t.pending = s.pending ∧ t.mem.bytes = s.mem.bytes := by
  intro t h; simp only [execPairHandover, Host.Outcome.next.injEq] at h; subst h
  exact takeCommand_keeps rulesPairHandover_keeps p s

theorem rulesPairForceAuthority_keeps (p : Packet) (s : State) : (rulesPairForceAuthority.run p s).keeps s := by
  simp only [rulesPairForceAuthority]
  split <;> simp only [Result.keeps, modPair_keeps, and_self]

theorem execPairForceAuthority_keeps (p : Packet) (s : State) :
    ∀ t, execPairForceAuthority p s = .next t → t.pending = s.pending ∧ t.mem.bytes = s.mem.bytes := by
  intro t h; simp only [execPairForceAuthority, Host.Outcome.next.injEq] at h; subst h
  exact takeCommand_keeps rulesPairForceAuthority_keeps p s

theorem rulesPairMirrorRead_keeps (p : Packet) (s : State) : (rulesPairMirrorRead.run p s).keeps s := by
  simp only [rulesPairMirrorRead]
  repeat' first
    | with_reducible exact trivial
    | with_reducible assumption
    | (simp only [and_self, Result.keeps]; done)
    | (with_reducible refine pairOnly_keeps ?_)

theorem execPairMirrorRead_keeps (p : Packet) (s : State) :
    ∀ t, execPairMirrorRead p s = .next t → t.pending = s.pending ∧ t.mem.bytes = s.mem.bytes := by
  intro t h; simp only [execPairMirrorRead, Host.Outcome.next.injEq] at h; subst h
  exact takeCommand_keeps rulesPairMirrorRead_keeps p s

theorem laneEvent_keeps (i : Fin 8) (inst : Nat) (data : List Word) (s : State) :
    (laneEvent i inst data s).pending = s.pending ∧ (laneEvent i inst data s).mem.bytes = s.mem.bytes := by
  simp only [laneEvent, raiseEvent_keeps, and_self]

theorem moveErrors_keeps (l : Fin 16) (dTec dRec : Int) (s : State) :
    (moveErrors l dTec dRec s).pending = s.pending ∧ (moveErrors l dTec dRec s).mem.bytes = s.mem.bytes := by
  simp only [moveErrors, modLane_keeps, and_self]

theorem updateCautious_keeps (l : Fin 16) (s : State) :
    (updateCautious l s).pending = s.pending ∧ (updateCautious l s).mem.bytes = s.mem.bytes := by
  unfold updateCautious
  dsimp only
  (repeat' split) <;> simp only [laneEvent_keeps, modLane_keeps, and_self]

theorem resend_keeps (g : Fin 3) (c : Fin 4) (f : Sent → Bool) (s : State) :
    (resend g c f s).pending = s.pending ∧ (resend g c f s).mem.bytes = s.mem.bytes := by
  unfold resend
  repeat' first
    | (constructor <;> with_reducible rfl)
    | with_reducible assumption
    | (simp only [modLane_keeps, modLink_keeps, moveErrors_keeps, placeOn_keeps, and_self]; done)
    | (with_reducible refine foldl_keeps_of ?_ ?_; intro _ _)
    | split
    | (simp only [modLane_keeps, modLink_keeps, moveErrors_keeps, placeOn_keeps, and_self])

theorem spillOne_keeps (g : Fin 3) (l : Fin 16) (x : Sent) (s : State) :
    (spillOne g l x s).pending = s.pending ∧ (spillOne g l x s).mem.bytes = s.mem.bytes := by
  unfold spillOne
  dsimp only
  (repeat' split) <;> simp only [enqueue_keeps, laneEvent_keeps, modLane_keeps, modLink_keeps, and_self]

theorem releaseHeld_keeps (g : Fin 3) (s : State) :
    (releaseHeld g s).pending = s.pending ∧ (releaseHeld g s).mem.bytes = s.mem.bytes := by
  simp only [releaseHeld, modLink_keeps, and_self]

theorem strandOne_keeps (g : Fin 3) (c : Fin 4) (x : Sent) (s : State) :
    (strandOne g c x s).pending = s.pending ∧ (strandOne g c x s).mem.bytes = s.mem.bytes := by
  unfold strandOne
  dsimp only
  (repeat' split) <;> simp only [modLink_keeps, setPending_keeps, and_self]

theorem takeClass_keeps (g : Fin 3) (c : Fin 4) (s : State) :
    (takeClass g c s).2.pending = s.pending ∧ (takeClass g c s).2.mem.bytes = s.mem.bytes := by
  unfold takeClass
  simp only [modLink_keeps, and_self]

theorem groupDown_keeps (g : Fin 3) (l : Fin 16) (s : State) :
    (groupDown g l s).pending = s.pending ∧ (groupDown g l s).mem.bytes = s.mem.bytes := by
  have hz := takeClass_keeps g 0 s
  unfold groupDown
  rcases hk : takeClass g 0 s with ⟨zero, s1⟩
  rw [hk] at hz
  dsimp only at hz ⊢
  have h2 : (zero.foldl (fun t x => spillOne g l x t) s1).pending = s.pending
      ∧ (zero.foldl (fun t x => spillOne g l x t) s1).mem.bytes = s.mem.bytes :=
    foldl_keeps_of (fun t x => spillOne_keeps g l x t) hz
  split
  rotate_left
  split
  rotate_left
  all_goals
    (try rw [(sideDown_keeps _ _).1, (sideDown_keeps _ _).2])
    (try dsimp only)
    refine foldl_keeps_of ?_ h2
    intro t c
    have hc := takeClass_keeps g c t
    rcases hk2 : takeClass g c t with ⟨xs, t1⟩
    rw [hk2] at hc
    dsimp only at hc ⊢
    split
    · exact hc
    · split
      · exact foldl_keeps_of (fun t x => strandOne_keeps g c x t) hc
      · rw [(modLink_keeps _ _ _ _).1, (modLink_keeps _ _ _ _).2]
        exact hc

theorem adoptWaiting_keeps (g : Fin 3) (s : State) :
    (adoptWaiting g s).pending = s.pending ∧ (adoptWaiting g s).mem.bytes = s.mem.bytes := by
  unfold adoptWaiting
  repeat' first
    | (constructor <;> with_reducible rfl)
    | with_reducible assumption
    | (simp only [modLink_keeps, and_self]; done)
    | (with_reducible refine foldl_keeps_of ?_ ?_; intro _ _)
    | split
    | (simp only [modLink_keeps, and_self])

theorem resendRecords_keeps (s : State) :
    (resendRecords s).pending = s.pending ∧ (resendRecords s).mem.bytes = s.mem.bytes := by
  unfold resendRecords
  exact foldl_keeps_of (fun _ _ => by simp only [send_keeps, and_self]) ⟨rfl, rfl⟩

theorem groupUp_keeps (g : Fin 3) (s : State) :
    (groupUp g s).pending = s.pending ∧ (groupUp g s).mem.bytes = s.mem.bytes := by
  unfold groupUp
  repeat' first
    | (constructor <;> with_reducible rfl)
    | with_reducible assumption
    | (simp only [adoptWaiting_keeps, modLink_keeps, releaseHeld_keeps, resendRecords_keeps, sideUp_keeps, and_self]; done)
    | (with_reducible refine foldl_keeps_of ?_ ?_; intro _ _)
    | split
    | (simp only [adoptWaiting_keeps, modLink_keeps, releaseHeld_keeps, resendRecords_keeps, sideUp_keeps, and_self])

theorem takeDown_keeps (l : Fin 16) (st : LState) (idle : Bool) (s : State) :
    (takeDown l st idle s).pending = s.pending ∧ (takeDown l st idle s).mem.bytes = s.mem.bytes := by
  unfold takeDown
  repeat' first
    | with_reducible assumption
    | (simp only [groupDown_keeps, modLane_keeps, resend_keeps, updateCautious_keeps, and_self]; done)
    | (with_reducible refine foldl_keeps_of ?_ ?_; intro _ _)
    | split
    | (simp only [groupDown_keeps, modLane_keeps, resend_keeps, updateCautious_keeps, and_self])

theorem recordCause_keeps (l : Fin 16) (cause : DownCause) (s : State) :
    (recordCause l cause s).pending = s.pending ∧ (recordCause l cause s).mem.bytes = s.mem.bytes := by
  simp only [recordCause, modLane_keeps, and_self]

theorem silence_keeps (l : Fin 16) (s : State) :
    (silence l s).pending = s.pending ∧ (silence l s).mem.bytes = s.mem.bytes := by
  simp only [silence, countLedger_keeps, laneEvent_keeps, modLane_keeps, recordCause_keeps, takeDown_keeps, and_self]

theorem checkSilence_keeps (l : Fin 16) (before : Lane) (s : State) :
    (checkSilence l before s).pending = s.pending ∧ (checkSilence l before s).mem.bytes = s.mem.bytes := by
  simp only [checkSilence]
  split <;> simp only [silence_keeps, and_self]

theorem settleErrors_keeps (g : Fin 3) (before : State) (s : State) :
    (settleErrors g before s).pending = s.pending ∧ (settleErrors g before s).mem.bytes = s.mem.bytes := by
  unfold settleErrors
  exact foldl_keeps_of (fun _ _ => by simp only [checkSilence_keeps, updateCautious_keeps, and_self]) ⟨rfl, rfl⟩

theorem leaveUp_keeps (l : Fin 16) (s : State) :
    (leaveUp l s).pending = s.pending ∧ (leaveUp l s).mem.bytes = s.mem.bytes := by
  simp only [leaveUp, checkSilence_keeps, modLane_keeps, takeDown_keeps, and_self]

theorem takeTurns_keeps : ∀ (n : Nat) (s : State),
    (takeTurns n s).pending = s.pending ∧ (takeTurns n s).mem.bytes = s.mem.bytes
  | 0, _ => ⟨rfl, rfl⟩
  | n + 1, s => by
    have hl : ∀ (ls : List (Fin 16)), (ls.foldl (fun t l => leaveUp l t) s).pending = s.pending
        ∧ (ls.foldl (fun t l => leaveUp l t) s).mem.bytes = s.mem.bytes :=
      fun _ => foldl_keeps_of (fun t x => leaveUp_keeps x t) ⟨rfl, rfl⟩
    unfold takeTurns
    split
    · exact ⟨rfl, rfl⟩
    · dsimp only
      split
      · rw [(takeTurns_keeps n _).1, (takeTurns_keeps n _).2]; exact hl _
      · exact hl _

theorem enterUp_keeps (l : Fin 16) (s : State) :
    (enterUp l s).pending = s.pending ∧ (enterUp l s).mem.bytes = s.mem.bytes := by
  unfold enterUp
  dsimp only
  (repeat' split) <;> simp only [groupUp_keeps, modLane_keeps, takeTurns_keeps, and_self]

theorem notePeer_keeps (g : Fin 3) (l : Fin 16) (x : BitVec 56) (s : State) :
    (notePeer g l x s).pending = s.pending ∧ (notePeer g l x s).mem.bytes = s.mem.bytes := by
  simp only [notePeer, modLane_keeps, and_self]

theorem settleBringup_keeps (l : Fin 16) (s : State) :
    (settleBringup l s).pending = s.pending ∧ (settleBringup l s).mem.bytes = s.mem.bytes := by
  unfold settleBringup
  dsimp only
  (repeat' split) <;> simp only [enterUp_keeps, modLane_keeps, and_self]

theorem trainAdvance_keeps (l : Fin 16) (x : BitVec 56) (s : State) :
    (trainAdvance l x s).pending = s.pending ∧ (trainAdvance l x s).mem.bytes = s.mem.bytes := by
  unfold trainAdvance
  dsimp only
  (repeat' split) <;> simp only [enterUp_keeps, modLane_keeps, settleBringup_keeps, and_self]

theorem execTrainBlockReceive_keeps (lane : Fin 16) (payload : BitVec 56) (inverted : Bool) (s : State) :
    ∀ t, execTrainBlockReceive lane payload inverted s = .next t → t.pending = s.pending ∧ t.mem.bytes = s.mem.bytes := by
  intro t h; simp only [execTrainBlockReceive, Host.Outcome.next.injEq] at h; subst h
  (repeat' split) <;> simp only [laneEvent_keeps, modLane_keeps, moveErrors_keeps, notePeer_keeps, settleErrors_keeps, takeDown_keeps, trainAdvance_keeps, and_self]

theorem execBringupTimeout_keeps (lane : Fin 16) (s : State) :
    ∀ t, execBringupTimeout lane s = .next t → t.pending = s.pending ∧ t.mem.bytes = s.mem.bytes := by
  intro t h; simp only [execBringupTimeout, Host.Outcome.next.injEq] at h; subst h
  repeat' first
    | (constructor <;> with_reducible rfl)
    | with_reducible assumption
    | (simp only [atDue, modLane_keeps, modFn_keeps, reach_keeps, and_self]; done)
    | split
    | (simp only [atDue, modLane_keeps, modFn_keeps, reach_keeps, and_self])

theorem execRateSelResume_keeps (lane : Fin 16) (s : State) :
    ∀ t, execRateSelResume lane s = .next t → t.pending = s.pending ∧ t.mem.bytes = s.mem.bytes := by
  intro t h; simp only [execRateSelResume, Host.Outcome.next.injEq] at h; subst h
  repeat' first
    | (constructor <;> with_reducible rfl)
    | with_reducible assumption
    | (simp only [atDue, modLane_keeps, modFn_keeps, reach_keeps, and_self]; done)
    | split
    | (simp only [atDue, modLane_keeps, modFn_keeps, reach_keeps, and_self])

theorem execElectricalIdleEnd_keeps (lane : Fin 16) (s : State) :
    ∀ t, execElectricalIdleEnd lane s = .next t → t.pending = s.pending ∧ t.mem.bytes = s.mem.bytes := by
  intro t h; simp only [execElectricalIdleEnd, Host.Outcome.next.injEq] at h; subst h
  repeat' first
    | (constructor <;> with_reducible rfl)
    | with_reducible assumption
    | (simp only [atDue, modLane_keeps, modFn_keeps, reach_keeps, and_self]; done)
    | split
    | (simp only [atDue, modLane_keeps, modFn_keeps, reach_keeps, and_self])

theorem execLaneLossOfSignal_keeps (lane : Fin 16) (s : State) :
    ∀ t, execLaneLossOfSignal lane s = .next t → t.pending = s.pending ∧ t.mem.bytes = s.mem.bytes := by
  intro t h; simp only [execLaneLossOfSignal, Host.Outcome.next.injEq] at h; subst h
  (repeat' split) <;> simp only [leaveUp_keeps, modLane_keeps, recordCause_keeps, and_self]

theorem execLaneLossOfLock_keeps (lane : Fin 16) (s : State) :
    ∀ t, execLaneLossOfLock lane s = .next t → t.pending = s.pending ∧ t.mem.bytes = s.mem.bytes := by
  intro t h; simp only [execLaneLossOfLock, Host.Outcome.next.injEq] at h; subst h
  split <;> simp only [leaveUp_keeps, modLane_keeps, recordCause_keeps, and_self]

theorem execLosClear_keeps (lane : Fin 16) (s : State) :
    ∀ t, execLosClear lane s = .next t → t.pending = s.pending ∧ t.mem.bytes = s.mem.bytes := by
  intro t h; simp only [execLosClear, Host.Outcome.next.injEq] at h; subst h
  simp only [modLane_keeps, and_self]

theorem execSilenceEnd_keeps (lane : Fin 16) (s : State) :
    ∀ t, execSilenceEnd lane s = .next t → t.pending = s.pending ∧ t.mem.bytes = s.mem.bytes := by
  intro t h; simp only [execSilenceEnd, Host.Outcome.next.injEq] at h; subst h
  repeat' first
    | (constructor <;> with_reducible rfl)
    | with_reducible assumption
    | (simp only [atDue, modLane_keeps, modFn_keeps, reach_keeps, and_self]; done)
    | split
    | (simp only [atDue, modLane_keeps, modFn_keeps, reach_keeps, and_self])

theorem sendFlow_keeps (g : Fin 3) (c : Fin 4) (nak : Bool) (s : State) :
    (sendFlow g c nak s).pending = s.pending ∧ (sendFlow g c nak s).mem.bytes = s.mem.bytes := by
  simp only [sendFlow]
  split <;> simp only [modLane_keeps, and_self]

theorem forward_keeps (g : Fin 3) (x : Sent) (s : State) :
    (forward g x s).pending = s.pending ∧ (forward g x s).mem.bytes = s.mem.bytes := by
  unfold forward
  dsimp only
  split
  · exact ⟨rfl, rfl⟩
  · split
    · exact weirPass_keeps _ _ _ _ _ _ (fun _ _ t => enqueue_keeps _ _ _ t)
    · exact enqueue_keeps _ _ _ _

theorem deliverMessage_keeps (x : Sent) (s : State) :
    (deliverMessage x s).pending = s.pending ∧ (deliverMessage x s).mem.bytes = s.mem.bytes := by
  simp only [deliverMessage]
  split <;> simp only [receivePacket_keeps, and_self]

theorem ringMessage_keeps (g : Fin 3) (x : Sent) (s : State) :
    (ringMessage g x s).pending = s.pending ∧ (ringMessage g x s).mem.bytes = s.mem.bytes := by
  unfold ringMessage
  dsimp only
  (repeat' split) <;> simp only [deliverMessage_keeps, forward_keeps, and_self]

theorem pairMessage_keeps (x : Sent) (s : State) :
    (pairMessage x s).pending = s.pending ∧ (pairMessage x s).mem.bytes = s.mem.bytes := by
  simp only [pairMessage]
  split <;> simp only [deliverMessage_keeps, forward_keeps, and_self]

theorem takeMessages_keeps (g : Fin 3) (c : Fin 4) : ∀ (n : Nat) (s : State),
    (takeMessages g c n s).pending = s.pending ∧ (takeMessages g c n s).mem.bytes = s.mem.bytes
  | 0, _ => ⟨rfl, rfl⟩
  | n + 1, s => by
    unfold takeMessages
    dsimp only
    split
    · exact ⟨rfl, rfl⟩
    · rw [(takeMessages_keeps g c n _).1, (takeMessages_keeps g c n _).2]
      split <;> simp only [pairMessage_keeps, ringMessage_keeps, modLink_keeps, and_self]

theorem receiveMessage_keeps (g : Fin 3) (lane : Fin 16) (m : WireMessage) (s : State) :
    (receiveMessage g lane m s).pending = s.pending ∧ (receiveMessage g lane m s).mem.bytes = s.mem.bytes := by
  unfold receiveMessage
  dsimp only
  (repeat' split) <;> simp only [modLane_keeps, modLink_keeps, moveErrors_keeps, sendFlow_keeps, settleErrors_keeps, takeMessages_keeps, and_self]

theorem receiveBlock_keeps (g : Fin 3) (lane : Fin 16) (b : WireBlock) (s : State) :
    (receiveBlock g lane b s).pending = s.pending ∧ (receiveBlock g lane b s).mem.bytes = s.mem.bytes := by
  simp only [receiveBlock]
  split <;> simp only [modLane_keeps, moveErrors_keeps, receiveMessage_keeps, settleErrors_keeps, and_self]

theorem execMessageReceive_keeps (lane : Fin 16) (blocks : List WireBlock) (s : State) :
    ∀ t, execMessageReceive lane blocks s = .next t → t.pending = s.pending ∧ t.mem.bytes = s.mem.bytes := by
  intro t h; simp only [execMessageReceive, Host.Outcome.next.injEq] at h; subst h
  repeat' first
    | (constructor <;> with_reducible rfl)
    | with_reducible assumption
    | (simp only [modLane_keeps, receiveBlock_keeps, and_self])
    | (with_reducible refine foldl_keeps_of ?_ ?_; intro _ _)
    | split

theorem acknowledge_keeps (x : Sent) (s : State) :
    (acknowledge x s).pending = s.pending ∧ (acknowledge x s).mem.bytes = s.mem.bytes := by
  unfold acknowledge
  (repeat' split) <;> simp only [moveErrors_keeps, and_self]

theorem execFlow_keeps (lane : Fin 16) (payload : BitVec 56) (s : State) :
    ∀ t, execFlow lane payload s = .next t → t.pending = s.pending ∧ t.mem.bytes = s.mem.bytes := by
  intro t h; simp only [execFlow, Host.Outcome.next.injEq] at h; subst h
  repeat' first
    | (constructor <;> with_reducible rfl)
    | with_reducible assumption
    | (simp only [acknowledge_keeps, modLane_keeps, modLink_keeps, moveErrors_keeps, resend_keeps, settleErrors_keeps, and_self]; done)
    | (with_reducible refine foldl_keeps_of ?_ ?_; intro _ _)
    | split
    | (simp only [acknowledge_keeps, modLane_keeps, modLink_keeps, moveErrors_keeps, resend_keeps, settleErrors_keeps, and_self])

theorem execMissingLseqTimeout_keeps (side : Fin 3) (cls : Fin 4) (s : State) :
    ∀ t, execMissingLseqTimeout side cls s = .next t → t.pending = s.pending ∧ t.mem.bytes = s.mem.bytes := by
  intro t h; simp only [execMissingLseqTimeout, Host.Outcome.next.injEq] at h; subst h
  repeat' first
    | (constructor <;> with_reducible rfl)
    | with_reducible assumption
    | (simp only [atDue, modLink_keeps, sendFlow_keeps, modFn_keeps, reach_keeps, and_self]; done)
    | split
    | (simp only [atDue, modLink_keeps, sendFlow_keeps, modFn_keeps, reach_keeps, and_self])

theorem execReplayTimeout_keeps (side : Fin 3) (cls : Fin 4) (s : State) :
    ∀ t, execReplayTimeout side cls s = .next t → t.pending = s.pending ∧ t.mem.bytes = s.mem.bytes := by
  intro t h; simp only [execReplayTimeout, Host.Outcome.next.injEq] at h; subst h
  repeat' first
    | (constructor <;> with_reducible rfl)
    | with_reducible assumption
    | (simp only [atDue, resend_keeps, settleErrors_keeps, modFn_keeps, reach_keeps, and_self]; done)
    | split
    | (simp only [atDue, resend_keeps, settleErrors_keeps, modFn_keeps, reach_keeps, and_self])

theorem sendIdleEntry_keeps (g : Fin 3) (s : State) :
    (sendIdleEntry g s).pending = s.pending ∧ (sendIdleEntry g s).mem.bytes = s.mem.bytes := by
  simp only [sendIdleEntry, and_self]

theorem execLaneIdleTimeout_keeps (lane : Fin 16) (s : State) :
    ∀ t, execLaneIdleTimeout lane s = .next t → t.pending = s.pending ∧ t.mem.bytes = s.mem.bytes := by
  intro t h; simp only [execLaneIdleTimeout, Host.Outcome.next.injEq] at h; subst h
  repeat' first
    | (constructor <;> with_reducible rfl)
    | with_reducible assumption
    | (simp only [atDue, sendIdleEntry_keeps, takeDown_keeps, modFn_keeps, reach_keeps, and_self]; done)
    | split
    | (simp only [atDue, sendIdleEntry_keeps, takeDown_keeps, modFn_keeps, reach_keeps, and_self])

theorem execIdleEntry_keeps (lane : Fin 16) (s : State) :
    ∀ t, execIdleEntry lane s = .next t → t.pending = s.pending ∧ t.mem.bytes = s.mem.bytes := by
  intro t h; simp only [execIdleEntry, Host.Outcome.next.injEq] at h; subst h
  split <;> simp only [takeDown_keeps, and_self]

theorem execLaneWake_keeps (lane : Fin 16) (s : State) :
    ∀ t, execLaneWake lane s = .next t → t.pending = s.pending ∧ t.mem.bytes = s.mem.bytes := by
  intro t h; simp only [execLaneWake, Host.Outcome.next.injEq] at h; subst h
  split <;> simp only [enterUp_keeps, and_self]

theorem execFastExitTimeout_keeps (lane : Fin 16) (s : State) :
    ∀ t, execFastExitTimeout lane s = .next t → t.pending = s.pending ∧ t.mem.bytes = s.mem.bytes := by
  intro t h; simp only [execFastExitTimeout, Host.Outcome.next.injEq] at h; subst h
  split <;> simp only [leaveUp_keeps, and_self]

theorem chargeRing_keeps (g : Fin 3) (c : Fin 4) (x : Sent) (s : State) :
    (chargeRing g c x s).pending = s.pending ∧ (chargeRing g c x s).mem.bytes = s.mem.bytes := by
  unfold chargeRing
  (repeat' split) <;> simp only [modLink_keeps, passTurn_keeps, putSegment_keeps, and_self]

theorem takeNew_keeps (g : Fin 3) (l : Fin 16) (s : State) :
    (takeNew g l s).pending = s.pending ∧ (takeNew g l s).mem.bytes = s.mem.bytes := by
  unfold takeNew
  dsimp only
  (repeat' split) <;> simp only [chargeRing_keeps, modLink_keeps, startMessage_keeps, and_self]

theorem slotOn_keeps (g : Fin 3) (l : Fin 16) (s : State) :
    (slotOn g l s).pending = s.pending ∧ (slotOn g l s).mem.bytes = s.mem.bytes := by
  unfold slotOn
  split <;> simp only [modLane_keeps, takeNew_keeps, and_self]

theorem trainSlot_keeps (g : Fin 3) (l : Fin 16) (s : State) :
    (trainSlot g l s).pending = s.pending ∧ (trainSlot g l s).mem.bytes = s.mem.bytes := by
  simp only [trainSlot, modLane_keeps, settleBringup_keeps, and_self]

theorem laneCycle_keeps (l : Fin 16) (s : State) :
    (laneCycle l s).pending = s.pending ∧ (laneCycle l s).mem.bytes = s.mem.bytes := by
  unfold laneCycle
  repeat' first
    | (constructor <;> with_reducible rfl)
    | with_reducible assumption
    | (simp only [slotOn_keeps, trainSlot_keeps, and_self])
    | (with_reducible refine foldl_keeps_of ?_ ?_; intro _ _)
    | split

theorem laneSlots_keeps (s : State) : (laneSlots s).pending = s.pending ∧ (laneSlots s).mem.bytes = s.mem.bytes := by
  unfold laneSlots
  exact foldl_keeps_of (fun _ _ => by simp only [laneCycle_keeps, and_self]) ⟨rfl, rfl⟩

theorem queueTurns_keeps (gs : List (Fin 3)) (s : State) :
    (queueTurns gs s).pending = s.pending ∧ (queueTurns gs s).mem.bytes = s.mem.bytes := by
  simp only [queueTurns]
  split <;> simp only [takeTurns_keeps, and_self]

theorem applyLaneGroup_keeps (g : Fin 3) (w0 w1 : Word) (s : State) :
    (applyLaneGroup g w0 w1 s).1.pending = s.pending ∧ (applyLaneGroup g w0 w1 s).1.mem.bytes = s.mem.bytes := by
  simp only [applyLaneGroup, and_self]

theorem laneFrame_keeps (changed : List (Fin 3)) (crossed : Bool) (obs : List LaneObs) (s : State) :
    (laneFrame changed crossed obs s).pending = s.pending ∧ (laneFrame changed crossed obs s).mem.bytes = s.mem.bytes := by
  unfold laneFrame
  repeat' first
    | (constructor <;> with_reducible rfl)
    | with_reducible assumption
    | (simp only [laneEvent_keeps, modLane_keeps, queueTurns_keeps, sendFlow_keeps, and_self]; done)
    | (with_reducible refine foldl_keeps_of ?_ ?_; intro _ _)
    | split

theorem rulesLnSetGroup_keeps (p : Packet) (s : State) : (rulesLnSetGroup.run p s).keeps s := by
  simp only [rulesLnSetGroup, Result.keeps, stage_keeps, and_self]

theorem execLnSetGroup_keeps (p : Packet) (s : State) :
    ∀ t, execLnSetGroup p s = .next t → t.pending = s.pending ∧ t.mem.bytes = s.mem.bytes := by
  intro t h; simp only [execLnSetGroup, Host.Outcome.next.injEq] at h; subst h
  exact takeCommand_keeps rulesLnSetGroup_keeps p s

theorem rulesLnSetAux_keeps (p : Packet) (s : State) : (rulesLnSetAux.run p s).keeps s := by
  simp only [rulesLnSetAux, Result.keeps, and_self]

theorem execLnSetAux_keeps (p : Packet) (s : State) :
    ∀ t, execLnSetAux p s = .next t → t.pending = s.pending ∧ t.mem.bytes = s.mem.bytes := by
  intro t h; simp only [execLnSetAux, Host.Outcome.next.injEq] at h; subst h
  exact takeCommand_keeps rulesLnSetAux_keeps p s

theorem rulesLnReadLane_keeps (p : Packet) (s : State) : (rulesLnReadLane.run p s).keeps s := by
  simp only [rulesLnReadLane, Result.keeps, and_self]

theorem execLnReadLane_keeps (p : Packet) (s : State) :
    ∀ t, execLnReadLane p s = .next t → t.pending = s.pending ∧ t.mem.bytes = s.mem.bytes := by
  intro t h; simp only [execLnReadLane, Host.Outcome.next.injEq] at h; subst h
  exact takeCommand_keeps rulesLnReadLane_keeps p s

theorem applyLaneTest_keeps (l : Fin 16) (w : Word) (s : State) :
    (applyLaneTest l w s).pending = s.pending ∧ (applyLaneTest l w s).mem.bytes = s.mem.bytes := by
  unfold applyLaneTest
  dsimp only
  (repeat' split) <;> simp only [modLane_keeps, takeDown_keeps, and_self]

theorem rulesLnTest_keeps (p : Packet) (s : State) : (rulesLnTest.run p s).keeps s := by
  simp only [rulesLnTest]
  split <;> simp only [Result.keeps, applyLaneTest_keeps, and_self]

theorem execLnTest_keeps (p : Packet) (s : State) :
    ∀ t, execLnTest p s = .next t → t.pending = s.pending ∧ t.mem.bytes = s.mem.bytes := by
  intro t h; simp only [execLnTest, Host.Outcome.next.injEq] at h; subst h
  exact takeCommand_keeps rulesLnTest_keeps p s

theorem rulesLnReadTest_keeps (p : Packet) (s : State) : (rulesLnReadTest.run p s).keeps s := by
  simp only [rulesLnReadTest, Result.keeps, and_self]

theorem execLnReadTest_keeps (p : Packet) (s : State) :
    ∀ t, execLnReadTest p s = .next t → t.pending = s.pending ∧ t.mem.bytes = s.mem.bytes := by
  intro t h; simp only [execLnReadTest, Host.Outcome.next.injEq] at h; subst h
  exact takeCommand_keeps rulesLnReadTest_keeps p s

theorem retrain_keeps (l : Fin 16) (clear : Bool) (s : State) :
    (retrain l clear s).pending = s.pending ∧ (retrain l clear s).mem.bytes = s.mem.bytes := by
  unfold retrain
  dsimp only
  (repeat' split) <;> simp only [leaveUp_keeps, modLane_keeps, and_self]

theorem rulesLnRetrain_keeps (p : Packet) (s : State) : (rulesLnRetrain.run p s).keeps s := by
  simp only [rulesLnRetrain, Result.keeps, retrain_keeps, and_self]

theorem execLnRetrain_keeps (p : Packet) (s : State) :
    ∀ t, execLnRetrain p s = .next t → t.pending = s.pending ∧ t.mem.bytes = s.mem.bytes := by
  intro t h; simp only [execLnRetrain, Host.Outcome.next.injEq] at h; subst h
  exact takeCommand_keeps rulesLnRetrain_keeps p s

end Sys2Proof.Machine
end

