-- ==== Sys2Proof/Laws/KeepHost.lean ====
section
/-! SUPPORT. What resets, the host interface, functions, health and self-tests leave as they are: the queue of commands and the bytes of the capture memory. A definition that
writes memory bytes has two lemmas instead: its queue is unchanged, and the memory keeps its canonical form. -/

namespace Sys2Proof.Machine
open Sys2Proof
set_option linter.unusedSimpArgs false
set_option linter.unusedVariables false

theorem endSampling_keeps (cause : BitVec 8) (data : List Word) (s : State) :
    (endSampling cause data s).pending = s.pending ∧ (endSampling cause data s).mem.bytes = s.mem.bytes := by
  simp only [endSampling]
  split <;> simp only [pushLastWords_keeps, and_self]

theorem resetState_pending (kind : BitVec 3) (warm : Bool) (s : State) : (resetState kind warm s).pending = s.pending := rfl

theorem resetState_wf (kind : BitVec 3) (warm : Bool) (s : State) (_ : cellsFrom 0 s.mem.bytes = true) :
    cellsFrom 0 (resetState kind warm s).mem.bytes = true := rfl

theorem chipReset_pending (kind : BitVec 3) (warm : Bool) (cause : BitVec 8) (data : List Word) (counter : Option (Fin 30)) (s : State) :
    (chipReset kind warm cause data counter s).pending = s.pending := by
  simp only [chipReset]
  split <;> simp only [countLedger_keeps, endSampling_keeps, resetState_pending]

theorem chipReset_wf (kind : BitVec 3) (warm : Bool) (cause : BitVec 8) (data : List Word) (counter : Option (Fin 30)) (s : State) (hw : cellsFrom 0 s.mem.bytes = true) :
    cellsFrom 0 (chipReset kind warm cause data counter s).mem.bytes = true := by
  unfold chipReset
  repeat' first
    | with_reducible assumption
    | with_reducible assumption
    | (simp only [countLedger_keeps, endSampling_keeps, resetState_pending, and_self]; done)
    | (with_reducible apply resetState_wf)
    | split
    | (simp only [countLedger_keeps, endSampling_keeps, resetState_pending, and_self])

theorem zeroise_keeps (trigger : Nat) (s : State) :
    (zeroise trigger s).pending = s.pending ∧ (zeroise trigger s).mem.bytes = s.mem.bytes := by
  simp only [zeroise, countLedger_keeps, crit_keeps, and_self]

theorem restoreLedger_keeps (s : State) :
    (restoreLedger s).pending = s.pending ∧ (restoreLedger s).mem.bytes = s.mem.bytes := by
  unfold restoreLedger
  repeat' first
    | (constructor <;> with_reducible rfl)
    | with_reducible assumption
    | (simp only [crit_keeps, and_self]; done)
    | (with_reducible refine foldl_keeps_of ?_ ?_; intro _ _)

theorem applyStraps_keeps (straps : Word) (s : State) :
    (applyStraps straps s).pending = s.pending ∧ (applyStraps straps s).mem.bytes = s.mem.bytes := by
  unfold applyStraps
  dsimp only
  (repeat' split) <;> simp only [refuseHub_keeps, and_self]

theorem checkStraps_keeps (straps : Word) (s : State) :
    (checkStraps straps s).pending = s.pending ∧ (checkStraps straps s).mem.bytes = s.mem.bytes := by
  unfold checkStraps
  dsimp only
  (repeat' split) <;> simp only [crit_keeps, and_self]

theorem execInternalResetRelease_keeps (straps : Word) (s : State) :
    ∀ t, execInternalResetRelease straps s = .next t → t.pending = s.pending ∧ t.mem.bytes = s.mem.bytes := by
  intro t h; simp only [execInternalResetRelease, Host.Outcome.next.injEq] at h; subst h
  (repeat' split) <;> simp only [applyStraps_keeps, checkStraps_keeps, restoreLedger_keeps, zeroise_keeps, and_self]

theorem resetQueues_keeps (f : Fn) (s : State) :
    (resetQueues f s).pending = s.pending ∧ (resetQueues f s).mem.bytes = s.mem.bytes := by
  unfold resetQueues
  dsimp only
  (repeat' split) <;> simp only [abandonJobs_keeps, modFn_keeps, and_self]

theorem releaseClaims_keeps (f : Fn) (s : State) :
    (releaseClaims f s).pending = s.pending ∧ (releaseClaims f s).mem.bytes = s.mem.bytes := by
  simp only [releaseClaims, and_self]

theorem finishReset_keeps (f : Fn) (kind : Nat) (s : State) :
    (finishReset f kind s).pending = s.pending ∧ (finishReset f kind s).mem.bytes = s.mem.bytes := by
  simp only [finishReset]
  split <;> simp only [clearSets_keeps, clearStreams_keeps, modFn_keeps, raiseEvent_keeps, releaseClaims_keeps, settle_keeps, and_self]

theorem functionReset_keeps (f : Fn) (kind : Nat) (s : State) :
    (functionReset f kind s).pending = s.pending ∧ (functionReset f kind s).mem.bytes = s.mem.bytes := by
  unfold functionReset
  dsimp only
  (repeat' split) <;> simp only [finishReset_keeps, resetQueues_keeps, and_self]

theorem finishResets_keeps (s : State) :
    (finishResets s).pending = s.pending ∧ (finishResets s).mem.bytes = s.mem.bytes := by
  unfold finishResets
  exact foldl_keeps_of (fun _ _ => by simp only [finishReset_keeps, and_self]) ⟨rfl, rfl⟩

theorem clearConfig_keeps (f : Fn) (s : State) :
    (clearConfig f s).pending = s.pending ∧ (clearConfig f s).mem.bytes = s.mem.bytes := by
  simp only [clearConfig, modFn_keeps, and_self]

theorem clearVfs_keeps (s : State) : (clearVfs s).pending = s.pending ∧ (clearVfs s).mem.bytes = s.mem.bytes := by
  unfold clearVfs
  repeat' first
    | (constructor <;> with_reducible rfl)
    | with_reducible assumption
    | (simp only [functionReset_keeps, modFn_keeps, and_self]; done)
    | (with_reducible refine foldl_keeps_of ?_ ?_; intro _ _)

theorem pf0Reset_keeps (s : State) : (pf0Reset s).pending = s.pending ∧ (pf0Reset s).mem.bytes = s.mem.bytes := by
  unfold pf0Reset
  repeat' first
    | (constructor <;> with_reducible rfl)
    | with_reducible assumption
    | (simp only [functionReset_keeps, and_self]; done)
    | (with_reducible refine foldl_keeps_of ?_ ?_; intro _ _)
    | split
    | (simp only [functionReset_keeps, and_self])

theorem linkReset_keeps (linkDown : Bool) (s : State) :
    (linkReset linkDown s).pending = s.pending ∧ (linkReset linkDown s).mem.bytes = s.mem.bytes := by
  simp only [linkReset]
  split <;> simp only [clearConfig_keeps, clearVfs_keeps, crit_keeps, functionReset_keeps, pf0Reset_keeps, and_self]

theorem auxReset_keeps (linkDown : Bool) (s : State) :
    (auxReset linkDown s).pending = s.pending ∧ (auxReset linkDown s).mem.bytes = s.mem.bytes := by
  simp only [auxReset]
  split <;> simp only [clearConfig_keeps, crit_keeps, modFn_keeps, and_self]

theorem execFlr_keeps (fn : Fn) (s : State) :
    ∀ t, execFlr fn s = .next t → t.pending = s.pending ∧ t.mem.bytes = s.mem.bytes := by
  intro t h; simp only [execFlr, Host.Outcome.next.injEq] at h; subst h
  (repeat' split) <;> simp only [functionReset_keeps, pf0Reset_keeps, and_self]

theorem execLinkReset_keeps (linkDown : Bool) (s : State) :
    ∀ t, execLinkReset linkDown s = .next t → t.pending = s.pending ∧ t.mem.bytes = s.mem.bytes := by
  intro t h; simp only [execLinkReset, Host.Outcome.next.injEq] at h; subst h
  simp only [linkReset_keeps, and_self]

theorem execAuxLinkReset_keeps (linkDown : Bool) (s : State) :
    ∀ t, execAuxLinkReset linkDown s = .next t → t.pending = s.pending ∧ t.mem.bytes = s.mem.bytes := by
  intro t h; simp only [execAuxLinkReset, Host.Outcome.next.injEq] at h; subst h
  split <;> simp only [auxReset_keeps, and_self]

theorem execVfEnableCleared_keeps (s : State) :
    ∀ t, execVfEnableCleared s = .next t → t.pending = s.pending ∧ t.mem.bytes = s.mem.bytes := by
  intro t h; simp only [execVfEnableCleared, Host.Outcome.next.injEq] at h; subst h
  simp only [clearVfs_keeps, and_self]

theorem execMismatchReset_pending (s : State) : ∀ t, execMismatchReset s = .next t → t.pending = s.pending := by
  intro t h; simp only [execMismatchReset, Host.Outcome.next.injEq] at h; subst h
  split <;> simp only [crit_keeps, chipReset_pending]

theorem execMismatchReset_wf (s : State) (hw : cellsFrom 0 s.mem.bytes = true) :
    ∀ t, execMismatchReset s = .next t → cellsFrom 0 t.mem.bytes = true := by
  intro t h; simp only [execMismatchReset, Host.Outcome.next.injEq] at h; subst h
  repeat' first
    | with_reducible assumption
    | with_reducible assumption
    | (simp only [crit_keeps, chipReset_pending, and_self]; done)
    | (with_reducible apply chipReset_wf)
    | split
    | (simp only [crit_keeps, chipReset_pending, and_self])

theorem withVectors_keeps (f : Fn) (g : State → State) (s : State)
    (hg : (g s).pending = s.pending ∧ (g s).mem.bytes = s.mem.bytes) :
    (withVectors f g s).pending = s.pending ∧ (withVectors f g s).mem.bytes = s.mem.bytes := by
  unfold withVectors
  simp only [deliverInterrupts_keeps, hg, and_self]

theorem clearCause_keeps (f : Fn) (reg : IntReg) (v : Word) (s : State) :
    (clearCause f reg v s).pending = s.pending ∧ (clearCause f reg v s).mem.bytes = s.mem.bytes := by
  unfold clearCause
  (repeat' split) <;> simp only [writeCause_keeps, and_self]

theorem writeMask_keeps (f : Fn) (reg : IntReg) (v : Word) (s : State) :
    (writeMask f reg v s).pending = s.pending ∧ (writeMask f reg v s).mem.bytes = s.mem.bytes := by
  unfold writeMask
  split
  · exact withVectors_keeps _ _ _ (modFn_keeps _ _ _)
  · split
    · exact withVectors_keeps _ _ _ ⟨rfl, rfl⟩
    · exact ⟨rfl, rfl⟩
  · split
    · exact withVectors_keeps _ _ _ ⟨rfl, rfl⟩
    · exact ⟨rfl, rfl⟩

theorem writeVec_keeps (f : Fn) (n : Nat) (v : Word) (s : State) :
    (writeVec f n v s).pending = s.pending ∧ (writeVec f n v s).mem.bytes = s.mem.bytes := by
  simp only [writeVec, modFn_keeps, and_self]

theorem resumeInterrupts_keeps (f : Fn) (s : State) :
    (resumeInterrupts f s).pending = s.pending ∧ (resumeInterrupts f s).mem.bytes = s.mem.bytes := by
  unfold resumeInterrupts
  repeat' first
    | (constructor <;> with_reducible rfl)
    | with_reducible assumption
    | (simp only [modFn_keeps, sendVector_keeps, and_self]; done)
    | (with_reducible refine foldl_keeps_of ?_ ?_; intro _ _)
    | split

theorem writeMsix_keeps (f : Fn) (i : Nat) (v : Word) (s : State) :
    (writeMsix f i v s).pending = s.pending ∧ (writeMsix f i v s).mem.bytes = s.mem.bytes := by
  unfold writeMsix
  dsimp only
  (repeat' split) <;> simp only [modFn_keeps, sendVector_keeps, and_self]

theorem queueError_keeps (f : Fn) (q : Nat) (code : BitVec 2) (s : State) :
    (queueError f q code s).pending = s.pending ∧ (queueError f q code s).mem.bytes = s.mem.bytes := by
  simp only [queueError, raiseEvent_keeps, setCause_keeps, setQueue_keeps, and_self]

theorem writeQueueEnable_keeps (f : Fn) (q : Nat) (v : Word) (s : State) :
    (writeQueueEnable f q v s).pending = s.pending ∧ (writeQueueEnable f q v s).mem.bytes = s.mem.bytes := by
  unfold writeQueueEnable
  dsimp only
  (repeat' split) <;> simp only [setQueue_keeps, and_self]

theorem writeQueueWord_keeps (f : Fn) (q r : Nat) (v : Word) (s : State) :
    (writeQueueWord f q r v s).pending = s.pending ∧ (writeQueueWord f q r v s).mem.bytes = s.mem.bytes := by
  unfold writeQueueWord
  dsimp only
  (repeat' split) <;> simp only [setQueue_keeps, and_self]

theorem writeDoorbell_keeps (f : Fn) (q : Nat) (v : Word) (s : State) :
    (writeDoorbell f q v s).pending = s.pending ∧ (writeDoorbell f q v s).mem.bytes = s.mem.bytes := by
  unfold writeDoorbell
  dsimp only
  (repeat' split) <;> simp only [queueError_keeps, setQueue_keeps, and_self]

theorem advanceHub_keeps (f : Fn) (q n : Nat) (s : State) :
    (advanceHub f q n s).pending = s.pending ∧ (advanceHub f q n s).mem.bytes = s.mem.bytes := by
  simp only [advanceHub, setQueue_keeps, and_self]

theorem setAfSq_keeps (i : Nat) (s : State) : (setAfSq i s).pending = s.pending ∧ (setAfSq i s).mem.bytes = s.mem.bytes := by
  unfold setAfSq
  refine withVectors_keeps _ _ _ ?_
  split <;> exact ⟨rfl, rfl⟩

theorem afSqCause_keeps (i : Nat) (s : State) :
    (afSqCause i s).pending = s.pending ∧ (afSqCause i s).mem.bytes = s.mem.bytes := by
  unfold afSqCause
  repeat' first
    | with_reducible assumption
    | (simp only [moderated, moderate, moderated_keeps, setAfSq_keeps, modFn_keeps, reach_keeps, and_self]; done)
    | split
    | (simp only [moderated, moderate, moderated_keeps, setAfSq_keeps, modFn_keeps, reach_keeps, and_self])

theorem itemCauses_keeps (f : Fn) (q : Nat) (words : List Word) (s : State) :
    (itemCauses f q words s).pending = s.pending ∧ (itemCauses f q words s).mem.bytes = s.mem.bytes := by
  unfold itemCauses
  dsimp only
  (repeat' split) <;> simp only [afSqCause_keeps, queueCause_keeps, setCause_keeps, and_self]

theorem chargeWrite_keeps (f : Fn) (q : Nat) (item : List Word) (s : State) :
    (chargeWrite f q item s).pending = s.pending ∧ (chargeWrite f q item s).mem.bytes = s.mem.bytes := by
  unfold chargeWrite
  dsimp only
  (repeat' split) <;> simp only [and_self]

theorem execQueueItemWrite_keeps (fn : Fn) (q : Nat) (transferError : Bool) (s : State) :
    ∀ t, execQueueItemWrite fn q transferError s = .next t → t.pending = s.pending ∧ t.mem.bytes = s.mem.bytes := by
  intro t h; simp only [execQueueItemWrite, Host.Outcome.next.injEq] at h; subst h
  (repeat' split) <;> simp only [advanceHub_keeps, chargeWrite_keeps, itemCauses_keeps, queueError_keeps, setQueue_keeps, and_self]

theorem execInterruptModerationEnd_keeps (fn : Fn) (cause : Nat) (s : State) :
    ∀ t, execInterruptModerationEnd fn cause s = .next t → t.pending = s.pending ∧ t.mem.bytes = s.mem.bytes := by
  intro t h; simp only [execInterruptModerationEnd, Host.Outcome.next.injEq] at h; subst h
  repeat' first
    | (constructor <;> with_reducible rfl)
    | with_reducible assumption
    | (simp only [atDue, moderate, moderated, moderate, modFn_keeps, moderated_keeps, setAfSq_keeps, setCause_keeps, reach_keeps, and_self]; done)
    | split
    | (simp only [atDue, moderate, moderated, moderate, modFn_keeps, moderated_keeps, setAfSq_keeps, setCause_keeps, reach_keeps, and_self])

theorem compatWrite_keeps (v : Word) (s : State) :
    (compatWrite v s).pending = s.pending ∧ (compatWrite v s).mem.bytes = s.mem.bytes := by
  simp only [compatWrite]
  split <;> simp only [and_self]

theorem spiEnableWrite_keeps (v : Word) (s : State) :
    (spiEnableWrite v s).pending = s.pending ∧ (spiEnableWrite v s).mem.bytes = s.mem.bytes := by
  simp only [spiEnableWrite, and_self]

theorem chipResetWrite_pending (v : Word) (s : State) : (chipResetWrite v s).pending = s.pending := by
  simp only [chipResetWrite]
  split <;> simp only [chipReset_pending]

theorem chipResetWrite_wf (v : Word) (s : State) (hw : cellsFrom 0 s.mem.bytes = true) :
    cellsFrom 0 (chipResetWrite v s).mem.bytes = true := by
  unfold chipResetWrite
  repeat' first
    | with_reducible assumption
    | with_reducible assumption
    | (with_reducible apply chipReset_wf)
    | split

theorem writeDevcfg_pending (v : Word) (s : State) : (writeDevcfg v s).pending = s.pending := by
  simp only [writeDevcfg, compatWrite_keeps, spiEnableWrite_keeps, chipResetWrite_pending]

theorem writeDevcfg_wf (v : Word) (s : State) (hw : cellsFrom 0 s.mem.bytes = true) :
    cellsFrom 0 (writeDevcfg v s).mem.bytes = true := by
  unfold writeDevcfg; apply chipResetWrite_wf; simp only [compatWrite_keeps, spiEnableWrite_keeps, chipResetWrite_pending]; exact hw

theorem execCompatModeWrite_pending (value : Word) (s : State) :
    ∀ t, execCompatModeWrite value s = .next t → t.pending = s.pending := by
  intro t h; simp only [execCompatModeWrite, Host.Outcome.next.injEq] at h; subst h
  split <;> simp only [writeDevcfg_pending]

theorem execCompatModeWrite_wf (value : Word) (s : State) (hw : cellsFrom 0 s.mem.bytes = true) :
    ∀ t, execCompatModeWrite value s = .next t → cellsFrom 0 t.mem.bytes = true := by
  intro t h; simp only [execCompatModeWrite, Host.Outcome.next.injEq] at h; subst h
  repeat' first
    | with_reducible assumption
    | with_reducible assumption
    | (with_reducible apply writeDevcfg_wf)
    | split

theorem execChipResetWrite_pending (value : Word) (s : State) :
    ∀ t, execChipResetWrite value s = .next t → t.pending = s.pending := by
  intro t h; simp only [execChipResetWrite, Host.Outcome.next.injEq] at h; subst h
  split <;> simp only [writeDevcfg_pending]

theorem execChipResetWrite_wf (value : Word) (s : State) (hw : cellsFrom 0 s.mem.bytes = true) :
    ∀ t, execChipResetWrite value s = .next t → cellsFrom 0 t.mem.bytes = true := by
  intro t h; simp only [execChipResetWrite, Host.Outcome.next.injEq] at h; subst h
  repeat' first
    | with_reducible assumption
    | with_reducible assumption
    | (with_reducible apply writeDevcfg_wf)
    | split

theorem writeDevstat_keeps (v : Word) (s : State) :
    (writeDevstat v s).pending = s.pending ∧ (writeDevstat v s).mem.bytes = s.mem.bytes := by
  simp only [writeDevstat, and_self]

theorem regWrite_pending (f : Fn) (off : Nat) (v : Word) (s : State) : (regWrite f off v s).pending = s.pending := by
  unfold regWrite
  repeat' (with_reducible refine ite_pending ?_ ?_)
  all_goals first
    | with_reducible rfl
    | exact writeDevcfg_pending _ _
    | simp only [clearCause_keeps, writeDevstat_keeps, writeMask_keeps, writeVec_keeps, writeQueueEnable_keeps, writeQueueWord_keeps, writeDoorbell_keeps, writeMsix_keeps]

theorem regWrite_wf (f : Fn) (off : Nat) (v : Word) (s : State) (hw : cellsFrom 0 s.mem.bytes = true) :
    cellsFrom 0 (regWrite f off v s).mem.bytes = true := by
  unfold regWrite
  repeat' (with_reducible refine ite_wf ?_ ?_)
  all_goals first
    | with_reducible exact hw
    | exact writeDevcfg_wf _ _ hw
    | (simp only [clearCause_keeps, writeDevstat_keeps, writeMask_keeps, writeVec_keeps, writeQueueEnable_keeps, writeQueueWord_keeps, writeDoorbell_keeps, writeMsix_keeps]; exact hw)

theorem execRegisterWrite_pending (fn : Fn) (offset : BitVec 16) (byteEnable : BitVec 4) (value : Word) (s : State) :
    ∀ t, execRegisterWrite fn offset byteEnable value s = .next t → t.pending = s.pending := by
  intro t h; simp only [execRegisterWrite, Host.Outcome.next.injEq] at h; subst h
  split <;> simp only [regWrite_pending]

theorem execRegisterWrite_wf (fn : Fn) (offset : BitVec 16) (byteEnable : BitVec 4) (value : Word) (s : State) (hw : cellsFrom 0 s.mem.bytes = true) :
    ∀ t, execRegisterWrite fn offset byteEnable value s = .next t → cellsFrom 0 t.mem.bytes = true := by
  intro t h; simp only [execRegisterWrite, Host.Outcome.next.injEq] at h; subst h
  split
  · apply regWrite_wf; exact hw
  · exact hw

theorem execQueueEnableWrite_keeps (fn : Fn) (q : Nat) (value : Word) (s : State) :
    ∀ t, execQueueEnableWrite fn q value s = .next t → t.pending = s.pending ∧ t.mem.bytes = s.mem.bytes := by
  intro t h; simp only [execQueueEnableWrite, Host.Outcome.next.injEq] at h; subst h
  split <;> simp only [writeQueueEnable_keeps, and_self]

theorem execDoorbellWrite_keeps (fn : Fn) (q : Nat) (value : Word) (s : State) :
    ∀ t, execDoorbellWrite fn q value s = .next t → t.pending = s.pending ∧ t.mem.bytes = s.mem.bytes := by
  intro t h; simp only [execDoorbellWrite, Host.Outcome.next.injEq] at h; subst h
  split <;> simp only [writeDoorbell_keeps, and_self]

theorem execIntCauseWrite_keeps (fn : Fn) (reg : IntReg) (value : Word) (s : State) :
    ∀ t, execIntCauseWrite fn reg value s = .next t → t.pending = s.pending ∧ t.mem.bytes = s.mem.bytes := by
  intro t h; simp only [execIntCauseWrite, Host.Outcome.next.injEq] at h; subst h
  split <;> simp only [clearCause_keeps, and_self]

theorem execIntMaskWrite_keeps (fn : Fn) (reg : IntReg) (value : Word) (s : State) :
    ∀ t, execIntMaskWrite fn reg value s = .next t → t.pending = s.pending ∧ t.mem.bytes = s.mem.bytes := by
  intro t h; simp only [execIntMaskWrite, Host.Outcome.next.injEq] at h; subst h
  split <;> simp only [writeMask_keeps, and_self]

theorem execIntVecWrite_keeps (fn : Fn) (n : Fin 4) (value : Word) (s : State) :
    ∀ t, execIntVecWrite fn n value s = .next t → t.pending = s.pending ∧ t.mem.bytes = s.mem.bytes := by
  intro t h; simp only [execIntVecWrite, Host.Outcome.next.injEq] at h; subst h
  split <;> simp only [writeVec_keeps, and_self]

theorem execPowerStateChange_keeps (fn : Fn) (d3hot : Bool) (s : State) :
    ∀ t, execPowerStateChange fn d3hot s = .next t → t.pending = s.pending ∧ t.mem.bytes = s.mem.bytes := by
  intro t h; simp only [execPowerStateChange, Host.Outcome.next.injEq] at h; subst h
  (repeat' split) <;> simp only [modFn_keeps, resumeInterrupts_keeps, and_self]

theorem execBusMasterEnableChange_keeps (fn : Fn) (bus : BusState) (s : State) :
    ∀ t, execBusMasterEnableChange fn bus s = .next t → t.pending = s.pending ∧ t.mem.bytes = s.mem.bytes := by
  intro t h; simp only [execBusMasterEnableChange, Host.Outcome.next.injEq] at h; subst h
  (repeat' split) <;> simp only [modFn_keeps, resumeInterrupts_keeps, and_self]

theorem spiWriteWord_pending (off : Nat) (v : Word) (s : State) : (spiWriteWord off v s).pending = s.pending := by
  simp only [spiWriteWord]
  split <;> simp only [regWrite_pending]

theorem spiWriteWord_wf (off : Nat) (v : Word) (s : State) (hw : cellsFrom 0 s.mem.bytes = true) :
    cellsFrom 0 (spiWriteWord off v s).mem.bytes = true := by
  unfold spiWriteWord
  repeat' first
    | with_reducible assumption
    | with_reducible assumption
    | (with_reducible apply regWrite_wf)
    | split

theorem spiWriteWords_pending : ∀ (off : Nat) (ws : List Word) (s : State), (spiWriteWords off ws s).pending = s.pending
  | _, [], _ => rfl
  | off, w :: ws, s => by
    unfold spiWriteWords
    rw [spiWriteWords_pending (off + 4) ws, spiWriteWord_pending]

theorem spiWriteWords_wf : ∀ (off : Nat) (ws : List Word) (s : State) (_ : cellsFrom 0 s.mem.bytes = true),
    cellsFrom 0 (spiWriteWords off ws s).mem.bytes = true
  | _, [], _, hw => hw
  | off, w :: ws, s, hw => by
    unfold spiWriteWords
    exact spiWriteWords_wf (off + 4) ws _ (spiWriteWord_wf _ _ _ hw)

theorem execWriteReg_pending (offset : BitVec 16) (words : List Word) (s : State) :
    ∀ t, execWriteReg offset words s = .next t → t.pending = s.pending := by
  intro t h; simp only [execWriteReg, Host.Outcome.next.injEq] at h; subst h
  repeat' first
    | (with_reducible rfl)
    | with_reducible assumption
    | (simp only [overSpi, modFn_keeps, reach_keeps, spiWriteWords_pending, and_self]; done)
    | split
    | (simp only [overSpi, modFn_keeps, reach_keeps, spiWriteWords_pending, and_self])

theorem execWriteReg_wf (offset : BitVec 16) (words : List Word) (s : State) (hw : cellsFrom 0 s.mem.bytes = true) :
    ∀ t, execWriteReg offset words s = .next t → cellsFrom 0 t.mem.bytes = true := by
  intro t h; simp only [execWriteReg, Host.Outcome.next.injEq] at h; subst h
  repeat' first
    | with_reducible assumption
    | with_reducible assumption
    | (simp only [overSpi, modFn_keeps, reach_keeps, spiWriteWords_pending, and_self]; done)
    | (with_reducible apply spiWriteWords_wf)
    | split
    | (simp only [overSpi, modFn_keeps, reach_keeps, spiWriteWords_pending, and_self])

theorem setSpiOutput_keeps (ws : List Word) (s : State) :
    (setSpiOutput ws s).pending = s.pending ∧ (setSpiOutput ws s).mem.bytes = s.mem.bytes := by
  simp only [setSpiOutput, and_self]

theorem execReadReg_keeps (offset : BitVec 16) (count : Nat) (s : State) :
    ∀ t, execReadReg offset count s = .next t → t.pending = s.pending ∧ t.mem.bytes = s.mem.bytes := by
  intro t h; simp only [execReadReg, Host.Outcome.next.injEq] at h; subst h
  repeat' first
    | (constructor <;> with_reducible rfl)
    | with_reducible assumption
    | (simp only [overSpi, setSpiOutput_keeps, modFn_keeps, reach_keeps, and_self]; done)
    | split
    | (simp only [overSpi, setSpiOutput_keeps, modFn_keeps, reach_keeps, and_self])

theorem execReadStatus_keeps (s : State) :
    ∀ t, execReadStatus s = .next t → t.pending = s.pending ∧ t.mem.bytes = s.mem.bytes := by
  intro t h; simp only [execReadStatus, Host.Outcome.next.injEq] at h; subst h
  repeat' first
    | (constructor <;> with_reducible rfl)
    | with_reducible assumption
    | (simp only [overSpi, setSpiOutput_keeps, modFn_keeps, reach_keeps, and_self]; done)
    | split
    | (simp only [overSpi, setSpiOutput_keeps, modFn_keeps, reach_keeps, and_self])

theorem execPushCmd_keeps (words : List Word) (complete : Bool) (s : State) :
    ∀ t, execPushCmd words complete s = .next t → t.pending = s.pending ∧ t.mem.bytes = s.mem.bytes := by
  intro t h; simp only [execPushCmd, Host.Outcome.next.injEq] at h; subst h
  repeat' first
    | (constructor <;> with_reducible rfl)
    | with_reducible assumption
    | (simp only [overSpi, modFn_keeps, reach_keeps, and_self]; done)
    | split
    | (simp only [overSpi, modFn_keeps, reach_keeps, and_self])

theorem execPullReply_keeps (whole : Bool) (s : State) :
    ∀ t, execPullReply whole s = .next t → t.pending = s.pending ∧ t.mem.bytes = s.mem.bytes := by
  intro t h; simp only [execPullReply, Host.Outcome.next.injEq] at h; subst h
  repeat' first
    | (constructor <;> with_reducible rfl)
    | with_reducible assumption
    | (simp only [overSpi, setSpiOutput_keeps, modFn_keeps, reach_keeps, and_self]; done)
    | split
    | (simp only [overSpi, setSpiOutput_keeps, modFn_keeps, reach_keeps, and_self])

theorem execPullEvent_keeps (whole : Bool) (s : State) :
    ∀ t, execPullEvent whole s = .next t → t.pending = s.pending ∧ t.mem.bytes = s.mem.bytes := by
  intro t h; simp only [execPullEvent, Host.Outcome.next.injEq] at h; subst h
  repeat' first
    | (constructor <;> with_reducible rfl)
    | with_reducible assumption
    | (simp only [overSpi, setSpiOutput_keeps, modFn_keeps, reach_keeps, and_self]; done)
    | split
    | (simp only [overSpi, setSpiOutput_keeps, modFn_keeps, reach_keeps, and_self])

theorem releaseChannels_keeps (f : Fn) (gs : List Nat) (s : State) :
    (releaseChannels f gs s).pending = s.pending ∧ (releaseChannels f gs s).mem.bytes = s.mem.bytes := by
  unfold releaseChannels
  repeat' first
    | (constructor <;> with_reducible rfl)
    | with_reducible assumption
    | (simp only [and_self]; done)
    | (with_reducible refine foldl_keeps_of ?_ ?_; intro _ _)
    | split

theorem disarmSets_pending (f : Fn) (gs : List Nat) (tick : Nat) (s : State) :
    (disarmSets f gs tick s).pending = s.pending := by
  unfold disarmSets
  repeat' first
    | (with_reducible rfl)
    | with_reducible assumption
    | (simp only [truncateSet_pending, and_self]; done)
    | (with_reducible refine foldl_pending_of ?_ ?_; intro _ _)
    | split
    | (simp only [truncateSet_pending, and_self])

theorem disarmSets_wf (f : Fn) (gs : List Nat) (tick : Nat) (s : State) (hw : cellsFrom 0 s.mem.bytes = true) :
    cellsFrom 0 (disarmSets f gs tick s).mem.bytes = true := by
  unfold disarmSets
  repeat' first
    | with_reducible assumption
    | with_reducible assumption
    | (simp only [truncateSet_pending, and_self]; done)
    | (with_reducible apply truncateSet_wf)
    | (with_reducible refine foldl_wf_of ?_ ?_; intro _ _ _)
    | split
    | (simp only [truncateSet_pending, and_self])

theorem endStreams_keeps (f : Fn) (gs : List Nat) (tick : Nat) (s : State) :
    (endStreams f gs tick s).pending = s.pending ∧ (endStreams f gs tick s).mem.bytes = s.mem.bytes := by
  unfold endStreams
  repeat' first
    | (constructor <;> with_reducible rfl)
    | with_reducible assumption
    | (simp only [endOrigins_keeps, endSegments_keeps, modStream_keeps, and_self]; done)
    | (with_reducible refine foldl_keeps_of ?_ ?_; intro _ _)
    | split
    | (simp only [endOrigins_keeps, endSegments_keeps, modStream_keeps, and_self])

theorem applyView_pending (f : Fn) (view : List ChanRange) (page pages : Nat) (tick : Nat) (s : State) :
    (applyView f view page pages tick s).pending = s.pending := by
  simp only [applyView, endStreams_keeps, modFn_keeps, raiseEvent_keeps, releaseChannels_keeps, setCause_keeps, disarmSets_pending]

theorem applyView_wf (f : Fn) (view : List ChanRange) (page pages : Nat) (tick : Nat) (s : State) (hw : cellsFrom 0 s.mem.bytes = true) :
    cellsFrom 0 (applyView f view page pages tick s).mem.bytes = true := by
  unfold applyView
  repeat' first
    | with_reducible assumption
    | with_reducible assumption
    | (simp only [endStreams_keeps, modFn_keeps, raiseEvent_keeps, releaseChannels_keeps, setCause_keeps, disarmSets_pending, and_self]; done)
    | (with_reducible apply disarmSets_wf)
    | split
    | (simp only [endStreams_keeps, modFn_keeps, raiseEvent_keeps, releaseChannels_keeps, setCause_keeps, disarmSets_pending, and_self])

theorem checkOvercommit_keeps (s : State) :
    (checkOvercommit s).pending = s.pending ∧ (checkOvercommit s).mem.bytes = s.mem.bytes := by
  unfold checkOvercommit
  exact foldl_keeps_of (fun _ _ => by simp only [crit_keeps, and_self]) ⟨rfl, rfl⟩

theorem applyQos_keeps (f : Fn) (ws : Vector Word 4) (s : State) :
    (applyQos f ws s).pending = s.pending ∧ (applyQos f ws s).mem.bytes = s.mem.bytes := by
  simp only [applyQos, modFn_keeps, setCause_keeps, updateContracts_keeps, and_self]

theorem execLinkTrained_keeps (port : PciePort) (rate width : Nat) (s : State) :
    ∀ t, execLinkTrained port rate width s = .next t → t.pending = s.pending ∧ t.mem.bytes = s.mem.bytes := by
  intro t h; simp only [execLinkTrained, Host.Outcome.next.injEq] at h; subst h
  (repeat' split) <;> simp only [checkOvercommit_keeps, info_keeps, and_self]

theorem rulesFnSetView_keeps (p : Packet) (s : State) : (rulesFnSetView.run p s).keeps s := by
  simp only [rulesFnSetView]
  (repeat' split) <;> simp only [Result.keeps, stage_keeps, and_self]

theorem execFnSetView_keeps (p : Packet) (s : State) :
    ∀ t, execFnSetView p s = .next t → t.pending = s.pending ∧ t.mem.bytes = s.mem.bytes := by
  intro t h; simp only [execFnSetView, Host.Outcome.next.injEq] at h; subst h
  exact takeCommand_keeps rulesFnSetView_keeps p s

theorem rulesFnReadView_keeps (p : Packet) (s : State) : (rulesFnReadView.run p s).keeps s := by
  simp only [rulesFnReadView]
  split <;> simp only [Result.keeps, and_self]

theorem execFnReadView_keeps (p : Packet) (s : State) :
    ∀ t, execFnReadView p s = .next t → t.pending = s.pending ∧ t.mem.bytes = s.mem.bytes := by
  intro t h; simp only [execFnReadView, Host.Outcome.next.injEq] at h; subst h
  exact takeCommand_keeps rulesFnReadView_keeps p s

theorem rulesFnSetQos_keeps (p : Packet) (s : State) : (rulesFnSetQos.run p s).keeps s := by
  simp only [rulesFnSetQos]
  (repeat' split) <;> simp only [Result.keeps, stage_keeps, and_self]

theorem execFnSetQos_keeps (p : Packet) (s : State) :
    ∀ t, execFnSetQos p s = .next t → t.pending = s.pending ∧ t.mem.bytes = s.mem.bytes := by
  intro t h; simp only [execFnSetQos, Host.Outcome.next.injEq] at h; subst h
  exact takeCommand_keeps rulesFnSetQos_keeps p s

theorem rulesFnReadQos_keeps (p : Packet) (s : State) : (rulesFnReadQos.run p s).keeps s := by
  simp only [rulesFnReadQos]
  split <;> simp only [Result.keeps, and_self]

theorem execFnReadQos_keeps (p : Packet) (s : State) :
    ∀ t, execFnReadQos p s = .next t → t.pending = s.pending ∧ t.mem.bytes = s.mem.bytes := by
  intro t h; simp only [execFnReadQos, Host.Outcome.next.injEq] at h; subst h
  exact takeCommand_keeps rulesFnReadQos_keeps p s

theorem rulesFnSetBudget_keeps (p : Packet) (s : State) : (rulesFnSetBudget.run p s).keeps s := by
  simp only [rulesFnSetBudget]
  split <;> simp only [Result.keeps, and_self]

theorem execFnSetBudget_keeps (p : Packet) (s : State) :
    ∀ t, execFnSetBudget p s = .next t → t.pending = s.pending ∧ t.mem.bytes = s.mem.bytes := by
  intro t h; simp only [execFnSetBudget, Host.Outcome.next.injEq] at h; subst h
  exact takeCommand_keeps rulesFnSetBudget_keeps p s

theorem rulesFnReset_keeps (p : Packet) (s : State) : (rulesFnReset.run p s).keeps s := by
  simp only [rulesFnReset]
  (repeat' split) <;> simp only [Result.keeps, functionReset_keeps, and_self]

theorem execFnReset_keeps (p : Packet) (s : State) :
    ∀ t, execFnReset p s = .next t → t.pending = s.pending ∧ t.mem.bytes = s.mem.bytes := by
  intro t h; simp only [execFnReset, Host.Outcome.next.injEq] at h; subst h
  exact takeCommand_keeps rulesFnReset_keeps p s

theorem rulesFnReadFunctions_keeps (p : Packet) (s : State) : (rulesFnReadFunctions.run p s).keeps s := by
  simp only [rulesFnReadFunctions, Result.keeps, and_self]

theorem execFnReadFunctions_keeps (p : Packet) (s : State) :
    ∀ t, execFnReadFunctions p s = .next t → t.pending = s.pending ∧ t.mem.bytes = s.mem.bytes := by
  intro t h; simp only [execFnReadFunctions, Host.Outcome.next.injEq] at h; subst h
  exact takeCommand_keeps rulesFnReadFunctions_keeps p s

theorem execFaultNote_keeps (entry : List Word) (s : State) :
    ∀ t, execFaultNote entry s = .next t → t.pending = s.pending ∧ t.mem.bytes = s.mem.bytes := by
  intro t h; simp only [execFaultNote, Host.Outcome.next.injEq] at h; subst h
  split <;> simp only [logEvent_keeps, offerEq_keeps, and_self]

theorem execEventCoalesceInterval_keeps (fn : Fn) (hub : HubId) (code : BitVec 16) (func : BitVec 4) (inst : BitVec 12) (s : State) :
    ∀ t, execEventCoalesceInterval fn hub code func inst s = .next t → t.pending = s.pending
      ∧ t.mem.bytes = s.mem.bytes := by
  intro t h; simp only [execEventCoalesceInterval, Host.Outcome.next.injEq] at h; subst h
  repeat' first
    | (constructor <;> with_reducible rfl)
    | with_reducible assumption
    | (simp only [atDue, pushEq_keeps, pushSpiEvent_keeps, modFn_keeps, reach_keeps, and_self]; done)
    | split
    | (simp only [atDue, pushEq_keeps, pushSpiEvent_keeps, modFn_keeps, reach_keeps, and_self])

theorem checkRail_keeps (i : Fin 12) (s : State) :
    (checkRail i s).pending = s.pending ∧ (checkRail i s).mem.bytes = s.mem.bytes := by
  unfold checkRail
  dsimp only
  (repeat' split) <;> simp only [crit_keeps, and_self]

theorem checkTemp_keeps (s : State) : (checkTemp s).pending = s.pending ∧ (checkTemp s).mem.bytes = s.mem.bytes := by
  unfold checkTemp
  dsimp only
  (repeat' split) <;> simp only [crit_keeps, and_self]

theorem takeReadings_keeps (temps rails ro : List (BitVec 16)) (s : State) :
    (takeReadings temps rails ro s).pending = s.pending ∧ (takeReadings temps rails ro s).mem.bytes = s.mem.bytes := by
  simp only [takeReadings, and_self]

theorem checkBudgets_keeps (s : State) :
    (checkBudgets s).pending = s.pending ∧ (checkBudgets s).mem.bytes = s.mem.bytes := by
  unfold checkBudgets
  dsimp only
  (repeat' split) <;> simp only [countLedger_keeps, crit_keeps, and_self]

theorem writeStress_keeps (s : State) : (writeStress s).pending = s.pending ∧ (writeStress s).mem.bytes = s.mem.bytes := by
  simp only [writeStress, and_self]

theorem peakFrame_keeps (s : State) : (peakFrame s).pending = s.pending ∧ (peakFrame s).mem.bytes = s.mem.bytes := by
  unfold peakFrame
  dsimp only
  (repeat' split) <;> simp only [checkBudgets_keeps, countFraction_keeps, writeStress_keeps, and_self]

theorem execPeakBucketEnd_keeps (s : State) :
    ∀ t, execPeakBucketEnd s = .next t → t.pending = s.pending ∧ t.mem.bytes = s.mem.bytes := by
  intro t h; simp only [execPeakBucketEnd, Host.Outcome.next.injEq] at h; subst h
  simp only [checkBudgets_keeps, writeStress_keeps, and_self]

theorem applyLevel_keeps (s : State) : (applyLevel s).pending = s.pending ∧ (applyLevel s).mem.bytes = s.mem.bytes := by
  simp only [applyLevel]
  split <;> simp only [crit_keeps, and_self]

theorem thermalReading_keeps (s : State) :
    (thermalReading s).pending = s.pending ∧ (thermalReading s).mem.bytes = s.mem.bytes := by
  simp only [thermalReading, and_self]

theorem execShedLevelTimer_keeps (s : State) :
    ∀ t, execShedLevelTimer s = .next t → t.pending = s.pending ∧ t.mem.bytes = s.mem.bytes := by
  intro t h; simp only [execShedLevelTimer, Host.Outcome.next.injEq] at h; subst h
  repeat' first
    | (constructor <;> with_reducible rfl)
    | with_reducible assumption
    | (simp only [atDue, modFn_keeps, reach_keeps, and_self]; done)
    | split
    | (simp only [atDue, modFn_keeps, reach_keeps, and_self])

theorem thermalTrip_pending (sensor : Nat) (reading : BitVec 16) (s : State) :
    (thermalTrip sensor reading s).pending = s.pending := by
  simp only [thermalTrip, countLedger_keeps, raiseEvent_keeps, chipReset_pending]

theorem thermalTrip_wf (sensor : Nat) (reading : BitVec 16) (s : State) (hw : cellsFrom 0 s.mem.bytes = true) :
    cellsFrom 0 (thermalTrip sensor reading s).mem.bytes = true := by
  unfold thermalTrip
  repeat' first
    | with_reducible assumption
    | with_reducible assumption
    | (simp only [countLedger_keeps, raiseEvent_keeps, chipReset_pending, and_self]; done)
    | (with_reducible apply chipReset_wf)
    | split
    | (simp only [countLedger_keeps, raiseEvent_keeps, chipReset_pending, and_self])

theorem execThermalTrip_pending (sensor : Fin 12) (reading : BitVec 16) (s : State) :
    ∀ t, execThermalTrip sensor reading s = .next t → t.pending = s.pending := by
  intro t h; simp only [execThermalTrip, Host.Outcome.next.injEq] at h; subst h
  split <;> simp only [thermalTrip_pending]

theorem execThermalTrip_wf (sensor : Fin 12) (reading : BitVec 16) (s : State) (hw : cellsFrom 0 s.mem.bytes = true) :
    ∀ t, execThermalTrip sensor reading s = .next t → cellsFrom 0 t.mem.bytes = true := by
  intro t h; simp only [execThermalTrip, Host.Outcome.next.injEq] at h; subst h
  repeat' first
    | with_reducible assumption
    | with_reducible assumption
    | (with_reducible apply thermalTrip_wf)
    | split

theorem execThermalRestart_keeps (s : State) :
    ∀ t, execThermalRestart s = .next t → t.pending = s.pending ∧ t.mem.bytes = s.mem.bytes := by
  intro t h; simp only [execThermalRestart, Host.Outcome.next.injEq] at h; subst h
  simp only [and_self]

theorem execWatchdogRestart_keeps (s : State) :
    ∀ t, execWatchdogRestart s = .next t → t.pending = s.pending ∧ t.mem.bytes = s.mem.bytes := by
  intro t h; simp only [execWatchdogRestart, Host.Outcome.next.injEq] at h; subst h
  simp only [and_self]

theorem execWatchdogExpiry_pending (s : State) : ∀ t, execWatchdogExpiry s = .next t → t.pending = s.pending := by
  intro t h; simp only [execWatchdogExpiry, Host.Outcome.next.injEq] at h; subst h
  repeat' first
    | (with_reducible rfl)
    | with_reducible assumption
    | (simp only [atDue, graceBeats_keeps, raiseEvent_keeps, modFn_keeps, reach_keeps, chipReset_pending, and_self]; done)
    | split
    | (simp only [atDue, graceBeats_keeps, raiseEvent_keeps, modFn_keeps, reach_keeps, chipReset_pending, and_self])

theorem execWatchdogExpiry_wf (s : State) (hw : cellsFrom 0 s.mem.bytes = true) :
    ∀ t, execWatchdogExpiry s = .next t → cellsFrom 0 t.mem.bytes = true := by
  intro t h; simp only [execWatchdogExpiry, Host.Outcome.next.injEq] at h; subst h
  repeat' first
    | with_reducible assumption
    | with_reducible assumption
    | (simp only [atDue, graceBeats_keeps, raiseEvent_keeps, modFn_keeps, reach_keeps, chipReset_pending, and_self]; done)
    | (with_reducible apply chipReset_wf)
    | split
    | (simp only [atDue, graceBeats_keeps, raiseEvent_keeps, modFn_keeps, reach_keeps, chipReset_pending, and_self])

theorem noteStretch_keeps (runNs : Nat) (s : State) :
    (noteStretch runNs s).pending = s.pending ∧ (noteStretch runNs s).mem.bytes = s.mem.bytes := by
  simp only [noteStretch, countFraction_keeps, drainExits_keeps, and_self]

theorem execDroopDetect_keeps (s : State) :
    ∀ t, execDroopDetect s = .next t → t.pending = s.pending ∧ t.mem.bytes = s.mem.bytes := by
  intro t h; simp only [execDroopDetect, Host.Outcome.next.injEq] at h; subst h
  split <;> simp only [and_self]

theorem execDroopClear_keeps (runNs : Nat) (s : State) :
    ∀ t, execDroopClear runNs s = .next t → t.pending = s.pending ∧ t.mem.bytes = s.mem.bytes := by
  intro t h; simp only [execDroopClear, Host.Outcome.next.injEq] at h; subst h
  split <;> simp only [noteStretch_keeps, and_self]

theorem execHlDroopSustained_keeps (s : State) :
    ∀ t, execHlDroopSustained s = .next t → t.pending = s.pending ∧ t.mem.bytes = s.mem.bytes := by
  intro t h; simp only [execHlDroopSustained, Host.Outcome.next.injEq] at h; subst h
  split <;> simp only [crit_keeps, noteStretch_keeps, and_self]

theorem execCorePllReturn_keeps (s : State) :
    ∀ t, execCorePllReturn s = .next t → t.pending = s.pending ∧ t.mem.bytes = s.mem.bytes := by
  intro t h; simp only [execCorePllReturn, Host.Outcome.next.injEq] at h; subst h
  simp only [and_self]

theorem commitAll_keeps (ids : List (Fin 30)) (s : State) :
    (commitAll ids s).pending = s.pending ∧ (commitAll ids s).mem.bytes = s.mem.bytes := by
  unfold commitAll
  exact foldl_keeps_of (fun _ _ => by simp only [and_self]) ⟨rfl, rfl⟩

theorem remapWord_keeps (offset : Nat) (s : State) :
    (remapWord offset s).pending = s.pending ∧ (remapWord offset s).mem.bytes = s.mem.bytes := by
  simp only [remapWord, info_keeps, and_self]

theorem execLedgerCommit_keeps (remaps : List Nat) (interrupted : Option (Fin 30 × Nat)) (s : State) :
    ∀ t, execLedgerCommit remaps interrupted s = .next t → t.pending = s.pending ∧ t.mem.bytes = s.mem.bytes := by
  intro t h; simp only [execLedgerCommit, Host.Outcome.next.injEq] at h; subst h
  repeat' first
    | with_reducible assumption
    | (simp only [commitAll_keeps, countLedger_keeps, remapWord_keeps, and_self]; done)
    | (with_reducible refine foldl_keeps_of ?_ ?_; intro _ _)
    | split

theorem execLedgerRefresh_keeps (s : State) :
    ∀ t, execLedgerRefresh s = .next t → t.pending = s.pending ∧ t.mem.bytes = s.mem.bytes := by
  intro t h; simp only [execLedgerRefresh, Host.Outcome.next.injEq] at h; subst h
  split <;> simp only [and_self]

theorem syncCalendar_keeps (s : State) :
    (syncCalendar s).pending = s.pending ∧ (syncCalendar s).mem.bytes = s.mem.bytes := by
  unfold syncCalendar
  dsimp only
  (repeat' split) <;> simp only [info_keeps, and_self]

theorem trimCalendar_keeps (xtalError : Int) (s : State) :
    (trimCalendar xtalError s).pending = s.pending ∧ (trimCalendar xtalError s).mem.bytes = s.mem.bytes := by
  unfold trimCalendar
  dsimp only
  (repeat' split) <;> simp only [and_self]

theorem execCalendarSecond_keeps (xtalError : Int) (s : State) :
    ∀ t, execCalendarSecond xtalError s = .next t → t.pending = s.pending ∧ t.mem.bytes = s.mem.bytes := by
  intro t h; simp only [execCalendarSecond, Host.Outcome.next.injEq] at h; subst h
  split <;> simp only [syncCalendar_keeps, trimCalendar_keeps, and_self]

theorem applyCalendar_keeps (auto : Bool) (set : Option Word) (s : State) :
    (applyCalendar auto set s).pending = s.pending ∧ (applyCalendar auto set s).mem.bytes = s.mem.bytes := by
  simp only [applyCalendar]
  split <;> simp only [info_keeps, and_self]

theorem countFrame_keeps (s : State) : (countFrame s).pending = s.pending ∧ (countFrame s).mem.bytes = s.mem.bytes := by
  unfold countFrame
  (repeat' split) <;> simp only [countFraction_keeps, and_self]

theorem checkTrip_pending (s : State) : (checkTrip s).pending = s.pending := by
  unfold checkTrip
  dsimp only
  (repeat' split) <;> simp only [thermalTrip_pending]

theorem checkTrip_wf (s : State) (hw : cellsFrom 0 s.mem.bytes = true) : cellsFrom 0 (checkTrip s).mem.bytes = true := by
  unfold checkTrip
  repeat' first
    | with_reducible assumption
    | with_reducible assumption
    | (simp only [thermalTrip_pending, and_self]; done)
    | (with_reducible apply thermalTrip_wf)
    | split
    | (simp only [thermalTrip_pending, and_self])

theorem healthFrame_keeps (temps rails ro : List (BitVec 16)) (s : State) :
    (healthFrame temps rails ro s).pending = s.pending ∧ (healthFrame temps rails ro s).mem.bytes = s.mem.bytes := by
  unfold healthFrame
  repeat' first
    | with_reducible assumption
    | (simp only [checkRail_keeps, checkTemp_keeps, countFrame_keeps, peakFrame_keeps, takeReadings_keeps, thermalReading_keeps, and_self]; done)
    | (with_reducible refine foldl_keeps_of ?_ ?_; intro _ _)
    | split
    | (simp only [checkRail_keeps, checkTemp_keeps, countFrame_keeps, peakFrame_keeps, takeReadings_keeps, thermalReading_keeps, and_self])

theorem rulesHlReadMonitors_keeps (p : Packet) (s : State) : (rulesHlReadMonitors.run p s).keeps s := by
  simp only [rulesHlReadMonitors, Result.keeps, and_self]

theorem execHlReadMonitors_keeps (p : Packet) (s : State) :
    ∀ t, execHlReadMonitors p s = .next t → t.pending = s.pending ∧ t.mem.bytes = s.mem.bytes := by
  intro t h; simp only [execHlReadMonitors, Host.Outcome.next.injEq] at h; subst h
  exact takeCommand_keeps rulesHlReadMonitors_keeps p s

theorem rulesHlSetThresholds_keeps (p : Packet) (s : State) : (rulesHlSetThresholds.run p s).keeps s := by
  simp only [rulesHlSetThresholds, Result.keeps, stage_keeps, and_self]

theorem execHlSetThresholds_keeps (p : Packet) (s : State) :
    ∀ t, execHlSetThresholds p s = .next t → t.pending = s.pending ∧ t.mem.bytes = s.mem.bytes := by
  intro t h; simp only [execHlSetThresholds, Host.Outcome.next.injEq] at h; subst h
  exact takeCommand_keeps rulesHlSetThresholds_keeps p s

theorem rulesHlReadLedger_keeps (p : Packet) (s : State) : (rulesHlReadLedger.run p s).keeps s := by
  simp only [rulesHlReadLedger, Result.keeps, and_self]

theorem execHlReadLedger_keeps (p : Packet) (s : State) :
    ∀ t, execHlReadLedger p s = .next t → t.pending = s.pending ∧ t.mem.bytes = s.mem.bytes := by
  intro t h; simp only [execHlReadLedger, Host.Outcome.next.injEq] at h; subst h
  exact takeCommand_keeps rulesHlReadLedger_keeps p s

theorem rulesHlReadEventLog_keeps (p : Packet) (s : State) : (rulesHlReadEventLog.run p s).keeps s := by
  simp only [rulesHlReadEventLog, Result.keeps, and_self]

theorem execHlReadEventLog_keeps (p : Packet) (s : State) :
    ∀ t, execHlReadEventLog p s = .next t → t.pending = s.pending ∧ t.mem.bytes = s.mem.bytes := by
  intro t h; simp only [execHlReadEventLog, Host.Outcome.next.injEq] at h; subst h
  exact takeCommand_keeps rulesHlReadEventLog_keeps p s

theorem rulesHlClearEventLog_keeps (p : Packet) (s : State) : (rulesHlClearEventLog.run p s).keeps s := by
  simp only [rulesHlClearEventLog, Result.keeps, and_self]

theorem execHlClearEventLog_keeps (p : Packet) (s : State) :
    ∀ t, execHlClearEventLog p s = .next t → t.pending = s.pending ∧ t.mem.bytes = s.mem.bytes := by
  intro t h; simp only [execHlClearEventLog, Host.Outcome.next.injEq] at h; subst h
  exact takeCommand_keeps rulesHlClearEventLog_keeps p s

theorem rulesHlSetPeak_keeps (p : Packet) (s : State) : (rulesHlSetPeak.run p s).keeps s := by
  simp only [rulesHlSetPeak, Result.keeps, stage_keeps, and_self]

theorem execHlSetPeak_keeps (p : Packet) (s : State) :
    ∀ t, execHlSetPeak p s = .next t → t.pending = s.pending ∧ t.mem.bytes = s.mem.bytes := by
  intro t h; simp only [execHlSetPeak, Host.Outcome.next.injEq] at h; subst h
  exact takeCommand_keeps rulesHlSetPeak_keeps p s

theorem rulesHlReadPeak_keeps (p : Packet) (s : State) : (rulesHlReadPeak.run p s).keeps s := by
  simp only [rulesHlReadPeak, Result.keeps, and_self]

theorem execHlReadPeak_keeps (p : Packet) (s : State) :
    ∀ t, execHlReadPeak p s = .next t → t.pending = s.pending ∧ t.mem.bytes = s.mem.bytes := by
  intro t h; simp only [execHlReadPeak, Host.Outcome.next.injEq] at h; subst h
  exact takeCommand_keeps rulesHlReadPeak_keeps p s

theorem rulesHlReadLastWords_keeps (p : Packet) (s : State) : (rulesHlReadLastWords.run p s).keeps s := by
  simp only [rulesHlReadLastWords, Result.keeps, and_self]

theorem execHlReadLastWords_keeps (p : Packet) (s : State) :
    ∀ t, execHlReadLastWords p s = .next t → t.pending = s.pending ∧ t.mem.bytes = s.mem.bytes := by
  intro t h; simp only [execHlReadLastWords, Host.Outcome.next.injEq] at h; subst h
  exact takeCommand_keeps rulesHlReadLastWords_keeps p s

theorem rulesHlSetCalendar_keeps (p : Packet) (s : State) : (rulesHlSetCalendar.run p s).keeps s := by
  simp only [rulesHlSetCalendar]
  split <;> simp only [Result.keeps, stage_keeps, and_self]

theorem execHlSetCalendar_keeps (p : Packet) (s : State) :
    ∀ t, execHlSetCalendar p s = .next t → t.pending = s.pending ∧ t.mem.bytes = s.mem.bytes := by
  intro t h; simp only [execHlSetCalendar, Host.Outcome.next.injEq] at h; subst h
  exact takeCommand_keeps rulesHlSetCalendar_keeps p s

theorem rulesHlReadCalendar_keeps (p : Packet) (s : State) : (rulesHlReadCalendar.run p s).keeps s := by
  simp only [rulesHlReadCalendar, Result.keeps, and_self]

theorem execHlReadCalendar_keeps (p : Packet) (s : State) :
    ∀ t, execHlReadCalendar p s = .next t → t.pending = s.pending ∧ t.mem.bytes = s.mem.bytes := by
  intro t h; simp only [execHlReadCalendar, Host.Outcome.next.injEq] at h; subst h
  exact takeCommand_keeps rulesHlReadCalendar_keeps p s

theorem rulesHlSetWatchdog_keeps (p : Packet) (s : State) : (rulesHlSetWatchdog.run p s).keeps s := by
  simp only [rulesHlSetWatchdog, Result.keeps, stage_keeps, and_self]

theorem execHlSetWatchdog_keeps (p : Packet) (s : State) :
    ∀ t, execHlSetWatchdog p s = .next t → t.pending = s.pending ∧ t.mem.bytes = s.mem.bytes := by
  intro t h; simp only [execHlSetWatchdog, Host.Outcome.next.injEq] at h; subst h
  exact takeCommand_keeps rulesHlSetWatchdog_keeps p s

theorem rulesHlZeroiseKeys_keeps (p : Packet) (s : State) : (rulesHlZeroiseKeys.run p s).keeps s := by
  simp only [rulesHlZeroiseKeys, Result.keeps, zeroise_keeps, and_self]

theorem execHlZeroiseKeys_keeps (p : Packet) (s : State) :
    ∀ t, execHlZeroiseKeys p s = .next t → t.pending = s.pending ∧ t.mem.bytes = s.mem.bytes := by
  intro t h; simp only [execHlZeroiseKeys, Host.Outcome.next.injEq] at h; subst h
  exact takeCommand_keeps rulesHlZeroiseKeys_keeps p s

theorem modRecord_keeps (t : Nat) (f : TestResult → TestResult) (s : State) :
    (modRecord t f s).pending = s.pending ∧ (modRecord t f s).mem.bytes = s.mem.bytes := by
  unfold modRecord
  (repeat' split) <;> simp only [and_self]

theorem modRun_keeps (t : Nat) (f : TestRun → TestRun) (s : State) :
    (modRun t f s).pending = s.pending ∧ (modRun t f s).mem.bytes = s.mem.bytes := by
  simp only [modRun, and_self]

theorem openRecord_keeps (r : TestRun) (at_ : Nat) (s : State) :
    (openRecord r at_ s).pending = s.pending ∧ (openRecord r at_ s).mem.bytes = s.mem.bytes := by
  simp only [openRecord, modRecord_keeps, and_self]

theorem closeRun_keeps (t st : Nat) (s : State) :
    (closeRun t st s).pending = s.pending ∧ (closeRun t st s).mem.bytes = s.mem.bytes := by
  simp only [closeRun, info_keeps, modRecord_keeps, and_self]

theorem finishIfDone_keeps (t : Nat) (s : State) :
    (finishIfDone t s).pending = s.pending ∧ (finishIfDone t s).mem.bytes = s.mem.bytes := by
  unfold finishIfDone
  (repeat' split) <;> simp only [closeRun_keeps, and_self]

theorem dropUnit_keeps (t unit : Nat) (s : State) :
    (dropUnit t unit s).pending = s.pending ∧ (dropUnit t unit s).mem.bytes = s.mem.bytes := by
  simp only [dropUnit, modRun_keeps, and_self]

theorem judgeUnit_keeps (t unit code : Nat) (value : Word) (s : State) :
    (judgeUnit t unit code value s).pending = s.pending ∧ (judgeUnit t unit code value s).mem.bytes = s.mem.bytes := by
  simp only [judgeUnit]
  split <;> simp only [crit_keeps, dropUnit_keeps, modRecord_keeps, and_self]

theorem skipUnits_keeps (t : Nat) (units : List Nat) (s : State) :
    (skipUnits t units s).pending = s.pending ∧ (skipUnits t units s).mem.bytes = s.mem.bytes := by
  unfold skipUnits
  exact foldl_keeps_of (fun _ _ => by simp only [skipUnit_keeps, and_self]) ⟨rfl, rfl⟩

theorem countSkipped_keeps (t n : Nat) (s : State) :
    (countSkipped t n s).pending = s.pending ∧ (countSkipped t n s).mem.bytes = s.mem.bytes := by
  simp only [countSkipped, modRecord_keeps, and_self]

theorem settleGroups_keeps (s : State) :
    (settleGroups s).pending = s.pending ∧ (settleGroups s).mem.bytes = s.mem.bytes := by
  unfold settleGroups
  (repeat' split) <;> simp only [countSkipped_keeps, modRun_keeps, and_self]

theorem dropMeasurement_keeps (kind : Nat) (s : State) :
    (dropMeasurement kind s).pending = s.pending ∧ (dropMeasurement kind s).mem.bytes = s.mem.bytes := by
  simp only [dropMeasurement, and_self]

theorem startRun_keeps (f : Nat) (r : TestRun) (s : State) :
    (startRun f r s).pending = s.pending ∧ (startRun f r s).mem.bytes = s.mem.bytes := by
  unfold startRun
  dsimp only
  (repeat' split) <;> simp only [finishIfDone_keeps, modRun_keeps, openRecord_keeps, settleGroups_keeps, skipUnits_keeps, and_self]

theorem abortRun_keeps (f : Nat) (r : TestRun) (s : State) :
    (abortRun f r s).pending = s.pending ∧ (abortRun f r s).mem.bytes = s.mem.bytes := by
  unfold abortRun
  repeat' first
    | (constructor <;> with_reducible rfl)
    | with_reducible assumption
    | (simp only [closeRun_keeps, dropMeasurement_keeps, openRecord_keeps, stopStimulus_keeps, and_self]; done)
    | (with_reducible refine foldl_keeps_of ?_ ?_; intro _ _)
    | split
    | (simp only [closeRun_keeps, dropMeasurement_keeps, openRecord_keeps, stopStimulus_keeps, and_self])

theorem startScheduled_keeps (f : Nat) (s : State) :
    (startScheduled f s).pending = s.pending ∧ (startScheduled f s).mem.bytes = s.mem.bytes := by
  unfold startScheduled
  repeat' first
    | (constructor <;> with_reducible rfl)
    | with_reducible assumption
    | (simp only [and_self]; done)
    | (with_reducible refine foldl_keeps_of ?_ ?_; intro _ _)
    | split

theorem beginModTest_keeps (f : Nat) (b : Nat) (s : State) :
    (beginModTest f b s).pending = s.pending ∧ (beginModTest f b s).mem.bytes = s.mem.bytes := by
  unfold beginModTest
  dsimp only
  (repeat' split) <;> simp only [setMod_keeps, and_self]

theorem modTestsFrame_keeps (f : Nat) (s : State) :
    (modTestsFrame f s).pending = s.pending ∧ (modTestsFrame f s).mem.bytes = s.mem.bytes := by
  unfold modTestsFrame
  repeat' first
    | (constructor <;> with_reducible rfl)
    | with_reducible assumption
    | (simp only [beginModTest_keeps, finishIfDone_keeps, setMod_keeps, skipUnits_keeps, and_self]; done)
    | (with_reducible refine foldl_keeps_of ?_ ?_; intro _ _)
    | split
    | (simp only [beginModTest_keeps, finishIfDone_keeps, setMod_keeps, skipUnits_keeps, and_self])

theorem setSourceStep_keeps (i : Fin 128) (step waited : Nat) (s : State) :
    (setSourceStep i step waited s).pending = s.pending ∧ (setSourceStep i step waited s).mem.bytes = s.mem.bytes := by
  simp only [setSourceStep, and_self]

theorem sourcesFrame_keeps (s : State) :
    (sourcesFrame s).pending = s.pending ∧ (sourcesFrame s).mem.bytes = s.mem.bytes := by
  unfold sourcesFrame
  repeat' first
    | (constructor <;> with_reducible rfl)
    | with_reducible assumption
    | (simp only [finishIfDone_keeps, setSourceStep_keeps, skipUnit_keeps, skipUnits_keeps, and_self]; done)
    | (with_reducible refine foldl_keeps_of ?_ ?_; intro _ _)
    | split
    | (simp only [finishIfDone_keeps, setSourceStep_keeps, skipUnit_keeps, skipUnits_keeps, and_self])

theorem portsFrame_keeps (named : List Nat) (s : State) :
    (portsFrame named s).pending = s.pending ∧ (portsFrame named s).mem.bytes = s.mem.bytes := by
  simp only [portsFrame]
  split <;> simp only [finishIfDone_keeps, skipUnits_keeps, and_self]

theorem selfTestFrame_keeps (f : Nat) (named : List Nat) (s : State) :
    (selfTestFrame f named s).pending = s.pending ∧ (selfTestFrame f named s).mem.bytes = s.mem.bytes := by
  unfold selfTestFrame
  repeat' first
    | (constructor <;> with_reducible rfl)
    | with_reducible assumption
    | (simp only [abortRun_keeps, modTestsFrame_keeps, portsFrame_keeps, sourcesFrame_keeps, startRun_keeps, startScheduled_keeps, and_self]; done)
    | (with_reducible refine foldl_keeps_of ?_ ?_; intro _ _)
    | split
    | (simp only [abortRun_keeps, modTestsFrame_keeps, portsFrame_keeps, sourcesFrame_keeps, startRun_keeps, startScheduled_keeps, and_self])

theorem logicTestFrame_pending (s : State) : (logicTestFrame s).pending = s.pending := by
  unfold logicTestFrame
  (repeat' split) <;> simp only [openRecord_keeps, chipReset_pending]

theorem logicTestFrame_wf (s : State) (hw : cellsFrom 0 s.mem.bytes = true) :
    cellsFrom 0 (logicTestFrame s).mem.bytes = true := by
  unfold logicTestFrame
  repeat' first
    | with_reducible assumption
    | with_reducible assumption
    | (simp only [openRecord_keeps, chipReset_pending, and_self]; done)
    | (with_reducible apply chipReset_wf)
    | split
    | (simp only [openRecord_keeps, chipReset_pending, and_self])

theorem execSramBlockTest_keeps (memory : Fin 7) (block : Nat) (code : Fin 3) (value : Word) (s : State) :
    ∀ t, execSramBlockTest memory block code value s = .next t → t.pending = s.pending ∧ t.mem.bytes = s.mem.bytes := by
  intro t h; simp only [execSramBlockTest, Host.Outcome.next.injEq] at h; subst h
  repeat' first
    | (constructor <;> with_reducible rfl)
    | with_reducible assumption
    | (simp only [blockSlot, atDue, closeRun_keeps, finishIfDone_keeps, judgeUnit_keeps, skipUnit_keeps, modFn_keeps, reach_keeps, and_self]; done)
    | split
    | (simp only [blockSlot, atDue, closeRun_keeps, finishIfDone_keeps, judgeUnit_keeps, skipUnit_keeps, modFn_keeps, reach_keeps, and_self])

theorem execDramGroupTest_pending (code : Fin 3) (value : Word) (soft : SoftErrors) (s : State) :
    ∀ t, execDramGroupTest code value soft s = .next t → t.pending = s.pending := by
  intro t h; simp only [execDramGroupTest, Host.Outcome.next.injEq] at h; subst h
  (repeat' split) <;> simp only [applySoft_keeps, finishIfDone_keeps, judgeUnit_keeps, modRun_keeps, settleGroups_keeps, readMemory_pending, writeMemory_pending]

theorem execDramGroupTest_wf (code : Fin 3) (value : Word) (soft : SoftErrors) (s : State) (hw : cellsFrom 0 s.mem.bytes = true) :
    ∀ t, execDramGroupTest code value soft s = .next t → cellsFrom 0 t.mem.bytes = true := by
  intro t h; simp only [execDramGroupTest, Host.Outcome.next.injEq] at h; subst h
  repeat' first
    | with_reducible assumption
    | with_reducible assumption
    | (simp only [applySoft_keeps, finishIfDone_keeps, judgeUnit_keeps, modRun_keeps, settleGroups_keeps, readMemory_pending, writeMemory_pending, and_self]; done)
    | (with_reducible apply readMemory_wf)
    | (with_reducible apply writeMemory_wf)
    | split
    | (simp only [applySoft_keeps, finishIfDone_keeps, judgeUnit_keeps, modRun_keeps, settleGroups_keeps, readMemory_pending, writeMemory_pending, and_self])

theorem endModTest_keeps (m : Fin 288) (readings : Vector ModReading 2) (s : State) :
    (endModTest m readings s).pending = s.pending ∧ (endModTest m readings s).mem.bytes = s.mem.bytes := by
  simp only [endModTest]
  split <;> simp only [failModulator_keeps, finishIfDone_keeps, judgeUnit_keeps, setMod_keeps, stopStimulus_keeps, and_self]

theorem execModulatorTestEnd_keeps (m : Fin 288) (first second : ModReading) (s : State) :
    ∀ t, execModulatorTestEnd m first second s = .next t → t.pending = s.pending ∧ t.mem.bytes = s.mem.bytes := by
  intro t h; simp only [execModulatorTestEnd, Host.Outcome.next.injEq] at h; subst h
  repeat' first
    | (constructor <;> with_reducible rfl)
    | with_reducible assumption
    | (simp only [atDue, endModTest_keeps, modFn_keeps, reach_keeps, and_self]; done)
    | split
    | (simp only [atDue, endModTest_keeps, modFn_keeps, reach_keeps, and_self])

theorem execSourceTestStep_keeps (source : Fin 128) (step : Fin 3) (readingNa : Int) (s : State) :
    ∀ t, execSourceTestStep source step readingNa s = .next t → t.pending = s.pending ∧ t.mem.bytes = s.mem.bytes := by
  intro t h; simp only [execSourceTestStep, Host.Outcome.next.injEq] at h; subst h
  (repeat' split) <;> simp only [finishIfDone_keeps, judgeUnit_keeps, setSourceStep_keeps, skipUnit_keeps, and_self]

theorem endMeasurement_keeps (r : DiagRun) (judge : State → State) (s : State)
    (hj : ∀ t, (judge t).pending = t.pending ∧ (judge t).mem.bytes = t.mem.bytes) :
    (endMeasurement r judge s).pending = s.pending ∧ (endMeasurement r judge s).mem.bytes = s.mem.bytes := by
  unfold endMeasurement
  simp only [runDiagnostics_keeps, finishIfDone_keeps, hj, and_self]

theorem execReferenceTestEnd_keeps (mainUv checkUv : Int) (s : State) :
    ∀ t, execReferenceTestEnd mainUv checkUv s = .next t → t.pending = s.pending ∧ t.mem.bytes = s.mem.bytes := by
  intro t h; simp only [execReferenceTestEnd, Host.Outcome.next.injEq] at h; subst h
  split
  · exact endMeasurement_keeps _ _ _ (fun _ => judgeUnit_keeps _ _ _ _ _)
  · exact ⟨rfl, rfl⟩

theorem execTestBusTestEnd_keeps (resistance leakagePa drivenUv : Vector Int 2) (s : State) :
    ∀ t, execTestBusTestEnd resistance leakagePa drivenUv s = .next t → t.pending = s.pending ∧ t.mem.bytes = s.mem.bytes := by
  intro t h; simp only [execTestBusTestEnd, Host.Outcome.next.injEq] at h; subst h
  split
  · exact endMeasurement_keeps _ _ _ (fun _ => by simp only [judgeUnit_keeps, and_self])
  · exact ⟨rfl, rfl⟩

theorem execIsolationTestPort_keeps (port : Fin 128) (above below : Vector TripReading 4) (s : State) :
    ∀ t, execIsolationTestPort port above below s = .next t → t.pending = s.pending ∧ t.mem.bytes = s.mem.bytes := by
  intro t h; simp only [execIsolationTestPort, Host.Outcome.next.injEq] at h; subst h
  (repeat' split) <;> simp only [finishIfDone_keeps, judgeUnit_keeps, skipUnit_keeps, and_self]

theorem execScheduledTestDue_keeps (test : Fin 8) (s : State) :
    ∀ t, execScheduledTestDue test s = .next t → t.pending = s.pending ∧ t.mem.bytes = s.mem.bytes := by
  intro t h; simp only [execScheduledTestDue, Host.Outcome.next.injEq] at h; subst h
  repeat' first
    | (constructor <;> with_reducible rfl)
    | with_reducible assumption
    | (simp only [atDue, modRecord_keeps, modFn_keeps, reach_keeps, and_self]; done)
    | split
    | (simp only [atDue, modRecord_keeps, modFn_keeps, reach_keeps, and_self])

theorem execTapInstructionUpdate_keeps (opcode : Byte) (s : State) :
    ∀ t, execTapInstructionUpdate opcode s = .next t → t.pending = s.pending ∧ t.mem.bytes = s.mem.bytes := by
  intro t h; simp only [execTapInstructionUpdate, Host.Outcome.next.injEq] at h; subst h
  split <;> simp only [and_self]

theorem execTapTestLogicReset_keeps (s : State) :
    ∀ t, execTapTestLogicReset s = .next t → t.pending = s.pending ∧ t.mem.bytes = s.mem.bytes := by
  intro t h; simp only [execTapTestLogicReset, Host.Outcome.next.injEq] at h; subst h
  simp only [and_self]

theorem rulesTsRun_keeps (p : Packet) (s : State) : (rulesTsRun.run p s).keeps s := by
  simp only [rulesTsRun]
  (repeat' split) <;> simp only [Result.keeps, and_self]

theorem execTsRun_keeps (p : Packet) (s : State) :
    ∀ t, execTsRun p s = .next t → t.pending = s.pending ∧ t.mem.bytes = s.mem.bytes := by
  intro t h; simp only [execTsRun, Host.Outcome.next.injEq] at h; subst h
  exact takeCommand_keeps rulesTsRun_keeps p s

theorem rulesTsReadResult_keeps (p : Packet) (s : State) : (rulesTsReadResult.run p s).keeps s := by
  simp only [rulesTsReadResult, Result.keeps, and_self]

theorem execTsReadResult_keeps (p : Packet) (s : State) :
    ∀ t, execTsReadResult p s = .next t → t.pending = s.pending ∧ t.mem.bytes = s.mem.bytes := by
  intro t h; simp only [execTsReadResult, Host.Outcome.next.injEq] at h; subst h
  exact takeCommand_keeps rulesTsReadResult_keeps p s

theorem rulesTsAbort_keeps (p : Packet) (s : State) : (rulesTsAbort.run p s).keeps s := by
  simp only [rulesTsAbort, Result.keeps, modRun_keeps, and_self]

theorem execTsAbort_keeps (p : Packet) (s : State) :
    ∀ t, execTsAbort p s = .next t → t.pending = s.pending ∧ t.mem.bytes = s.mem.bytes := by
  intro t h; simp only [execTsAbort, Host.Outcome.next.injEq] at h; subst h
  exact takeCommand_keeps rulesTsAbort_keeps p s

theorem rulesTsSetSchedule_keeps (p : Packet) (s : State) : (rulesTsSetSchedule.run p s).keeps s := by
  simp only [rulesTsSetSchedule, Result.keeps, stage_keeps, and_self]

theorem execTsSetSchedule_keeps (p : Packet) (s : State) :
    ∀ t, execTsSetSchedule p s = .next t → t.pending = s.pending ∧ t.mem.bytes = s.mem.bytes := by
  intro t h; simp only [execTsSetSchedule, Host.Outcome.next.injEq] at h; subst h
  exact takeCommand_keeps rulesTsSetSchedule_keeps p s

theorem applySchedule_keeps (w0 w1 : Word) (s : State) :
    (applySchedule w0 w1 s).pending = s.pending ∧ (applySchedule w0 w1 s).mem.bytes = s.mem.bytes := by
  simp only [applySchedule, and_self]

theorem rulesTsScanEnable_keeps (p : Packet) (s : State) : (rulesTsScanEnable.run p s).keeps s := by
  simp only [rulesTsScanEnable, Result.keeps, crit_keeps, zeroise_keeps, and_self]

theorem execTsScanEnable_keeps (p : Packet) (s : State) :
    ∀ t, execTsScanEnable p s = .next t → t.pending = s.pending ∧ t.mem.bytes = s.mem.bytes := by
  intro t h; simp only [execTsScanEnable, Host.Outcome.next.injEq] at h; subst h
  exact takeCommand_keeps rulesTsScanEnable_keeps p s

end Sys2Proof.Machine
end

