-- ==== Sys2Proof/Laws/KeepPower.lean ====
section
/-! SUPPORT. What the changes a boundary puts in force, Fountainhead's work, power and the boundaries leave as they are: the queue of commands and the bytes of the capture memory. A definition that
writes memory bytes has two lemmas instead: its queue is unchanged, and the memory keeps its canonical form. -/

namespace Sys2Proof.Machine
open Sys2Proof
set_option linter.unusedSimpArgs false
set_option linter.unusedVariables false

theorem branchChange_pending (i : Fin 512) (ws : Vector Word 3) (regime : Bool) (f : Nat) (s : State) :
    (branchChange i ws regime f s).pending = s.pending := by
  simp only [branchChange]
  split <;> simp only [applyBranch_keeps, captureRegime_pending]

theorem branchChange_wf (i : Fin 512) (ws : Vector Word 3) (regime : Bool) (f : Nat) (s : State) (hw : cellsFrom 0 s.mem.bytes = true) :
    cellsFrom 0 (branchChange i ws regime f s).mem.bytes = true := by
  unfold branchChange
  repeat' first
    | with_reducible assumption
    | with_reducible assumption
    | (simp only [applyBranch_keeps, captureRegime_pending, and_self]; done)
    | (with_reducible apply captureRegime_wf)
    | split
    | (simp only [applyBranch_keeps, captureRegime_pending, and_self])

theorem applyChange_pending (f : Nat) (c : Change) (s : State) : (applyChange f c s).pending = s.pending := by
  simp only [applyChange]
  split <;> simp only [applyBeaconWord_keeps, applyCalPolicy_keeps, applyCalendar_keeps, applyCapPins_keeps, applyCapTrigger_keeps, applyChannelWord_keeps, applyComparator_keeps, applyDetectors_keeps, applyFir_keeps, applyHoldover_keeps, applyLaneGroup_keeps, applyMains_keeps, applyQos_keeps, applyRefcheck_keeps, applyRelease_keeps, applySchedule_keeps, applySequence_keeps, applySources_keeps, applyStream_keeps, applyTimer_keeps, applyTrim_keeps, clearSlot_keeps, failModulator_keeps, modPair_keeps, modSide_keeps, queueDiagnostic_keeps, recordFrontEnd_keeps, releaseUnits_keeps, retire_keeps, svStartEvent_keeps, applyCapArm_pending, applyCapDelete_pending, applyCapRelease_pending, applyView_pending, branchChange_pending]

theorem applyChange_wf (f : Nat) (c : Change) (s : State) (hw : cellsFrom 0 s.mem.bytes = true) :
    cellsFrom 0 (applyChange f c s).mem.bytes = true := by
  unfold applyChange
  repeat' first
    | with_reducible assumption
    | with_reducible assumption
    | (simp only [applyBeaconWord_keeps, applyCalPolicy_keeps, applyCalendar_keeps, applyCapPins_keeps, applyCapTrigger_keeps, applyChannelWord_keeps, applyComparator_keeps, applyDetectors_keeps, applyFir_keeps, applyHoldover_keeps, applyLaneGroup_keeps, applyMains_keeps, applyQos_keeps, applyRefcheck_keeps, applyRelease_keeps, applySchedule_keeps, applySequence_keeps, applySources_keeps, applyStream_keeps, applyTimer_keeps, applyTrim_keeps, clearSlot_keeps, failModulator_keeps, modPair_keeps, modSide_keeps, queueDiagnostic_keeps, recordFrontEnd_keeps, releaseUnits_keeps, retire_keeps, svStartEvent_keeps, applyCapArm_pending, applyCapDelete_pending, applyCapRelease_pending, applyView_pending, branchChange_pending, and_self]; done)
    | (with_reducible apply applyCapArm_wf)
    | (with_reducible apply applyCapDelete_wf)
    | (with_reducible apply applyCapRelease_wf)
    | (with_reducible apply applyView_wf)
    | (with_reducible apply branchChange_wf)
    | split
    | (simp only [applyBeaconWord_keeps, applyCalPolicy_keeps, applyCalendar_keeps, applyCapPins_keeps, applyCapTrigger_keeps, applyChannelWord_keeps, applyComparator_keeps, applyDetectors_keeps, applyFir_keeps, applyHoldover_keeps, applyLaneGroup_keeps, applyMains_keeps, applyQos_keeps, applyRefcheck_keeps, applyRelease_keeps, applySchedule_keeps, applySequence_keeps, applySources_keeps, applyStream_keeps, applyTimer_keeps, applyTrim_keeps, clearSlot_keeps, failModulator_keeps, modPair_keeps, modSide_keeps, queueDiagnostic_keeps, recordFrontEnd_keeps, releaseUnits_keeps, retire_keeps, svStartEvent_keeps, applyCapArm_pending, applyCapDelete_pending, applyCapRelease_pending, applyView_pending, branchChange_pending, and_self])

theorem postponeLate_keeps (f : Nat) (s : State) :
    (postponeLate f s).pending = s.pending ∧ (postponeLate f s).mem.bytes = s.mem.bytes := by
  unfold postponeLate
  exact foldl_keeps_of (fun _ _ => by simp only [info_keeps, and_self]) ⟨rfl, rfl⟩

theorem applyDue_pending (f : Nat) (s : State) : (applyDue f s).1.pending = s.pending := by
  unfold applyDue
  repeat' first
    | (with_reducible rfl)
    | with_reducible assumption
    | (simp only [applyTimeStep_keeps, followGuards_keeps, postponeLate_keeps, settleFrontEnd_keeps, applyChange_pending, and_self]; done)
    | (with_reducible refine foldl_fst_pending_of ?_ ?_; intro _ _)
    | split
    | (simp only [applyTimeStep_keeps, followGuards_keeps, postponeLate_keeps, settleFrontEnd_keeps, applyChange_pending, and_self])

theorem applyDue_wf (f : Nat) (s : State) (hw : cellsFrom 0 s.mem.bytes = true) :
    cellsFrom 0 (applyDue f s).1.mem.bytes = true := by
  unfold applyDue
  repeat' first
    | with_reducible assumption
    | with_reducible assumption
    | (simp only [applyTimeStep_keeps, followGuards_keeps, postponeLate_keeps, settleFrontEnd_keeps, applyChange_pending, and_self]; done)
    | (with_reducible apply applyChange_wf)
    | (with_reducible refine foldl_fst_wf_of ?_ ?_; intro _ _ _)
    | split
    | (simp only [applyTimeStep_keeps, followGuards_keeps, postponeLate_keeps, settleFrontEnd_keeps, applyChange_pending, and_self])

theorem applyNow_pending (f : Nat) (s : State) : (applyNow f s).pending = s.pending := by
  simp only [applyNow]
  split <;> simp only [keepPast_keeps, queueTurns_keeps, applyDue_pending]

theorem applyNow_wf (f : Nat) (s : State) (hw : cellsFrom 0 s.mem.bytes = true) :
    cellsFrom 0 (applyNow f s).mem.bytes = true := by
  unfold applyNow
  repeat' first
    | with_reducible assumption
    | with_reducible assumption
    | (simp only [keepPast_keeps, queueTurns_keeps, applyDue_pending, and_self]; done)
    | (with_reducible apply applyDue_wf)
    | (rename_i h; replace h := congrArg Prod.fst h; simp only at h; subst h)
    | split
    | (simp only [keepPast_keeps, queueTurns_keeps, applyDue_pending, and_self])

theorem rulesDevNop_keeps (p : Packet) (s : State) : (rulesDevNop.run p s).keeps s := by
  simp only [rulesDevNop, Result.keeps, and_self]

theorem execDevNop_keeps (p : Packet) (s : State) :
    ∀ t, execDevNop p s = .next t → t.pending = s.pending ∧ t.mem.bytes = s.mem.bytes := by
  intro t h; simp only [execDevNop, Host.Outcome.next.injEq] at h; subst h
  exact takeCommand_keeps rulesDevNop_keeps p s

theorem rulesDevReadInfo_keeps (p : Packet) (s : State) : (rulesDevReadInfo.run p s).keeps s := by
  simp only [rulesDevReadInfo, Result.keeps, and_self]

theorem execDevReadInfo_keeps (p : Packet) (s : State) :
    ∀ t, execDevReadInfo p s = .next t → t.pending = s.pending ∧ t.mem.bytes = s.mem.bytes := by
  intro t h; simp only [execDevReadInfo, Host.Outcome.next.injEq] at h; subst h
  exact takeCommand_keeps rulesDevReadInfo_keeps p s

theorem clearStats_keeps (s : State) : (clearStats s).pending = s.pending ∧ (clearStats s).mem.bytes = s.mem.bytes := by
  simp only [clearStats, and_self]

theorem rulesDevReadStats_keeps (p : Packet) (s : State) : (rulesDevReadStats.run p s).keeps s := by
  simp only [rulesDevReadStats]
  split <;> simp only [Result.keeps, clearStats_keeps, and_self]

theorem execDevReadStats_keeps (p : Packet) (s : State) :
    ∀ t, execDevReadStats p s = .next t → t.pending = s.pending ∧ t.mem.bytes = s.mem.bytes := by
  intro t h; simp only [execDevReadStats, Host.Outcome.next.injEq] at h; subst h
  exact takeCommand_keeps rulesDevReadStats_keeps p s

theorem rulesDevSetPolicy_keeps (p : Packet) (s : State) : (rulesDevSetPolicy.run p s).keeps s := by
  simp only [rulesDevSetPolicy, Result.keeps, and_self]

theorem execDevSetPolicy_keeps (p : Packet) (s : State) :
    ∀ t, execDevSetPolicy p s = .next t → t.pending = s.pending ∧ t.mem.bytes = s.mem.bytes := by
  intro t h; simp only [execDevSetPolicy, Host.Outcome.next.injEq] at h; subst h
  exact takeCommand_keeps rulesDevSetPolicy_keeps p s

theorem writeKey_keeps (f : Fn) (key : Option (Vector Word 8)) (s : State) :
    (writeKey f key s).pending = s.pending ∧ (writeKey f key s).mem.bytes = s.mem.bytes := by
  simp only [writeKey, and_self]

theorem rulesDevSetKey_keeps (p : Packet) (s : State) : (rulesDevSetKey.run p s).keeps s := by
  simp only [rulesDevSetKey, Result.keeps, writeKey_keeps, and_self]

theorem execDevSetKey_keeps (p : Packet) (s : State) :
    ∀ t, execDevSetKey p s = .next t → t.pending = s.pending ∧ t.mem.bytes = s.mem.bytes := by
  intro t h; simp only [execDevSetKey, Host.Outcome.next.injEq] at h; subst h
  exact takeCommand_keeps rulesDevSetKey_keeps p s

theorem rulesDevPatchLoad_keeps (p : Packet) (s : State) : (rulesDevPatchLoad.run p s).keeps s := by
  simp only [rulesDevPatchLoad, Result.keeps, and_self]

theorem execDevPatchLoad_keeps (p : Packet) (s : State) :
    ∀ t, execDevPatchLoad p s = .next t → t.pending = s.pending ∧ t.mem.bytes = s.mem.bytes := by
  intro t h; simp only [execDevPatchLoad, Host.Outcome.next.injEq] at h; subst h
  exact takeCommand_keeps rulesDevPatchLoad_keeps p s

theorem commitPatch_keeps (raise : Bool) (s : State) :
    (commitPatch raise s).pending = s.pending ∧ (commitPatch raise s).mem.bytes = s.mem.bytes := by
  simp only [commitPatch, countLedger_keeps, and_self]

theorem rulesDevPatchCommit_keeps (p : Packet) (s : State) : (rulesDevPatchCommit.run p s).keeps s := by
  simp only [rulesDevPatchCommit]
  split <;> simp only [Result.keeps, commitPatch_keeps, and_self]

theorem execDevPatchCommit_keeps (p : Packet) (s : State) :
    ∀ t, execDevPatchCommit p s = .next t → t.pending = s.pending ∧ t.mem.bytes = s.mem.bytes := by
  intro t h; simp only [execDevPatchCommit, Host.Outcome.next.injEq] at h; subst h
  exact takeCommand_keeps rulesDevPatchCommit_keeps p s

theorem becomeReady_keeps (s : State) : (becomeReady s).pending = s.pending ∧ (becomeReady s).mem.bytes = s.mem.bytes := by
  unfold becomeReady
  dsimp only
  (repeat' split) <;> simp only [crit_keeps, info_keeps, and_self]

theorem execFwRestartDone_keeps (s : State) :
    ∀ t, execFwRestartDone s = .next t → t.pending = s.pending ∧ t.mem.bytes = s.mem.bytes := by
  intro t h; simp only [execFwRestartDone, Host.Outcome.next.injEq] at h; subst h
  split <;> simp only [becomeReady_keeps, info_keeps, settle_keeps, and_self]

theorem execAuthLockoutEnd_keeps (slot : Fn) (s : State) :
    ∀ t, execAuthLockoutEnd slot s = .next t → t.pending = s.pending ∧ t.mem.bytes = s.mem.bytes := by
  intro t h; simp only [execAuthLockoutEnd, Host.Outcome.next.injEq] at h; subst h
  repeat' first
    | (constructor <;> with_reducible rfl)
    | with_reducible assumption
    | (simp only [atDue, modFn_keeps, reach_keeps, and_self]; done)
    | split
    | (simp only [atDue, modFn_keeps, reach_keeps, and_self])

/-- No command's own rules touch the queue or the memory bytes. -/
theorem plainRules_keeps (o : Op) (p : Packet) (s : State) : ((plainRules o).run p s).keeps s := by
  cases o
  case devNop => exact rulesDevNop_keeps p s
  case devReadInfo => exact rulesDevReadInfo_keeps p s
  case devSetKey => exact rulesDevSetKey_keeps p s
  case devSetPolicy => exact rulesDevSetPolicy_keeps p s
  case devPatchLoad => exact rulesDevPatchLoad_keeps p s
  case devPatchCommit => exact rulesDevPatchCommit_keeps p s
  case devReadStats => exact rulesDevReadStats_keeps p s
  case feSetConnections => exact rulesFeSetConnections_keeps p s
  case feSetExcitation => exact rulesFeSetExcitation_keeps p s
  case feSetBiasGuard => exact rulesFeSetBiasGuard_keeps p s
  case feSetOvervoltage => exact rulesFeSetOvervoltage_keeps p s
  case feRunDiagnostic => exact rulesFeRunDiagnostic_keeps p s
  case feReadStatus => exact rulesFeReadStatus_keeps p s
  case feReleaseIsolation => exact rulesFeReleaseIsolation_keeps p s
  case feReadConnections => exact rulesFeReadConnections_keeps p s
  case cvSetChannels => exact rulesCvSetChannels_keeps p s
  case cvReadMap => exact rulesCvReadMap_keeps p s
  case cvRetireModulator => exact rulesCvRetireModulator_keeps p s
  case svSetSequence => exact rulesSvSetSequence_keeps p s
  case svStart => exact rulesSvStart_keeps p s
  case svReadAccum => exact rulesSvReadAccum_keeps p s
  case tmrSet => exact rulesTmrSet_keeps p s
  case tmrRead => exact rulesTmrRead_keeps p s
  case flSetBranch => exact rulesFlSetBranch_keeps p s
  case flSetFir => exact rulesFlSetFir_keeps p s
  case flSetDetectors => exact rulesFlSetDetectors_keeps p s
  case flSetComparator => exact rulesFlSetComparator_keeps p s
  case flReadChannel => exact rulesFlReadChannel_keeps p s
  case flRelease => exact rulesFlRelease_keeps p s
  case flReadFir => exact rulesFlReadFir_keeps p s
  case calSetPolicy => exact rulesCalSetPolicy_keeps p s
  case calForeground => exact rulesCalForeground_keeps p s
  case calReadBasin => exact rulesCalReadBasin_keeps p s
  case calReadTrims => exact rulesCalReadTrims_keeps p s
  case calWriteTrim => exact rulesCalWriteTrim_keeps p s
  case calSetRefcheck => exact rulesCalSetRefcheck_keeps p s
  case tbSetSources => exact rulesTbSetSources_keeps p s
  case tbSetTime => exact rulesTbSetTime_keeps p s
  case tbReadStatus => exact rulesTbReadStatus_keeps p s
  case tbSetHoldover => exact rulesTbSetHoldover_keeps p s
  case tbSetMains => exact rulesTbSetMains_keeps p s
  case tbReadMains => exact rulesTbReadMains_keeps p s
  case bcnSet => exact rulesBcnSet_keeps p s
  case bcnRead => exact rulesBcnRead_keeps p s
  case ringSetPolicy => exact rulesRingSetPolicy_keeps p s
  case ringSetHop => exact rulesRingSetHop_keeps p s
  case ringSetIdentity => exact rulesRingSetIdentity_keeps p s
  case ringReadStatus => exact rulesRingReadStatus_keeps p s
  case ringReadHop => exact rulesRingReadHop_keeps p s
  case ringAsymMeasure => exact rulesRingAsymMeasure_keeps p s
  case pairSetPolicy => exact rulesPairSetPolicy_keeps p s
  case pairSetLink => exact rulesPairSetLink_keeps p s
  case pairReadStatus => exact rulesPairReadStatus_keeps p s
  case pairHandover => exact rulesPairHandover_keeps p s
  case pairForceAuthority => exact rulesPairForceAuthority_keeps p s
  case pairMirrorRead => exact rulesPairMirrorRead_keeps p s
  case capSetConfig => exact rulesCapSetConfig_keeps p s
  case capSetTrigger => exact rulesCapSetTrigger_keeps p s
  case capArm => exact rulesCapArm_keeps p s
  case capTrigger => exact rulesCapTrigger_keeps p s
  case capRelease => exact rulesCapRelease_keeps p s
  case capDelete => exact rulesCapDelete_keeps p s
  case capReadStatus => exact rulesCapReadStatus_keeps p s
  case capSetPins => exact rulesCapSetPins_keeps p s
  case memInit => exact rulesMemInit_keeps p s
  case memSetPolicy => exact rulesMemSetPolicy_keeps p s
  case memReadStatus => exact rulesMemReadStatus_keeps p s
  case memReadErrlog => exact rulesMemReadErrlog_keeps p s
  case memInjectError => exact rulesMemInjectError_keeps p s
  case cmpSetMap => exact rulesCmpSetMap_keeps p s
  case cmpReadMap => exact rulesCmpReadMap_keeps p s
  case cmpSubmit => exact rulesCmpSubmit_keeps p s
  case cmpReadJob => exact rulesCmpReadJob_keeps p s
  case cmpCancel => exact rulesCmpCancel_keeps p s
  case cmpReadStatus => exact rulesCmpReadStatus_keeps p s
  case stSetStream => exact rulesStSetStream_keeps p s
  case stFlush => exact rulesStFlush_keeps p s
  case stDelete => exact rulesStDelete_keeps p s
  case stReadStatus => exact rulesStReadStatus_keeps p s
  case lnSetGroup => exact rulesLnSetGroup_keeps p s
  case lnSetAux => exact rulesLnSetAux_keeps p s
  case lnReadLane => exact rulesLnReadLane_keeps p s
  case lnTest => exact rulesLnTest_keeps p s
  case lnReadTest => exact rulesLnReadTest_keeps p s
  case lnRetrain => exact rulesLnRetrain_keeps p s
  case fnSetView => exact rulesFnSetView_keeps p s
  case fnReadView => exact rulesFnReadView_keeps p s
  case fnSetQos => exact rulesFnSetQos_keeps p s
  case fnReadQos => exact rulesFnReadQos_keeps p s
  case fnSetBudget => exact rulesFnSetBudget_keeps p s
  case fnReset => exact rulesFnReset_keeps p s
  case fnReadFunctions => exact rulesFnReadFunctions_keeps p s
  case hlReadMonitors => exact rulesHlReadMonitors_keeps p s
  case hlSetThresholds => exact rulesHlSetThresholds_keeps p s
  case hlReadLedger => exact rulesHlReadLedger_keeps p s
  case hlReadEventLog => exact rulesHlReadEventLog_keeps p s
  case hlClearEventLog => exact rulesHlClearEventLog_keeps p s
  case hlSetPeak => exact rulesHlSetPeak_keeps p s
  case hlReadPeak => exact rulesHlReadPeak_keeps p s
  case hlReadLastWords => exact rulesHlReadLastWords_keeps p s
  case hlSetCalendar => exact rulesHlSetCalendar_keeps p s
  case hlReadCalendar => exact rulesHlReadCalendar_keeps p s
  case hlSetWatchdog => exact rulesHlSetWatchdog_keeps p s
  case hlZeroiseKeys => exact rulesHlZeroiseKeys_keeps p s
  case tsRun => exact rulesTsRun_keeps p s
  case tsReadResult => exact rulesTsReadResult_keeps p s
  case tsAbort => exact rulesTsAbort_keeps p s
  case tsSetSchedule => exact rulesTsSetSchedule_keeps p s
  case tsScanEnable => exact rulesTsScanEnable_keeps p s
  case pairMirrorApply => exact rulesDevNop_keeps p s
  all_goals exact rulesDevNop_keeps p s

theorem tryStaged_keeps (c : Nat) (x : StagedPacket) (s : State) :
    ∀ t, tryStaged c x s = .ok t → t.pending = s.pending ∧ t.mem.bytes = s.mem.bytes := by
  intro t h
  have hk := executeResult_keeps (plainRules_keeps x.op) { x.packet with source := .staged c } s
  unfold tryStaged at h
  dsimp only at h
  split at h
  · cases h
  · split at h
    · cases h
    · split at h
      · cases h
      · split at h
        · cases h
        all_goals
          rename_i h1
          rw [h1] at hk
          split at h
          · cases h; exact hk
          · cases h

theorem tryStagedSet_keeps (c : Nat) : ∀ (xs : List StagedPacket) (s t : State),
    tryStagedSet c xs s = .ok t → t.pending = s.pending ∧ t.mem.bytes = s.mem.bytes
  | [], s, t, h => by cases h; exact ⟨rfl, rfl⟩
  | x :: xs, s, t, h => by
    unfold tryStagedSet at h
    split at h
    · rename_i u hu
      have h1 := tryStaged_keeps c x s u hu
      have h2 := tryStagedSet_keeps c xs u t h
      exact ⟨h2.1.trans h1.1, h2.2.trans h1.2⟩
    · cases h

theorem stagePacket_keeps (g : Word) (x : StagedPacket) (s : State) :
    ∀ t, stagePacket g x s = .ok t → t.pending = s.pending ∧ t.mem.bytes = s.mem.bytes := by
  intro t h
  unfold stagePacket at h
  extract_lets at h
  split at h
  · simp only [reduceCtorEq] at h
  · split at h
    · simp only [reduceCtorEq] at h
    · split at h
      · simp only [reduceCtorEq] at h
      · simp only [Except.ok.injEq] at h
        subst h
        constructor <;> rfl

theorem rulesRingMcStage_keeps (p : Packet) (s : State) : (rulesRingMcStage.run p s).keeps s := by
  simp only [rulesRingMcStage]
  split
  · exact trivial
  · exact trivial
  · split
    · exact trivial
    · split
      · split
        · exact trivial
        · rename_i hk
          have h := stagePacket_keeps _ _ _ _ hk
          simp only [Result.keeps]
          split
          · simp only [send_keeps, h, and_self]
          · exact h
      · simp only [Result.keeps, send_keeps, and_self]

theorem execRingMcStage_keeps (p : Packet) (s : State) :
    ∀ t, execRingMcStage p s = .next t → t.pending = s.pending ∧ t.mem.bytes = s.mem.bytes := by
  intro t h; simp only [execRingMcStage, Host.Outcome.next.injEq] at h; subst h
  exact takeCommand_keeps rulesRingMcStage_keeps p s

theorem execStageMsg_keeps (g : Word) (words : List Word) (s : State) :
    ∀ t, execStageMsg g words s = .next t → t.pending = s.pending ∧ t.mem.bytes = s.mem.bytes := by
  intro t h; simp only [execStageMsg, Host.Outcome.next.injEq] at h; subst h
  split
  · split
    · split
      · rename_i hk
        exact stagePacket_keeps _ _ _ _ hk
      · exact ⟨rfl, rfl⟩
    · exact ⟨rfl, rfl⟩
  · exact ⟨rfl, rfl⟩

theorem answerPrepare_keeps (p : Prepare) (s : State) :
    (answerPrepare p s).1.pending = s.pending ∧ (answerPrepare p s).1.mem.bytes = s.mem.bytes := by
  unfold answerPrepare
  dsimp only
  (repeat' split) <;> simp only [and_self]

theorem notExpected_keeps (p : Prepare) (s : State) :
    (notExpected p s).pending = s.pending ∧ (notExpected p s).mem.bytes = s.mem.bytes := by
  simp only [notExpected]
  split <;> simp only [and_self]

theorem execPrepare_keeps (p : Prepare) (s : State) :
    ∀ t, execPrepare p s = .next t → t.pending = s.pending ∧ t.mem.bytes = s.mem.bytes := by
  intro t h; simp only [execPrepare, Host.Outcome.next.injEq] at h; subst h
  split <;> simp only [answerPrepare_keeps, notExpected_keeps, send_keeps, and_self]

theorem noteAck_keeps (hub : HubId) (g : Word) (nak : Bool) (s : State) :
    (noteAck hub g nak s).pending = s.pending ∧ (noteAck hub g nak s).mem.bytes = s.mem.bytes := by
  unfold noteAck
  (repeat' split) <;> simp only [and_self]

theorem execAck_keeps (hub : HubId) (g : Word) (nak : Option (Fin 6)) (s : State) :
    ∀ t, execAck hub g nak s = .next t → t.pending = s.pending ∧ t.mem.bytes = s.mem.bytes := by
  intro t h; simp only [execAck, Host.Outcome.next.injEq] at h; subst h
  simp only [noteAck_keeps, and_self]

theorem announcePrepare_keeps (m : Prepare) (s : State) :
    (announcePrepare m s).pending = s.pending ∧ (announcePrepare m s).mem.bytes = s.mem.bytes := by
  simp only [announcePrepare]
  split <;> simp only [answerPrepare_keeps, notExpected_keeps, noteAck_keeps, send_keeps, and_self]

theorem rulesRingMcPrepare_keeps (p : Packet) (s : State) : (rulesRingMcPrepare.run p s).keeps s := by
  simp only [rulesRingMcPrepare]
  split <;> simp only [Result.keeps, announcePrepare_keeps, and_self]

theorem execRingMcPrepare_keeps (p : Packet) (s : State) :
    ∀ t, execRingMcPrepare p s = .next t → t.pending = s.pending ∧ t.mem.bytes = s.mem.bytes := by
  intro t h; simp only [execRingMcPrepare, Host.Outcome.next.injEq] at h; subst h
  exact takeCommand_keeps rulesRingMcPrepare_keeps p s

theorem discardSet_keeps (g : Word) (s : State) :
    (discardSet g s).pending = s.pending ∧ (discardSet g s).mem.bytes = s.mem.bytes := by
  simp only [discardSet]
  split <;> simp only [and_self]

theorem sendAbort_keeps (g : Word) (s : State) :
    (sendAbort g s).pending = s.pending ∧ (sendAbort g s).mem.bytes = s.mem.bytes := by
  simp only [sendAbort, send_keeps, and_self]

theorem execModeChangeDeadline_keeps (s : State) :
    ∀ t, execModeChangeDeadline s = .next t → t.pending = s.pending ∧ t.mem.bytes = s.mem.bytes := by
  intro t h; simp only [execModeChangeDeadline, Host.Outcome.next.injEq] at h; subst h
  (repeat' split) <;> simp only [advanceTo_keeps, crit_keeps, discardSet_keeps, send_keeps, sendAbort_keeps, and_self]

theorem execCommit_keeps (_g : Word) (_c : Nat) (s : State) :
    ∀ t, execCommit _g _c s = .next t → t.pending = s.pending ∧ t.mem.bytes = s.mem.bytes := by
  intro t h; simp only [execCommit, Host.Outcome.next.injEq] at h; subst h
  simp only [and_self]

theorem execAbort_keeps (g : Word) (s : State) :
    ∀ t, execAbort g s = .next t → t.pending = s.pending ∧ t.mem.bytes = s.mem.bytes := by
  intro t h; simp only [execAbort, Host.Outcome.next.injEq] at h; subst h
  simp only [discardSet_keeps, and_self]

theorem handedOver_keeps (c : Nat) (s t : State) :
    (handedOver c s t).pending = t.pending ∧ (handedOver c s t).mem.bytes = t.mem.bytes := by
  simp only [handedOver, and_self]

theorem commitSet_pending (late : Bool) (s : State) : (commitSet late s).pending = s.pending := by
  unfold commitSet
  dsimp only
  split
  · rfl
  · rfl
  · split
    · simp only [crit_keeps]
    · split
      · simp only [crit_keeps]
      · rename_i t hk
        have h := tryStagedSet_keeps _ _ _ _ hk
        split
        · simp only [noteMoment_keeps, applyNow_pending, captureGeneration_pending, compareGenerations_keeps, info_keeps,
            handedOver_keeps, h]
        · simp only [captureGeneration_pending, compareGenerations_keeps, info_keeps, handedOver_keeps, h]

theorem commitSet_wf (late : Bool) (s : State) (hw : cellsFrom 0 s.mem.bytes = true) :
    cellsFrom 0 (commitSet late s).mem.bytes = true := by
  unfold commitSet
  dsimp only
  split
  · exact hw
  · exact hw
  · split
    · simp only [crit_keeps]; exact hw
    · split
      · simp only [crit_keeps]; exact hw
      · rename_i t hk
        have h := tryStagedSet_keeps _ _ _ _ hk
        split
        · simp only [noteMoment_keeps]
          apply applyNow_wf
          apply captureGeneration_wf
          simp only [compareGenerations_keeps, info_keeps, handedOver_keeps, h]; exact hw
        · apply captureGeneration_wf
          simp only [compareGenerations_keeps, info_keeps, handedOver_keeps, h]; exact hw

theorem execCommitTick_pending (s : State) : ∀ t, execCommitTick s = .next t → t.pending = s.pending := by
  intro t h; simp only [execCommitTick, Host.Outcome.next.injEq] at h; subst h
  split <;> simp only [commitSet_pending]

theorem execCommitTick_wf (s : State) (hw : cellsFrom 0 s.mem.bytes = true) :
    ∀ t, execCommitTick s = .next t → cellsFrom 0 t.mem.bytes = true := by
  intro t h; simp only [execCommitTick, Host.Outcome.next.injEq] at h; subst h
  split
  · apply commitSet_wf; exact hw
  · exact hw

theorem modeChangeFrame_pending (late : Bool) (f : Nat) (s : State) : (modeChangeFrame late f s).pending = s.pending := by
  unfold modeChangeFrame
  dsimp only
  (repeat' split) <;> simp only [sendAbort_keeps, commitSet_pending]

theorem modeChangeFrame_wf (late : Bool) (f : Nat) (s : State) (hw : cellsFrom 0 s.mem.bytes = true) :
    cellsFrom 0 (modeChangeFrame late f s).mem.bytes = true := by
  unfold modeChangeFrame
  repeat' first
    | with_reducible assumption
    | with_reducible assumption
    | (simp only [sendAbort_keeps, commitSet_pending, and_self]; done)
    | (with_reducible apply commitSet_wf)
    | split
    | (simp only [sendAbort_keeps, commitSet_pending, and_self])

theorem rulesRingMcRead_keeps (p : Packet) (s : State) : (rulesRingMcRead.run p s).keeps s := by
  simp only [rulesRingMcRead, Result.keeps, and_self]

theorem execRingMcRead_keeps (p : Packet) (s : State) :
    ∀ t, execRingMcRead p s = .next t → t.pending = s.pending ∧ t.mem.bytes = s.mem.bytes := by
  intro t h; simp only [execRingMcRead, Host.Outcome.next.injEq] at h; subst h
  exact takeCommand_keeps rulesRingMcRead_keeps p s

theorem runMirrored_keeps (f : Nat) (ws : List Word) (s : State) :
    (runMirrored f ws s).pending = s.pending ∧ (runMirrored f ws s).mem.bytes = s.mem.bytes := by
  unfold runMirrored
  split
  · split
    · exact execute_keeps (plainRules_keeps _) _ _
    · exact ⟨rfl, rfl⟩
  · exact ⟨rfl, rfl⟩

theorem applyRecord_keeps (r : MirrorRec) (s : State) :
    (applyRecord r s).pending = s.pending ∧ (applyRecord r s).mem.bytes = s.mem.bytes := by
  simp only [applyRecord]
  split <;> simp only [crit_keeps, modPair_keeps, runMirrored_keeps, and_self]

theorem takeAhead_keeps : ∀ (rs : List MirrorRec) (s : State),
    (takeAhead rs s).pending = s.pending ∧ (takeAhead rs s).mem.bytes = s.mem.bytes
  | [], _ => ⟨rfl, rfl⟩
  | r :: rs, s => by
    unfold takeAhead
    split
    · simp only [takeAhead_keeps rs, applyRecord_keeps, modPair_keeps, and_self]
    · exact ⟨rfl, rfl⟩

theorem takeRecord_keeps (r : MirrorRec) (s : State) :
    (takeRecord r s).pending = s.pending ∧ (takeRecord r s).mem.bytes = s.mem.bytes := by
  unfold takeRecord
  dsimp only
  (repeat' split) <;> simp only [modPair_keeps, takeAhead_keeps, and_self]

theorem execMirrorRecord_keeps (words : List Word) (s : State) :
    ∀ t, execMirrorRecord words s = .next t → t.pending = s.pending ∧ t.mem.bytes = s.mem.bytes := by
  intro t h; simp only [execMirrorRecord, Host.Outcome.next.injEq] at h; subst h
  simp only [takeRecord_keeps, and_self]

theorem rulesPairMirrorApply_keeps (p : Packet) (s : State) : (rulesPairMirrorApply.run p s).keeps s := by
  simp only [rulesPairMirrorApply]
  split <;> simp only [Result.keeps, takeRecord_keeps, and_self]

theorem execPairMirrorApply_keeps (p : Packet) (s : State) :
    ∀ t, execPairMirrorApply p s = .next t → t.pending = s.pending ∧ t.mem.bytes = s.mem.bytes := by
  intro t h; simp only [execPairMirrorApply, Host.Outcome.next.injEq] at h; subst h
  exact takeCommand_keeps rulesPairMirrorApply_keeps p s

theorem applyImage_keeps (r : Nat) (ws : List Word) (s : State) :
    (applyImage r ws s).pending = s.pending ∧ (applyImage r ws s).mem.bytes = s.mem.bytes := by
  unfold applyImage
  (repeat' split) <;> simp only [runMirrored_keeps, stage_keeps, and_self]

theorem resynced_pending (r : Nat) (s : State) : (resynced r s).pending = s.pending := by
  unfold resynced
  repeat' first
    | (with_reducible rfl)
    | with_reducible assumption
    | (simp only [advanceTo_keeps, applyImage_keeps, handedOver_keeps, info_keeps, modPair_keeps, runMirrored_keeps, setPState_keeps, captureGeneration_pending, and_self]; done)
    | (with_reducible refine foldl_pending_of ?_ ?_; intro _ _)
    | split
    | (simp only [advanceTo_keeps, applyImage_keeps, handedOver_keeps, info_keeps, modPair_keeps, runMirrored_keeps, setPState_keeps, captureGeneration_pending, and_self])

theorem resynced_wf (r : Nat) (s : State) (hw : cellsFrom 0 s.mem.bytes = true) :
    cellsFrom 0 (resynced r s).mem.bytes = true := by
  unfold resynced
  repeat' first
    | with_reducible assumption
    | with_reducible assumption
    | (simp only [advanceTo_keeps, applyImage_keeps, handedOver_keeps, info_keeps, modPair_keeps, runMirrored_keeps, setPState_keeps, captureGeneration_pending, and_self]; done)
    | (with_reducible apply captureGeneration_wf)
    | (with_reducible refine foldl_wf_of ?_ ?_; intro _ _ _)
    | split
    | (simp only [advanceTo_keeps, applyImage_keeps, handedOver_keeps, info_keeps, modPair_keeps, runMirrored_keeps, setPState_keeps, captureGeneration_pending, and_self])

theorem resyncAt_pending (r : Nat) (s : State) : (resyncAt r s).pending = s.pending := by
  unfold resyncAt
  dsimp only
  (repeat' split) <;> simp only [modPair_keeps, splitRestore_keeps, applyNow_pending, resynced_pending]

theorem resyncAt_wf (r : Nat) (s : State) (hw : cellsFrom 0 s.mem.bytes = true) :
    cellsFrom 0 (resyncAt r s).mem.bytes = true := by
  unfold resyncAt
  repeat' first
    | with_reducible assumption
    | with_reducible assumption
    | (simp only [modPair_keeps, splitRestore_keeps, applyNow_pending, resynced_pending, and_self]; done)
    | (with_reducible apply applyNow_wf)
    | (with_reducible apply resynced_wf)
    | split
    | (simp only [modPair_keeps, splitRestore_keeps, applyNow_pending, resynced_pending, and_self])

theorem execResyncBoundary_pending (s : State) : ∀ t, execResyncBoundary s = .next t → t.pending = s.pending := by
  intro t h; simp only [execResyncBoundary, Host.Outcome.next.injEq] at h; subst h
  (repeat' split) <;> simp only [resyncAt_pending]

theorem execResyncBoundary_wf (s : State) (hw : cellsFrom 0 s.mem.bytes = true) :
    ∀ t, execResyncBoundary s = .next t → cellsFrom 0 t.mem.bytes = true := by
  intro t h; simp only [execResyncBoundary, Host.Outcome.next.injEq] at h; subst h
  repeat' first
    | with_reducible assumption
    | with_reducible assumption
    | (with_reducible apply resyncAt_wf)
    | split

theorem resyncFrame_pending (f : Nat) (s : State) : (resyncFrame f s).pending = s.pending := by
  unfold resyncFrame
  (repeat' split) <;> simp only [resyncAt_pending]

theorem resyncFrame_wf (f : Nat) (s : State) (hw : cellsFrom 0 s.mem.bytes = true) :
    cellsFrom 0 (resyncFrame f s).mem.bytes = true := by
  unfold resyncFrame
  repeat' first
    | with_reducible assumption
    | with_reducible assumption
    | (with_reducible apply resyncAt_wf)
    | split

theorem opRules_keeps (o : Op) (p : Packet) (s : State) : ((opRules o).run p s).keeps s := by
  unfold opRules
  split
  · exact rulesRingMcStage_keeps p s
  · exact rulesRingMcPrepare_keeps p s
  · exact rulesRingMcRead_keeps p s
  · exact rulesPairMirrorApply_keeps p s
  · exact plainRules_keeps _ p s

theorem noteDecide_keeps (us : Nat) (s : State) :
    (noteDecide us s).pending = s.pending ∧ (noteDecide us s).mem.bytes = s.mem.bytes := by
  simp only [noteDecide]
  split <;> simp only [and_self]

theorem countV1_keeps (src : Source) (p : Packet) (s : State) :
    (countV1 src p s).pending = s.pending ∧ (countV1 src p s).mem.bytes = s.mem.bytes := by
  unfold countV1
  (repeat' split) <;> simp only [and_self]

theorem malformedHeader_keeps (src : Source) (w0 : Word) (s : State) :
    (malformedHeader src w0 s).pending = s.pending ∧ (malformedHeader src w0 s).mem.bytes = s.mem.bytes := by
  simp only [malformedHeader]
  split <;> simp only [advanceHub_keeps, countDecision_keeps, info_keeps, queueReply_keeps, scriptReply_keeps, and_self]

theorem decideRead_keeps (src : Source) (ws : List Word) (us : Nat) (s : State) :
    (decideRead src ws us s).pending = s.pending ∧ (decideRead src ws us s).mem.bytes = s.mem.bytes := by
  unfold decideRead
  split
  · simp only [malformedHeader_keeps, and_self]
  · simp only [noteDecide_keeps, rejectPacket_keeps, countV1_keeps, and_self]
  · simp only [noteDecide_keeps, decideTaken_keeps (opRules_keeps _), countV1_keeps, and_self]

theorem setServed_keeps (src : Source) (s : State) :
    (setServed src s).pending = s.pending ∧ (setServed src s).mem.bytes = s.mem.bytes := by
  simp only [setServed]
  split <;> simp only [and_self]

theorem takeWaiting_keeps (src : Source) (us : Nat) (s : State) :
    ∀ t, takeWaiting src us s = some t → t.pending = s.pending ∧ t.mem.bytes = s.mem.bytes := by
  intro t h
  unfold takeWaiting at h
  split at h
  · cases h
  · cases h
    dsimp only
    split
    · simp only [noteDecide_keeps, decideTaken_keeps (opRules_keeps _), and_self]
    · exact ⟨rfl, rfl⟩

theorem execCommandTake_keeps (source : Source) (words : List Word) (decideUs : Nat) (s : State) :
    ∀ t, execCommandTake source words decideUs s = .next t → t.pending = s.pending ∧ t.mem.bytes = s.mem.bytes := by
  intro t h; simp only [execCommandTake, Host.Outcome.next.injEq] at h; subst h
  split
  · exact ⟨rfl, rfl⟩
  · split
    · rename_i hk
      rw [(takeWaiting_keeps _ _ _ _ hk).1, (takeWaiting_keeps _ _ _ _ hk).2]
      exact setServed_keeps _ _
    · repeat' first
        | exact ⟨rfl, rfl⟩
        | (simp only [malformedHeader_keeps, decideRead_keeps, advanceHub_keeps, setServed_keeps, and_self])
        | split

theorem execCommandHeaderError_keeps (source : Source) (words : List Word) (s : State) :
    ∀ t, execCommandHeaderError source words s = .next t → t.pending = s.pending ∧ t.mem.bytes = s.mem.bytes := by
  intro t h; simp only [execCommandHeaderError, Host.Outcome.next.injEq] at h; subst h
  (repeat' split) <;> simp only [malformedHeader_keeps, setServed_keeps, and_self]

theorem releaseRelays_keeps : ∀ (n : Nat) (s : State),
    (releaseRelays n s).pending = s.pending ∧ (releaseRelays n s).mem.bytes = s.mem.bytes
  | 0, _ => ⟨rfl, rfl⟩
  | n + 1, s => by
    unfold releaseRelays
    split
    · exact ⟨rfl, rfl⟩
    · dsimp only
      split
      · simp only [releaseRelays_keeps n, and_self]
      · simp only [releaseRelays_keeps n, relayOut_keeps (opRules_keeps _), and_self]

theorem pumpRelays_keeps (s : State) : (pumpRelays s).pending = s.pending ∧ (pumpRelays s).mem.bytes = s.mem.bytes := by
  simp only [pumpRelays, releaseRelays_keeps, and_self]

theorem execRelayCmd_keeps (words : List Word) (s : State) :
    ∀ t, execRelayCmd words s = .next t → t.pending = s.pending ∧ t.mem.bytes = s.mem.bytes := by
  intro t h; unfold execRelayCmd at h
  simp only [Host.Outcome.next.injEq] at h; subst h
  repeat' first
    | exact ⟨rfl, rfl⟩
    | (simp only [send_keeps, rejectPacket_keeps, takeCommand_keeps (opRules_keeps _), and_self])
    | split

theorem lateReply_keeps (s : State) : (lateReply s).pending = s.pending ∧ (lateReply s).mem.bytes = s.mem.bytes := by
  simp only [lateReply, and_self]

theorem execRelayReply_keeps (words : List Word) (s : State) :
    ∀ t, execRelayReply words s = .next t → t.pending = s.pending ∧ t.mem.bytes = s.mem.bytes := by
  intro t h; simp only [execRelayReply, Host.Outcome.next.injEq] at h; subst h
  (repeat' split) <;> simp only [closeRelay_keeps, lateReply_keeps, memberReply_keeps, pumpRelays_keeps, and_self]

theorem execRelayTimeout_keeps (id : BitVec 16) (s : State) :
    ∀ t, execRelayTimeout id s = .next t → t.pending = s.pending ∧ t.mem.bytes = s.mem.bytes := by
  intro t h; simp only [execRelayTimeout, Host.Outcome.next.injEq] at h; subst h
  repeat' first
    | (constructor <;> with_reducible rfl)
    | with_reducible assumption
    | (simp only [atDue, closeBroadcast_keeps, closeRelay_keeps, pumpRelays_keeps, modFn_keeps, reach_keeps, and_self]; done)
    | split
    | (simp only [atDue, closeBroadcast_keeps, closeRelay_keeps, pumpRelays_keeps, modFn_keeps, reach_keeps, and_self])

theorem execReplyWrite_keeps (source : Source) (s : State) :
    ∀ t, execReplyWrite source s = .next t → t.pending = s.pending ∧ t.mem.bytes = s.mem.bytes := by
  intro t h; simp only [execReplyWrite, Host.Outcome.next.injEq] at h; subst h
  (repeat' split) <;> simp only [setQueue_keeps, and_self]

theorem execPorstAssert_pending (s : State) : ∀ t, execPorstAssert s = .next t → t.pending = s.pending := by
  intro t h; simp only [execPorstAssert, Host.Outcome.next.injEq] at h; subst h
  (repeat' split) <;> simp only [chipReset_pending]

theorem execPorstAssert_wf (s : State) (hw : cellsFrom 0 s.mem.bytes = true) :
    ∀ t, execPorstAssert s = .next t → cellsFrom 0 t.mem.bytes = true := by
  intro t h; simp only [execPorstAssert, Host.Outcome.next.injEq] at h; subst h
  repeat' first
    | with_reducible assumption
    | with_reducible assumption
    | (with_reducible apply chipReset_wf)
    | split

theorem execPorstRelease_pending (s : State) : ∀ t, execPorstRelease s = .next t → t.pending = s.pending := by
  intro t h; simp only [execPorstRelease, Host.Outcome.next.injEq] at h; subst h
  (repeat' split) <;> simp only [countLedger_keeps, resetState_pending]

theorem execPorstRelease_wf (s : State) (hw : cellsFrom 0 s.mem.bytes = true) :
    ∀ t, execPorstRelease s = .next t → cellsFrom 0 t.mem.bytes = true := by
  intro t h; simp only [execPorstRelease, Host.Outcome.next.injEq] at h; subst h
  repeat' first
    | with_reducible assumption
    | with_reducible assumption
    | (simp only [countLedger_keeps, resetState_pending, and_self]; done)
    | (with_reducible apply resetState_wf)
    | split
    | (simp only [countLedger_keeps, resetState_pending, and_self])

theorem noteBreach_keeps (rail : Fin 12) (down : Bool) (breach : Bool) (s : State) :
    (noteBreach rail down breach s).pending = s.pending ∧ (noteBreach rail down breach s).mem.bytes = s.mem.bytes := by
  unfold noteBreach
  (repeat' split) <;> simp only [and_self]

theorem bankLost_keeps (rail : Fin 12) (s : State) :
    (bankLost rail s).pending = s.pending ∧ (bankLost rail s).mem.bytes = s.mem.bytes := by
  unfold bankLost
  (repeat' split) <;> simp only [and_self]

theorem lanesLost_keeps (s : State) : (lanesLost s).pending = s.pending ∧ (lanesLost s).mem.bytes = s.mem.bytes := by
  unfold lanesLost
  repeat' first
    | (constructor <;> with_reducible rfl)
    | with_reducible assumption
    | (simp only [auxReset_keeps, leaveUp_keeps, linkReset_keeps, and_self]; done)
    | (with_reducible refine foldl_keeps_of ?_ ?_; intro _ _)
    | split
    | (simp only [auxReset_keeps, leaveUp_keeps, linkReset_keeps, and_self])

theorem refuseRequest_keeps (r : MemReq) (s : State) :
    (refuseRequest r s).pending = s.pending ∧ (refuseRequest r s).mem.bytes = s.mem.bytes := by
  unfold refuseRequest
  (repeat' split) <;> simp only [hostCompletion_keeps, hostMemError_keeps, rowAbsent_keeps, and_self]

theorem memoryLost_pending (s : State) : (memoryLost s).pending = s.pending := by
  unfold memoryLost
  exact foldl_pending_of (fun t r => (refuseRequest_keeps r t).1) rfl

theorem memoryLost_wf (s : State) (_ : cellsFrom 0 s.mem.bytes = true) : cellsFrom 0 (memoryLost s).mem.bytes = true := by
  unfold memoryLost
  exact foldl_wf_of (fun t r h => by rw [(refuseRequest_keeps r t).2]; exact h) rfl

theorem perstLost_keeps (s : State) : (perstLost s).pending = s.pending ∧ (perstLost s).mem.bytes = s.mem.bytes := by
  unfold perstLost
  dsimp only
  (repeat' split) <;> simp only [auxReset_keeps, linkReset_keeps, and_self]

theorem railAction_pending (rail : Fin 12) (s : State) : (railAction rail s).pending = s.pending := by
  unfold railAction
  (repeat' split) <;> simp only [lanesLost_keeps, loseRefclk_keeps, perstLost_keeps, memoryLost_pending]

theorem railAction_wf (rail : Fin 12) (s : State) (hw : cellsFrom 0 s.mem.bytes = true) :
    cellsFrom 0 (railAction rail s).mem.bytes = true := by
  unfold railAction
  repeat' first
    | with_reducible assumption
    | with_reducible assumption
    | (simp only [lanesLost_keeps, loseRefclk_keeps, perstLost_keeps, memoryLost_pending, and_self]; done)
    | (with_reducible apply memoryLost_wf)
    | split
    | (simp only [lanesLost_keeps, loseRefclk_keeps, perstLost_keeps, memoryLost_pending, and_self])

theorem execRailBrownout_pending (rail : Fin 12) (breach : Bool) (s : State) :
    ∀ t, execRailBrownout rail breach s = .next t → t.pending = s.pending := by
  intro t h; simp only [execRailBrownout, Host.Outcome.next.injEq] at h; subst h
  (repeat' split) <;> simp only [bankLost_keeps, countLedger_keeps, crit_keeps, noteBreach_keeps, chipReset_pending, railAction_pending]

theorem execRailBrownout_wf (rail : Fin 12) (breach : Bool) (s : State) (hw : cellsFrom 0 s.mem.bytes = true) :
    ∀ t, execRailBrownout rail breach s = .next t → cellsFrom 0 t.mem.bytes = true := by
  intro t h; simp only [execRailBrownout, Host.Outcome.next.injEq] at h; subst h
  repeat' first
    | with_reducible assumption
    | with_reducible assumption
    | (simp only [bankLost_keeps, countLedger_keeps, crit_keeps, noteBreach_keeps, chipReset_pending, railAction_pending, and_self]; done)
    | (with_reducible apply chipReset_wf)
    | (with_reducible apply railAction_wf)
    | split
    | (simp only [bankLost_keeps, countLedger_keeps, crit_keeps, noteBreach_keeps, chipReset_pending, railAction_pending, and_self])

theorem bankBack_keeps (rail : Fin 12) (s : State) :
    (bankBack rail s).pending = s.pending ∧ (bankBack rail s).mem.bytes = s.mem.bytes := by
  unfold bankBack
  repeat' first
    | (constructor <;> with_reducible rfl)
    | with_reducible assumption
    | (simp only [driveBall_keeps, and_self])
    | (with_reducible refine foldl_keeps_of ?_ ?_; intro _ _)
    | split

theorem execRailValid_keeps (rail : Fin 12) (breach : Bool) (s : State) :
    ∀ t, execRailValid rail breach s = .next t → t.pending = s.pending ∧ t.mem.bytes = s.mem.bytes := by
  intro t h; simp only [execRailValid, Host.Outcome.next.injEq] at h; subst h
  (repeat' split) <;> simp only [bankBack_keeps, info_keeps, noteBreach_keeps, and_self]

theorem execVbatLoss_keeps (s : State) :
    ∀ t, execVbatLoss s = .next t → t.pending = s.pending ∧ t.mem.bytes = s.mem.bytes := by
  intro t h; simp only [execVbatLoss, Host.Outcome.next.injEq] at h; subst h
  simp only [and_self]

theorem execStandbyEntry_pending (s : State) : ∀ t, execStandbyEntry s = .next t → t.pending = s.pending := by
  intro t h; simp only [execStandbyEntry, Host.Outcome.next.injEq] at h; subst h
  split <;> simp only [abandonJobs_keeps, commitAll_keeps, graceBeats_keeps, writeStress_keeps, chipReset_pending]

theorem execStandbyEntry_wf (s : State) (hw : cellsFrom 0 s.mem.bytes = true) :
    ∀ t, execStandbyEntry s = .next t → cellsFrom 0 t.mem.bytes = true := by
  intro t h; simp only [execStandbyEntry, Host.Outcome.next.injEq] at h; subst h
  repeat' first
    | with_reducible assumption
    | with_reducible assumption
    | (simp only [abandonJobs_keeps, commitAll_keeps, graceBeats_keeps, writeStress_keeps, chipReset_pending, and_self]; done)
    | (with_reducible apply chipReset_wf)
    | split
    | (simp only [abandonJobs_keeps, commitAll_keeps, graceBeats_keeps, writeStress_keeps, chipReset_pending, and_self])

theorem execStandbyWake_keeps (s : State) :
    ∀ t, execStandbyWake s = .next t → t.pending = s.pending ∧ t.mem.bytes = s.mem.bytes := by
  intro t h; simp only [execStandbyWake, Host.Outcome.next.injEq] at h; subst h
  split <;> simp only [commitAll_keeps, countLedger_keeps, info_keeps, and_self]

theorem startupRecord_keeps (code : Nat) (unit value : Word) (s : State) :
    (startupRecord code unit value s).pending = s.pending ∧ (startupRecord code unit value s).mem.bytes = s.mem.bytes := by
  simp only [startupRecord]
  split <;> simp only [crit_keeps, modRecord_keeps, and_self]

theorem execStartupBistEnd_keeps (code : Fin 3) (unit value : Word) (s : State) :
    ∀ t, execStartupBistEnd code unit value s = .next t → t.pending = s.pending ∧ t.mem.bytes = s.mem.bytes := by
  intro t h; simp only [execStartupBistEnd, Host.Outcome.next.injEq] at h; subst h
  (repeat' split) <;> simp only [closeRun_keeps, judgeUnit_keeps, startupRecord_keeps, and_self]

theorem imageInvalid_keeps (data : List Nat) (s : State) :
    (imageInvalid data s).pending = s.pending ∧ (imageInvalid data s).mem.bytes = s.mem.bytes := by
  simp only [imageInvalid, crit_keeps, and_self]

theorem bootPatch_keeps (nor : NorImage) (s : State) :
    (bootPatch nor s).1.pending = s.pending ∧ (bootPatch nor s).1.mem.bytes = s.mem.bytes := by
  unfold bootPatch
  dsimp only
  (repeat' split) <;> simp only [imageInvalid_keeps, and_self]

theorem endBoot_keeps (s : State) : (endBoot s).pending = s.pending ∧ (endBoot s).mem.bytes = s.mem.bytes := by
  simp only [endBoot, info_keeps, and_self]

theorem startScript_keeps (packets : List (List Word)) (s : State) :
    (startScript packets s).pending = s.pending ∧ (startScript packets s).mem.bytes = s.mem.bytes := by
  simp only [startScript]
  split <;> simp only [becomeReady_keeps, endBoot_keeps, and_self]

theorem execBootStart_keeps (nor : NorImage) (s : State) :
    ∀ t, execBootStart nor s = .next t → t.pending = s.pending ∧ t.mem.bytes = s.mem.bytes := by
  intro t h; simp only [execBootStart, Host.Outcome.next.injEq] at h; subst h
  (repeat' split) <;> simp only [bootPatch_keeps, imageInvalid_keeps, startScript_keeps, and_self]

theorem execBootScriptEnd_keeps (s : State) :
    ∀ t, execBootScriptEnd s = .next t → t.pending = s.pending ∧ t.mem.bytes = s.mem.bytes := by
  intro t h; simp only [execBootScriptEnd, Host.Outcome.next.injEq] at h; subst h
  split <;> simp only [endBoot_keeps, and_self]

theorem execPerstRelease_keeps (port : PciePort) (s : State) :
    ∀ t, execPerstRelease port s = .next t → t.pending = s.pending ∧ t.mem.bytes = s.mem.bytes := by
  intro t h; simp only [execPerstRelease, Host.Outcome.next.injEq] at h; subst h
  split <;> simp only [and_self]

theorem deliverWindow_pending (f : Formed) (s : State) : (deliverWindow f s).pending = s.pending := by
  simp only [deliverWindow]
  split <;> simp only [captureWindow_keeps, streamWindow_keeps, captureRegime_pending]

theorem deliverWindow_wf (f : Formed) (s : State) (hw : cellsFrom 0 s.mem.bytes = true) :
    cellsFrom 0 (deliverWindow f s).mem.bytes = true := by
  unfold deliverWindow
  repeat' first
    | with_reducible assumption
    | with_reducible assumption
    | (simp only [captureWindow_keeps, streamWindow_keeps, captureRegime_pending, and_self]; done)
    | (with_reducible apply captureRegime_wf)
    | split
    | (simp only [captureWindow_keeps, streamWindow_keeps, captureRegime_pending, and_self])

theorem endWindow_pending (c : Fin 256) (branch : Fin 2) (obs : WindowObs) (s : State) :
    (endWindow c branch obs s).pending = s.pending := by
  unfold endWindow
  dsimp only
  split
  · rfl
  · rename_i hk
    have h := formWindow_keeps _ _ _ _ _ hk
    dsimp only at h
    simp only [deliverWindow_pending, h, settlePatterns_keeps]

theorem endWindow_wf (c : Fin 256) (branch : Fin 2) (obs : WindowObs) (s : State) (hw : cellsFrom 0 s.mem.bytes = true) :
    cellsFrom 0 (endWindow c branch obs s).mem.bytes = true := by
  unfold endWindow
  dsimp only
  split
  · exact hw
  · rename_i hk
    have h := formWindow_keeps _ _ _ _ _ hk
    dsimp only at h
    apply deliverWindow_wf
    rw [h.2, (settlePatterns_keeps _ _).2]; exact hw

theorem endDeferred_pending (c : Fin 256) (s : State) : (endDeferred c s).pending = s.pending := by
  unfold endDeferred
  exact foldl_pending_of (fun _ _ => by simp only [endWindow_pending]) rfl

theorem endDeferred_wf (c : Fin 256) (s : State) (hw : cellsFrom 0 s.mem.bytes = true) :
    cellsFrom 0 (endDeferred c s).mem.bytes = true := by
  unfold endDeferred
  repeat' first
    | with_reducible assumption
    | with_reducible assumption
    | (simp only [endWindow_pending, and_self]; done)
    | (with_reducible apply endWindow_wf)
    | (with_reducible refine foldl_wf_of ?_ ?_; intro _ _ _)

theorem deferWindow_keeps (c : Fin 256) (branch : Fin 2) (obs : WindowObs) (e : Nat) (s : State) :
    (deferWindow c branch obs e s).pending = s.pending ∧ (deferWindow c branch obs e s).mem.bytes = s.mem.bytes := by
  simp only [deferWindow, noteWindow_keeps, and_self]

theorem execWindowEnd_pending (c : Fin 256) (branch : Fin 2) (obs : WindowObs) (s : State) :
    ∀ t, execWindowEnd c branch obs s = .next t → t.pending = s.pending := by
  intro t h; simp only [execWindowEnd, Host.Outcome.next.injEq] at h; subst h
  split
  · rfl
  split
  · simp only [endWindow_pending, endDeferred_pending]
  · split
    · simp only [deferWindow_keeps]
    · simp only [endWindow_pending, endDeferred_pending]

theorem execWindowEnd_wf (c : Fin 256) (branch : Fin 2) (obs : WindowObs) (s : State) (hw : cellsFrom 0 s.mem.bytes = true) :
    ∀ t, execWindowEnd c branch obs s = .next t → cellsFrom 0 t.mem.bytes = true := by
  intro t h; simp only [execWindowEnd, Host.Outcome.next.injEq] at h; subst h
  split
  · exact hw
  split
  · exact endWindow_wf _ _ _ _ (endDeferred_wf _ _ hw)
  · split
    · rw [(deferWindow_keeps _ _ _ _ _).2]; exact hw
    · exact endDeferred_wf _ _ (endWindow_wf _ _ _ _ hw)

theorem levelFrame_keeps (s : State) :
    (levelFrame s).1.pending = s.pending ∧ (levelFrame s).1.mem.bytes = s.mem.bytes := by
  simp only [levelFrame]
  split <;> simp only [applyLevel_keeps, followEffortShed_keeps, info_keeps, and_self]

theorem pruneMarks_keeps (f : Nat) (s : State) :
    (pruneMarks f s).pending = s.pending ∧ (pruneMarks f s).mem.bytes = s.mem.bytes := by
  simp only [pruneMarks, and_self]

theorem timeFrame_keeps (obs : TimebaseObs) (f : Nat) (s : State) :
    (timeFrame obs f s).pending = s.pending ∧ (timeFrame obs f s).mem.bytes = s.mem.bytes := by
  unfold timeFrame
  repeat' first
    | with_reducible assumption
    | (simp only [beginExchange_keeps, followTime_keeps, pairFrame_keeps, qualifyRefclk_keeps, ringFrame_keeps, timebaseFrame_keeps, and_self]; done)
    | (with_reducible refine foldl_keeps_of ?_ ?_; intro _ _)

theorem unitsFrame_keeps (f : Nat) (s : State) :
    (unitsFrame f s).pending = s.pending ∧ (unitsFrame f s).mem.bytes = s.mem.bytes := by
  simp only [unitsFrame, calibrationFrame_keeps, memoryFrame_keeps, runDiagnostics_keeps, stepSubstitutions_keeps, streamFrame_keeps, svStart_keeps, and_self]

theorem closeFrame_pending (obs : FrameObs) (f : Nat) (rates : List (Fin 3)) (ports : List Nat) (r : State × Bool) :
    (closeFrame obs f rates ports r).pending = r.1.pending := by
  obtain ⟨s, crossed⟩ := r
  unfold closeFrame
  dsimp only
  rw [logicTestFrame_pending, checkTrip_pending, (pruneMarks_keeps _ _).1, (setStimuli_keeps _ _).1, (selfTestFrame_keeps _ _ _).1,
    (pumpRelays_keeps _).1, (checkOvercommit_keeps _).1, (healthFrame_keeps _ _ _ _).1, (noteMoment_keeps _).1, (laneFrame_keeps _ _ _ _).1]

theorem closeFrame_wf (obs : FrameObs) (f : Nat) (rates : List (Fin 3)) (ports : List Nat) (r : State × Bool)
    (hw : cellsFrom 0 r.1.mem.bytes = true) : cellsFrom 0 (closeFrame obs f rates ports r).mem.bytes = true := by
  obtain ⟨s, crossed⟩ := r
  unfold closeFrame
  dsimp only
  apply logicTestFrame_wf
  apply checkTrip_wf
  rw [(pruneMarks_keeps _ _).2, (setStimuli_keeps _ _).2, (selfTestFrame_keeps _ _ _).2,
    (pumpRelays_keeps _).2, (checkOvercommit_keeps _).2, (healthFrame_keeps _ _ _ _).2, (noteMoment_keeps _).2, (laneFrame_keeps _ _ _ _).2]
  exact hw

theorem changedFrame_pending (obs : FrameObs) (f : Nat) (old : State) : (changedFrame obs f old).pending = old.pending := by
  have h := applyDue_pending f old
  unfold changedFrame
  dsimp only
  rw [closeFrame_pending, (levelFrame_keeps _).1, (timeFrame_keeps _ _ _).1, (keepPast_keeps _ _ _).1, (unitsFrame_keeps _ _).1, h]

theorem changedFrame_wf (obs : FrameObs) (f : Nat) (old : State) (hw : cellsFrom 0 old.mem.bytes = true) :
    cellsFrom 0 (changedFrame obs f old).mem.bytes = true := by
  have h := applyDue_wf f old hw
  unfold changedFrame
  dsimp only
  apply closeFrame_wf
  rw [(levelFrame_keeps _).2, (timeFrame_keeps _ _ _).2, (keepPast_keeps _ _ _).2, (unitsFrame_keeps _ _).2]
  exact h

theorem frameWork_pending (obs : FrameObs) (f : Nat) (s : State) : (frameWork obs f s).pending = s.pending := by
  simp only [frameWork, finishResets_keeps, isolationFrame_keeps, observeFrontEnd_keeps, returnShadows_keeps, witnessFrame_keeps, changedFrame_pending, modeChangeFrame_pending, resyncFrame_pending]

theorem frameWork_wf (obs : FrameObs) (f : Nat) (s : State) (hw : cellsFrom 0 s.mem.bytes = true) :
    cellsFrom 0 (frameWork obs f s).mem.bytes = true := by
  unfold frameWork
  repeat' first
    | with_reducible assumption
    | with_reducible assumption
    | (simp only [finishResets_keeps, isolationFrame_keeps, observeFrontEnd_keeps, returnShadows_keeps, witnessFrame_keeps, changedFrame_pending, modeChangeFrame_pending, resyncFrame_pending, and_self]; done)
    | (with_reducible apply changedFrame_wf)
    | (with_reducible apply modeChangeFrame_wf)
    | (with_reducible apply resyncFrame_wf)
    | split
    | (simp only [finishResets_keeps, isolationFrame_keeps, observeFrontEnd_keeps, returnShadows_keeps, witnessFrame_keeps, changedFrame_pending, modeChangeFrame_pending, resyncFrame_pending, and_self])

theorem execFrameBoundary_pending (obs : FrameObs) (s : State) :
    ∀ t, execFrameBoundary obs s = .next t → t.pending = s.pending := by
  intro t h; simp only [execFrameBoundary, Host.Outcome.next.injEq] at h; subst h
  split <;> simp only [advanceTo_keeps, frameWork_pending]

theorem execFrameBoundary_wf (obs : FrameObs) (s : State) (hw : cellsFrom 0 s.mem.bytes = true) :
    ∀ t, execFrameBoundary obs s = .next t → cellsFrom 0 t.mem.bytes = true := by
  intro t h; simp only [execFrameBoundary, Host.Outcome.next.injEq] at h; subst h
  repeat' first
    | with_reducible assumption
    | with_reducible assumption
    | (simp only [advanceTo_keeps, frameWork_pending, and_self]; done)
    | (with_reducible apply frameWork_wf)
    | split
    | (simp only [advanceTo_keeps, frameWork_pending, and_self])

theorem startBranches_keeps (t0 : Nat) (s : State) :
    (startBranches t0 s).pending = s.pending ∧ (startBranches t0 s).mem.bytes = s.mem.bytes := by
  unfold startBranches
  repeat' first
    | (constructor <;> with_reducible rfl)
    | with_reducible assumption
    | (simp only [startRegime_keeps, and_self])
    | (with_reducible refine foldl_keeps_of ?_ ?_; intro _ _)
    | split

theorem startModulators_keeps (t0 : Nat) (s : State) :
    (startModulators t0 s).pending = s.pending ∧ (startModulators t0 s).mem.bytes = s.mem.bytes := by
  unfold startModulators
  repeat' first
    | (constructor <;> with_reducible rfl)
    | with_reducible assumption
    | (simp only [crit_keeps, mark_keeps, and_self]; done)
    | (with_reducible refine foldl_keeps_of ?_ ?_; intro _ _)
    | split
    | (simp only [crit_keeps, mark_keeps, and_self])

theorem firstFrame_pending (t0 : Nat) (r : State × List (Fin 3) × List Nat) : (firstFrame t0 r).pending = r.1.pending := by
  obtain ⟨s, rates, ports⟩ := r
  unfold firstFrame
  have h : (stepRamps t0 (startCalibration t0 (svStart 0 (runDiagnostics t0 s)))).pending = s.pending := by
    rw [(stepRamps_keeps _ _).1, (startCalibration_keeps _ _).1, (svStart_keeps _ _).1, (runDiagnostics_keeps _ _).1]
  dsimp only
  generalize stepRamps t0 (startCalibration t0 (svStart 0 (runDiagnostics t0 s))) = u at h
  rw [logicTestFrame_pending, (selfTestFrame_keeps _ _ _).1, (noteMoment_keeps _).1, (markHoldover_keeps _ _).1]
  refine foldl_pending_of (fun t g => (beginExchange_keeps g t0 t).1) ?_
  split <;> split <;> simp only [queueTurns_keeps, splitFrame_keeps, applyTransition_keeps, h]

theorem firstFrame_wf (t0 : Nat) (r : State × List (Fin 3) × List Nat) (hw : cellsFrom 0 r.1.mem.bytes = true) :
    cellsFrom 0 (firstFrame t0 r).mem.bytes = true := by
  obtain ⟨s, rates, ports⟩ := r
  unfold firstFrame
  have h : cellsFrom 0 (stepRamps t0 (startCalibration t0 (svStart 0 (runDiagnostics t0 s)))).mem.bytes = true := by
    rw [(stepRamps_keeps _ _).2, (startCalibration_keeps _ _).2, (svStart_keeps _ _).2, (runDiagnostics_keeps _ _).2]; exact hw
  dsimp only
  generalize stepRamps t0 (startCalibration t0 (svStart 0 (runDiagnostics t0 s))) = u at h
  apply logicTestFrame_wf
  rw [(selfTestFrame_keeps _ _ _).2, (noteMoment_keeps _).2, (markHoldover_keeps _ _).2]
  refine foldl_wf_of (fun t g ht => by rw [(beginExchange_keeps g t0 t).2]; exact ht) ?_
  split <;> split <;> simp only [queueTurns_keeps, splitFrame_keeps, applyTransition_keeps, h]

theorem startWork_pending (t0 : Nat) (s : State) : (startWork t0 s).pending = s.pending := by
  unfold startWork
  rw [firstFrame_pending, applyDue_pending, (startModulators_keeps _ _).1, (startBranches_keeps _ _).1]

theorem startWork_wf (t0 : Nat) (s : State) (hw : cellsFrom 0 s.mem.bytes = true) :
    cellsFrom 0 (startWork t0 s).mem.bytes = true := by
  unfold startWork
  apply firstFrame_wf
  apply applyDue_wf
  rw [(startModulators_keeps _ _).2, (startBranches_keeps _ _).2]
  exact hw

theorem leaveForming_keeps (s : State) :
    (leaveForming s).pending = s.pending ∧ (leaveForming s).mem.bytes = s.mem.bytes := by
  simp only [leaveForming, info_keeps, and_self]

theorem execTimebaseStart_pending (c : StartCase) (s : State) :
    ∀ t, execTimebaseStart c s = .next t → t.pending = s.pending := by
  intro t h; simp only [execTimebaseStart, Host.Outcome.next.injEq] at h; subst h
  (repeat' split) <;> simp only [leaveForming_keeps, startTimebase_keeps, takeMaster_keeps, startWork_pending]

theorem execTimebaseStart_wf (c : StartCase) (s : State) (hw : cellsFrom 0 s.mem.bytes = true) :
    ∀ t, execTimebaseStart c s = .next t → cellsFrom 0 t.mem.bytes = true := by
  intro t h; simp only [execTimebaseStart, Host.Outcome.next.injEq] at h; subst h
  repeat' first
    | with_reducible assumption
    | with_reducible assumption
    | (simp only [leaveForming_keeps, startTimebase_keeps, takeMaster_keeps, startWork_pending, and_self]; done)
    | (with_reducible apply startWork_wf)
    | split
    | (simp only [leaveForming_keeps, startTimebase_keeps, takeMaster_keeps, startWork_pending, and_self])

end Sys2Proof.Machine
end

