-- ==== Sys2Proof/Laws/Store.lean ====
section
/-! SUPPORT. What a write of the capture memory stores and what it leaves, byte by byte (10 R398, R403). -/

namespace Sys2Proof.Machine
open Sys2Proof

theorem readWord_length {kind : Nat} {requester : Fin 6} {fn : BitVec 4} {w : Nat} {s : State} {old : List Byte}
    (h : (readWord kind requester fn w s).2 = some old) : old.length = 8 := by
  unfold readWord at h
  dsimp only at h
  split at h
  · cases h; simp [getBytes]
  · split at h
    · cases h; simp [getBytes]
    · split at h
      · cases h
      · split at h
        · cases h
        · cases h; simp [bytesOf, wordBytes]

/-- One word of a write touches no byte outside that word. -/
theorem writeWordAt_outside (requester : Fin 6) (fn : BitVec 4) (a : Nat) (data : List Byte) (w : Nat) (s : State) (x : Nat)
    (hw : cellsFrom 0 s.mem.bytes = true) (hx : x < 8 * w ∨ 8 * w + 8 ≤ x) :
    getByte (writeWordAt requester fn a data w s).1.mem.bytes x = getByte s.mem.bytes x := by
  have hr := (readWord_keeps 2 requester fn w s).2
  have hl := fun old => readWord_length (kind := 2) (requester := requester) (fn := fn) (w := w) (s := s) (old := old)
  have hp : ∀ b : List Host.Cell, cellsFrom 0 b = true → getByte (putBytes b (max a (8 * w))
      ((data.drop (max a (8 * w) - a)).take (min (a + data.length) (8 * w + 8) - max a (8 * w)))) x = getByte b x := by
    intro b hb
    refine getByte_putBytes_outside _ _ _ hb ?_
    have := List.length_take_le (min (a + data.length) (8 * w + 8) - max a (8 * w)) (data.drop (max a (8 * w) - a))
    omega
  unfold writeWordAt
  dsimp only
  split
  · exact hp _ hw
  · split
    · rename_i t old e
      rw [e] at hr hl
      show getByte (putBytes (putBytes t.mem.bytes _ _) _ _) x = _
      have h8 := hl old rfl
      have hb : cellsFrom 0 t.mem.bytes = true := by rw [hr]; exact hw
      rw [hp _ (cellsFrom_putBytes _ _ hb), getByte_putBytes_outside _ _ _ hb (by omega), hr]
    · rename_i t e
      rw [e] at hr
      show getByte t.mem.bytes x = _
      rw [hr]

/-- A write touches no byte outside the 8-byte words that its bytes lie in. -/
theorem performWrite_outside (requester : Fin 6) (fn : BitVec 4) (a : Nat) (data : List Byte) (s : State) (x : Nat)
    (hw : cellsFrom 0 s.mem.bytes = true) (hx : x < 8 * (a / 8) ∨ 8 * ((a + data.length + 7) / 8) ≤ x) :
    getByte (performWrite requester fn a data s).1.mem.bytes x = getByte s.mem.bytes x := by
  unfold performWrite
  dsimp only
  have key : ∀ (l : List Nat) (t : State) (b : Bool), cellsFrom 0 t.mem.bytes = true →
      (∀ w ∈ l, x < 8 * w ∨ 8 * w + 8 ≤ x) →
      getByte (l.foldl (fun (acc : State × Bool) w =>
        ((writeWordAt requester fn a data w acc.1).1, acc.2 || (writeWordAt requester fn a data w acc.1).2)) (t, b)).1.mem.bytes x
        = getByte t.mem.bytes x := by
    intro l
    induction l with
    | nil => intro t b _ _; rfl
    | cons w ws ih =>
      intro t b ht hl
      rw [List.foldl_cons, ih _ _ (writeWordAt_wf _ _ _ _ _ _ ht) (fun v hv => hl v (List.mem_cons_of_mem _ hv))]
      exact writeWordAt_outside _ _ _ _ _ _ _ ht (hl w List.mem_cons_self)
  have ht : ∀ (l : List Nat) (t : State), (l.foldl (fun t g => touchRow requester fn g t) t).mem.bytes = t.mem.bytes := by
    intro l
    induction l with
    | nil => intro t; rfl
    | cons g gs ih => intro t; rw [List.foldl_cons, ih, (touchRow_keeps _ _ _ _).2]
  refine (key _ _ false (by rw [ht]; exact hw) ?_).trans (by rw [ht])
  intro w hm
  unfold memWords at hm
  split at hm
  · cases hm
  · obtain ⟨i, hi, rfl⟩ := List.mem_map.mp hm
    have := List.mem_range.mp hi
    omega

/-- Injecting an error touches no byte outside its word. -/
theorem injectError_outside (a : Nat) (m : BitVec 72) (s : State) (x : Nat) (hw : cellsFrom 0 s.mem.bytes = true)
    (hx : x < 8 * (a / 8) ∨ 8 * (a / 8) + 8 ≤ x) :
    getByte (injectError a m s).mem.bytes x = getByte s.mem.bytes x := by
  have ht := (touchRow_keeps 3 0 (a / 256 * 256) s).2
  have hr := (readWord_keeps 1 3 0 (a / 8) (touchRow 3 0 (a / 256 * 256) s)).2
  have hl := fun old => readWord_length (kind := 1) (requester := 3) (fn := 0) (w := a / 8)
    (s := touchRow 3 0 (a / 256 * 256) s) (old := old)
  rw [ht] at hr
  unfold injectError
  split
  · rename_i t bytes e
    rw [e] at hr hl
    have h8 := hl bytes rfl
    show getByte (putBytes t.mem.bytes _ _) x = _
    rw [getByte_putBytes_outside _ _ _ (by rw [hr]; exact hw) (by omega), hr]
  · rename_i t e
    rw [e] at hr
    rw [hr]

end Sys2Proof.Machine
end

