-- ==== Sys2Proof/Tests/Slice0.lean ====
section
/-!
SUPPORT. Tests: for every statement with hypotheses a witness that meets them, the refusals of the well-formedness check,
and the worked examples of the manual.
-/
-- One proof after another: many evaluations at a time would each take a thread and its memory.
set_option Elab.async false
set_option maxRecDepth 20000
open Sys2Proof Sys2Proof.Machine
namespace Sys2Proof.Tests

/-- A ready hub: firmware up, boot done, sample domain counting, alone and not in a pair. -/
def ready0 : State :=
  { State.reset with
    fh := { State.reset.fh with fwReady := true }
    pwr := { State.reset.pwr with booting := false, held := false }
    tb := { State.reset.tb with started := true, frameTick := 4096, tick := 5000 }
    pair := { State.reset.pair with pstate := .solo } }

/-- A packet of the SPI port. -/
def spiPacket (ps : List Word) : Packet := { source := .spi, tag := 7, params := ps }

/-- `ready0` with a key in slot 0. -/
def keyed : State :=
  { ready0 with ao := { ready0.ao with
      keys := vset ready0.ao.keys 0 { key := some (Vector.replicate 8 0x01020304), lastSeq := 0, seqRes := 0 } } }

/-- An authenticated packet under the key of `keyed`. -/
def authPacket (o : Op) (ps : List Word) : Packet :=
  let p : Packet := { spiPacket ps with auth := true, seq := 1 }
  { p with trailer := trailerOf o.code p (Vector.replicate 8 0x01020304) }

/-- A unit of a pair whose peer stands by, both paths alive. -/
def paired (st : PState) : State :=
  { ready0 with pair := { ready0.pair with
      en := true, pstate := st, lanesUp := true
      peer := { ready0.pair.peer with pstate := 2, healthy := true, auth := true }
      link := { ready0.pair.link with alive := true, last := 4900 }
      hbx := { ready0.pair.hbx with alive := true, last := 4900 } } }

/-- `n` zero words. -/
def zeros (n : Nat) : List Word := List.replicate n 0

/-- Packets that `ready0` accepts, one command a row, fields at the ends of their ranges. -/
def accepted : List (Op × List Word) :=
  [(.devNop, []), (.devReadInfo, []), (.devReadStats, [0x80000000]), (.devSetKey, 0 :: [1, 2, 3, 4, 5, 6, 7, 8]),
   (.devPatchLoad, [0, 5, 6]),
   (.feSetOvervoltage, [0x0000300A]), (.feRunDiagnostic, [0, 0, 0]), (.feRunDiagnostic, [0x2000007F, 0, 0]), (.feReadStatus, [31]), (.feReleaseIsolation, [127]),
   (.feReadConnections, [0]),
   (.cvSetChannels, [31, 0, 0, 0]), (.cvReadMap, [31]), (.cvRetireModulator, [0x81F]), (.svSetSequence, [3, 0] ++ [0x0F000001, 0x64, 0, 0, 0] ++ zeros 75),
   (.svStart, [3]), (.svReadAccum, [0x80000003]), (.tmrSet, [7, 0, 0, 2, 1]), (.tmrRead, [7]),
   (.flSetBranch, [0x20FF, 0, 0, 0x86000000, 96, 0]), (.flSetFir, [31, 0, 0] ++ zeros 7 ++ [0x10000]), (.flSetDetectors, [0x2000, 0]),
   (.flSetComparator, [0x2000, 0, 0, 0, 0]), (.flReadChannel, [255]), (.flRelease, [0x2000, 7]), (.flReadFir, [31]),
   (.calSetPolicy, [0x11F, 0x14, 0x01010100]), (.calForeground, [31, 0, 0]), (.calReadBasin, [31]), (.calReadTrims, [0x81F]),
   (.calWriteTrim, [0x7081F, 0, 0, 0]), (.calSetRefcheck, [0]),
   (.tbSetSources, [1, 1000000]), (.tbSetTime, [0, 0, 0, 0, 0]), (.tbReadStatus, []), (.tbSetHoldover, [10, 0, 0]),
   (.tbSetMains, [0x324B3C11, 300]), (.tbReadMains, []), (.bcnSet, [0x00100000]), (.bcnRead, []),
   (.ringSetPolicy, [0x00010004, 0x00010000]), (.ringSetHop, [1, 0, 0, 0]), (.ringReadStatus, []), (.ringReadHop, [1]),
   (.ringMcRead, []), (.ringAsymMeasure, [0x1001, 0]),
   (.pairReadStatus, []),
   (.capArm, [15, 0, 0]), (.capTrigger, [0x80000000, 0, 0]), (.capDelete, [15]),
   (.capReadStatus, [15]), (.capSetPins, [0, 0, 0, 0]), (.capSetTrigger, [0, 0, 0, 0, 0, 0]),
   (.memSetPolicy, [0x00010400, 0x00640000]), (.memReadStatus, []), (.memReadErrlog, [0]),
   (.cmpSetMap, [0x00010000, 0, 0, 0, 0]), (.cmpReadMap, [511]), (.cmpReadStatus, []),
   (.stFlush, [3]), (.stDelete, [3, 0, 0]), (.stReadStatus, [0x803]),
   (.lnSetGroup, [0, 0]), (.lnSetAux, [0]), (.lnReadLane, [15]), (.lnTest, [0xF0000000]), (.lnReadTest, [15]), (.lnRetrain, [15]),
   (.fnReadView, [0]), (.fnReadQos, [8]), (.fnReadFunctions, []), (.fnSetBudget, [0xFFFF]),
   (.hlReadMonitors, []), (.hlSetThresholds, [0x8B640000, 100]), (.hlReadLedger, [0x011D]), (.hlReadEventLog, [0x10000]), (.hlClearEventLog, [3]),
   (.hlSetPeak, [0x80010000 + 60]), (.hlReadPeak, []), (.hlReadLastWords, [0xF00]), (.hlSetCalendar, [0, 0]), (.hlReadCalendar, []), (.hlSetWatchdog, [10000]),
   (.tsReadResult, [0x80000000]), (.tsAbort, [0x80000000]), (.tsSetSchedule, [0x8000007F, 8760]), (.tsScanEnable, [0x5A5A1005]) ]


/-- Clauses whose one hypothesis is that the packet is accepted (O18 to O33). -/
theorem witness_accepted : accepted.all (fun x => Accepts x.1 (spiPacket x.2) ready0) = true := by decide +kernel

/-- An `ok` read back from a decided option. -/
theorem ok_of {ε α : Type} {x : Except ε α} {f : α} (h : (match x with | .ok g => some g | .error _ => none) = some f) :
    x = .ok f := by
  cases x with
  | ok g => exact congrArg _ (Option.some.inj h)
  | error e => cases h

/-- Some `ok`. -/
theorem some_ok {ε α : Type} {x : Except ε α} (h : (match x with | .ok _ => true | .error _ => false) = true) : ∃ t, x = .ok t := by
  cases x with
  | ok g => exact ⟨g, rfl⟩
  | error e => cases h

/-- A packet accepted by `s` with boundary field in words 1 and 2 whose change comes into force at `f`. -/
def AcceptsAt (m : Bool) (o : Op) (p : Packet) (s : State) (f : Nat) : Prop :=
  Accepts o p s = true ∧ applyBoundary m p (p.w64 1) (authed p s) = .ok f

theorem acceptsAt {m : Bool} {o : Op} {p : Packet} {s : State} {f : Nat}
    (h : (Accepts o p s && match applyBoundary m p (p.w64 1) (authed p s) with | .ok g => g == f | .error _ => false) = true) :
    AcceptsAt m o p s f := by
  simp only [Bool.and_eq_true] at h
  refine ⟨h.1, ?_⟩
  revert h
  cases applyBoundary m p (p.w64 1) (authed p s) with
  | ok g => intro h; exact congrArg _ (by simpa using h.2)
  | error e => intro h; exact absurd h.2 (by simp)

/-- O18: authenticated policies. -/
theorem witness_device : Accepts .devSetPolicy (authPacket .devSetPolicy [0x0A0003FF]) keyed = true := by decide +kernel

theorem vsetD_vall {n : Nat} (i : Nat) (x : Word) : vsetD (vall n x) i x = vall n x := by
  unfold vsetD; split
  · ext j hj; simp [vall]
  · rfl

theorem fold_vall {n : Nat} (k : Nat) : ∀ ks : List Nat,
    (ks.map (fun i => ((0 : Word), i))).foldl (fun v y => vsetD v (k + y.2) y.1) (vall n 0) = vall n 0
  | [] => rfl
  | i :: ks => by simp only [List.map_cons, List.foldl_cons, vsetD_vall]; exact fold_vall k ks

theorem vgetD_vall {n : Nat} (i : Nat) (x : Word) : vgetD (vall n x) i x = x := by
  simp only [vgetD, vall, Vector.getElem?_replicate]; split <;> rfl

/-- A configuration with no connection, no source and every bias in range breaks no rule of Table 2.4. -/
theorem noConflict {c : FeConfig} (hc : c.conn = vall 512 0) (hs : c.src = vall 128 0)
    (hb : ∀ b, let mv := (vgetD c.bias b 0).field 11 0; mv = 0 ∨ (100 ≤ mv ∧ mv ≤ 1700)) (held : Bool) :
    conflictWord c held = none := by
  have w : ∀ t, c.word t = 0 := by intro t; simp only [FeConfig.word, hc, vgetD_vall]
  have v : ∀ t, c.source t = 0 := by intro t; simp only [FeConfig.source, hs, vgetD_vall]
  have ff : ∀ l : List Nat, l.filter (fun _ => false) = [] := by intro l; induction l <;> simp_all
  have e : ∀ code, conflictsOf c held code = [] := by
    intro code
    unfold conflictsOf
    split <;> simp [w, v, driversOf, FeConfig.delivers, Word.bit, Word.field, ff]
    intro b _ h1; have h2 := hb b; simp only [Word.field] at h2; simp at h2; rcases h2 with h2 | h2
    · exact absurd h2 h1
    · exact h2
  simp [conflictWord, e, lowestConflict]

/-- The conflict of a change with what `s` will have in force at `f`. -/
def conflictAt (f : Nat) (x : Change) (s : State) : Option Word := conflictWord ((stagedConfig f s).with x) (testBusHeld s)

theorem conflictAt_none {f : Nat} {x : Change} {s : State} {conn : Vector Word 512} {src : Vector Word 128} {bias : Vector Word 32}
    (h : (stagedConfig f s).with x = { conn := conn, src := src, bias := bias }) (hc : conn = vall 512 0) (hs : src = vall 128 0)
    (hb : ∀ b, let mv := (vgetD bias b 0).field 11 0; mv = 0 ∨ (100 ≤ mv ∧ mv ≤ 1700)) : conflictAt f x s = none := by
  unfold conflictAt; rw [h]; exact noConflict hc hs hb _

/-- O19: a change of connections that no rule of Table 2.4 forbids, at a boundary given. -/
theorem witness_connections :
    AcceptsAt true .feSetConnections (spiPacket ([3, 12288, 0] ++ zeros 16)) ready0 12288 := acceptsAt (by decide +kernel)

theorem witness_connections_free : conflictAt 12288 (.connections 3 (zeros 16)) ready0 = none :=
  conflictAt_none (bias := vall 32 0) rfl (fold_vall 48 (List.range 16)) rfl
    (fun b => .inl (by rw [vgetD_vall]; rfl))

/-- O19: a change of excitation, and one of bias, at the default boundary. -/
theorem witness_excitation : AcceptsAt true .feSetExcitation (spiPacket [31, 0, 0, 0, 0, 0, 0]) ready0 8192 :=
  acceptsAt (by decide +kernel)

theorem witness_excitation_free : conflictAt 8192 (.excitation 31 (zeros 4)) ready0 = none :=
  conflictAt_none (bias := vall 32 0) rfl rfl (fold_vall 124 (List.range 4)) (fun b => .inl (by rw [vgetD_vall]; rfl))

theorem witness_bias : AcceptsAt true .feSetBiasGuard (spiPacket [0, 0, 0, 0x64]) ready0 8192 := acceptsAt (by decide +kernel)

theorem witness_bias_free : conflictAt 8192 (.biasGuard 0 0x64) ready0 = none := by
  refine conflictAt_none (bias := vset (vall 32 0) 0 0x64) rfl rfl rfl (fun b => ?_)
  by_cases h : b = 0
  · subst h; exact .inr (by decide +kernel)
  · have : vgetD (vset (vall 32 (0 : Word)) 0 0x64) b 0 = vgetD (vall 32 (0 : Word)) b 0 := by
      simp [vgetD, vset, vall, Ne.symm h]
    exact .inl ((congrArg (fun x : Word => x.field 11 0) this).trans (by rw [vgetD_vall]; rfl))

/-- O19: a one-shot diagnostic with room for it, and a port that may be released. -/
theorem witness_frontEnd :
    (diagKind (spiPacket [0x2000007F, 0, 0]) ≠ 0 ∧ ready0.pair.pstate = .solo ∧ (oneShots ready0).1 < (oneShots ready0).2) ∧
    ¬ (hasBit ready0.fe.latched 127 ∧ hasBit ready0.fe.outOfRange 127) := by decide +kernel

/-- O20: parking channel 7 of basin 31, a start source 17, a one-shot timer. -/
theorem witness_converter :
    (let p := spiPacket [31, 0, 0, 0x80000000]
     AcceptsAt true .cvSetChannels p ready0 8192 ∧ channelInUse ready0 255 = false ∧
       (0 : Int) ≤ freeAt 31 8192 ready0 + (([7] : List Nat).filter (parkFrees ready0 31)).length) ∧
    (let s := modSv 3 (fun x => { x with seqWord := 0x00110000 }) ready0
     Accepts .svStart (spiPacket [3]) s = true ∧ (getSv s 3).running = none ∧ svSource (getSv s 3).seqWord = 17) ∧
    (let p := spiPacket [0x90000007, 8192, 0, 0, 0]
     Accepts .tmrSet p ready0 = true ∧ defaultBoundary true p ready0 ≤ p.w64 1) :=
  ⟨⟨acceptsAt (by decide +kernel), by decide +kernel⟩, by decide +kernel, by decide +kernel⟩

/-- O21: branch A of channel 255 enabled, filter 31 set, detectors off. -/
theorem witness_filter :
    (let p := spiPacket [0x20FF, 0, 0, 0x86000000, 96, 0]
     AcceptsAt true .flSetBranch p ready0 8192 ∧ (branchCfg (blockOf 3 3 p)).en = true ∧
       splitsCadence ready0 (named p ready0) (fun g => if g.word0.field 30 29 = 0 then b01 (g.word0.bit 28) == 0 else true)
         (branchCadence (blockOf 3 3 p)) (fun c => branchCadence (getBranch ready0 (2 * c)).accepted) = false) ∧
    AcceptsAt true .flSetFir (spiPacket ([31, 0, 0] ++ zeros 7 ++ [0x10000])) ready0 8192 ∧
    (let p := spiPacket [0x2000, 0]
     Accepts .flSetDetectors p ready0 = true ∧ named p ready0 = [0] ∧
       splitsCadence ready0 (named p ready0) (fun g => g.word0.field 30 29 == 1) (detCadence (p.w 1))
         (fun c => detCadence (vgetD ready0.fl.detAccepted c 0)) = false ∧
       (vgetD (vgetD ready0.fl.cmpAccepted 0 (vall 4 0)) 0 0).bit 31 = false) :=
  ⟨⟨acceptsAt (by decide +kernel), by decide +kernel⟩, acceptsAt (by decide +kernel), by decide +kernel⟩

/-- O22: a foreground calibration of basin 31 and a trim of modulator 8 of it. -/
theorem witness_calibration :
    (AcceptsAt false .calForeground (spiPacket [31, 0, 0]) ready0 8192 ∧ ready0.cv.subs = [] ∧
      (calBasin ready0 31).foreground = none) ∧
    AcceptsAt false .calWriteTrim (spiPacket [0x7081F, 0, 0, 0]) ready0 8192 :=
  ⟨⟨acceptsAt (by decide +kernel), by decide +kernel⟩, acceptsAt (by decide +kernel)⟩

/-- O23: a ROOT without an acquired beacon. -/
theorem witness_timebase :
    let s := { ready0 with tb := { ready0.tb with role := .root } }
    AcceptsAt false .tbSetTime (spiPacket [0, 0, 0, 7, 0]) s 8192 ∧ s.tb.role = .root ∧
      (timeEn s && beaconAcquired s) = false := ⟨acceptsAt (by decide +kernel), by decide +kernel⟩

/-- Another hub, 3, as an announcement. -/
def hub3 : Announce := { id := 3, uid := 99, incarnation := 0, masterPref := false, eligible := true, rootLed := false }

/-- `ready0` as the master of a ring with hub 3. -/
def master0 : State :=
  { ready0 with ring := { ready0.ring with
      mrole := .master, rstate := .closed, master := some 0, east := { ready0.ring.east with up := true }
      members := [{ announce := hub3, lastEast := 4900, lastWest := 4900, hopsEast := some 1, hopsWest := none }] } }

/-- A HL_SET_WATCHDOG packet as a mode change stages it, for hub `t`. -/
def stagedWords (t : HubId) : List Word := packetWords 0x0F0B { spiPacket [1000] with target := t }

/-- The packet it reads as. -/
def stagedPacket (t : HubId) : Packet :=
  { source := .staged farBoundary, tag := 7, target := t, params := [1000] }

/-- O24: staging for this hub and for another, preparing with 16 frames to go, identity and asymmetry. -/
theorem witness_ring :
    (Accepts .ringSetIdentity (spiPacket [0xC000001F]) ready0 = true) ∧
    (let p := spiPacket (5 :: stagedWords 0)
     Accepts .ringMcStage p ready0 = true ∧ readStaged (p.params.drop 1) = .command .hlSetWatchdog (stagedPacket 0) ∧
       forThisHub (stagedPacket 0) ready0 = true ∧
       ∃ t, stagePacket (p.w 0) { words := p.params.drop 1, op := .hlSetWatchdog, packet := stagedPacket 0 } ready0 = .ok t) ∧
    (let p := spiPacket (5 :: stagedWords 3)
     Accepts .ringMcStage p master0 = true ∧ readStaged (p.params.drop 1) = .command .hlSetWatchdog (stagedPacket 3) ∧
       forThisHub (stagedPacket 3) master0 = false ∧ master0.ring.mrole ≠ .refused ∧ Nat.testBit (memberMask master0) 3 = true) ∧
    (let p := spiPacket ([5, 73728, 0, 9] ++ zeros 64)
     Accepts .ringMcPrepare p master0 = true ∧ isMaster master0 = true ∧ master0.tb.started = true ∧
       master0.ring.mc.pending = none ∧ master0.ring.mc.state ≠ .prepared ∧
       now master0 + frameLen * max 16 (master0.ring.policy0.field 7 0 + 4) ≤ (prepareOf p).c) :=
  ⟨by decide +kernel, ⟨by decide +kernel, by decide +kernel, by decide +kernel, some_ok (by decide +kernel)⟩,
    by decide +kernel, by decide +kernel⟩

/-- O25: policies, a handover four frames ahead, authority forced while JOINING, and a standby that takes a record. -/
theorem witness_pair :
    Accepts .pairSetPolicy (spiPacket [0x00010010, 1000]) (paired .active) = true ∧
    Accepts .pairSetLink (spiPacket [0]) (paired .active) = true ∧
    (let p := spiPacket [24576, 0]
     Accepts .pairHandover p (paired .active) = true ∧ now (paired .active) + 4 * frameLen ≤ p.w64 0 ∧
       (paired .active).pair.peer.pstate = 2 ∧ (paired .active).pair.peer.healthy = true) ∧
    Accepts .pairForceAuthority (authPacket .pairForceAuthority [0x00000F0C]) { paired .joining with ao := keyed.ao } = true ∧
    Accepts .pairMirrorRead (spiPacket [0]) (paired .active) = true ∧
    Accepts .pairMirrorApply (spiPacket ([5, 0, 0, 0] ++ packetWords 0x0F0B (spiPacket [1000]))) (paired .standby) = true ∧
    holdsAuthority (paired .standby) = false := by decide +kernel

/-- `ready0` with branch A of channel 0 enabled, order 3, 96 ticks. -/
def branch0 : State :=
  setBranch 0 { getBranch ready0 0 with words := #v[0x86000000, 96, 0], accepted := #v[0x86000000, 96, 0] } ready0

/-- A capture configuration of channel 0: one slot of one page. -/
def capWords : List Word := [0x04010000, 0, 0, 1, 0, 0, 1, 1] ++ zeros 7

/-- O26: a set configured on an enabled branch, armed, and one READY record released. -/
theorem witness_capture :
    (let p := spiPacket capWords
     Accepts .capSetConfig p branch0 = true ∧ (getSet branch0 0).state = .free ∧ (capCfg (blockOf 15 0 p)).chans = [0] ∧
       (branchCfg (getBranch branch0 0).words).en = true ∧ (branchCfg (getBranch branch0 0).accepted).en = true ∧
       ∀ j : Fin 16, (getSet branch0 j).state = .free) ∧
    AcceptsAt false .capArm (spiPacket [0x8000000F, 0, 0]) ready0 8192 ∧
    (let s := modSet 15 (fun t => { t with state := .full, ready := [8] }) ready0
     Accepts .capRelease (spiPacket [0x10F]) s = true ∧ 1 ≤ (getSet s 15).ready.length) :=
  ⟨by decide +kernel, acceptsAt (by decide +kernel), by decide +kernel⟩

/-- `ready0` with the capture memory READY, 4 GiB of it. -/
def memReady : State := { ready0 with mem := { ready0.mem with mstate := .ready, capPages := 1048576 } }

/-- O27: the least initialisation, and an error injected into the last 8-byte word. -/
theorem witness_memory :
    (Accepts .memInit (spiPacket [0x1110]) ready0 = true ∧ ready0.mem.mstate = .uninit) ∧
    (let p := spiPacket [0x80004700, 0xFFFFFFF8]
     Accepts .memInjectError p memReady = true ∧ memReady.mem.mstate = .ready ∧ (p.w 1).toNat < capBytes memReady) := by
  decide +kernel

/-- A job of function 0 over one channel. -/
def job0 : Job :=
  { id := 7, fn := 0, words := [1, 0, 256, 0, 1, 4096, 4096, 0, 0, 0], running := false, columns := [], states := [], ctxCrc := none,
    samples := 0, nsamp := 0, done := 0, tiers := 0, effort := 0, effortMin := 0, used := 0, payload := 0, crc := 0, listCrc := 0,
    rawBlocks := 0, verifyFail := 0, cancelled := false, result := none }

/-- `memReady` with that job queued. -/
def jobReady : State := { memReady with cmp := { memReady.cmp with jobs := [job0] } }

/-- O28: a job submitted, read and cancelled. -/
theorem witness_compression :
    (Accepts .cmpSubmit (spiPacket job0.words) memReady = true ∧ memReady.cmp.jobs = []) ∧
    (Accepts .cmpSubmit (spiPacket [1, 8192, 256, 0, 1, 12288, 4096, 0, 0, 0]) jobReady = true ∧
      (∀ a ∈ jobRegions job0.words, ∀ b ∈ jobRegions [1, 8192, 256, 0, 1, 12288, 4096, 0, 0, 0], regionsClash a b = false)) ∧
    (Accepts .cmpReadJob (spiPacket [7]) jobReady = true ∧ Accepts .cmpCancel (spiPacket [7]) jobReady = true ∧
      jobReady.cmp.jobs.find? (fun j => j.id == 7) = some job0) := by decide +kernel

/-- O29: a WINDOW stream of channel 0 of this hub; flushing and deleting one. -/
theorem witness_stream :
    (let p := spiPacket [0x80200004, 0x00010001, 0, 0, 0, 0]
     Accepts .stSetStream p branch0 = true ∧ (vgetD (getFn branch0 0).contract 0 0).field 9 8 ≤ (p.w 0).field 22 20 ∧
       remoteHubs (wantedRanges p) branch0 = [] ∧ localChannels (wantedRanges p) branch0 = [0] ∧
       segmentRefusal (p.w 0) [0] branch0 = none ∧ streamBoundary false p (p.w64 2) branch0 = .ok 8192) ∧
    (let p := spiPacket [3, 0, 0]
     Accepts .stDelete p ready0 = true ∧ streamBoundary (!(deleteHubs p ready0).isEmpty) p (p.w64 1) ready0 = .ok 8192) :=
  ⟨⟨by decide +kernel, by decide +kernel, by decide +kernel, by decide +kernel, by decide +kernel, ok_of (by decide +kernel)⟩,
    by decide +kernel, ok_of (by decide +kernel)⟩

/-- O30: a pattern generator on a lane that carries nothing. -/
theorem witness_lane :
    Accepts .lnTest (spiPacket [0xF2000000]) ready0 = true ∧ (onlyUp 15 ready0 && true) = false ∧ pcieLive 15 ready0 = false := by
  decide +kernel

/-- `ready0` with VF1 to VF8 present. -/
def vfs : State := { ready0 with host := { ready0.host with vfEnable := true, numVfs := 8 } }

/-- O31: the view of VF8, its contract, the least budget, its reset before and after the timebase starts. -/
theorem witness_function :
    (let p := spiPacket [0x108, 0, 0, 1048575, 1, 0x00001FFF]
     AcceptsAt false .fnSetView p vfs 8192 ∧ namesAbsentVf p vfs = false ∧ rangeAllowed 8 1048575 1 vfs = true) ∧
    (let p := spiPacket [0x308, 0xFF00, 0xFF00, 0xFF00]
     Accepts .fnSetQos p vfs = true ∧ partsOver 8 (Vector.ofFn (fun i : Fin 4 => p.w i.val)) vfs = []) ∧
    (Accepts .fnSetBudget (spiPacket [0]) vfs = true ∧ minimums 1 0 (acceptedContract 0 vfs) vfs = 0) ∧
    (Accepts .fnReset (spiPacket [8]) vfs = true ∧ fnExists vfs 8 = true) ∧
    (let s := { vfs with tb := { vfs.tb with started := false } }
     Accepts .fnReset (spiPacket [1]) s = true ∧ fnExists s 1 = true ∧ s.tb.started = false) :=
  ⟨⟨acceptsAt (by decide +kernel), by decide +kernel⟩, by decide +kernel⟩

/-- O32: the calendar set by hand, and an authenticated zeroisation. -/
theorem witness_health :
    (Accepts .hlSetCalendar (spiPacket [0x40000000, 5]) ready0 = true ∧
      (ready0.ao.calendar.auto && ready0.tb.timeValid) = false) ∧
    Accepts .hlZeroiseKeys (authPacket .hlZeroiseKeys [0x5A5A0F0C]) keyed = true := by decide +kernel

/-- O33: one run of each kind of precondition. -/
theorem witness_selfTest :
    (Accepts .tsRun (spiPacket [0x10000000, 0x7F, 0]) ready0 = true ∧ runOf ready0 1 = none) ∧
    (Accepts .tsRun (spiPacket [0x20000000, 0, 0]) memReady = true ∧ memReady.mem.mstate = .ready) ∧
    (Accepts .tsRun (spiPacket [0x60000000, 0, 0]) ready0 = true ∧ testBusJoined ready0 = false) ∧
    (Accepts .tsRun (spiPacket [0x80000000, 0, 0]) ready0 = true ∧ ready0.pair.pstate ≠ .active) := by decide +kernel

/-- An answer of `Result` that is a rejection. -/
theorem reject_of {r : Result} {st : Status} {d : List Word}
    (h : (match r with | .reject a b => a == st && b == d | _ => false) = true) : r = .reject st d := by
  cases r with
  | reject a b => simp only [Bool.and_eq_true, beq_iff_eq] at h; rw [h.1, h.2]
  | done t a b => cases h
  | owe t a => cases h

/-- O2, O5 to O7, O17: steps with an empty queue, started or not, and with a command in front. -/
theorem witness_step :
    (ready0.pending = [] ∧ ready0.tb.started = true) ∧ (State.reset.pending = [] ∧ State.reset.tb.started = false) ∧
    (Memory.wf State.reset.mem = true ∧ ∃ t, step State.reset = .next t) ∧
    (touchesMemory (.devNop (spiPacket [])) = false ∧ ∃ t, exec (.devNop (spiPacket [])) ready0 = .next t) :=
  ⟨by decide, by decide, ⟨rfl, _, rfl⟩, rfl, _, rfl⟩

/-- O8: a reserved bit set. -/
theorem witness_rejected :
    Heard .devReadStats (spiPacket [1]) ready0 = true ∧ isRemote (spiPacket [1]) (authed (spiPacket [1]) ready0) = false ∧
    executeResult (opRules .devReadStats) (spiPacket [1]) (authed (spiPacket [1]) ready0) = .reject .malformed [0] :=
  ⟨by decide +kernel, by decide +kernel, reject_of (by decide +kernel)⟩

/-- O9: a command that completes at once. -/
theorem witness_accepted_replies :
    Accepts .devNop (spiPacket []) ready0 = true ∧ (spiPacket []).source ≠ .script ∧ (spiPacket []).quiet = false ∧
    (opRules .devNop).run (spiPacket []) (authed (spiPacket []) ready0) = .done ready0 [] 5000 :=
  ⟨by decide +kernel, by decide, rfl, rfl⟩

/-- O10: before the firmware is ready. -/
theorem witness_not_taken : mayTake (spiPacket []) State.reset = false := rfl

/-- A packet of function `f`. -/
def cqPacket (f : Fn) (ps : List Word) : Packet := { spiPacket ps with source := .cq f, func := fnCode f }

/-- O11: with a trailer, without one, and without one where one is asked for. -/
theorem witness_trailer :
    ((authPacket .devNop []).auth = true ∧ authCause .devNop (authPacket .devNop []) keyed = none) ∧
    ((spiPacket []).auth = false ∧ Op.devNop.authenticated = false ∧
      hasBit ready0.fh.reqAuth (slotOf (spiPacket [])).val = false) ∧
    ((cqPacket 0 [0]).auth = false ∧ Op.devSetPolicy.authenticated = true ∧ (cqPacket 0 [0]).source ≠ .spi) := by decide +kernel

/-- `ready0` after fifteen failures of slot 0 within 10 s. -/
def failed15 : State := { ready0 with fh := { ready0.fh with failTicks := vset ready0.fh.failTicks 0 (List.replicate 15 4000) } }

/-- O12: a trailer for which the slot holds no key, as the first and as the sixteenth failure. -/
theorem witness_auth_failure :
    (let p := authPacket .devNop []
     mayTake p ready0 = true ∧ p.source.ofHost = true ∧ headerOk .devNop p = true ∧
       permitted (opRules .devNop) p ready0 = true ∧ authCause .devNop p ready0 = some 4 ∧
       ((vget ready0.fh.failTicks (slotOf p)).filter (fun t => now ready0 < t + 10 * ticksPerSecond)).length < 15 ∧
       15 ≤ ((vget failed15.fh.failTicks (slotOf p)).filter (fun t => now failed15 < t + 10 * ticksPerSecond)).length ∧
       authCause .devNop p failed15 = some 4 ∧ hasBit failed15.fh.locked (slotOf p).val = false) := by decide +kernel

/-- O13: VF1's packet in VF2's queue, a FUNC on the SPI port, a PF0 command of VF1. -/
theorem witness_not_permitted :
    (let p := { cqPacket 1 [] with func := 2 }
     mayTake p vfs = true ∧ p.source = .cq 1 ∧ headerOk .devNop p = true ∧ p.func ≠ fnCode 1) ∧
    (let p := { spiPacket [] with func := 1 }
     mayTake p ready0 = true ∧ p.source = .spi ∧ headerOk .devNop p = true ∧ p.func ≠ 0) ∧
    (let p := cqPacket 1 [0x1110]
     mayTake p vfs = true ∧ headerOk .memInit p = true ∧ (opRules .memInit).issuers p vfs = false) := by decide +kernel

/-- One conflict found is some conflict reported. -/
theorem conflict_some {c : FeConfig} {held : Bool} {code : Nat} {x : Nat × Nat} (hc : code < 9)
    (hx : x ∈ conflictsOf c held code) : ∃ d, conflictWord c held = some d := by
  have low : ∀ (xs : List (Nat × Nat)) (a : Nat × Nat), (lowestConflict (a :: xs)).isSome = true := by
    intro xs
    induction xs with
    | nil => exact fun _ => rfl
    | cons z zs ih =>
      intro a
      have e : lowestConflict (a :: z :: zs)
          = lowestConflict ((if z.1 < a.1 ∨ (z.1 = a.1 ∧ z.2 < a.2) then z else a) :: zs) := by
        simp only [lowestConflict, List.foldl_cons]; split <;> rfl
      rw [e]; exact ih _
  have h : (conflictWord c held).isSome := by
    unfold conflictWord
    rw [List.findSome?_isSome_iff]
    refine ⟨code, List.mem_range.mpr hc, ?_⟩
    cases h : conflictsOf c held code with
    | nil => rw [h] at hx; cases hx
    | cons a as => rw [Option.isSome_map]; exact low as a
  exact Option.isSome_iff_exists.mp h

/-- O14: a terminal on X0 and X1. -/
theorem witness_conflict_connections :
    AcceptsAt true .feSetConnections (spiPacket ([3, 0, 0, 0x000C0000] ++ zeros 15)) ready0 8192 := acceptsAt (by decide +kernel)

theorem witness_conflict_x0x1 : ∃ d, conflictAt 8192 (.connections 3 (0x000C0000 :: zeros 15)) ready0 = some d :=
  conflict_some (code := 1) (x := (48, 0)) (by decide)
    (List.mem_filterMap.mpr ⟨48, List.mem_range.mpr (by decide), by decide +kernel⟩)

/-- O14: an enabled source of 0 nA. -/
theorem witness_conflict_excitation :
    AcceptsAt true .feSetExcitation (spiPacket [31, 0, 0, 0x80000000, 0, 0, 0]) ready0 8192 := acceptsAt (by decide +kernel)

theorem witness_conflict_source : ∃ d, conflictAt 8192 (.excitation 31 (0x80000000 :: zeros 3)) ready0 = some d :=
  conflict_some (code := 7) (x := (0x1FF, 0)) (by decide) (List.mem_filterMap.mpr ⟨124,
    List.mem_filter.mpr ⟨List.mem_range.mpr (by decide), by decide +kernel⟩, by decide +kernel⟩)

/-- O14: a bias of 1 mV. -/
theorem witness_conflict_biasGuard : AcceptsAt true .feSetBiasGuard (spiPacket [0, 0, 0, 1]) ready0 8192 :=
  acceptsAt (by decide +kernel)

theorem witness_conflict_bias : ∃ d, conflictAt 8192 (.biasGuard 0 1) ready0 = some d :=
  conflict_some (code := 8) (x := (0x1FF, 0)) (by decide)
    (List.mem_filterMap.mpr ⟨0, List.mem_range.mpr (by decide), by decide +kernel⟩)

/-- O15: a packet for hub 3, with and without a relay there of the same source. -/
theorem witness_relayed :
    (let p := { spiPacket [] with target := 3 }
     Heard .devNop p master0 = true ∧ isRemote p master0 = true ∧ relayBusy p master0 = false ∧ p.bcast = false ∧
       relayBusy p { master0 with fh := { master0.fh with relayWaiting := [(.devNop, p)] } } = true) := by decide +kernel

/-- O16, O56: a queued write of the last word, and a queued read, each the front of its requester. -/
def writeReq : MemReq :=
  { requester := 2, fn := 0, write := true, addr := 0xFFFFFFF8, len := 8, data := [1, 2, 3, 4, 5, 6, 7, 8], use := .host }
def writing : State := { memReady with mem := { memReady.mem with requests := [writeReq] } }
theorem witness_drained :
    Memory.wf writing.mem = true ∧ completable 2 (applySoft [] writing) = some writeReq ∧ writeReq.write = true ∧
    writeReq.use = .host ∧ writeReq.addr % 8 = 0 ∧ writeReq.data.length = 8 := by decide +kernel

theorem some_of {α : Type} {x : Option α} (h : x.isSome = true) : ∃ t, x = some t := Option.isSome_iff_exists.mp h

theorem malformed_of {r : HeaderRead} (h : (r != .malformed) = false) : r = .malformed := by simpa using h

/-- `ready0` with every queue of PF0 as `x` and Bus Master Enable set. -/
def withQueue (x : Queue) : State := modFn ready0 0 (fun fn => { fn with queues := vall 7 x, bme := true })

/-- The words of a DEV_NOP packet. -/
def nopWords : List Word := packetWords 0x0101 (cqPacket 0 [])

/-- O34: a doorbell at the last slot and past it, an enable and a disable, an item, a reply, a packet and a bad header. -/
theorem witness_queueEvents :
    (fnExists ready0 0 = true ∧ queueExists 0 6 = true ∧ ready0.pwr.held = false) ∧
    (let x : Queue := { en := true }
     slotsBetween x (16 % 2 ^ (x.log2Slots.toNat + 1)) x.hubIndex.toNat ≤ 2 ^ x.log2Slots.toNat ∧
       2 ^ x.log2Slots.toNat < slotsBetween x (17 % 2 ^ (x.log2Slots.toNat + 1)) x.hubIndex.toNat ∧ x.error = false ∧
       getQueue (withQueue x) 0 6 = x) ∧
    ((0x80040000 : Word).bit 31 = true ∧ (getQueue ready0 0 0).en = false) ∧
    (let x : Queue := { en := true, waiting := [[7]] }
     let s := withQueue x
     getQueue s 0 1 = x ∧ transfersRun s 0 = true ∧
       slotsBetween x x.hubIndex.toNat x.hostIndex.toNat + ceilDiv ([7] : List Word).length 16 ≤ 2 ^ x.log2Slots.toNat ∧
       nextWrite 0 1 (setQueue (withQueue { en := true }) 0 1 x) = true) ∧
    (let r := replyOf 0x0101 (cqPacket 0 []) .ok [] 5000 ready0
     let s := { withQueue { en := true } with fh := { ready0.fh with replies := [(.cq 0, r)] } }
     s.fh.replies.find? (fun e => e.1 == .cq 0) = some (.cq 0, r) ∧ (getQueue s 0 1).en = true ∧
       (getQueue s 0 1).error = false ∧ slotsOf r.words ≤ queueRoom s 0 1) ∧
    (let s := withQueue { en := true, hostIndex := 1 }
     inTurn (.cq 0) s = true ∧
       inTurn (.cq 8) { s with fh := { s.fh with waiting := [(.devNop, cqPacket 0 [])] } } = false ∧
       s.fh.waiting.find? (fun w => sameSource w.2.source (.cq 0)) = none ∧ cqHolds 0 nopWords s = true ∧
       readPacket (.cq 0) nopWords s = .command .devNop (cqPacket 0 []) ∧ mayTake (cqPacket 0 []) s = true ∧
       readPacket (.cq 0) [0, 0, 0, 0] s = .malformed ∧ cqHolds 0 [0, 0, 0, 0] s = true ∧
       mayTake { source := .cq 0, tag := 0 } s = true) := by decide +kernel

/-- O35: the hub out of reset, and a cause in moderation, held or not, in both banks. -/
theorem witness_registerEvents :
    (ready0.pwr.held = false ∧ fnExists ready0 0 = true) ∧ ((0xE : BitVec 4) ≠ 0xF) ∧
    (let s := modFn ready0 0 (fun y => { y with moderated := [(31, 4000), (32, 4000), (5, 4000)], heldCauses := [31, 32] })
     let due := fun c => (moderationEnd s 0 c).any (fun e => dueSoon e s)
     (due 31 && due 32 && due 5) = true ∧ (getFn s 0).heldCauses.contains 31 = true ∧
       (getFn s 0).heldCauses.contains 32 = true ∧ (getFn s 0).heldCauses.contains 5 = false) := by decide +kernel

/-- O36: a value that resets and one that does not. -/
theorem witness_devcfg : ((0x8000A5C3 : Word).field 15 0 = 0xA5C3) ∧ ((0x80000000 : Word).field 15 0 ≠ 0xA5C3) := by decide

/-- O37: the port powered and not, a push that just fits, one that does not, and buffers with and without content. -/
theorem witness_spiEvents :
    (vget ready0.pwr.rails 7 = true ∧ ready0.pwr.held = false ∧ vget { ready0 with pwr := { ready0.pwr with rails := vset ready0.pwr.rails 7 false } }.pwr.rails 7 = false) ∧
    (spiUsed ready0 + 4 * (zeros 512).length ≤ 2048 ∧ 2048 < spiUsed ready0 + 4 * (zeros 513).length) ∧
    (ready0.host.spi.replies = [] ∧ ready0.host.spi.events = []) ∧
    (let s := { ready0 with host := { ready0.host with spi := { ready0.host.spi with replies := [[1], [2]], events := [[3]] } } }
     s.host.spi.replies = [1] :: [[2]] ∧ s.host.spi.events = [3] :: []) := by decide +kernel

/-- O38: a VF, AF, D3hot and back, and both ports released and free. -/
theorem witness_functionEvents :
    (fnExists vfs 8 = true ∧ (8 : Fn) ≠ 0 ∧ (getFn vfs 8).d3hot = false ∧ mayInterrupt vfs 8 = false) ∧
    (let s := modFn vfs 8 (fun x => { x with d3hot := true })
     fnExists s 8 = true ∧ (getFn s 8).d3hot = true) ∧
    (let s := modFn vfs 8 (fun x => { x with msixEn := true, bme := true })
     fnExists s 8 = true ∧ mayInterrupt s 8 = true) ∧
    (let s := { ready0 with
       ln := { ready0.ln with auxMode := 2 }
       host := { ready0.host with hostPort := { ready0.host.hostPort with perst := false }
                                  auxPort := { ready0.host.auxPort with perst := false } } }
     s.ln.auxMode = 2 ∧ s.host.hostPort.perst = false ∧ s.host.auxPort.perst = false ∧ s.pwr.held = false) := by decide +kernel

/-- A relay to hub `t`, or a broadcast. -/
def relayOf (bc : Bool) : Relay :=
  { id := 9, op := .devNop, packet := { spiPacket [] with target := if bc then 0 else 3, bcast := bc }, sent := 4000,
    expected := 8, succeeded := 0, rejected := 0 }

def relaying (bc : Bool) : State := { master0 with fh := { master0.fh with relays := [relayOf bc] } }

/-- A RELAY_REPLY of hub 3 to relay 9. -/
def relayAnswer : List Word := 0x00090000 :: (replyOf 0x0101 (spiPacket []) .ok [] 0 { ready0 with ring := { ready0.ring with hubId := 3 } }).words

/-- A NOR header of no patch and no script. -/
def norHeader : List Word := let h : List Word := [0x4D420100, 0, 0, 0, 0, 0, crc32cWords []]; h ++ [crc32cWords h]

/-- `ready0` before its boot, under straps `w`. -/
def booting (w : Word) : State :=
  { ready0 with fh := { ready0.fh with fwReady := false }, pwr := { ready0.pwr with booting := true, straps := w } }

/-- O39: a relayed packet, and relays found and lost. -/
theorem witness_relayEvents :
    (let w : List Word := 0x00091840 :: nopWords
     ready0.fh.executed = [] ∧ ready0.fh.owed = [] ∧ ready0.fh.waiting = [] ∧
       readNative (.relay 3 9 true) .native (w.drop 1)
         = .command .devNop { spiPacket [] with source := .relay 3 9 true }) ∧
    (∀ bc : Bool, (relaying bc).fh.relays.find? (fun y => y.id == (wordAt relayAnswer 0).extractLsb' 16 16)
      = some (relayOf bc) ∧ (relayOf bc).packet.bcast = bc) ∧
    ((((relayOf true).succeeded ||| (relayOf true).rejected) &&& wd (2 ^ (replyIn relayAnswer).hub.toNat)) = 0 ∧
      ((relayOf true).expected &&& wd (2 ^ (replyIn relayAnswer).hub.toNat)) ≠ 0) ∧
    (ready0.fh.relays.find? (fun y => y.id == 9) = none) := by decide +kernel

/-- O39: the restart, each boot source, the end of the boot. -/
theorem witness_bootEvents :
    ({ ready0 with fh := { ready0.fh with restarting := true } }.fh.restarting = true) ∧
    ((booting 0).pwr.held = false ∧ (booting 0).fh.fwReady = false ∧ (booting 0).pwr.booting = true) ∧
    (bootSrc (booting 0) = 0 ∧ 5 ≤ bootSrc (booting 0x5000) ∧ bootSrc (booting 0x1000) = 1 ∧ bootSrc (booting 0x2000) = 2) ∧
    (headerPasses [] = false ∧ headerPasses norHeader = true ∧
      (bootPatch { header := norHeader, patch := [], script := [] } (booting 0x2000)).2 = true ∧
      scriptOf { header := norHeader, patch := [], script := [] } = some []) ∧
    (let s := { ready0 with pwr := { ready0.pwr with booting := true } }
     s.pwr.booting = true ∧ s.fh.fwReady = true ∧ s.pwr.scriptLeft = [] ∧ s.fh.owed = [] ∧ s.fh.waiting = []) := by
  decide +kernel

/-- A diagnostic of kind `k` that runs from tick 4096. -/
def diag (k : Nat) : DiagReq :=
  { request := 1, kind := k, p := 0, q := 0, level := 0, limit := 0, slot := some 7, every := 16, first := false }

def measuringOf (k : Nat) : State := 
  { ready0 with fe := { ready0.fe with diagRunning := some { req := diag k, began := 4096 } }
                tb := { ready0.tb with frameTick := 40960 } }

/-- O39: a lock-out and relays at their ends. -/
theorem witness_fountainheadTimers :
    (let s := { ready0 with
       fh := { ready0.fh with locked := 512, lockedAt := vset ready0.fh.lockedAt 9 4000 }
       tb := { ready0.tb with frameTick := 4096 * (10 * ticksPerSecond / 4096) } }
     hasBit s.fh.locked 9 = true ∧ dueSoon (vget s.fh.lockedAt 9 + 10 * ticksPerSecond) s = true) ∧
    (∀ bc : Bool, let s := { relaying bc with tb := { (relaying bc).tb with frameTick := 4096 * 10000 } }
      s.fh.relays.find? (fun y => y.id == 9) = some (relayOf bc) ∧
        dueSoon ((relayOf bc).sent + usTicks (1000 * s.fh.relayMs.toNat)) s = true) := by decide +kernel

/-- O40: ports isolated and not, diagnostics of kinds 1 and 3, a repetition due, a serving modulator. -/
theorem witness_frontEndEvents :
    (hasBit ready0.fe.isolated 127 = false ∧
      (let s := { ready0 with fe := { ready0.fe with isolated := setBit ready0.fe.isolated 127 } }
       hasBit s.fe.isolated 127 = true ∧ hasBit s.fe.latched 127 = false)) ∧
    ((measuringOf 3).fe.diagRunning = some { req := diag 3, began := 4096 } ∧ (diag 3).kind = 3 ∧ (diag 1).kind ≠ 3 ∧
      (measuringOf 1).fe.diagRunning = some { req := diag 1, began := 4096 } ∧ (diag 1).kind < 5 ∧
      dueSoon (4096 + frameLen * diagFrames 3) (measuringOf 3) = true ∧ dueSoon (4096 + frameLen * diagFrames 1) (measuringOf 1) = true) ∧
    (let s := { ready0 with fe := { ready0.fe with diagSlots := vset ready0.fe.diagSlots 7 (some { req := diag 1, due := 8192 }) } }
     vget s.fe.diagSlots 7 = some { req := diag 1, due := 8192 } ∧ dueSoon 8192 s = true ∧
       (s.fe.diagQueue ++ (s.fe.diagRunning.map (fun r => r.req)).toList).any (fun r => r.request == 1) = false) ∧
    (joinedChannel ready0 31 7 = some 7 ∧ channelIsolated ready0 31 7 = false) := by decide +kernel

/-- O41: a periodic and a one-shot timer, a level, start events, readings of the last and another entry, a tracked mains. -/
theorem witness_timerEvents :
    (let s := modTimer 7 (fun x => { x with word := 0x80000007, period := 2, next := 6000, level := true }) ready0
     (getTimer s 7).word.bit 31 = true ∧ s.tb.started = true ∧ (getTimer s 7).word.bit 28 = false ∧ (getTimer s 7).level = true ∧
       dueSoon 6000 s = true ∧ dueSoon (6000 - 2 + 0) s = true) ∧
    (let s := modTimer 7 (fun x => { x with word := 0x90000007, next := 8192 }) ready0
     (getTimer s 7).word.bit 28 = true ∧ (getTimer s 7).ticks = 0 ∧ dueSoon 8192 s = true) ∧
    ((getSv ready0 3).next = none) ∧
    (let s := modSv 3 (fun x => { x with next := some (0, x.entries) }) ready0
     (getSv s 3).next.isSome = true ∧ (getSv s 3).running = none) ∧
    (let s := modSv 3 (fun x => { x with running := some 0, seqWord := 0x00400000 }) ready0
     (getSv s 3).running = some 0 ∧ (vget (vget (getSv s 3).entries 0) 0).field 11 10 ≠ 1 ∧
       dueSoon (((getSv s 3).slotAt + 4 * slotLength (vget (getSv s 3).entries 0)) / 4) s = true ∧
       (0 : Fin 16).val < svLast (getSv s 3).seqWord) ∧
    (let s := modSv 3 (fun x => { x with running := some 0, seqWord := 0 }) ready0
     (getSv s 3).running = some 0 ∧ svLast (getSv s 3).seqWord ≤ (0 : Fin 16).val) ∧
    (let s := { ready0 with tb := { ready0.tb with mains := { ready0.tb.mains with tracking := true }, frameTick := 4096 * 3000 } }
     s.tb.mains.tracking = true ∧ dueSoon (s.tb.mains.lastGood + frameLen * s.tb.mains1.field 15 0) s = true) := by decide +kernel

/-- `ready0` with branch A of channel 255 in line-cycle mode, of the ring's reference. -/
def lineCycle : State := setBranch 510 { getBranch ready0 510 with words := #v[0xC1000001, 0, 0] } ready0

/-- `branch0` with branch B of channel 0 as well, whose samples the comparator of the channel reads. -/
def watched : State :=
  let s := setBranch 1 { getBranch branch0 1 with words := #v[0x86000000, 96, 0] } branch0
  { s with fl := { s.fl with detectors := vmod s.fl.detectors 0 (fun d => { d with cmp := #v[0x90000000, 0, 0, 0] }) } }

/-- O42: a window of an enabled branch, a branch that is off, one that waits for the other branch's window of the same tick, the
window that waited, and a line-cycle branch whose boundary another hub gives. -/
theorem witness_windowEvents :
    ((formWindow 0 0 {} (settlePatterns (windowNext (getBranch branch0 0) - 1) branch0)).isSome = true ∧
      branch0.fl.deferred = [] ∧ inputOpen 0 0 (windowNext (getBranch branch0 0) - 1) branch0 = false ∧
      dueSoon (windowNext (getBranch branch0 0) - 1) branch0 = true) ∧
    ((formWindow 255 1 {} (settlePatterns (windowNext (getBranch ready0 511) - 1) ready0)).isNone = true ∧
      (branchCfg (getBranch ready0 511).words).en = false ∧
      dueSoon (windowNext (getBranch ready0 511) - 1) { ready0 with tb := { ready0.tb with frameTick := 2 ^ 48 } } = true) ∧
    ((branchCfg (getBranch watched 0).words).en && watched.tb.started
      && inputOpen 0 0 (windowNext (getBranch watched 0) - 1) watched) = true ∧
    (let s := { watched with fl := { watched.fl with deferred := [(0, 0, {})] } }
     s.fl.deferred.any (fun y => y.1 == 0 && y.2.1 == 0) = true) ∧
    (let s := { lineCycle with tb := { lineCycle.tb with ref := .ring } }
     (branchCfg (getBranch s 510).words).en = true ∧ (branchCfg (getBranch s 510).words).lc = true ∧
       wantsForeign s (branchCfg (getBranch s 510).words) = true ∧ (getBranch s 510).byLocal = false) := by
  decide +kernel

/-- `ready0` with background calibration of basin 31 due at the last frame boundary. -/
def calDue : State :=
  modCal 31 (fun c => { c with policy := 0x80000001, base := some 4096, first := false })
    (setMod 31 8 .spare ready0)

/-- A visit to modulator 8 of basin 31 at gain code 0. -/
def calVisit : State := { ready0 with cal := { ready0.cal with visits := vsetD ready0.cal.visits 31 (some { index := 8, gain := 0, began := 4096 }) } }

/-- A run whose sums are `o` in each pair and follow the dither with weight `k` about `c`. -/
def calRun (o k c : Int) (t : Nat) : RunObs :=
  { pairs := List.replicate 32 (o, o), chips := (chipsFrom calVisit 31 t 64).map (fun z => k * z + c) }

/-- The verdict of two runs of that visit. -/
def calVerdict (x y : RunObs) : Verdict :=
  verdict (calBasin calVisit 31) 1 0 calVisit.cal.suspect (vgetD (calBasin calVisit 31).history 0 []) (x.clamped + y.clamped)
    (estimate 32 64 (chipsFrom calVisit 31 (4096 + 13 * frameLen) 64) x)
    (estimate 32 64 (chipsFrom calVisit 31 (4096 + 18 * frameLen) 64) y)

/-- O43: a basin whose cycle is due, with and without a ready spare or a channel, each verdict, a foreground calibration. -/
theorem witness_calibrationEvents :
    (cycleDue calDue 31 = true ∧ spareOf calDue 31 = some 8 ∧ nextChannel calDue 31 = some 0 ∧
      (calBasin calDue 31).first = false ∧ spareReady calDue 31 8 0 = false) ∧
    (let s := { calDue with cal := { calDue.cal with calTick := vsetD calDue.cal.calTick 287 (vall 8 (some 4096)) } }
     cycleDue s 31 = true ∧ spareOf s 31 = some 8 ∧ nextChannel s 31 = some 0 ∧ spareReady s 31 8 0 = true) ∧
    (let s := setMod 31 8 .retired calDue
     cycleDue s 31 = true ∧ spareOf s 31 = none) ∧
    (let s := { calDue with cv := { calDue.cv with chanWord := vsetD calDue.cv.chanWord 31 0xFF000000 } }
     cycleDue s 31 = true ∧ nextChannel s 31 = none) ∧
    (∃ x, calibrationOf calVisit 287 = some x) ∧
    (let g : Foreground := { start := 4096, running := false, taken := vall 9 none, gains := vall 9 0, failed := vall 9 none, accepted := 0
                             undo := vall 9 none }
     (calBasin (modCal 31 (fun c => { c with foreground := some g }) ready0) 31).foreground = some g ∧ g.running = false ∧ dueSoon g.start ready0 = true ∧
       dueSoon (g.start + 8 * frameLen) { ready0 with tb := { ready0.tb with frameTick := 40960 } } = true ∧
       runningForeground (modCal 31 (fun c => { c with foreground := some { g with running := true } }) ready0) 31
         = some { g with running := true } ∧ g.failed = vall 9 none) :=
  ⟨by decide +kernel, by decide +kernel, by decide +kernel, by decide +kernel, some_of (by decide +kernel), by decide +kernel⟩

/-- O43: two runs that a clamp rejects, that retire the modulator, and that are accepted. -/
theorem witness_verdicts :
    (match calVerdict { calRun 0 8 256 57344 with clamped := 1 } (calRun 0 8 256 77824) with | .reject _ _ => true | _ => false) = true ∧
    (match calVerdict (calRun 256 8 256 57344) (calRun 256 8 256 77824) with | .beyond => true | _ => false) = true ∧
    (match calVerdict (calRun 0 8 256 57344) (calRun 0 8 256 77824) with | .accept _ _ _ => true | _ => false) = true := by
  decide +kernel

/-- `ready0` before its timebase starts. -/
def unstarted : State := { ready0 with tb := { ready0.tb with started := false } }

/-- O44: the sample domain not counting, in a ring, REFCLK good, a learning interval, a leap second either way. -/
theorem witness_timebaseEvents :
    (unstarted.tb.started = false ∧ unstarted.pwr.held = false ∧ isLone unstarted = true) ∧
    (let s := { master0 with tb := { master0.tb with started := false, role := .root } }
     s.tb.started = false ∧ s.pwr.held = false ∧ isLone s = false ∧ (startOf .rootTimeout s).isSome = true) ∧
    ({ ready0 with tb := { ready0.tb with refclkOk := true } }.tb.refclkOk = true) ∧
    (let s := { ready0 with tb := { ready0.tb with
       holdover0 := 0x8000000A, state := .locked, lockedSince := 0, tick := 60 * ticksPerSecond } }
     s.tb.holdover0.bit 31 = true ∧ s.tb.state = .locked ∧ s.tb.lockedSince + 60 * ticksPerSecond ≤ now s) ∧
    (ready0.tb.leapIns = false ∧ ready0.tb.leapDel = false) ∧
    (monthEnds { ready0 with tb := { ready0.tb with anchorTime := 2678401 * 2 ^ 32, anchorTick := 5000 } } = false) ∧
    (let s := { ready0 with tb := { ready0.tb with anchorTime := 2678400 * 2 ^ 32, anchorTick := 5000, utcOffset := 0, leapIns := true } }
     monthEnds s = true) := by decide +kernel

/-- O44: a lone hub starts as its own master. -/
theorem witness_loneStart : ∃ x, startOf .rootTimeout (takeMaster (ownAnnounce unstarted) false unstarted) = some x := by
  have h : majority (memberMask unstarted) unstarted.ring.stable.toNat = true := by decide +kernel
  refine ⟨(0, .none), ?_⟩
  have r : (takeMaster (ownAnnounce unstarted) false unstarted).tb.role = .root := by
    simp only [takeMaster, ownAnnounce, h, and_self, if_true]
    rfl
  have m : (takeMaster (ownAnnounce unstarted) false unstarted).ring.master.isSome = true := by
    simp only [takeMaster]; split <;> rfl
  simp only [startOf, r, m, if_true]

/-- A beacon frame of a type and a payload, with its check value. -/
def beaconOf (type : Byte) (payload : List Byte) : BeaconFrame :=
  let body := [type, BitVec.ofNat 8 payload.length] ++ payload
  let c := (crc32c body).toNat
  { bytes := body ++ (List.range 4).map (fun i => BitVec.ofNat 8 (c / 256 ^ i)), edgeTick := 5000, edgeSub := 0, manchester := false,
    linear := true }

/-- The same with an authentication field under slot 0 of `keyed`. -/
def beaconAuthed (type : Byte) (payload : List Byte) : BeaconFrame :=
  let body := [type, BitVec.ofNat 8 (payload.length + 8)] ++ payload
  let m := ((beaconKey keyed).map (fun k => mac64 k body)).getD 0
  beaconOf type (payload ++ (List.range 8).map (fun i => BitVec.ofNat 8 (m.toNat / 256 ^ i)))

/-- A TIME payload, its AUTH flag clear or set, and a NOP-less COMMAND payload of opcode 1. -/
def timePayload (auth : Bool) : List Byte := List.replicate 10 0 ++ [if auth then 8 else 0] ++ List.replicate 5 0
def commandPayload : List Byte := List.replicate 4 0 ++ [1, 0, 0, 0, 1, 0, 0, 0]

/-- `keyed` listening to the beacon, asking for authentication or not. -/
def listening (w : Word) : State :=
  { keyed with tb := { keyed.tb with bcnWord := w, beacon := { keyed.tb.beacon with state := .search } } }

/-- O45: frames that fail each check, that pass, and slots that close good, bad and for the third time bad. -/
theorem witness_beaconEvents :
    (ready0.tb.beacon.state = .off ∧ (listening 0).tb.beacon.state ≠ .off) ∧
    ({ beaconOf 1 (timePayload false) with bytes := [] }.checked = false) ∧
    ((beaconOf 1 (timePayload false)).checked = true ∧ { beaconOf 1 (timePayload false) with manchester := true }.checked = true ∧
      { beaconOf 1 (timePayload false) with linear := false }.checked = true ∧ (beaconOf 3 []).checked = true ∧
      (beaconOf 3 []).type ≠ 1 ∧ (beaconOf 3 []).type ≠ 2) ∧
    ((beaconOf 1 []).suits = false ∧ (beaconOf 1 []).checked = true ∧ (beaconOf 1 (List.replicate 16 0xFF)).checked = true ∧
      (beaconOf 1 (List.replicate 10 0 ++ [0xF7] ++ List.replicate 5 0xFF)).suits = true ∧
      (beaconOf 1 (List.replicate 10 0 ++ [0xF7] ++ List.replicate 5 0xFF)).reservedZero = false) ∧
    (let f := beaconOf 1 (timePayload false)
     (f.suits && f.reservedZero) = true ∧ f.type = 1 ∧ f.authed = false ∧
       (listening 0).tb.bcnWord.bit 28 = false ∧ (listening 0x10000000).tb.bcnWord.bit 28 = true) := by decide +kernel

/-- O45: authenticated frames under the key and under none. -/
theorem witness_beaconMac :
    (let f := beaconAuthed 1 (timePayload true)
     f.checked = true ∧ (f.suits && f.reservedZero) = true ∧ f.type = 1 ∧ f.authed = true ∧
       beaconMac f (listening 0) = true ∧ beaconMac f ready0 = false) ∧
    (let f := beaconAuthed 2 commandPayload
     f.checked = true ∧ (f.suits && f.reservedZero) = true ∧ f.type = 2 ∧
       beaconMac f (listening 0) = true ∧ beaconMac f ready0 = false) := by decide +kernel

/-- O45: an acquired beacon whose slot closes in the frame in progress, good, or bad for the first, the second and the third
time; a slot that does not close yet. -/
theorem witness_beaconSlot :
    let s := fun (good : Bool) (bad : Nat) =>
      modBeacon (fun b => { b with state := .acquired, slotEnd := 64 * 6000, slotGood := good, badRun := bad }) ready0
    (slotCloses (s true 2) = true ∧ (s true 2).tb.beacon.slotGood = true) ∧
    (slotCloses (s false 1) = true ∧ (s false 1).tb.beacon.slotGood = false ∧ (s false 1).tb.beacon.badRun < 2) ∧
    (slotCloses (s false 2) = true ∧ (s false 2).tb.beacon.slotGood = false ∧ 2 ≤ (s false 2).tb.beacon.badRun) ∧
    slotCloses ready0 = false := by decide +kernel

/-- O46: an exchange in progress in either part, and a measurement with and without the flash. -/
theorem witness_transferEvents :
    (let s := modTransfer 0 (fun x => { x with rxSeq := some 15, rxDone := false, t1 := some 100, txSeq := 15 }) ready0
     (transferOf s 0).rxSeq = some 15 ∧ (transferOf s 0).rxSeq ≠ some 14 ∧ (transferOf s 0).txSeq = 15 ∧
       (transferOf s 0).txSeq ≠ 14 ∧ (transferOf s 0).t1 = some 100 ∧ (transferOf s 0).rxDone = false) ∧
    (let f : Flash := { srcId := 1, edgeTime := 2, edge64 := 3 }
     let m : AsymMeasure := { apply := false, n := 16, pathPs := 0, count := 0, sum := 0, sumSq := 0, own := [f], neighbour := [] }
     let s := setAsym .east (some m) ready0
     asymOf s .east = some m ∧ m.own.find? (fun x => x.matches f) = some f ∧
       m.own.find? (fun x => x.matches { f with srcId := 9 }) = none) ∧
    (asymOf ready0 .east = none ∧ askedOf ready0 .east = none ∧ lastFlash ready0 = none) ∧
    (let s := { ready0 with tb := { ready0.tb with beacon := { ready0.tb.beacon with state := .acquired, edgeTick := 4000, acquiredId := 1 } } }
     ∀ x, lastFlash s = some x → (lastFlash s).filter (fun y => y.matches x) = some x) := by decide +kernel

/-- O47: a hub with its master heard, a foreign announcement, masters lost, a naming, handovers, a mismatch. -/
theorem witness_membershipEvents :
    ((master0.host.compat && decide (7 < hubNum master0)) = false ∧
      (match (pruneMembers master0).ring.master with
        | some m => m != (pruneMembers master0).ring.hubId && !(pruneMembers master0).ring.members.any (fun x => x.announce.id == m)
        | none => false) = false) ∧
    (hub3.id ≠ master0.ring.hubId) ∧
    (let s := { master0 with ring := { master0.ring with master := some 3, mrole := .member } }
     s.ring.master = some 3 ∧ (3 : HubId) ≠ s.ring.hubId ∧ s.tb.started = true) ∧
    (let s := { master0 with ring := { master0.ring with rstate := .forming, master := none } }
     s.ring.rstate = .forming ∧ s.ring.master = none ∧ s.ring.mrole ≠ .refused ∧ (namedMaster s).isSome = true) ∧
    (let s := { master0 with ring := { master0.ring with handover := some (5, 8192) } }
     s.ring.handover = some (5, 8192) ∧ (5 : HubId) ≠ s.ring.hubId ∧ isMaster s = true ∧
       s.ring.members.find? (fun m => m.announce.id == 5) = none) ∧
    ({ master0 with ring := { master0.ring with handover := some (0, 8192) } }.ring.handover = some (master0.ring.hubId, 8192)) ∧
    (let s := { master0 with
       tb := { master0.tb with state := .mismatch, ringOk := true, tick := 3 * ticksPerSecond }
       ring := { master0.ring with policy0 := 0x00018004, policy1 := 0x00010000, mismatchSince := 1 } }
     mismatchDue s = true) ∧ mismatchDue master0 = false := by decide +kernel

/-- O47: this hub's own announcement, which carries the part's identifier. -/
theorem witness_ownAnnounce : ({ hub3 with id := 0, uid := Config.uid } : Announce).id = ready0.ring.hubId ∧
    ({ hub3 with id := 0, uid := Config.uid } : Announce).uid = Config.uid := ⟨rfl, rfl⟩

/-- `ready0` with both sides up since tick 0 and looping, and no exchange that failed since. -/
def looping : State :=
  { ready0 with
    tb := { ready0.tb with tick := ticksPerSecond }
    ring := { ready0.ring with east := { ready0.ring.east with up := true, looping := true, upSince := 0, cleanSince := 0 }
                               west := { ready0.ring.west with up := true, looping := true, upSince := 0, cleanSince := 0 } } }

/-- O48: another hub's wrap, a side up for exactly 1 s, an unwrap of the neighbour and its boundary. -/
theorem witness_wrapEvents :
    ((3 : HubId) ≠ ready0.ring.hubId ∧ ready0.ring.downHops.contains 3 = false) ∧
    ((sideOf looping .east).up = true ∧ (sideOf looping .east).unwrapped = false ∧ (sideOf looping .east).unwrapAt = none ∧
      (sideOf looping .east).cleanSince + ticksPerSecond ≤ now looping) ∧
    (looping.ring.west.up = true ∧ looping.ring.west.looping = true ∧ recSender looping.ring.west.record = 0) ∧
    ((sideOf (modSide .east (fun x => { x with unwrapAt := some 8192 }) looping) .east).unwrapAt = some 8192) := by decide +kernel

/-- A mode change that waits for acknowledgements. -/
def mcOf (expect acked naked : Word) : McPending :=
  { g := 5, c := 73728, expect := expect, acked := acked, naked := naked, deadline := 65536, decided := false, aborting := false }

/-- O49: staging that succeeds and that fails, PREPARE meant for this hub and not, deadlines met and missed, COMMIT due. -/
theorem witness_modeChangeEvents :
    (readStaged (stagedWords 0) = .command .hlSetWatchdog (stagedPacket 0) ∧ forThisHub (stagedPacket 0) ready0 = true ∧
      (∃ t, stagePacket 5 { words := stagedWords 0, op := .hlSetWatchdog, packet := stagedPacket 0 } ready0 = .ok t)) ∧
    (let s := { ready0 with ring := { ready0.ring with mc := { ready0.ring.mc with state := .prepared } } }
     ∃ e, stagePacket 5 { words := stagedWords 0, op := .hlSetWatchdog, packet := stagedPacket 0 } s = .error e) ∧
    (expected { g := 5, c := 73728, expect := 1, sets := [] } ready0 = true ∧
      expected { g := 5, c := 73728, expect := 2, sets := [] } ready0 = false ∧ ready0.ring.mc.state ≠ .staging) ∧
    (let s := { ready0 with ring := { ready0.ring with mc := { ready0.ring.mc with state := .staging, g := 5 } } }
     expected { g := 5, c := 73728, expect := 2, sets := [] } s = false ∧ s.ring.mc.state = .staging ∧ s.ring.mc.g = 5) ∧
    ((mcOf 9 0 0).decided = false ∧ (mcOf 9 9 0).expect &&& ~~~((mcOf 9 9 0).acked ||| (mcOf 9 9 0).naked) = 0 ∧
      (mcOf 9 9 0).expect &&& (mcOf 9 9 0).naked = 0 ∧ (mcOf 9 0 0).expect &&& ~~~((mcOf 9 0 0).acked ||| (mcOf 9 0 0).naked) ≠ 0 ∧
      (mcOf 9 1 8).expect &&& (mcOf 9 1 8).naked ≠ 0) ∧
    (let s := { ready0 with ring := { ready0.ring with mc := { ready0.ring.mc with state := .prepared, g := 5, c := 8192 } } }
     s.ring.mc.state ≠ .idle ∧ s.ring.mc.state = .prepared ∧ s.tb.started = true ∧ commitDue (s.tb.frameTick + frameLen) s = true) ∧
    (ready0.ring.mc.state = .idle ∧ commitDue (ready0.tb.frameTick + frameLen) ready0 = false) :=
  ⟨⟨by decide +kernel, by decide +kernel, some_ok (by decide +kernel)⟩, ⟨_, rfl⟩, by decide +kernel, by decide +kernel,
    by decide +kernel, by decide +kernel, by decide +kernel⟩

/-- O50: beats of the own and the other unit over both paths, lanes up and down, a pair and none, a path alive and not. -/
theorem witness_heartbeatEvents :
    ((paired .active).pair.en = true ∧ (paired .active).pair.lanesUp = true ∧ ready0.pair.en = false ∧ vget (paired .active).pwr.rails 9 = true) ∧
    (let b := (hbxBeat (paired .active)).toNat
     b / 2 ^ 40 % 256 = 0xD5 ∧ (crc8 ((List.range 4).map (fun i => BitVec.ofNat 8 (b / 2 ^ (32 - 8 * i) % 256)))).toNat = b % 256 ∧
       ((b / 2 ^ 32 % 2 == 1) = (paired .active).pair.unitB)) ∧
    (let b := (hbxBeat { paired .active with pair := { (paired .active).pair with unitB := true } }).toNat
     b / 2 ^ 40 % 256 = 0xD5 ∧ (crc8 ((List.range 4).map (fun i => BitVec.ofNat 8 (b / 2 ^ (32 - 8 * i) % 256)))).toNat = b % 256 ∧
       ((b / 2 ^ 32 % 2 == 1) = !(paired .active).pair.unitB)) ∧
    (((0 : BitVec 56).toNat / 2 ^ 48 % 2 == 1) = (paired .active).pair.unitB ∧
      ((0x01000000000000 : BitVec 56).toNat / 2 ^ 48 % 2 == 1) = !(paired .active).pair.unitB) ∧
    ((pathOf true (paired .active)).alive = true ∧ (pathOf false (paired .active)).alive = true ∧
      (pathOf true ready0).alive = false) := by decide +kernel

/-- A unit that shares source 127, drives it through terminal 511 and holds a reference of 50 mV for it, since before the last two
frames. -/
def sharing (h : Half) : State :=
  let s := paired .active
  { s with
    fe := { s.fe with conn := vset s.fe.conn 511 0x00200000, src := vset s.fe.src 127 0x80000400 }
    pair := { s.pair with split := vset s.pair.split 127 h, refs := vset s.pair.refs 127 (some 50000) } }

/-- `paired st` with its peer declared failed at tick 4990 while unit A followed. -/
def following (st : PState) : State :=
  modPair (fun p => { p with followMode := true, failedAt := some 4990, policy0 := 0xA0000000 }) (paired st)

/-- O51: failures of the peer in each state, witnesses and followers. -/
theorem witness_failureEvents :
    ((paired .standby).pair.en = true ∧ peerHeard (paired .standby) = true ∧ (paired .standby).pair.pstate = .standby ∧
      (paired .active).pair.pstate = .active ∧ ready0.pair.en = false) ∧
    (let s := modPair (fun p => { p with policy0 := 0x80000000, lastWitness := some 5000 }) (paired .standby)
     evidenceAt 5061 s ≠ 0 ∧ s.pair.policy0.bit 31 = true ∧ evidenceAt 9000 s = 0) ∧
    (let s := modPair (fun p => { p with policy0 := 0 }) (paired .standby)
     s.pair.policy0.bit 31 = false ∧ s.pair.pstate = .standby) ∧
    (halfOf (sharing .half) 127 = .half ∧ witnessArmed 127 (sharing .half) = true ∧ (sharing .half).pair.pstate ≠ .hold ∧
      witnessArmed 126 (sharing .half) = false) ∧
    (let s := modPair (fun p => { p with preRamp := vset p.preRamp 127 (some 50000) }) (sharing .full)
     halfOf s 127 = .full ∧ ((vget s.pair.preRamp 127).getD 0 == 0) = false ∧ ((vget s.pair.preRamp 126).getD 0 == 0) = true) ∧
    (let s := modPair (fun p => { p with followMode := true, failedAt := none }) (paired .active)
     s.pair.followMode = true ∧ s.pair.failedAt = none) ∧
    (let s := following .hold
     s.pair.pstate = .hold ∧ s.pair.policy0.bit 31 = true ∧ now s ≤ 4990 + 61 ∧
       evidenceAt 4990 (modPair (fun p => { p with engagements := [(now s, 31, p.peer.auth)] }) s) ≠ 0) ∧
    ((following .standby).pair.pstate ≠ .hold) := by decide +kernel

/-- O51: joining, handover, images, resynchronisation, split restore, records. -/
theorem witness_pairEvents :
    (let s := modPair (fun p => { p with
       link := { p.link with alive := false, last := 0 }, hbx := { p.hbx with alive := false, last := 0 } }) (paired .joining)
     s.pair.pstate = .joining ∧ s.pair.conflict = false ∧ heardInJoin s = false) ∧
    (let s := modPair (fun p => { p with peer := { p.peer with pstate := 3 } }) (paired .standby)
     s.pair.pstate = .standby ∧ s.pair.peer.pstate = 3 ∧ s.pair.lanesUp = true ∧ reportsHealthy s = true) ∧
    (let s := modPair (fun p => { p with handoverAt := some 8192 }) (paired .active)
     s.pair.pstate = .active ∧ s.pair.handoverAt = some 8192 ∧ 8192 ≤ s.tb.frameTick + frameLen ∧
       (paired .active).pair.handoverAt = none) ∧
    (let s := modPair (fun p => { p with imageComplete := true, resyncAt := some 8192 }) (paired .resync)
     s.pair.pstate = .resync ∧ s.pair.lanesUp = true ∧ s.pair.imageComplete = true ∧ s.pair.resyncAt = some 8192 ∧
       8192 ≤ s.tb.frameTick + frameLen ∧ imageReady { s with tb := { s.tb with state := .locked } } = true ∧
       mayResync { s with tb := { s.tb with state := .locked } } = true ∧ (paired .resync).pair.resyncAt = none) ∧
    (let s := modPair (fun p => { p with splitRestoreAt := some 8192 }) { paired .active with hl := { ready0.hl with healthy := true } }
     s.pair.en = true ∧ mayRestore s = true ∧ holdsAuthority s = true ∧ s.pair.splitRestoreAt = some 8192 ∧
       8192 ≤ s.tb.frameTick + frameLen) ∧
    (mayRestore (paired .standby) = true ∧ holdsAuthority (paired .standby) = false) ∧
    (let s := modPair (fun p => { p with rseqTaken := some 6 }) (paired .standby)
     s.pair.pstate = .standby ∧ s.pair.rseqTaken.any (fun x => !rseqAfter 5 x) = true) := by decide +kernel

/-- `ready0` with lane `l` in state `x` and its rails up. -/
def laneIn (l : Fin 16) (x : LState) : State :=
  modLane l (fun y => { y with lstate := x, idle := false }) { ready0 with pwr := { ready0.pwr with rails := vall 12 true } }

/-- A TRAIN payload of the peer's lane `j` of side code `side`. -/
def trainPayload (side j heard : Nat) : BitVec 56 := BitVec.ofNat 56 (side * 2 ^ 50 + j * 2 ^ 47 + heard * 2 ^ 44)

/-- O52: lane 0 in each state. -/
theorem witness_laneEvents :
    (laneGroup (laneIn 0 .detect) 0 = some 0 ∧ lanePower (laneIn 0 .detect) = true ∧ (getLane (laneIn 0 .detect) 0).idle = false ∧
      (getLane (laneIn 0 .detect) 0).lstate = .detect ∧ (getLane (laneIn 0 .train) 0).lstate = .train) ∧
    (pfield 1 30 0 ≠ 0 ∧ pfield (trainPayload (peerSide 0) 0 7) 30 0 = 0 ∧
      miswired 0 0 (trainPayload (peerSide 0) 0 7) (laneIn 0 .detect) = false ∧
      miswired 0 0 (trainPayload 3 0 7) (laneIn 0 .detect) = true) ∧
    ((getLane (laneIn 15 .silent) 15).lstate = .silent ∧ (getLane (laneIn 15 .silent) 15).latched = false ∧
      (getLane (laneIn 15 .up) 15).lstate = .up ∧ (getLane (laneIn 15 .sleep) 15).lstate = .sleep) ∧
    (let s := modLane 15 (fun y => { y with latched := true }) (laneIn 15 .silent)
     (getLane s 15).lstate = .silent ∧ (getLane s 15).latched = true) ∧
    (let s := modLane 3 (fun y => { y with lstate := .up, logical := 1 })
       { laneIn 0 .up with ln := { (laneIn 0 .up).ln with groups := vset (laneIn 0 .up).ln.groups 0 (vset (vget (laneIn 0 .up).ln.groups 0) 0 1) } }
     laneGroup s 3 = some 0 ∧ (getLane s 3).lstate = .up ∧ (getLane s 3).placed = [] ∧ (getLane s 3).opened = [] ∧
       dueSoon ((getLane s 3).lastBlock + usTicks 1) s = true ∧ timingLaneOf s 0 ≠ some 3 ∧ (vget (vget s.ln.groups 0) 0).field 15 0 ≠ 0) ∧
    (let s := modLane 0 (fun y => { y with rateIdle := true }) (laneIn 0 .train)
     (getLane s 0).lstate = .train ∧ (getLane s 0).rateIdle = true ∧ dueSoon ((getLane s 0).idleSince + usTicks 1) s = true) ∧
    (dueSoon ((getLane (laneIn 0 .train) 0).trainAt + usTicks 1) (laneIn 0 .train) = true ∧
      (let s := { laneIn 0 .train with tb := { (laneIn 0 .train).tb with frameTick := 4096 * 1000 } }
       dueSoon ((getLane s 0).trainAt + usTicks 20000) s = true ∧ (getLane s 0).lstate = .train)) ∧
    (let s := modLane 0 (fun y => { y with idle := true }) (laneIn 0 .detect)
     (getLane s 0).lstate = .detect ∧ (getLane s 0).idle = true ∧ dueSoon ((getLane s 0).idleSince + usTicks 10) s = true) ∧
    (let s := { laneIn 15 .silent with tb := { (laneIn 15 .silent).tb with frameTick := 4096 * 1000 } }
     dueSoon ((getLane s 15).idleSince + usTicks 10000) s = true) := by decide +kernel

/-- A message of class `c` and number `q` without data, well formed or not. -/
def wireOf (c q : Nat) (good : Bool) : WireMessage :=
  let som : BitVec 56 := BitVec.ofNat 56 (c * 2 ^ 54 + q * 2 ^ 24)
  { som := som, words := [], eom := BitVec.ofNat 56 (if good then (crc32c (payloadBytes som)).toNat else 0) }

/-- A message of class 3 with link sequence number `q`, sent at tick 4990. -/
def sentOf (q : BitVec 12) : Sent :=
  { lseq := q, lane := 0, nblk := 1, again := false, src := 0, hops := 0, spill := false, sentAt := 4990
    message := { kind := 1, cls := 3, target := none, side := none, payload := [] } }

/-- O53: messages received well and badly, expected, duplicate, ahead; credit blocks; a gap. -/
theorem witness_messageEvents :
    (laneGroup (laneIn 0 .up) 0 = some 0 ∧ (getLane (laneIn 0 .up) 0).lstate = .up ∧ (getLane (laneIn 0 .up) 0).receiving = [] ∧
      (let s := modLane 0 (fun y => { y with receiving := [{ som := 0, words := [], bad := 0 }] }) (laneIn 0 .up)
       (getLane s 0).receiving = { som := 0, words := [], bad := 0 } :: [])) ∧
    (receivedCorrectly (wireOf 3 0 true) = true ∧ receivedCorrectly (wireOf 3 0 false) = false ∧
      (fin 4 (pfield (wireOf 3 0 true).som 55 54) : Fin 4) ≠ 0) ∧
    (let v := settleErrors 0 (laneIn 0 .up) (moveErrors 0 0 (-1) (laneIn 0 .up))
     ((0 : BitVec 12) - (getLink v 0 3).expected).toNat < 2048 ∧ (getLink v 0 3).ahead = [] ∧
       2048 ≤ ((0xFFF : BitVec 12) - (getLink v 0 3).expected).toNat) ∧
    (pfield (0x1000000 : BitVec 56) 39 24 ≠ 0 ∧ pfield (5 : BitVec 56) 39 24 = 0) ∧
    (let s := modLink 0 3 (fun k => { k with ahead := [(1, wireOf 3 1 true)], aheadAt := 4990 }) ready0
     (getLink s 0 3).ahead.isEmpty = false ∧ dueSoon ((getLink s 0 3).aheadAt + usTicks 2) s = true) ∧
    (let m := sentOf 1
     let s := modLink 0 3 (fun k => { k with replay := [m] }) ready0
     (getLink s 0 3).replay = m :: [] ∧ dueSoon (m.sentAt + replayTicks 0 s) s = true) ∧
    (let s := { laneIn 0 .up with ao := { (laneIn 0 .up).ao with heldMessages := List.replicate 32 (sentOf 0) } }
     receivedCorrectly (wireOf 0 0 true) = true ∧ (fin 4 (pfield (wireOf 0 0 true).som 55 54) : Fin 4) = 0 ∧
       32 ≤ (settleErrors 0 s (moveErrors 0 0 (-1) s)).ao.heldMessages.length) := by
  decide +kernel

/-- A segment of hub `home` with an open packet. -/
def segmentOf (home : HubId) : Segment :=
  { home := home, fn := 0, stream := 3, cfgSeq := 0, word0 := 0x80200004, word1 := 0x00010001, chans := [0], start := 0, begun := true,
    endAt := none, depth := 64, part := [], queue := [], assembly := 0, lastWord := 0, pend1 := none, lastRow := 0, newContract := none
    credit := { units := 0, at_ := 0 }, incarnation := 0,
    open_ := [{ seq := 1, outTick := 4096, words := [7], regime := 0, first := true, holdover := false, shed := false, auth := true,
                epoch := 0, gen := 0, weir := none }],
    job := none, lastSeq := 0, share := 0, weight := 0, cls := 2 }

/-- A set-up of one channel of this hub. -/
def setupOf (n : Nat) : SegmentSetup :=
  { action := .setup, fn := 0, stream := 3, word0 := 0x80200004, word1 := 0x00010001, ranges := [BitVec.ofNat 32 (n * 65536)], f := 8192 }

/-- O54: segments of this hub and another, set-ups taken and refused, replies awaited, a hub lost, a packet to deliver. -/
theorem witness_streamEvents :
    ((3 : HubId) ≠ branch0.ring.hubId) ∧
    (let s := { branch0 with st := { branch0.st with segments := [segmentOf 3, segmentOf 0] } }
     s.st.segments.filter (fun g => g.of 3 0 3 && !g.open_.isEmpty) = [segmentOf 3] ∧
       s.st.segments.filter (fun g => g.of s.ring.hubId 0 3 && !g.open_.isEmpty) = [segmentOf 0] ∧
       segmentRefusal 0x80200004 [0] { s with st := { s.st with segments := List.replicate 64 (segmentOf 0) } } = some .busy) ∧
    ((setupOf 0).action = .setup ∧ localChannels (setupOf 0).ranges branch0 = [0] ∧
      segmentRefusal (setupOf 0).word0 [0] branch0 = none) ∧
    (let s := modStream (streamIndex 0 3) (fun x => { x with awaits := [3] }) ready0
     (getStream s (streamIndex 0 3)).awaits.contains 3 = true ∧ (1 : Nat) < 2 ∧ (9 : Nat) % 256 ≠ 0) ∧
    (let s := modStream 3 (fun x => { x with delivery := [([7], 1)] }) (withQueue { en := true })
     (getStream s 3).delivery = ([7], 1) :: [] ∧ (getStream s 3).word0.bit 19 = false ∧ s.host.compat = false ∧
       (getQueue s 0 6).en = true ∧ (getQueue s 0 6).error = false ∧ ceilDiv ([7] : List Word).length 16 ≤ queueRoom s 0 6) := by
  decide +kernel

/-- O55: a trigger pin that persists and one that does not, a command trigger, a record that closes, a pulse that ends. -/
theorem witness_captureEvents :
    ((vget ready0.cap.pins 3).word.bit 31 = false ∧ (vget ready0.cap.pins 3).word.field 15 0 ≤ 4 ∧ vget ready0.pwr.rails 8 = true ∧
      vget { ready0 with pwr := { ready0.pwr with rails := vset ready0.pwr.rails 8 false } }.pwr.rails 8 = false) ∧
    (let s := { ready0 with cap := { ready0.cap with pins := vmod ready0.cap.pins 3 (fun p => { p with word := 0x80000001 }) } }
     (vget s.cap.pins 3).word.bit 31 = true) ∧
    (let s := { ready0 with cap := { ready0.cap with pins := vmod ready0.cap.pins 3 (fun p => { p with word := 2, pulseEnd := some 8192 }) } }
     1 < (vget s.cap.pins 3).word.field 15 0 ∧ (vget s.cap.pins 3).pulseEnd = some 8192 ∧
       dueSoon 8192 s = true) ∧
    (let s := modSet 15 (fun t => { t with pendingTick := 6000, trigger := vset t.trigger 0 0x02000000 }) ready0
     (getSet s 15).pendingTick ≠ 0 ∧ dueSoon 6000 s = true ∧ (vget (getSet s 15).trigger 0).bit 25 = true) ∧
    (let s := modSet 15 (fun t => { t with pendingTick := 6000 }) ready0
     (getSet s 15).pendingTick ≠ 0 ∧ dueSoon 6000 s = true ∧ (vget (getSet s 15).trigger 0).bit 25 = false) ∧
    (let s := modSet 15 (fun t => { t with state := .closing }) ready0
     mayClose 15 s = true ∧ recordStreams 15 s = []) ∧ mayClose 15 ready0 = false ∧ (3 : HubId) ≠ ready0.ring.hubId := by
  decide +kernel

/-- O56: the memory in training, and ready with one and two ranks; scrubbing; accesses at the end of a range. -/
theorem witness_memoryEvents :
    (let s := { ready0 with mem := { ready0.mem with mstate := .training } }
     s.mem.mstate = .training ∧ (2 : Fin 4) ≠ 3 ∧ (6 : Fin 7) ≠ 0) ∧
    (let s := { memReady with mem := { memReady.mem with requests := [{ writeReq with write := false, requester := 0 }] } }
     completable 0 (applySoft [] s) = some { writeReq with write := false, requester := 0 }) ∧
    (memReady.mem.mstate = .ready ∧ { memReady with mem := { memReady.mem with rank2 := true } }.mem.rank2 = true) ∧
    (let s := { memReady with mem := { memReady.mem with policy0 := 0x80000000 } }
     s.mem.mstate = .ready ∧ s.mem.policy0.bit 31 = true ∧ s.mem.requests = []) ∧
    (fnExists memReady 0 = true ∧ (8 : Nat) ≠ 0 ∧ 4294967288 + 8 ≤ 4294967296 ∧ memCheck 4294967288 8 memReady = 0) ∧
    (let s := modFn { memReady with host := vfs.host } 8 (fun x => { x with rangePage := 1048575, rangePages := 1 })
     fnExists s 8 = true ∧ 4088 + 8 ≤ 4096 * (getFn s 8).rangePages ∧ memCheck (4096 * (getFn s 8).rangePage + 4088) 8 s = 0) := by
  decide +kernel

/-- O56: a tREFI that ends within the frame and one that does not, and a refresh window likewise. -/
theorem witness_refresh :
    dueSoon (ceilDiv (refreshEnd 1 1 memReady) 1000000) memReady = true ∧
    (let s := { memReady with mem := { memReady.mem with refAt := vset memReady.mem.refAt 3 9000000000 } }
     dueSoon (ceilDiv (refreshEnd 1 1 s) 1000000) s = false) ∧
    dueSoon (ceilDiv (memReady.mem.windowAt + windowLen memReady) 1000000) memReady = false ∧
    (let s := { memReady with tb := { memReady.tb with frameTick := 389120, tick := 392000 } }
     dueSoon (ceilDiv (s.mem.windowAt + windowLen s) 1000000) s = true) := by
  decide +kernel

/-- O57: a queued job of each kind, and one running at each point. -/
theorem witness_compressionEvents :
    (runningJob 0 jobReady = none ∧ jobReady.cmp.jobs.find? (fun j => j.fn == 0) = some job0 ∧ job0.inflates = false ∧
      { job0 with words := [0x80000000, 0, 0, 0, 0, 4096, 4096, 0, 0] }.inflates = true) ∧
    (let s := fun j : Job => { memReady with cmp := { memReady.cmp with jobs := [j] } }
     runningJob 0 (s { job0 with running := true, nsamp := 256 }) = some { job0 with running := true, nsamp := 256 } ∧
       runningJob 0 (s { job0 with running := true, result := some (2, 0) }) = some { job0 with running := true, result := some (2, 0) } ∧
       runningJob 0 (s { job0 with running := true }) = some { job0 with running := true } ∧ job0.result = none ∧
       job0.nsamp ≤ job0.done ∧
       (let u := s { job0 with running := true, nsamp := 256 }
        tierDue 0 u = some { job0 with running := true, nsamp := 256 } ∧ u.cmp.turn.pick 9 (fun f => (tierDue f u).isSome) = some 0)) := by
  decide +kernel

/-- An event of hub 3 as FAULT_NOTE carries it. -/
def noteWords : List Word := [0x0F054300, 0, 0, 0, 0, 0, 0, 0] ++ zeros 8

/-- O58: a note of another hub, a held event with and without repeats, temperatures at both bounds, droop, the calendar. -/
theorem witness_healthEvents :
    (noteWords.length = 16 ∧ (entryOf noteWords).hub ≠ ready0.ring.hubId) ∧
    (let h : EqHold := { fn := 1, entry := entryOf noteWords, held := 2, since := 4990 }
     let mine := fun (x : EqHold) => x.fn == 1 && x.entry.hub == 3 && x.entry.code == 0x0F05 && x.entry.func == 0 && x.entry.inst == 0
     ([h].find? mine = some h ∧ h.held ≠ 0 ∧ (1 : Fn).val ≠ 0 ∧ dueSoon (h.since + usTicks 1000) { ready0 with tb := { ready0.tb with frameTick := 409600 } } = true) ∧
       [{ h with held := 0 }].find? mine = some { h with held := 0 }) ∧
    (ready0.pwr.held = false) ∧
    (let s := fun (h c : Bool) => { ready0 with
       hl := { ready0.hl with hot := h, cool := c, levelSince := 0 }, tb := { ready0.tb with frameTick := 4096 * (30 * ticksPerSecond / 4096) } }
     (s true false).hl.hot = true ∧ (s false true).hl.cool = true ∧ dueSoon (0 + 30 * ticksPerSecond) (s false true) = true ∧
       dueSoon (0 + 2 * ticksPerSecond) (s true false) = true ∧ (ready0.hl.hot = false ∧ ready0.hl.cool = false)) ∧
    (dueSoon (ready0.hl.watchdogTick + usTicks (1000 * ready0.hl.wdMs.toNat))
      { ready0 with tb := { ready0.tb with frameTick := 4096 * (60 * ticksPerSecond / 4096) } } = true) ∧
    (let x := ready0.ao.ledger
     let y := { x with pending := vset x.pending 0 43800 }
     refreshHours * (y.refreshes + 1) ≤ powerHours y) ∧
    (ready0.hl.pll300 = false ∧ { ready0 with hl := { ready0.hl with droop := true } }.hl.droop = true) ∧
    (calendarFollows ready0 = false) := by decide +kernel

/-- A started run of test `t` with unit `u` left. -/
def testing (t u : Nat) (s : State) : State :=
  { s with ts := { s.ts with runs := [{ test := t, runId := 1, origin := 0, first := 0, count := 1, arg1 := 0x7F, arg2 := 0, startAt := 4096,
                                        started := true, abort := false, left := [u], next := 0, cycles := [] }] } }

/-- O59: a unit left of each test, reached and not, and schedules with and without a run in the way. -/
theorem witness_selfTestEvents :
    ((startedRun (testing 1 (blockUnit 4 0) ready0) 1).isSome = true ∧ (2 : Fin 7).val ≠ 1 ∧
      blockReached (testing 1 (blockUnit 4 0) ready0) 4 0 = true ∧ blockReached (testing 1 (blockUnit 2 0) ready0) 2 511 = true ∧
      blockReached { ready0 with cmp := { ready0.cmp with jobs := [{ job0 with running := true }] } } 4 0 = false ∧
      blockReached ready0 1 0 = true ∧ ready0.fh.restarting = false ∧ dueSoon (blockDue (testing 1 (blockUnit 2 0) ready0)) ready0 = true) ∧
    ((startedRun (testing 2 0 memReady) 2).isSome = true ∧ memReady.mem.mstate = .ready) ∧
    (let s := { ready0 with ts := { ready0.ts with modTests := [{ m := 287, began := 4096, back := none }] } }
     (s.ts.modTests.find? (fun x => x.m == 287 && x.back.isNone)).isSome = true ∧
       dueSoon (4096 + 9 * frameLen) { s with tb := { s.tb with frameTick := 40960 } } = true) ∧
    (let good : ModReading := { offsetNv := 0, halfPpm := 0, engage := 0, release := 0 }
     (modVerdict #v[{ good with offsetNv := 1000000000 }, good]).1 ≠ 0) ∧
    ((startedRun (testing 4 127 ready0) 4).map (fun r => r.left.contains (127 : Fin 128).val) = some true ∧
      sourceIdle (testing 4 127 ready0) 127 = true ∧ sourceIdle (sharing .full) 127 = false ∧
      (sourceStep ready0 127).1 = 0 ∧ accurate 0 10000 = true ∧ accurate 0 0 = false) ∧
    ((measuringOf 5).fe.diagRunning = some { req := diag 5, began := 4096 } ∧ measuring 5 (measuringOf 5) = some { req := diag 5, began := 4096 } ∧
      2500 < ((1252501 : Int) - 1250000).natAbs ∧ ((1252500 : Int) - 1250000).natAbs ≤ 2500 ∧
      ((1252250 : Int) - 1250000).natAbs ≤ 2500 ∧ ((1252500 : Int) - 1252250).natAbs ≤ 250) ∧
    ((measuringOf 6).fe.diagRunning = some { req := diag 6, began := 4096 } ∧ measuring 6 (measuringOf 6) = some { req := diag 6, began := 4096 } ∧
      ∀ k : Fin 2, (vget (#v[50000, -50000] : Vector Int 2) k).natAbs ≤ 50000 ∧ vget (#v[250, 0] : Vector Int 2) k ≤ 250 ∧
        (vget (#v[5000, -5000] : Vector Int 2) k).natAbs ≤ 5000) := by decide +kernel

/-- O59: no bit has flipped. -/
theorem witness_dramTest : applySoft [] (testing 2 0 memReady) = testing 2 0 memReady := rfl

/-- O59: the ports, schedules, and the start-up test. -/
theorem witness_selfTestEvents2 :
    ((startedRun (testing 7 127 ready0) 7).map (fun r => r.left.contains (127 : Fin 128).val) = some true ∧
      portIdle ready0 127 = true ∧
      portIdle { ready0 with fe := { ready0.fe with isolated := setBit ready0.fe.isolated 127 } } 127 = false) ∧
    (let s := { ready0 with ts := { ready0.ts with sched := 0x7F } }
     (7 : Fin 8) ≠ 0 ∧ hasBit s.ts.sched ((7 : Fin 8).val - 1) = true ∧ (runOf s 7).isSome = false ∧
       s.ts.schedDue.contains 7 = false ∧ (runOf (testing 7 0 s) 7).isSome = true ∧
       dueSoon (vget s.ts.schedFrom 7 + 3600 * s.ts.periodH.toNat * ticksPerSecond)
         { s with tb := { s.tb with frameTick := 4096 * (3600 * s.ts.periodH.toNat * ticksPerSecond / 4096) } } = true) ∧
    (let s := { ready0 with fh := { ready0.fh with fwReady := false }, host := { ready0.host with lastReset := 0 } }
     s.pwr.held = false ∧ s.fh.fwReady = false ∧ startupDue s = true ∧
       (startupRecord 2 5 6 s).ao.result8.rstate ≠ 1) := by decide +kernel

/-- O60: pins, rails of each kind, the release of the internal reset, standby. -/
theorem witness_powerEvents :
    (let s := { ready0 with pwr := { ready0.pwr with porstN := true } }
     s.pwr.porstN = true ∧ s.pwr.standby = false ∧ { s with pwr := { s.pwr with standby := true } }.pwr.standby = true) ∧
    (let s := { ready0 with pwr := { ready0.pwr with porstN := false } }
     s.pwr.porstN = false ∧ s.ts.scanUsed = false) ∧
    (let s := { ready0 with pwr := { ready0.pwr with rails := vall 12 true, standby := false } }
     (∀ k : Fin 12, vget s.pwr.rails k = true) ∧ s.pwr.held = false ∧ stoppingRail 0 = true ∧ stoppingRail 10 = false ∧
       mayRelease s = false) ∧
    (let s := { ready0 with pwr := { ready0.pwr with rails := vall 12 false } }
     vget s.pwr.rails 11 = false ∧ vget s.pwr.rails 0 = false ∧ vget s.pwr.rails 10 = false) ∧
    (let s := { ready0 with
       pwr := { ready0.pwr with held := true, porstN := true, standby := false, rails := vall 12 true }
       hl := { ready0.hl with thermalHold := false } }
     mayRelease s = true) := by decide +kernel

/-- O34 to O59: a row that comes a frame boundary before its tick. -/
theorem witness_early : dueSoon 8193 ready0 = false ∧ measuring 5 ready0 = none ∧ measuring 6 ready0 = none ∧
    powerHours ready0.ao.ledger < refreshHours * (ready0.ao.ledger.refreshes + 1) := by decide +kernel

/-- The word whose little-endian bytes are the big-endian ones of `w`. -/
def swapped (w : Word) : Word := w.extractLsb' 0 8 ++ w.extractLsb' 8 8 ++ w.extractLsb' 16 8 ++ w.extractLsb' 24 8

theorem wordBytes_swapped (w : Word) : wordBytes (swapped w) = beBytes w := by
  simp only [wordBytes, beBytes, swapped, List.reverse_cons, List.reverse_nil, List.nil_append, List.cons_append, List.cons.injEq,
    and_true]
  refine ⟨?_, ?_, ?_, ?_⟩ <;> ext i hi <;>
    simp only [BitVec.getElem_extractLsb', BitVec.getLsbD_append, BitVec.getLsbD_extractLsb'] <;>
    (obtain rfl | rfl | rfl | rfl | rfl | rfl | rfl | rfl : i = 0 ∨ i = 1 ∨ i = 2 ∨ i = 3 ∨ i = 4 ∨ i = 5 ∨ i = 6 ∨ i = 7 := by omega) <;>
    rfl

theorem version_toNat (x y : Byte) : (x ++ y ++ (0 : BitVec 16) : Word).toNat = x.toNat * 16777216 + y.toNat * 65536 := by
  have h0 : (0 : BitVec 16).toNat = 0 := rfl
  rw [BitVec.toNat_append, BitVec.toNat_append, h0, Nat.or_zero, ← Nat.shiftLeft_add_eq_or_of_lt y.isLt]
  simp only [Nat.shiftLeft_eq]
  omega

theorem version_fields (x y : Byte) :
    Word.field (x ++ y ++ (0 : BitVec 16)) 31 24 = x.toNat ∧ Word.field (x ++ y ++ (0 : BitVec 16)) 23 16 = y.toNat := by
  have b1 := x.isLt
  have b2 := y.isLt
  constructor <;> rw [Word.field, version_toNat] <;> omega

theorem version_zero (x y : Byte) : ((x ++ y ++ (0 : BitVec 16) : Word).extractLsb' 8 8).toNat * 256
    + ((x ++ y ++ (0 : BitVec 16) : Word).extractLsb' 0 8).toNat = 0 := by
  rw [BitVec.extractLsb'_toNat, BitVec.extractLsb'_toNat, version_toNat, Nat.shiftRight_eq_div_pow, Nat.shiftRight_eq_div_pow]
  have b1 := x.isLt
  have b2 := y.isLt
  omega

/-- A keyed hash is the bytes of eight words. -/
theorem hmac_words (k m : List Byte) : ∃ t : List Word, t.length = 8 ∧ bytesOf t = hmac k m := by
  have h : ∃ a b c d e f g i : Word, hmac k m = [a, b, c, d, e, f, g, i].flatMap beBytes := ⟨_, _, _, _, _, _, _, _, rfl⟩
  obtain ⟨a, b, c, d, e, f, g, i, h⟩ := h
  refine ⟨[a, b, c, d, e, f, g, i].map swapped, rfl, ?_⟩
  rw [h]
  simp only [bytesOf, List.map_cons, List.map_nil, List.flatMap_cons, List.flatMap_nil, wordBytes_swapped]

/-- A command that configures no unit is held up by no prepared mode change. -/
theorem unprepared_free {o : Op} (h : (opRules o).configures = false) (p : Packet) (s : State) : unprepared o p s = true := by
  have b : ∀ t, preparedBusy (opRules o) p s t = false := fun t => by
    unfold preparedBusy
    split <;> simp only [h, Bool.false_and]
  unfold unprepared
  split <;> simp only [b, Bool.not_false]

/-- O18: a patch whose header, version and body pass every check; its ROM version is the part's own and its tag is computed
under the part's own key. -/
theorem witness_patch : ∃ s, Accepts .devPatchCommit (authPacket .devPatchCommit [0x80000000]) s = true ∧ patchCause s = none := by
  let w0 : Word := 0x7A1C0100
  let w1 : Word := Config.romMajor ++ Config.romMinor ++ (0 : BitVec 16)
  let c : Word := crc32cWords [0x12345678]
  obtain ⟨t, ht, hb⟩ := hmac_words ((List.finRange 32).map Config.vendorPatchKey) (bytesOf ([w0, w1, 1, c] ++ [0x12345678]))
  match t, ht with
  | [t0, t1, t2, t3, t4, t5, t6, t7], _ =>
    let m : List (Nat × Word) := [(0, w0), (1, w1), (2, 1), (3, c), (4, t0), (5, t1), (6, t2), (7, t3), (8, t4), (9, t5), (10, t6),
      (11, t7), (12, 0x12345678)]
    refine ⟨{ keyed with fh := { keyed.fh with staging := m } }, ?_, ?_⟩
    · have e : Accepts .devPatchCommit (authPacket .devPatchCommit [0x80000000]) keyed = true := by decide +kernel
      simp only [Accepts, Bool.and_eq_true] at e ⊢
      obtain ⟨⟨⟨⟨⟨⟨⟨⟨⟨a, b⟩, c⟩, d⟩, f⟩, g⟩, h⟩, i⟩, -⟩, j⟩ := e
      exact ⟨⟨⟨⟨⟨⟨⟨⟨⟨a, b⟩, c⟩, d⟩, f⟩, g⟩, h⟩, i⟩, unprepared_free rfl _ _⟩, j⟩
    · have v : (stagedVersion m).1.toNat * 256 + (stagedVersion m).2.toNat = 0 := version_zero _ _
      unfold patchCause
      have f : keyed.ao.patchFloor.toNat = 0 := rfl
      have g0 : stagedWord m 0 = w0 := rfl
      have g1 : stagedWord m 1 = w1 := rfl
      have g2 : stagedWord m 2 = 1 := rfl
      have g3 : stagedWord m 3 = c := rfl
      have g4 : Machine.stagedWords m 12 1 = [0x12345678] := rfl
      have g5 : Machine.stagedWords m 0 4 = [w0, w1, 1, c] := rfl
      have g6 : Machine.stagedWords m 4 8 = [t0, t1, t2, t3, t4, t5, t6, t7] := rfl
      dsimp only
      rw [g0, g1, g2, g3]
      rw [if_neg (by decide), if_neg (by rw [(version_fields _ _).1, (version_fields _ _).2]; simp), if_neg (by decide)]
      rw [show (1 : Word).toNat = 1 from rfl, g4, g5, g6, if_neg (by simp [c]), if_neg (by rw [hb]; simp)]
      rw [v, f, if_neg (by decide)]

/-! ## The well-formedness check refuses -/

/-- A NOP from a source Fountainhead does not read by itself. -/
theorem test_wf_refuses_relayed_packet : (Instr.devNop { source := .relay 3 1 false }).wf = false := by decide

/-- A packet of more parameter words than the table's largest. -/
theorem test_wf_refuses_long_packet : (Instr.devNop (spiPacket (List.replicate 265 0))).wf = false := by decide +kernel

/-- Ill-formed events, one for each check. -/
theorem test_wf_refuses_events :
    ([.commandHeaderError (.relay 3 1 false) [], .commandTake (.mirror 0) [] 0, .registerWrite 0 0x402 15 0,
      .queueEnableWrite 0 7 1, .doorbellWrite 0 7 1, .queueItemWrite 0 7 false, .interruptModerationEnd 0 6,
      .interruptModerationEnd 9 68, .captureWindowAccess 0 false 0 0 [], .captureWindowAccess 0 false 0 4097 [],
      .captureWindowAccess 0 true 0 4 [], .writeReg 2 [0], .writeReg 0 [], .readReg 1 1, .readReg 0 0] : List Instr).all
      (fun i => !i.wf) = true := by decide +kernel

/-- More of them. -/
theorem test_wf_refuses_messages :
    ([.calibrationDecision 0 { pairs := [], chips := [], clamped := 131073 } { pairs := [], chips := [] },
      .beaconTimeFrame { bytes := [], edgeTick := 0, edgeSub := 0, manchester := false, linear := true },
      .beaconCommandFrame { bytes := [], edgeTick := 0, edgeSub := 0, manchester := false, linear := true },
      .prepare { g := 1, c := 1, expect := 0, sets := List.replicate 32 (0, 0) },
      .prepare { g := 1, c := 0, expect := 0, sets := [] }, .unwrap 0 .east 1, .handover 0 1, .trigShare 16 0 0,
      .segmentSetup 0 { action := .setup, fn := 0, stream := 0, f := 1 },
      .segmentSetup 0 { action := .setup, fn := 0, stream := 0, ranges := List.replicate 33 0 },
      .faultNote [], .refreshInterval 0 0 129, .sramBlockTest 0 65536 0 0,
      .timebaseStart (.adoptRing 18446744073709551616), .timebaseStart (.adoptPeer 18446744073709551616)] : List Instr).all
      (fun i => !i.wf) = true := by decide +kernel

/-- And it lets pass what can occur. -/
theorem test_wf_accepts :
    ([.devNop (spiPacket []), .registerWrite 9 0x408 15 1, .queueItemWrite 9 38 false, .interruptModerationEnd 9 67,
      .prepare { g := 1, c := 4096, expect := 0, sets := List.replicate 32 (0, 0) }] : List Instr).all Instr.wf = true := by
  decide +kernel

/-! ## Worked examples of the manual -/

/-- The packet of the example of 15: CAP_TRIGGER broadcast by PF0, TAG 0x0031, QUIET, SEQ 258, three parameter words. -/
theorem test_header_of_chapter_15 :
    headerHead (Op.code .capTrigger)
      { source := .cq 0, tag := 0x0031, bcast := true, quiet := true, seq := 258,
        params := [0x00080000, 0x57E40000, 0] } = [0x09040031, 0x08000320, 0x00000102] := by decide +kernel

/-- The capture address of the example of 10, at 8 Gb and one rank. -/
theorem test_map_of_chapter_10 :
    placeOf 65536 0x400001A0 = { ch := 1, rank := 0, bank := 0, row := 37449, column := 224 } := by decide +kernel

/-- The CAP_SET_CONFIG block of the example of 09: 16 channels, 162 pages a slot and 101 slots. -/
theorem test_slot_of_chapter_09 :
    let c := capCfg #v[0x2C100003, 0x00630000, 0x7D0, 0x1F40, 0, 0x40000, 0x4000, 0xFF000000, 0xFF, 0, 0, 0, 0, 0, 0]
    c.chans.length = 16 ∧ c.kindOffset 4 = 659808 ∧ c.slotPages = 162 ∧ c.slots = 101 := by decide +kernel

/-- The coefficients of the example of 04 pass the sum check, and a coefficient one too large does not. -/
theorem test_fir_of_chapter_04 :
    firGainOk (spiPacket [0, 0, 0, 0, 0, 0, 0, 0, 0, 0x3D6FD, 0x15206]) = true ∧
    firGainOk (spiPacket [0, 0, 0, 0, 0, 0, 0, 0, 0, 0x3D6FD, 0x15207]) = false := by decide +kernel

/-- The blocks of the example of 11: column 0 under predictor 1, column 1 under predictor 2 with its neighbour's
differences 2, -5, 4 and -5 of weight 64. -/
theorem test_blocks_of_chapter_11 :
    (encodeBlock 2 false { x1 := 1000, x2 := 990, hist := 2, a := 64, n := 8 }
      ([1012, 1019, 1030, 1036].map (fun v => wd (256 * v))) []).words = [0x100C0100, 0x0048C220] ∧
    (encodeBlock 2 false { x1 := 1100, x2 := 1090, hist := 2, a := 64, n := 8 }
      ([1111, 1120, 1131, 1136].map (fun v => wd (256 * v))) [128, -320, 256, -320]).words = [0x200C0100, 0x00163100] := by
  decide +kernel

/-- The statistics that the two blocks of 11 leave: A 94 and 75, N 12. -/
theorem test_states_of_chapter_11 :
    let c := (encodeBlock 2 false { x1 := 1000, x2 := 990, hist := 2, a := 64, n := 8 }
      ([1012, 1019, 1030, 1036].map (fun v => wd (256 * v))) []).state
    let d := (encodeBlock 2 false { x1 := 1100, x2 := 1090, hist := 2, a := 64, n := 8 }
      ([1111, 1120, 1131, 1136].map (fun v => wd (256 * v))) [128, -320, 256, -320]).state
    c = { x1 := 1036, x2 := 1030, hist := 2, a := 94, n := 12 } ∧ d = { x1 := 1136, x2 := 1131, hist := 2, a := 75, n := 12 } := by
  decide +kernel

/-- The calibration of the example of 05: offsets 13.2 and 12.1 µV, gain errors 312 and 298 ppm, equalisation -9 ppm, at gain
32 with OTRIM 140 and GTRIM -40 and the reset tolerances. -/
def bridgeVerdict : Verdict :=
  let n : Rat := 2000000 / 999991 - 1
  verdict CalBasin.reset 32 (wd (140 + 984 * 65536)) false [n] 0
    { os := 132 * 32 / 25000000, eps := 312 / 1000000, p := 1 } { os := 121 * 32 / 25000000, eps := 298 / 1000000, p := 1 }

/-- It is accepted with the new codes 115 and -59. -/
theorem test_verdict_of_chapter_05 :
    (match bridgeVerdict with | .accept ot gt _ => decide (ot = 115 ∧ gt = -59) | _ => false) = true := by decide +kernel

/-- The packet header of the example of 12 (first row window 4,999,900). -/
theorem test_packet_of_chapter_12 :
    packetHead 1 2 2 2 0 0 4 1 4999900 800 8 100 3 0 61438783487 =
      [0x01242100, 0x40010000, 0x004C4ADC, 0x32003864, 3, 0, 0x4E096FFF, 0xE] := by decide +kernel

/-- The weir mark of the example of 12, for three dropped packets of 100 rows. -/
theorem test_weir_mark_of_chapter_12 :
    let m : WeirMark := { point := 4, firstSeq := 5000200, lastSeq := 5000499, count := 300, job := none
                          head := packetHead 1 2 2 2 0 0 4 1 5000200 800 8 100 3 0 0 }
    m.packet.take 4 = [0x04242100, 0x40010000, 0x004C4C08, 0x00503800] ∧
    m.words = [0x004C4C08, 0, 0x004C4D33, 0x12C, 0x40000000] := by decide +kernel

/-- A ledger whose counter 16 holds `v` and whose next increment is cut short at `step`. -/
def tornLedger (v step : Nat) : Ledger :=
  let x := Ledger.reset
  let c : LedgerCounter :=
    { strips := vset (vget x.counters 16).strips 0 (stripOf (v % 64)), highs := #v[BitVec.ofNat 26 (v / 64), 0, 0, 0] }
  ({ x with counters := vset x.counters 16 c } : Ledger).tear 16 step

/-- Its counter after the strips are completed and the journal is carried out. -/
def restored (v step : Nat) : Nat :=
  let x := tornLedger v step
  let y : Ledger := { x with counters := vmod x.counters 16 (fun c => { c with strips := c.strips.map completeStrip }) }
  (vget (y.journal.foldl replayEntry y).counters 16).value

/-- The restore of the example of 16, at each point of interruption of the carry from 2,047. -/
theorem test_restore_of_chapter_16 : [0, 1, 2, 3].map (restored 2047) = [2047, 2047, 2048, 2048] := by decide +kernel

/-- R29: a row in holdover sets STALE in the sample words of every row of its packet, and leaves the output ticks. -/
theorem test_stale_of_holdover :
    let r : StreamRow :=
      { seq := 0, outTick := 8, words := [8, 0, 0x500, 0x600], regime := 0, first := true, holdover := false, shed := false,
        auth := true, epoch := 0, gen := 0, weir := none }
    (markStale 2 [r, { r with holdover := true }]).map (fun r => r.words) = [[8, 0, 0x501, 0x601], [8, 0, 0x501, 0x601]] ∧
      markStale 2 [r, r] = [r, r] := by decide +kernel

end Sys2Proof.Tests
end

section
/-! SUPPORT. A row that falls due at a tick: it acts as of that tick, and while a frame boundary before it is still to come it
changes nothing. -/

namespace Sys2Proof.Machine
open Sys2Proof

theorem atDue_of_dueSoon {e : Nat} {s : State} (g : State → State) (h : dueSoon e s = true) :
    atDue e g s = g (reach e s) := if_pos h

theorem atDue_of_not_dueSoon {e : Nat} {s : State} (g : State → State) (h : dueSoon e s = false) :
    atDue e g s = s := if_neg (ne_true_of_eq_false h)

/-- A row whose meaning is `atDue e g` does `g` as of tick `e`. -/
theorem exec_of_atDue {c : Instr} {e : Nat} {g : State → State} {s : State} (hc : exec c s = .next (atDue e g s))
    (h : dueSoon e s = true) : exec c s = .next (g (reach e s)) := by
  rw [hc, atDue_of_dueSoon g h]

/-- A row whose meaning is `atDue e g` changes nothing before the frame of tick `e`. -/
theorem early_of_atDue {c : Instr} {e : Nat} {g : State → State} {s : State} (hc : exec c s = .next (atDue e g s)) :
    Early e c s := by
  intro h
  rw [hc, atDue_of_not_dueSoon g h]

end Sys2Proof.Machine
end

section
/-! SUPPORT and CLAIMS. The registers of BAR0 and the end of an interrupt's moderation (14, "BAR0", "Interrupts"). -/

namespace Sys2Proof.Machine
open Sys2Proof

/-! ## Writes of the host -/

theorem exec_compatModeWrite {s : State} (v : Word) (hheld : s.pwr.held = false) :
    exec (.compatModeWrite v) s = .next (writeDevcfg v s) :=
  congrArg Host.Outcome.next (if_neg (ne_true_of_eq_false hheld))

theorem exec_chipResetWrite {s : State} (v : Word) (hheld : s.pwr.held = false) :
    exec (.chipResetWrite v) s = .next (writeDevcfg v s) :=
  congrArg Host.Outcome.next (if_neg (ne_true_of_eq_false hheld))

/-- The guard of the writes of a function's registers: the hub is not held and the function exists. -/
theorem not_held_or_absent {f : Fn} {s : State} (hheld : s.pwr.held = false) (hfn : fnExists s f = true) :
    ¬ (s.pwr.held = true ∨ (!fnExists s f) = true) := by
  simp [hheld, hfn]

theorem exec_intCauseWrite {f : Fn} {s : State} (reg : IntReg) (v : Word) (hheld : s.pwr.held = false)
    (hfn : fnExists s f = true) : exec (.intCauseWrite f reg v) s = .next (clearCause f reg v s) :=
  congrArg Host.Outcome.next (if_neg (not_held_or_absent hheld hfn))

theorem exec_intMaskWrite {f : Fn} {s : State} (reg : IntReg) (v : Word) (hheld : s.pwr.held = false)
    (hfn : fnExists s f = true) : exec (.intMaskWrite f reg v) s = .next (writeMask f reg v s) :=
  congrArg Host.Outcome.next (if_neg (not_held_or_absent hheld hfn))

theorem exec_intVecWrite {f : Fn} {s : State} (n : Fin 4) (v : Word) (hheld : s.pwr.held = false)
    (hfn : fnExists s f = true) : exec (.intVecWrite f n v) s = .next (writeVec f n.val v s) :=
  congrArg Host.Outcome.next (if_neg (not_held_or_absent hheld hfn))

/-- A write of all 4 bytes (14 R538). -/
theorem exec_registerWrite_whole (f : Fn) (off : BitVec 16) (v : Word) (s : State) :
    exec (.registerWrite f off 0xF v) s = .next (regWrite f off.toNat v s) :=
  congrArg Host.Outcome.next (if_pos rfl)

/-- A write with a partial byte enable has no effect (00 R9). -/
theorem exec_registerWrite_partial (f : Fn) (off : BitVec 16) {be : BitVec 4} (v : Word) (s : State) (hbe : be ≠ 0xF) :
    exec (.registerWrite f off be v) s = .next s :=
  congrArg Host.Outcome.next (if_neg hbe)

/-! ## The end of a moderation interval (14 R554) -/

/-- What the end of the interval of a cause does, at the state reached: one held is set and its next interval begins, else the
interval is forgotten. -/
def endInterval (f : Fn) (cause : Nat) (t : State) : State :=
  if (getFn t f).heldCauses.contains cause then
    moderate f cause (if 32 ≤ cause then setAfSq (cause - 32) else setCause f cause) t
  else modFn t f (fun y => { y with moderated := y.moderated.filter (fun m => m.1 != cause) })

theorem endInterval_of_held {f : Fn} {cause : Nat} {t : State} (h : (getFn t f).heldCauses.contains cause = true) :
    endInterval f cause t = moderate f cause (if 32 ≤ cause then setAfSq (cause - 32) else setCause f cause) t := if_pos h

theorem endInterval_of_not_held {f : Fn} {cause : Nat} {t : State} (h : (getFn t f).heldCauses.contains cause = false) :
    endInterval f cause t = modFn t f (fun y => { y with moderated := y.moderated.filter (fun m => m.1 != cause) }) :=
  if_neg (ne_true_of_eq_false h)

/-- While an interval of the cause is under way, the row falls due at its end. -/
theorem exec_interruptModerationEnd {f : Fn} {cause e : Nat} {s : State} (h : moderationEnd s f cause = some e) :
    exec (.interruptModerationEnd f cause) s = .next (atDue e (endInterval f cause) s) := by
  change execInterruptModerationEnd f cause s = _
  rw [execInterruptModerationEnd, h]
  rfl

/-- Settles O35: each write passes its guard, and the end of a moderation interval is a row due at a tick. -/
theorem registerEventsComplete : Obligations.RegisterEventsComplete := by
  intro f v s
  refine ⟨fun hheld => ⟨exec_compatModeWrite v hheld, exec_chipResetWrite v hheld⟩,
    fun hheld hfn => ⟨fun reg => exec_intCauseWrite reg v hheld hfn, fun reg => exec_intMaskWrite reg v hheld hfn,
      fun n => exec_intVecWrite n v hheld hfn⟩,
    fun off => ⟨exec_registerWrite_whole f off v s, fun be hbe => exec_registerWrite_partial f off v s hbe⟩, ?_,
    fun cause e hend => early_of_atDue (exec_interruptModerationEnd hend)⟩
  intro cause e hend
  constructor <;> intro hdue hheld
  · rw [exec_of_atDue (exec_interruptModerationEnd hend) hdue, endInterval_of_not_held hheld]
  · rw [exec_of_atDue (exec_interruptModerationEnd hend) hdue, endInterval_of_held hheld]

end Sys2Proof.Machine
end

section
/-! SUPPORT and CLAIMS. The rows of the memory controller: training, the requests' completion, refresh, scrubbing, and the host's
capture window (10; 14 R555, R556). -/

namespace Sys2Proof.Machine
open Sys2Proof

/-! ## Initialisation (10 R396 to R398) -/

@[simp] theorem failTraining_mem (step ch rank : Nat) (s : State) :
    (failTraining step ch rank s).mem = { s.mem with mstate := .failed, failStep := BitVec.ofNat 4 step } := by
  simp only [failTraining, crit_mem]

/-- A geometry of Table 10.1: the device is ready and reads 0 throughout. -/
theorem memInitComplete_ready {r2 : Bool} {d : Fin 4} {s : State} (hst : s.mem.mstate = .training ∨ s.mem.mstate = .filling)
    (hd : d ≠ 3) (hr : d ≠ 2 ∨ r2 = false) :
    Completes (.memInitComplete r2 d) s
      (fun t => t.mem.mstate = .ready ∧ t.mem.capPages = pagesOf r2 d.val ∧ t.mem.bytes = []) := by
  have hgeometry : ¬ (d.val = 3 ∨ (d.val = 2 ∧ r2 = true)) := by
    rintro (h3 | ⟨h2, hr2⟩)
    · exact hd (Fin.ext h3)
    · exact hr.elim (fun h => h (Fin.ext h2)) (fun h => by simp [h] at hr2)
  refine ⟨_, congrArg Host.Outcome.next ((if_pos hst).trans (if_neg hgeometry)), ?_⟩
  simp only [info_mem, and_self]

/-- A geometry outside Table 10.1 fails the training. -/
theorem memInitComplete_failed {r2 : Bool} {d : Fin 4} {s : State} (hst : s.mem.mstate = .training ∨ s.mem.mstate = .filling)
    (hd : d = 3 ∨ d = 2 ∧ r2 = true) :
    Completes (.memInitComplete r2 d) s (fun t => t.mem.mstate = .failed) := by
  have hgeometry : d.val = 3 ∨ (d.val = 2 ∧ r2 = true) :=
    hd.imp (congrArg Fin.val) (And.imp_left (congrArg Fin.val))
  refine ⟨_, congrArg Host.Outcome.next ((if_pos hst).trans (if_pos hgeometry)), ?_⟩
  simp only [failTraining_mem]

/-- A step of Table 10.3 fails during TRAINING (10 R397). -/
theorem memTrainFail_completes {st : Fin 7} (ch rank : Fin 2) {s : State} (hst : s.mem.mstate = .training) (h0 : st ≠ 0) :
    Completes (.memTrainFail st ch rank) s (fun t => t.mem.mstate = .failed ∧ t.mem.failStep = BitVec.ofNat 4 st.val) := by
  have hstep : st.val ≠ 0 := fun h => h0 (Fin.ext h)
  refine ⟨_, congrArg Host.Outcome.next (if_pos ⟨hst, hstep⟩), ?_⟩
  simp only [failTraining_mem, and_self]

/-! ## Completion of requests (10 R404, R408, R409) -/

theorem exec_memWriteDrain {q : Fin 6} {soft : SoftErrors} {r : MemReq} {s : State}
    (hr : completable q (applySoft soft s) = some r) (hw : r.write = true) :
    exec (.memWriteDrain q soft) s = .next (drainWrite r (applySoft soft s)) := by
  change execMemWriteDrain q soft s = _
  simp only [execMemWriteDrain, hr, hw, if_true]

theorem exec_memReadReturn {q : Fin 6} {soft : SoftErrors} {r : MemReq} {s : State}
    (hr : completable q (applySoft soft s) = some r) (hw : r.write = false) :
    exec (.memReadReturn q soft) s = .next (returnRead r (applySoft soft s)) := by
  change execMemReadReturn q soft s = _
  simp only [execMemReadReturn, hr, hw, Bool.false_eq_true, if_false]

/-! ## Refresh and the device's readings (10 R399, R411 to R415) -/

/-- A tREFI of a rank that the ready device has is a row due at its end. -/
theorem exec_refreshInterval {ch rank : Fin 2} (n : Nat) {s : State} (hst : s.mem.mstate = .ready)
    (hrank : rank.val = 0 ∨ s.mem.rank2 = true) :
    exec (.refreshInterval ch rank n) s = .next (atDue (ceilDiv (refreshEnd ch.val rank.val s) 1000000)
      (fun t => refreshRank ch.val rank.val n (nextRefresh ch.val rank.val t)) s) :=
  congrArg Host.Outcome.next (if_pos ⟨hst, hrank⟩)

theorem exec_refreshInterval_of_absent {ch rank : Fin 2} (n : Nat) {s : State}
    (h : ¬ (s.mem.mstate = .ready ∧ (rank.val = 0 ∨ s.mem.rank2 = true))) :
    exec (.refreshInterval ch rank n) s = .next s :=
  congrArg Host.Outcome.next (if_neg h)

/-- Before its frame the row changes nothing, whether the rank is refreshed or not. -/
theorem refreshInterval_early (ch rank : Fin 2) (n : Nat) (s : State) :
    Early (ceilDiv (refreshEnd ch.val rank.val s) 1000000) (.refreshInterval ch rank n) s := by
  by_cases h : s.mem.mstate = .ready ∧ (rank.val = 0 ∨ s.mem.rank2 = true)
  · exact early_of_atDue (exec_refreshInterval n h.1 h.2)
  · exact fun _ => exec_refreshInterval_of_absent n h

theorem exec_refreshWindowRestart (s : State) :
    exec .refreshWindowRestart s = .next (atDue (ceilDiv (s.mem.windowAt + windowLen s) 1000000) nextWindow s) := rfl

/-- The reading is kept; the event of code 7 leaves the memory as it is. -/
theorem mr4Poll_completes (ch : Fin 2) (c : Fin 8) {s : State} (hst : s.mem.mstate = .ready) :
    Completes (.mr4Poll ch c) s (fun t => t.mem.mr4 = vset s.mem.mr4 ch (BitVec.ofNat 3 c.val)) := by
  refine ⟨_, congrArg Host.Outcome.next (if_pos hst), ?_⟩
  by_cases h7 : c.val = 7
  · simp only [h7, if_true, crit_mem]
  · simp only [h7, if_false]

theorem exec_dqsOscillatorRead (ch : Fin 2) (n : Nat) {s : State} (hst : s.mem.mstate = .ready) :
    exec (.dqsOscillatorRead ch n) s = .next { s with mem := { s.mem with dqsCount := vset s.mem.dqsCount ch n } } :=
  congrArg Host.Outcome.next (if_pos hst)

/-! ## Scrubbing (10 R419) -/

/-- With no request waiting, no write holds the group back. -/
theorem exec_scrubRead (soft : SoftErrors) {s : State} (hst : s.mem.mstate = .ready) (hen : s.mem.policy0.bit 31 = true)
    (hreq : s.mem.requests = []) :
    exec (.scrubRead soft) s = .next (scrubAdvance (scrubGroup s.mem.scrubPos
      (touchRow 4 0xF (256 * s.mem.scrubPos) (applySoft soft s)))) := by
  change execScrubRead soft s = _
  simp [execScrubRead, hst, hen, hreq]

/-! ## The host's capture window (14 R555, R556) -/

/-- An access inside the function's window that the controller can serve becomes a request. -/
theorem exec_captureWindowAccess {f : Fn} {write : Bool} {off len : Nat} {data : List Byte} {s : State}
    (hfn : fnExists s f = true) (h9 : f.val ≠ 9) (hn : (if write then data.length else len) ≠ 0)
    (hrange : if f.val = 0 then off + (if write then data.length else len) ≤ 4294967296
      else off + (if write then data.length else len) ≤ 4096 * (getFn s f).rangePages)
    (hmem : memCheck ((if f.val = 0 then 0 else 4096 * (getFn s f).rangePage) + off) (if write then data.length else len) s = 0) :
    exec (.captureWindowAccess f write off len data) s = .next (acceptRequest
      { requester := 2, fn := fnCode f, write := write, addr := (if f.val = 0 then 0 else 4096 * (getFn s f).rangePage) + off
        len := if write then data.length else len, data := if write then data else [], use := .host } s) := by
  change execCaptureWindowAccess f write off len data s = _
  generalize hlen : (if write then data.length else len) = n at hn hrange hmem ⊢
  have hin : (if f.val = 0 then decide (off + n ≤ 4294967296) else decide (off + n ≤ 4096 * (getFn s f).rangePages)) = true := by
    by_cases h0 : f.val = 0
    · simpa only [h0, if_true, decide_eq_true_eq] using hrange
    · simpa only [h0, if_false, decide_eq_true_eq] using hrange
  have hgo : (!fnExists s f || f.val == 9 || n == 0) = false := by simp [hfn, h9, hn]
  simp only [execCaptureWindowAccess, hlen, hin, hgo, hmem, Bool.not_true, Bool.false_eq_true, if_false, ne_eq,
    not_true_eq_false]

/-- Settles O56: each row of the memory controller by its own lemma above. -/
theorem memoryEventsComplete : Obligations.MemoryEventsComplete := by
  intro s
  refine ⟨fun _ _ hst hd hr => memInitComplete_ready hst hd hr, fun _ _ hst hd => memInitComplete_failed hst hd,
    fun _ ch rank hst h0 => memTrainFail_completes ch rank hst h0,
    fun _ _ _ hr => ⟨exec_memWriteDrain hr, exec_memReadReturn hr⟩,
    fun ch rank n => ⟨fun hst hrank hdue => ?_, refreshInterval_early ch rank n s⟩,
    fun ch c hst => mr4Poll_completes ch c hst, fun _ => rfl, fun ch n hst => exec_dqsOscillatorRead ch n hst,
    ⟨fun hdue => ⟨exec_of_atDue (exec_refreshWindowRestart s) hdue, rfl, rfl⟩, early_of_atDue (exec_refreshWindowRestart s)⟩,
    fun _ => rfl, fun soft hst hen hreq => exec_scrubRead soft hst hen hreq,
    fun _ _ _ _ _ hfn h9 hn hrange hmem => exec_captureWindowAccess hfn h9 hn hrange hmem⟩
  exact exec_of_atDue (exec_refreshInterval n hst (hrank.imp_left (congrArg Fin.val))) hdue

end Sys2Proof.Machine
end

section
/-! SUPPORT and CLAIMS. What a chip reset leaves in the front end and in the host interface (02 R85; 14 R575). -/

namespace Sys2Proof.Machine
open Sys2Proof

@[simp] theorem vget_vall {α : Type} {n : Nat} (x : α) (i : Fin n) : vget (vall n x) i = x :=
  Vector.getElem_replicate i.isLt

/-- A default equal to the value that all have reads as that value everywhere. -/
@[simp] theorem vgetD_vall {α : Type} {n : Nat} (x : α) (i : Nat) : vgetD (vall n x) i x = x := by
  by_cases hi : i < n <;> simp [vgetD, vall, hi]

section
variable (kind : BitVec 3) (warm : Bool) (cause : BitVec 8) (data : List Word) (counter : Option (Fin 30)) (s : State)

@[simp] theorem chipReset_fe : (chipReset kind warm cause data counter s).fe = FrontEnd.reset := rfl

@[simp] theorem chipReset_afSq : (chipReset kind warm cause data counter s).host.afSq = vall 36 Queue.reset := rfl

@[simp] theorem chipReset_getFn (f : Fn) : getFn (chipReset kind warm cause data counter s) f = Func.atReset f :=
  Vector.getElem_ofFn f.isLt

end

/-! ## The function slots of 14 R575 -/

@[simp] theorem atReset_queues (f : Fn) : (Func.atReset f).queues = vall 7 Queue.reset := by
  unfold Func.atReset; split_ifs <;> rfl

@[simp] theorem atReset_intCause (f : Fn) : (Func.atReset f).intCause = 0 := by
  unfold Func.atReset; split_ifs <;> rfl

/-- A VF sees no channel and no page of the capture memory. -/
theorem atReset_of_vf {f : Fn} (h0 : f.val ≠ 0) (h9 : f.val ≠ 9) :
    (Func.atReset f).view = [] ∧ (Func.atReset f).rangePages = 0 := by
  rw [Func.atReset, if_neg h0, if_neg h9]
  exact ⟨rfl, rfl⟩

/-- The contract of 14 Table 14.16; FUNC of word 0 is left out (assumption 112). -/
theorem atReset_contract : ∀ f : Fn, (vget (Func.atReset f).contract 0).field 31 4 = 0x20 ∧
    vget (Func.atReset f).contract 1 = 0x00001000 ∧ vget (Func.atReset f).contract 2 = 0x00001000 ∧
    vget (Func.atReset f).contract 3 = 0x00001000 := by
  decide

/-- Every queue of a hub whose queue blocks stand at their reset values stands at its own. -/
theorem getQueue_of_reset {s : State} {f : Fn} (haf : s.host.afSq = vall 36 Queue.reset)
    (hf : (getFn s f).queues = vall 7 Queue.reset) (q : Nat) : getQueue s f q = Queue.reset := by
  unfold getQueue
  split
  · rw [haf, vgetD_vall]
  · rw [hf, vgetD_vall]

/-- A view of one range from 0 holds the channels below its count. -/
theorem inView_of_whole {s : State} {n : Nat} (h : (getFn s 0).view = [{ first := 0, count := n }]) (g : Nat) :
    inView s 0 g = decide (g < n) := by
  change (getFn s 0).view.any _ = _
  simp [h]

/-- With no terminal joined, the switches join none, whichever ports are isolated. -/
theorem live_word_of_unjoined {c : FeConfig} (h : c.conn = vall 512 0) (isolated : BitVec 128) (n : Nat) :
    (c.live isolated).word n = 0 := by
  by_cases hn : n < 512 <;> simp [FeConfig.word, FeConfig.live, vgetD, h, hn]

/-- Settles O3: the front end and the function slots stand at their reset values, read field by field. -/
theorem chipResetLeaves : Obligations.ChipResetLeaves := by
  intro k w c d n s t
  have hfe : t.fe = FrontEnd.reset := chipReset_fe k w c d n s
  have hfn : ∀ f, getFn t f = Func.atReset f := chipReset_getFn k w c d n s
  refine ⟨fun i => ?_, live_word_of_unjoined (congrArg FrontEnd.conn hfe) _, fun i => ?_, fun b => ?_, rfl, fun i => ?_, rfl,
    rfl, fun f q => ?_, fun f => ?_, rfl, rfl, rfl, inView_of_whole (congrArg Func.view (hfn 0)), ?_, ?_, fun f h0 h9 => ?_,
    fun f => ?_⟩
  · exact vget_vall 0 i
  · exact vget_vall 0 i
  · exact vget_vall 0 b
  · exact vget_vall none i
  · have hq : getQueue t f q = Queue.reset :=
      getQueue_of_reset (chipReset_afSq k w c d n s) (by rw [hfn, atReset_queues]) q
    rw [hq]
    rfl
  · rw [hfn, atReset_intCause]
  · rw [hfn]; rfl
  · rw [hfn]; rfl
  · rw [hfn]; exact atReset_of_vf h0 h9
  · rw [hfn]; exact atReset_contract f

end Sys2Proof.Machine
end

section
/-! SUPPORT and CLAIMS. The commands of class 0x02: a conflict rejects the whole command (02 R46), and what each accepted one
does and returns (02, "Commands and parameter blocks"). -/

namespace Sys2Proof.Machine
open Sys2Proof

/-- Every check of the issuing and the executing hub passes, and the command's own meaning rejects. -/
theorem takeCommand_reject {o : Op} {p : Packet} {s : State} {st : Status} {d : List Word} (h : Accepts o p s = true)
    (hr : (opRules o).run p (authed p s) = .reject st d) :
    takeCommand (opRules o) p s = rejectPacket o.code p ⟨st, d⟩ (authed p s) := by
  obtain ⟨htake, hexec, -, -⟩ := takeCommand_accepts h
  rw [htake]
  simp only [execute, executeResult, hexec, hr, opRules_op]

/-! ## Commands that stage a change of the configuration (02 R46, R49, R50) -/

section
variable {p : Packet} {x : Change} {f : Nat}

theorem stageFrontEnd_of_free {s : State} (hf : applyBoundary true p (p.w64 1) s = .ok f)
    (hfree : conflictWord ((stagedConfig f s).with x) (testBusHeld s) = none) :
    stageFrontEnd p x s = .done (stage f x s) [] f := by
  simp only [stageFrontEnd, hf, hfree]

theorem stageFrontEnd_of_conflict {s : State} {d : Word} (hf : applyBoundary true p (p.w64 1) s = .ok f)
    (hconflict : conflictWord ((stagedConfig f s).with x) (testBusHeld s) = some d) :
    stageFrontEnd p x s = .reject .feConflict [d] := by
  simp only [stageFrontEnd, hf, hconflict]

variable {o : Op} {s : State} (h : Accepts o p s = true)
  (hrun : (opRules o).run p (authed p s) = stageFrontEnd p x (authed p s))
  (hf : applyBoundary true p (p.w64 1) (authed p s) = .ok f)
include h hrun hf

/-- Without a conflict the change is staged for its boundary. -/
theorem takeCommand_feSet_of_free
    (hfree : conflictWord ((stagedConfig f (authed p s)).with x) (testBusHeld (authed p s)) = none) :
    takeCommand (opRules o) p s = stagedFor o p s f x :=
  takeCommand_done h (hrun.trans (stageFrontEnd_of_free hf hfree))

/-- A conflict of the resulting configuration rejects the command whole. -/
theorem takeCommand_feSet_of_conflict {d : Word}
    (hconflict : conflictWord ((stagedConfig f (authed p s)).with x) (testBusHeld (authed p s)) = some d) :
    takeCommand (opRules o) p s = rejectPacket o.code p ⟨.feConflict, [d]⟩ (authed p s) :=
  takeCommand_reject h (hrun.trans (stageFrontEnd_of_conflict hf hconflict))

end

theorem feSetConnections_run (p : Packet) (s : State) : rulesFeSetConnections.run p s =
    stageFrontEnd p (.connections (feBasin p) ((List.range 16).map (fun i => p.w (3 + i)))) s := by
  simp only [rulesFeSetConnections, rulesFeSet]

theorem feSetExcitation_run (p : Packet) (s : State) : rulesFeSetExcitation.run p s =
    stageFrontEnd p (.excitation (feBasin p) ((List.range 4).map (fun i => p.w (3 + i)))) s := by
  simp only [rulesFeSetExcitation, rulesFeSet]

theorem feSetBiasGuard_run (p : Packet) (s : State) :
    rulesFeSetBiasGuard.run p s = stageFrontEnd p (.biasGuard (feBasin p) (p.w 3)) s := by
  simp only [rulesFeSetBiasGuard, rulesFeSet]

/-- Settles O14: the three commands share the check of `stageFrontEnd`, which rejects at a conflict. -/
theorem frontEndConflictRejected : Obligations.FrontEndConflictRejected := by
  intro p s f d u
  exact ⟨fun h hf hc => congrArg Host.Outcome.next (takeCommand_feSet_of_conflict h (feSetConnections_run p u) hf hc),
    fun h hf hc => congrArg Host.Outcome.next (takeCommand_feSet_of_conflict h (feSetExcitation_run p u) hf hc),
    fun h hf hc => congrArg Host.Outcome.next (takeCommand_feSet_of_conflict h (feSetBiasGuard_run p u) hf hc)⟩

/-! ## FE_RUN_DIAGNOSTIC (02 R77, R81, R84) -/

/-- KIND 0 clears its slot: at the mirror boundary where the command waits for one, at once otherwise. -/
theorem runDiagnostic_cancel {p : Packet} {s : State} (hk : diagKind p = 0) :
    rulesFeRunDiagnostic.run p s =
      if waitsForMirror p s then
        .done (stage (defaultBoundary true p s) (.diagCancel (fin 8 ((p.w 0).field 27 25))) s) [0] (defaultBoundary true p s)
      else .done (clearSlot (fin 8 ((p.w 0).field 27 25)) s) [0] (now s) :=
  if_pos hk

/-- A request whose path works and whose queue has room is owed its result. -/
theorem runDiagnostic_request {p : Packet} {s : State} (hk : diagKind p ≠ 0)
    (hpath : (diagKind p = 1 ∨ diagKind p = 3) → s.pair.pstate = .solo ∨ mirrorWorks s = true)
    (hroom : (p.w 1).field 31 16 = 0 → (oneShots s).1 < (oneShots s).2) :
    let r := diagRequest p s.fe.diagNext
    let v := { s with fe := { s.fe with diagNext := s.fe.diagNext + 1 } }
    rulesFeRunDiagnostic.run p s = .owe
      (if waitsForMirror p s && diagKind p != 2 then stage (defaultBoundary true p s) (.diagnostic r) v else queueDiagnostic r v)
      (.diagnostic r.request) := by
  have hworks : ¬ ((diagKind p = 1 ∨ diagKind p = 3) ∧ s.pair.pstate ≠ .solo ∧ ¬ mirrorWorks s = true) :=
    fun ⟨hdisturbs, hpair, hbroken⟩ => (hpath hdisturbs).elim hpair hbroken
  have hfits : ¬ ((p.w 1).field 31 16 = 0 ∧ (oneShots s).2 ≤ (oneShots s).1) :=
    fun ⟨hshot, hfull⟩ => absurd (hroom hshot) (Nat.not_lt.mpr hfull)
  exact (if_neg hk).trans ((if_neg hworks).trans (if_neg hfits))

theorem exec_feRunDiagnostic_cancel {p : Packet} {s : State} (h : Accepts .feRunDiagnostic p s = true) (hk : diagKind p = 0) :
    let u := authed p s
    let slot := fin 8 ((p.w 0).field 27 25)
    let at_ := defaultBoundary true p u
    exec (.feRunDiagnostic p) s = .next (if waitsForMirror p u
      then completed .feRunDiagnostic p s (stage at_ (.diagCancel slot) u) [0] at_
      else completed .feRunDiagnostic p s (clearSlot slot u) [0] (now u)) := by
  refine congrArg Host.Outcome.next ?_
  split
  next hwait => exact takeCommand_done h ((runDiagnostic_cancel hk).trans (if_pos hwait))
  next hwait => exact takeCommand_done h ((runDiagnostic_cancel hk).trans (if_neg hwait))

/-! ## FE_RELEASE_ISOLATION (02 R70, R71) -/

/-- A port that is not latched has nothing to release. -/
theorem releaseIsolation_of_not_latched {p : Packet} {s : State}
    (hlatched : hasBit s.fe.latched (fin 128 ((p.w 0).field 6 0)).val = false) :
    rulesFeReleaseIsolation.run p s = .done s [] (now s) :=
  if_pos (ne_true_of_eq_false hlatched)

/-- A latched port whose voltages are back in range is released at the boundary. -/
theorem releaseIsolation_of_latched {p : Packet} {s : State}
    (hlatched : hasBit s.fe.latched (fin 128 ((p.w 0).field 6 0)).val = true)
    (hrange : hasBit s.fe.outOfRange (fin 128 ((p.w 0).field 6 0)).val = false) :
    rulesFeReleaseIsolation.run p s = .done
      (stage (defaultBoundary true p s) (.releaseIsolation (fin 128 ((p.w 0).field 6 0))) s) [] (defaultBoundary true p s) :=
  (if_neg (not_not_intro hlatched)).trans (if_neg (ne_true_of_eq_false hrange))

/-- Settles O19: each accepted command by the outcome of its own rules. -/
theorem frontEndCommandsComplete : Obligations.FrontEndCommandsComplete := by
  intro p s f u
  exact ⟨fun h hf hc => congrArg Host.Outcome.next (takeCommand_feSet_of_free h (feSetConnections_run p u) hf hc),
    fun h hf hc => congrArg Host.Outcome.next (takeCommand_feSet_of_free h (feSetExcitation_run p u) hf hc),
    fun h hf hc => congrArg Host.Outcome.next (takeCommand_feSet_of_free h (feSetBiasGuard_run p u) hf hc),
    fun h => congrArg Host.Outcome.next (takeCommand_done h rfl),
    fun h hk => exec_feRunDiagnostic_cancel h hk,
    fun h hk hpath hroom => congrArg Host.Outcome.next (takeCommand_owe h (runDiagnostic_request hk hpath hroom)),
    fun h => congrArg Host.Outcome.next (takeCommand_done h rfl),
    fun h => ⟨fun hl => congrArg Host.Outcome.next (takeCommand_done h (releaseIsolation_of_not_latched hl)),
      fun hl hr => congrArg Host.Outcome.next (takeCommand_done h (releaseIsolation_of_latched hl hr))⟩,
    fun h => congrArg Host.Outcome.next (takeCommand_done h rfl)⟩

end Sys2Proof.Machine
end

section
/-! SUPPORT and CLAIMS. The rows of the front end: trips and reclose holds, diagnostics, failed clamps (02, "Over-voltage",
"Diagnostics"; 03 R98). -/

namespace Sys2Proof.Machine
open Sys2Proof

/-! ## Trips and reclose holds (02 R67 to R70) -/

@[simp] theorem isolationMark_fe (k : MarkKind) (p : Nat) (m : BitVec 256) (t : Nat) (s : State) :
    (isolationMark k p m t s).fe = s.fe := by
  unfold isolationMark; split <;> rfl

@[simp] theorem stopHalves_fe (is : List Nat) (s : State) : (stopHalves is s).fe = s.fe := by
  unfold stopHalves; split <;> rfl

/-- The trip waits for its frame boundary (02 R67). -/
theorem isolatePort_trips (port : Fin 128) (mask : BitVec 4) (pol : Bool) (s : State) :
    (isolatePort port mask pol s).fe.trips = s.fe.trips ++ [{ port := port, mask := mask, polarity := pol }] := by
  simp only [isolatePort, isolationMark_fe, stopHalves_fe, holdSwitches]

theorem isolatePort_isolated (port : Fin 128) (mask : BitVec 4) (pol : Bool) (s : State) :
    (isolatePort port mask pol s).fe.isolated = setBit s.fe.isolated port.val := by
  simp only [isolatePort, isolationMark_fe, stopHalves_fe, holdSwitches]

theorem exec_ovTrip {port : Fin 128} (mask : BitVec 4) (pol : Bool) {s : State} (h : hasBit s.fe.isolated port.val = false) :
    exec (.ovTrip port mask pol) s = .next (abandonOn port (latchPort port (isolatePort port mask pol s))) :=
  congrArg Host.Outcome.next (if_neg (ne_true_of_eq_false h))

/-- On a port isolated already the hold starts anew. -/
theorem exec_ovTrip_of_isolated {port : Fin 128} (mask : BitVec 4) (pol : Bool) {s : State}
    (h : hasBit s.fe.isolated port.val = true) :
    exec (.ovTrip port mask pol) s = .next { s with fe := { s.fe with recloseDue := clearBit s.fe.recloseDue port.val } } :=
  congrArg Host.Outcome.next (if_pos h)

theorem exec_recloseHoldExpiry {port : Fin 128} {s : State} (hisolated : hasBit s.fe.isolated port.val = true)
    (hlatched : hasBit s.fe.latched port.val = false) :
    exec (.recloseHoldExpiry port) s = .next { s with fe := { s.fe with recloseDue := setBit s.fe.recloseDue port.val } } :=
  congrArg Host.Outcome.next (if_pos ⟨hisolated, ne_true_of_eq_false hlatched⟩)

/-! ## Diagnostics (02 R77, R83, Table 2.10) -/

/-- The value that a run's end reports: at over range or open, the end of the scale (02 Table 2.10). -/
def reportedValue (kind : Nat) (overRange : Bool) (value : BitVec 24) : BitVec 24 :=
  if !overRange then value else if kind = 3 then (if value.msb then 0x800000 else 0x7FFFFF) else 0xFFFFFF

theorem reportedValue_over_unsigned {kind : Nat} (value : BitVec 24) (h : kind ≠ 3) :
    reportedValue kind true value = 0xFFFFFF := if_neg h

theorem reportedValue_over_signed {kind : Nat} (value : BitVec 24) (h : kind = 3) :
    reportedValue kind true value = if value.msb then 0x800000 else 0x7FFFFF := if_pos h

/-- The running request of Table 2.9 ends at its tick, and the next one starts. -/
theorem exec_diagnosticRunEnd {r : DiagRun} {s : State} (hr : s.fe.diagRunning = some r) (hk : r.req.kind < 5)
    (hdue : dueSoon (r.began + frameLen * diagFrames r.req.kind) s = true) (overRange : Bool) (value : BitVec 24) :
    exec (.diagnosticRunEnd overRange value) s = .next (runDiagnostics (r.began + frameLen * diagFrames r.req.kind)
      (endDiagnostic r false (b01 overRange) (reportedValue r.req.kind overRange value) s)) := by
  have hacts : ¬ (5 ≤ r.req.kind ∨ (!dueSoon (r.began + frameLen * diagFrames r.req.kind) s) = true) := by
    simp [hk, hdue]
  change execDiagnosticRunEnd overRange value s = _
  simp only [execDiagnosticRunEnd, hr, hacts, if_false, reportedValue]

theorem diagnosticRunEnd_early {r : DiagRun} {s : State} (hr : s.fe.diagRunning = some r) (overRange : Bool) (value : BitVec 24) :
    Early (r.began + frameLen * diagFrames r.req.kind) (.diagnosticRunEnd overRange value) s := by
  intro hdue
  change execDiagnosticRunEnd overRange value s = _
  simp only [execDiagnosticRunEnd, hr, hdue, Bool.not_false, or_true, if_true]

/-- A slot's request that is not under way joins the queue at its due boundary. -/
theorem exec_diagnosticRepeatDue {slot : Fin 8} {d : DiagSlot} {s : State} (hd : vget s.fe.diagSlots slot = some d)
    (h0 : d.due ≠ 0)
    (hidle : (s.fe.diagQueue ++ (s.fe.diagRunning.map (fun r => r.req)).toList).any
      (fun r => r.request == d.req.request) = false) (hdue : dueSoon d.due s = true) :
    exec (.diagnosticRepeatDue slot) s = .next (runDiagnostics d.due
      { s with tb := { s.tb with tick := max s.tb.tick d.due }
               fe := { s.fe with diagQueue := s.fe.diagQueue ++ [{ d.req with first := false }] } }) := by
  change execDiagnosticRepeatDue slot s = _
  simp only [execDiagnosticRepeatDue, hd, h0, hidle, hdue, Bool.false_eq_true, Bool.not_true, or_self, if_false]

theorem diagnosticRepeatDue_early {slot : Fin 8} {d : DiagSlot} {s : State} (hd : vget s.fe.diagSlots slot = some d) :
    Early d.due (.diagnosticRepeatDue slot) s := by
  intro hdue
  change execDiagnosticRepeatDue slot s = _
  simp only [execDiagnosticRepeatDue, hd, hdue, Bool.not_false, or_true, if_true]

/-! ## Failed clamps (03 R98) -/

/-- A clamp of a modulator whose channel no isolated port holds has failed. -/
theorem exec_clampFailureDetect {m : Fin 288} {k : Nat} {s : State} (hk : joinedChannel s (m.val / 9) (m.val % 9) = some k)
    (hopen : channelIsolated s (m.val / 9) k = false) :
    exec (.clampFailureDetect m) s = .next (failModulator (m.val / 9) (m.val % 9) 1 (now s) s) := by
  change execClampFailureDetect m s = _
  simp only [execClampFailureDetect, hk, hopen, Bool.false_eq_true, if_false]

/-- Settles O40: each row by its own lemma above; the value of a run's end is read off `reportedValue` case by case. -/
theorem frontEndEventsComplete : Obligations.FrontEndEventsComplete := by
  intro s
  refine ⟨fun port mask pol h => ⟨exec_ovTrip mask pol h, isolatePort_trips port mask pol s, isolatePort_isolated port mask pol s⟩,
    fun _ mask pol h => exec_ovTrip_of_isolated mask pol h, fun _ hi hl => exec_recloseHoldExpiry hi hl, ?_,
    fun _ _ hd h0 hidle hdue => exec_diagnosticRepeatDue hd h0 hidle hdue, fun _ _ hk hopen => exec_clampFailureDetect hk hopen,
    fun _ overRange value hr _ => diagnosticRunEnd_early hr overRange value, fun _ _ hd => diagnosticRepeatDue_early hd⟩
  intro r hr hk hdue
  refine ⟨fun value => exec_diagnosticRunEnd hr hk hdue false value, fun value h3 => ?_, fun value h3 => ?_⟩
  · rw [exec_diagnosticRunEnd hr hk hdue, reportedValue_over_unsigned value h3]
    rfl
  · rw [exec_diagnosticRunEnd hr hk hdue, reportedValue_over_signed value h3]
    rfl

end Sys2Proof.Machine
end

section
/-! SUPPORT and CLAIMS. The commands of class 0x03: what each accepted one does and returns (03, "Commands and parameter
blocks"). -/

namespace Sys2Proof.Machine
open Sys2Proof

/-! ## CV_SET_CHANNELS (03 R105 to R107) -/

/-- The channel word is staged when no channel that it parks is in use and modulators are free for those that it unparks. -/
theorem cvSetChannels_of_free {p : Packet} {s : State} {f : Nat} (hf : applyBoundary true p (p.w64 1) s = .ok f) :
    let b := (p.w 0).field 4 0
    let old := stagedChannels b f s
    let parks := (List.range 8).filter (fun k => (p.w 3).bit (24 + k) && !old.bit (24 + k))
    let unparks := (List.range 8).filter (fun k => !(p.w 3).bit (24 + k) && old.bit (24 + k))
    (∀ k ∈ parks, channelInUse s (8 * b + k) = false) →
    (unparks.length : Int) ≤ freeAt b f s + (parks.filter (parkFrees s b)).length →
    rulesCvSetChannels.run p s = .done (stage f (.channels (fin 32 b) (p.w 3)) s) [] f := by
  intro b old parks unparks hunused hroom
  have hnone : ¬ parks.any (fun k => channelInUse s (8 * b + k)) = true :=
    List.any_eq_true.not.mpr (fun ⟨k, hk, huse⟩ => ne_true_of_eq_false (hunused k hk) huse)
  simp only [rulesCvSetChannels, hf]
  exact (if_neg hnone).trans (if_neg (Int.not_lt.mpr hroom))

/-! ## CV_RETIRE_MODULATOR (03 R98) -/

/-- While ticks are counted the modulator fails at once, with reason 4. -/
theorem cvRetireModulator_of_started {p : Packet} {s : State} (h : s.tb.started = true) :
    rulesCvRetireModulator.run p s =
      .done (failModulator ((p.w 0).field 4 0) ((p.w 0).field 11 8) 4 (now s) s) [] (now s) :=
  if_pos h

/-- Before the timebase starts the retirement waits for T0. -/
theorem cvRetireModulator_of_not_started {p : Packet} {s : State} (h : s.tb.started = false) :
    rulesCvRetireModulator.run p s =
      .done (stage 0 (.retire (fin 288 (9 * (p.w 0).field 4 0 + (p.w 0).field 11 8))) s) [] 0 :=
  if_neg (ne_true_of_eq_false h)

/-! ## SV_START (03 R114, R126; 08 R334) -/

/-- The START_SRC that SV_START judges: that of the waiting sequence where there is one (assumption 145). -/
def judgedSource (x : Survey) : Nat := svSource (match x.next with | some (w, _) => w | none => x.seqWord)

/-- A converter that is idle and whose sequence has START_SRC 17 starts: at the mirror boundary where the command waits for one,
at once otherwise. -/
theorem svStart_of_idle {p : Packet} {s : State} (hidle : (getSv s (fin 4 ((p.w 0).field 1 0))).running = none)
    (hsrc : judgedSource (getSv s (fin 4 ((p.w 0).field 1 0))) = 17) :
    rulesSvStart.run p s =
      if waitsForMirror p s then
        .done (stage (defaultBoundary true p s) (.surveyStart (fin 4 ((p.w 0).field 1 0))) s) [] (defaultBoundary true p s)
      else .done (svStartEvent 17 (fin 4 ((p.w 0).field 1 0)) s) [] (now s) := by
  refine if_neg (not_or.mpr ⟨not_not_intro hsrc, ?_⟩)
  simp [hidle]

theorem exec_svStart_of_idle {p : Packet} {s : State} (h : Accepts .svStart p s = true) :
    let u := authed p s
    let v := fin 4 ((p.w 0).field 1 0)
    (getSv u v).running = none → judgedSource (getSv u v) = 17 →
    exec (.svStart p) s = .next (if waitsForMirror p u
      then stagedFor .svStart p s (defaultBoundary true p u) (.surveyStart v)
      else completed .svStart p s (svStartEvent 17 v u) [] (now u)) := by
  intro u v hidle hsrc
  refine congrArg Host.Outcome.next ?_
  split
  next hwait => exact takeCommand_done h ((svStart_of_idle hidle hsrc).trans (if_pos hwait))
  next hwait => exact takeCommand_done h ((svStart_of_idle hidle hsrc).trans (if_neg hwait))

/-! ## TMR_SET (03 R109) -/

/-- A timer is staged unless it is a one-shot whose START is before its boundary. -/
theorem tmrSet_of_not_expired {p : Packet} {s : State} (h : (p.w 0).bit 28 = true → defaultBoundary true p s ≤ p.w64 1) :
    rulesTmrSet.run p s = .done (stage (defaultBoundary true p s)
      (.timer (fin 8 ((p.w 0).field 2 0)) (p.w 0) (p.w64 1) (p.w 3) (p.w 4)) s) [] (defaultBoundary true p s) :=
  if_neg (fun ⟨hshot, hlate⟩ => Nat.not_lt.mpr (h hshot) hlate)

/-- Settles O20: each accepted command by the outcome of its own rules; those without a case of their own always complete. -/
theorem converterCommandsComplete : Obligations.ConverterCommandsComplete := by
  intro p s f u
  exact ⟨fun h hf hunused hroom => congrArg Host.Outcome.next (takeCommand_done h (cvSetChannels_of_free hf hunused hroom)),
    fun h => congrArg Host.Outcome.next (takeCommand_done h rfl),
    fun h => ⟨fun ht0 => congrArg Host.Outcome.next (takeCommand_done h (cvRetireModulator_of_started ht0)),
      fun ht0 => congrArg Host.Outcome.next (takeCommand_done h (cvRetireModulator_of_not_started ht0))⟩,
    fun h => congrArg Host.Outcome.next (takeCommand_done h rfl),
    exec_svStart_of_idle,
    fun h => congrArg Host.Outcome.next (takeCommand_done h rfl),
    fun h hstart => congrArg Host.Outcome.next (takeCommand_done h (tmrSet_of_not_expired hstart)),
    fun h => congrArg Host.Outcome.next (takeCommand_done h rfl)⟩

end Sys2Proof.Machine
end

section
/-! SUPPORT and CLAIMS. The rows of the timers and the survey converters, and the loss of the mains (03, "Timers", "Survey
converters"; 06, "Mains"). -/

namespace Sys2Proof.Machine
open Sys2Proof

/-! ## Timers (03 R108, R110, R111) -/

/-- An enabled timer ticks, unless it is a one-shot that has fired. -/
theorem exec_timerTick {t : Fin 8} {s : State} (hen : (getTimer s t).word.bit 31 = true) (hstarted : s.tb.started = true)
    (hleft : (getTimer s t).word.bit 28 = false ∨ (getTimer s t).ticks = 0) (hdue : dueSoon (getTimer s t).next s = true) :
    exec (.timerTick t) s = .next (timerTrigger t.val (getTimer s t).next (svStart (1 + t.val) (driveBall t
      (modTimer t (fun y => { y with
        ticks := y.ticks + 1, level := y.pwm, next := if y.word.bit 28 then y.next else y.next + y.period.toNat })
        (advanceTo (getTimer s t).next s))))) := by
  have hfired : ((getTimer s t).word.bit 28 && (getTimer s t).ticks != 0) = false := by
    rcases hleft with hperiodic | hunfired
    · rw [hperiodic, Bool.false_and]
    · rw [hunfired, bne_self_eq_false, Bool.and_false]
  refine congrArg Host.Outcome.next (if_neg ?_)
  rw [hen, hstarted, hfired, hdue]
  decide

theorem timerTick_early (t : Fin 8) (s : State) : Early (getTimer s t).next (.timerTick t) s := by
  intro hdue
  refine congrArg Host.Outcome.next (if_pos ?_)
  rw [hdue, Bool.not_false, Bool.or_true]

/-- The tick at which the pulse of the last tick ends, DUTY cycles after it; a one-shot keeps that tick as NEXT_TICK (03 R110). -/
def pulseEnd (x : Timer) : Nat := (if x.word.bit 28 then x.next else x.next - x.period.toNat) + x.duty.toNat

/-- The output of a pulse under way falls. -/
theorem exec_pwmEdge {t : Fin 8} {s : State} (hlevel : (getTimer s t).level = true)
    (hdue : dueSoon (pulseEnd (getTimer s t)) s = true) :
    exec (.pwmEdge t) s = .next (timerTrigger (8 + t.val) (pulseEnd (getTimer s t)) (svStart (9 + t.val)
      (driveBall t (modTimer t (fun y => { y with level := false }) (advanceTo (pulseEnd (getTimer s t)) s))))) := by
  refine congrArg Host.Outcome.next (if_neg ?_)
  rw [hlevel, ← pulseEnd, hdue]
  decide

theorem pwmEdge_early (t : Fin 8) (s : State) : Early (pulseEnd (getTimer s t)) (.pwmEdge t) s := by
  intro hdue
  refine congrArg Host.Outcome.next (if_pos ?_)
  rw [← pulseEnd, hdue, Bool.not_false, Bool.or_true]

/-! ## Survey converters (03 R113, R114, R116, R122) -/

/-- With no sequence waiting, the source in force fires. -/
theorem exec_surveyStartEvent_of_none {sv : Fin 4} {s : State} (hnext : (getSv s sv).next = none) :
    exec (.surveyStartEvent sv) s = .next (svStartEvent (svSource (getSv s sv).seqWord) sv s) := by
  change execSurveyStartEvent sv s = _
  simp only [execSurveyStartEvent, hnext]

/-- At an idle converter the source of the waiting sequence fires. -/
theorem exec_surveyStartEvent_of_waiting {sv : Fin 4} {s : State} {w : Word} {es : Vector (Vector Word 5) 16}
    (hnext : (getSv s sv).next = some (w, es)) (hidle : (getSv s sv).running = none) :
    exec (.surveyStartEvent sv) s = .next (svStartEvent (svSource w) sv s) := by
  change execSurveyStartEvent sv s = _
  simp only [execSurveyStartEvent, hnext, hidle, Option.isNone_none, if_true]

/-- Where the slot of entry `e` that converter `sv` is in ends, in SCLK periods (03 R113). -/
def slotEndAt (sv : Fin 4) (e : Fin 16) (s : State) : Nat := (getSv s sv).slotAt + 4 * slotLength (vget (getSv s sv).entries e)

/-- The end of a slot whose entry is not in mode 1: its one reading is taken, or counted as skipped where a port of the entry was
isolated when the slot began (03 R116, R118). -/
def slotReading (sv : Fin 4) (e : Fin 16) (outside : Bool) (r : SurveyReading) (s : State) : State :=
  let x := getSv s sv
  let w := vget x.entries e
  let s0 := advanceTo (slotEndAt sv e s / 4) s
  if x.skip.getD (entryIsolated sv e s) then modResult sv e (fun y => { y with skip := satInc y.skip }) s0
  else takeReading sv e false ((x.slotAt + 4 * ((entryTimes w).1 + (entryTimes w).2)) / 4) outside r s0

section
variable {sv : Fin 4} {e : Fin 16} {s : State} (he : (getSv s sv).running = some e)
include he

/-- The end of a slot not in mode 1 takes the first reading, and then ends the sequence at LAST or begins the next slot. -/
theorem exec_surveySlotEnd (r : SurveyReading) (rs : List SurveyReading) (outside : Bool)
    (hmode : (vget (vget (getSv s sv).entries e) 0).field 11 10 ≠ 1) (hdue : dueSoon (slotEndAt sv e s / 4) s = true) :
    exec (.surveySlotEnd sv (r :: rs) outside) s = .next (
      if svLast (getSv s sv).seqWord ≤ e.val then
        modSv sv (fun y => { y with running := none, skip := none, sequences := y.sequences + 1 }) (slotReading sv e outside r s)
      else beginEntry sv (e + 1) (slotEndAt sv e s) (slotReading sv e outside r s)) := by
  have hdirect : ((vget (vget (getSv s sv).entries e) 0).field 11 10 == 1) = false := beq_eq_false_iff_ne.mpr hmode
  unfold slotEndAt at hdue
  change execSurveySlotEnd sv (r :: rs) outside s = _
  simp only [execSurveySlotEnd, he, hdirect, hdue, Bool.not_true, if_false, Bool.false_and, Bool.false_eq_true,
    List.take_succ_cons, List.take_zero, List.foldl_cons, List.foldl_nil]
  rfl

theorem surveySlotEnd_early (rs : List SurveyReading) (outside : Bool) :
    Early (slotEndAt sv e s / 4) (.surveySlotEnd sv rs outside) s := by
  intro hdue
  unfold slotEndAt at hdue
  change execSurveySlotEnd sv rs outside s = _
  simp only [execSurveySlotEnd, he, hdue, Bool.not_false, if_true]

end

/-! ## The mains tracker (06 R241) -/

/-- A tracking tracker that has had no good reading for LOSS_FRAMES frames is lost. -/
theorem exec_mainsTrackerLoss {s : State} (htracking : s.tb.mains.tracking = true)
    (hdue : dueSoon (s.tb.mains.lastGood + frameLen * s.tb.mains1.field 15 0) s = true) :
    let v := advanceTo (s.tb.mains.lastGood + frameLen * s.tb.mains1.field 15 0) s
    exec .mainsTrackerLoss s = .next (crit 0x0402 0 (split64 (now v) ++ [wd v.tb.mains.phat])
      { v with tb := { v.tb with mains := { v.tb.mains with tracking := false } }, fl := { v.fl with lcLost := true } }) :=
  congrArg Host.Outcome.next (if_pos (Bool.and_eq_true_iff.mpr ⟨htracking, hdue⟩))

theorem mainsTrackerLoss_early (s : State) :
    Early (s.tb.mains.lastGood + frameLen * s.tb.mains1.field 15 0) .mainsTrackerLoss s := by
  intro hdue
  refine congrArg Host.Outcome.next (if_neg ?_)
  rw [hdue, Bool.and_false]
  exact Bool.false_ne_true

/-- Settles O41: each row by its own lemma above; LAST decides which branch of `exec_surveySlotEnd` the end of a slot takes. -/
theorem timerEventsComplete : Obligations.TimerEventsComplete := by
  intro s
  refine ⟨fun _ => exec_timerTick, fun _ => exec_pwmEdge,
    fun _ hnext => exec_surveyStartEvent_of_none hnext, fun _ _ _ hnext hidle => exec_surveyStartEvent_of_waiting hnext hidle,
    ?_, exec_mainsTrackerLoss, fun t => ⟨timerTick_early t s, pwmEdge_early t s⟩,
    fun _ _ rs outside he => surveySlotEnd_early he rs outside, mainsTrackerLoss_early s⟩
  intro sv e r rs outside x w slotEnd he hmode hdue
  have hexec := exec_surveySlotEnd he r rs outside hmode hdue
  exact ⟨fun hmore => hexec.trans (congrArg Host.Outcome.next (if_neg (Nat.not_le.mpr hmore))),
    fun hlast => hexec.trans (congrArg Host.Outcome.next (if_pos hlast))⟩

end Sys2Proof.Machine
end

section
/-! SUPPORT and CLAIMS. The commands of class 0x04: what each accepted one does and returns (04, "Commands"). -/

namespace Sys2Proof.Machine
open Sys2Proof

/-! ## FL_SET_BRANCH (04 R131, R141; 12 R452) -/

/-- The branch words are staged for every named channel unless they disable a branch in use or would leave a segment's channels
with unlike cadences. -/
theorem flSetBranch_of_free {p : Packet} {s : State} {f : Nat} (hf : applyBoundary true p (p.w64 1) s = .ok f) :
    let b := b01 ((p.w 0).bit 22)
    let ws := blockOf 3 3 p
    ((branchCfg ws).en = true ∨ ∀ c ∈ named p s, ((branchCfg (getBranch s (2 * c + b)).accepted).en && branchUsed s c b) = false) →
    splitsCadence s (named p s) (fun g => if g.word0.field 30 29 = 0 then b01 (g.word0.bit 28) == b else true)
      (branchCadence ws) (fun c => branchCadence (getBranch s (2 * c + b)).accepted) = false →
    rulesFlSetBranch.run p s =
      .done ((named p s).foldl (fun t c => stageBranch (2 * c + b) ws f t) (claimUnits b p s)) [] f := by
  intro b ws hunused hcadence
  have hdisables : (!(branchCfg ws).en &&
      (named p s).any (fun c => (branchCfg (getBranch s (2 * c + b)).accepted).en && branchUsed s c b)) = false := by
    rcases hunused with hen | hnone
    · rw [hen, Bool.not_true, Bool.false_and]
    · rw [List.any_eq_false.mpr (fun c hc => ne_true_of_eq_false (hnone c hc)), Bool.and_false]
  simp only [rulesFlSetBranch, hf]
  exact (if_neg (ne_true_of_eq_false hdisables)).trans (if_neg (ne_true_of_eq_false hcadence))

/-! ## FL_SET_FIR (04 R154) -/

theorem flSetFir_of_boundary {p : Packet} {s : State} {f : Nat} (hf : applyBoundary true p (p.w64 1) s = .ok f) :
    rulesFlSetFir.run p s = .done (stage f (.fir (fin 32 ((p.w 0).field 4 0)) (blockOf 8 3 p)) s) [] f := by
  simp only [rulesFlSetFir, hf]

/-! ## FL_SET_DETECTORS (04 R131, R167; 12 R452) -/

/-- The detector word is staged for every named channel unless it disables a detector that a comparator reads or would leave a
segment's channels with unlike cadences. -/
theorem flSetDetectors_of_free {p : Packet} {s : State}
    (hunread : ∀ c ∈ named p s, let cmp := vgetD (vgetD s.fl.cmpAccepted c (vall 4 0)) 0 0
      (cmp.bit 31 && ((cmp.field 29 28 == 2 && !(p.w 1).bit 30) || (cmp.field 29 28 == 3 && !(p.w 1).bit 29))) = false)
    (hcadence : splitsCadence s (named p s) (fun g => g.word0.field 30 29 == 1) (detCadence (p.w 1))
      (fun c => detCadence (vgetD s.fl.detAccepted c 0)) = false) :
    rulesFlSetDetectors.run p s = .done
      ((named p s).foldl (fun t c => stage (defaultBoundary true p s) (.detectors (fin 256 c) (p.w 1))
        { t with fl := { t.fl with detAccepted := vsetD t.fl.detAccepted c (p.w 1) } }) (claimUnits 2 p s))
      [] (defaultBoundary true p s) :=
  (if_neg (List.any_eq_true.not.mpr (fun ⟨c, hc, hread⟩ => ne_true_of_eq_false (hunread c hc) hread))).trans
    (if_neg (ne_true_of_eq_false hcadence))

/-! ## FL_RELEASE (04 R130; 08 R334) -/

/-- The effect of a packet that the host gives waits for a mirror boundary only while the hub mirrors. -/
theorem waitsForMirror_of_ofHost {p : Packet} (s : State) (h : p.source.ofHost = true) :
    waitsForMirror p s = mirroring s := by
  unfold waitsForMirror
  split
  next f hmirror => rw [hmirror] at h; exact absurd h Bool.false_ne_true
  next c hstaged => rw [hstaged] at h; exact absurd h Bool.false_ne_true
  next => rfl

theorem ofHost_of_accepts {o : Op} {p : Packet} {s : State} (h : Accepts o p s = true) : p.source.ofHost = true := by
  simp only [Accepts, Bool.and_eq_true] at h
  obtain ⟨⟨⟨⟨⟨⟨⟨⟨⟨-, hhost⟩, -⟩, -⟩, -⟩, -⟩, -⟩, -⟩, -⟩, -⟩ := h
  exact hhost

/-- The units are released at the mirror boundary where the packet waits for one, at once otherwise. -/
theorem flRelease_run (p : Packet) (s : State) : rulesFlRelease.run p s =
    if waitsForMirror p s then
      .done ((named p s).foldl (fun t c =>
        stage (defaultBoundary true p s) (.flRelease (fin 256 c) (BitVec.ofNat 3 ((p.w 1).field 2 0))) t) s)
        [] (defaultBoundary true p s)
    else .done ((named p s).foldl (fun t c => releaseUnits c ((p.w 1).field 2 0) t) s) [] (now s) := rfl

theorem exec_flRelease {p : Packet} {s : State} (h : Accepts .flRelease p s = true) :
    let u := authed p s
    exec (.flRelease p) s = .next (if mirroring u
      then completed .flRelease p s ((named p u).foldl (fun t c =>
        stage (defaultBoundary true p u) (.flRelease (fin 256 c) (BitVec.ofNat 3 ((p.w 1).field 2 0))) t) u)
        [] (defaultBoundary true p u)
      else completed .flRelease p s ((named p u).foldl (fun t c => releaseUnits c ((p.w 1).field 2 0) t) u) [] (now u)) := by
  intro u
  have hwaits : waitsForMirror p u = mirroring u := waitsForMirror_of_ofHost u (ofHost_of_accepts h)
  refine congrArg Host.Outcome.next ?_
  rw [← hwaits]
  split
  next hwait => exact takeCommand_done h ((flRelease_run p u).trans (if_pos hwait))
  next hwait => exact takeCommand_done h ((flRelease_run p u).trans (if_neg hwait))

/-- Settles O21: each accepted command by the outcome of its own rules; FL_SET_COMPARATOR and the reads always complete. -/
theorem filterCommandsComplete : Obligations.FilterCommandsComplete := by
  intro p s f u
  exact ⟨fun h hf hunused hcadence => congrArg Host.Outcome.next (takeCommand_done h (flSetBranch_of_free hf hunused hcadence)),
    fun h hf => congrArg Host.Outcome.next (takeCommand_done h (flSetFir_of_boundary hf)),
    fun h hunread hcadence => congrArg Host.Outcome.next (takeCommand_done h (flSetDetectors_of_free hunread hcadence)),
    fun h => congrArg Host.Outcome.next (takeCommand_done h rfl),
    fun h => congrArg Host.Outcome.next (takeCommand_done h rfl),
    exec_flRelease,
    fun h => congrArg Host.Outcome.next (takeCommand_done h rfl)⟩

end Sys2Proof.Machine
end

section
/-! SUPPORT and CLAIMS. The rows of the output windows: a window's end and a missed line-cycle boundary (04, "Windows"). -/

namespace Sys2Proof.Machine
open Sys2Proof

/-! ## The end of a window (04 R136, R161) -/

/-- The tick at which the window in progress of branch `b` of channel `c` ends. -/
def windowEndTick (c : Fin 256) (b : Fin 2) (s : State) : Nat := windowNext (getBranch s (2 * c.val + b.val)) - 1

/-- The window in progress of branch `b` of channel `c` ends before the comparator has the other branch's sample of its tick. -/
def awaitsInput (c : Fin 256) (b : Fin 2) (s : State) : Bool :=
  (branchCfg (getBranch s (2 * c.val + b.val)).words).en && s.tb.started && inputOpen c.val b.val (windowEndTick c b s) s

section
variable {c : Fin 256} {b : Fin 2} {obs : WindowObs} {s : State}

theorem endWindow_of_some {t : State} {w : Formed}
    (h : formWindow c.val b.val obs (settlePatterns (windowEndTick c b s) s) = some (t, w)) :
    endWindow c b obs s = deliverWindow w t := by
  unfold windowEndTick at h
  simp only [endWindow, h]

theorem endWindow_of_none (h : formWindow c.val b.val obs (settlePatterns (windowEndTick c b s) s) = none) :
    endWindow c b obs s = s := by
  unfold windowEndTick at h
  simp only [endWindow, h]

theorem windowEnd_early (c : Fin 256) (b : Fin 2) (obs : WindowObs) (s : State) :
    Early (windowEndTick c b s) (.windowEnd c b obs) s := by
  intro hdue
  exact congrArg Host.Outcome.next (if_pos (by rw [← windowEndTick, hdue]; decide))

variable (obs) (hdue : dueSoon (windowEndTick c b s) s = true)
include hdue

/-- A due row acts by whether a window of its branch waits already, and whether its own must begin to. -/
theorem exec_windowEnd : exec (.windowEnd c b obs) s = .next (
    if s.fl.deferred.any (fun y => y.1 == c && y.2.1 == b) then endWindow c b obs (endDeferred c s)
    else if awaitsInput c b s then deferWindow c b obs (windowEndTick c b s) s
    else endDeferred c (endWindow c b obs s)) :=
  congrArg Host.Outcome.next (if_neg (by rw [← windowEndTick, hdue]; decide))

/-- The windows that wait on the channel are formed first, this branch's own among them; then the window in progress. -/
theorem exec_windowEnd_of_deferred (hwaits : s.fl.deferred.any (fun y => y.1 == c && y.2.1 == b) = true) :
    exec (.windowEnd c b obs) s = .next (endWindow c b obs (endDeferred c s)) :=
  (exec_windowEnd obs hdue).trans (congrArg Host.Outcome.next (if_pos hwaits))

variable (hfree : s.fl.deferred.any (fun y => y.1 == c && y.2.1 == b) = false)
include hfree

theorem exec_windowEnd_of_awaitsInput (hopens : awaitsInput c b s = true) :
    exec (.windowEnd c b obs) s = .next (deferWindow c b obs (windowEndTick c b s) s) :=
  (exec_windowEnd obs hdue).trans (congrArg Host.Outcome.next
    ((if_neg (ne_true_of_eq_false hfree)).trans (if_pos hopens)))

/-- With its inputs at hand the window ends, and with it those of its channel that waited for it. -/
theorem exec_windowEnd_of_not_awaitsInput (hopens : awaitsInput c b s = false) :
    exec (.windowEnd c b obs) s = .next (endDeferred c (endWindow c b obs s)) :=
  (exec_windowEnd obs hdue).trans (congrArg Host.Outcome.next
    ((if_neg (ne_true_of_eq_false hfree)).trans (if_neg (ne_true_of_eq_false hopens))))

end

/-! ## A missed line-cycle boundary (04 R149, R151) -/

/-- The boundary that R149 gave at the window's start counts in place of the one that another hub should give. -/
theorem exec_lcBoundaryMissed {c : Fin 256} {b : Fin 2} {s : State} :
    let i := 2 * c.val + b.val
    let x := getBranch s i
    let cfg := branchCfg x.words
    cfg.en = true → cfg.lc = true → wantsForeign s cfg = true → x.byLocal = false → exec (.lcBoundaryMissed c b) s =
      .next (boundaryMissed c.val x.winLocal (setBranch i (moveRegime { x with winEnd := x.winLocal, byLocal := true }) s)) := by
  intro i x cfg hen hlc hforeign hremote
  have hmissed : (cfg.en && cfg.lc && wantsForeign s cfg && !x.byLocal) = true := by
    rw [hen, hlc, hforeign, hremote]
    decide
  exact congrArg Host.Outcome.next (if_pos hmissed)

/-- Settles O42: each row by its own lemma above; a window that forms is delivered, and a disabled branch has none. -/
theorem windowEventsComplete : Obligations.WindowEventsComplete := by
  intro c b s i e waits opens
  refine ⟨fun obs hdue hfree hopens => ?_, fun obs hdue hfree hopens => exec_windowEnd_of_awaitsInput obs hdue hfree hopens,
    fun obs hdue hwaits => exec_windowEnd_of_deferred obs hdue hwaits, exec_lcBoundaryMissed,
    fun obs => windowEnd_early c b obs s⟩
  have hexec : exec (.windowEnd c b obs) s = .next (endDeferred c (endWindow c b obs s)) :=
    exec_windowEnd_of_not_awaitsInput obs hdue hfree hopens
  refine ⟨fun t w hform => ?_, fun hform => ?_⟩
  · rw [hexec, endWindow_of_some hform]
  · rw [hexec, endWindow_of_none hform]

end Sys2Proof.Machine
end

section
/-! SUPPORT. What marks, failures, substitutions and returning shadows leave of the calibration's basins (03 R97 to R102; 05
R194). -/

namespace Sys2Proof.Machine
open Sys2Proof

/-! ## A basin's calibration, read back -/

theorem vgetD_vsetD_same {α : Type} {n i : Nat} (hi : i < n) (v : Vector α n) (x d : α) : vgetD (vsetD v i x) i d = x := by
  simp [vgetD, vsetD, hi]

@[simp] theorem calBasin_modCal_same (b : Fin 32) (g : CalBasin → CalBasin) (s : State) :
    calBasin (modCal b.val g s) b.val = g (calBasin s b.val) :=
  vgetD_vsetD_same b.isLt _ _ _

/-- A basin's calibration is read from the basins alone. -/
theorem calBasin_congr {s t : State} (h : t.cal.basins = s.cal.basins) (b : Nat) : calBasin t b = calBasin s b := by
  unfold calBasin
  rw [h]

/-- A foreground calibration of the basin runs once it has started. -/
theorem runningForeground_of_foreground {s : State} {b : Nat} {g : Foreground} (h : (calBasin s b).foreground = some g) :
    runningForeground s b = if g.running then some g else none := by
  unfold calBasin at h
  simp only [runningForeground, h]

/-- No foreground calibration runs in a basin that has none. -/
theorem runningForeground_of_none {s : State} {b : Nat} (h : (calBasin s b).foreground = none) :
    runningForeground s b = none := by
  unfold calBasin at h
  simp only [runningForeground, h]

/-! ## Updates that leave the basins -/

@[simp] theorem mark_cal (k : MarkKind) (m : BitVec 256) (first last : Nat) (s : State) :
    (mark k m first last s).cal = s.cal := by
  unfold mark
  split <;> rfl

@[simp] theorem closeMark_cal (k : MarkKind) (c last : Nat) (excl : Bool) (s : State) :
    (closeMark k c last excl s).cal = s.cal := rfl

@[simp] theorem countFraction_cal (id : Fin 30) (n unit : Nat) (s : State) : (countFraction id n unit s).cal = s.cal := by
  unfold countFraction
  dsimp only
  split <;> rfl

@[simp] theorem setMod_cal (b i : Nat) (x : ModState) (s : State) : (setMod b i x s).cal = s.cal := rfl

@[simp] theorem noteFailed_cal (b i : Nat) (s : State) : (noteFailed b i s).cal = s.cal := rfl

@[simp] theorem keepPast_cal (f : Nat) (old s : State) : (keepPast f old s).cal = s.cal := rfl

@[simp] theorem raiseModFail_cal (b i : Nat) (chan : Option Nat) (reason t : Nat) (s : State) :
    (raiseModFail b i chan reason t s).cal = s.cal := by
  simp only [raiseModFail, countLedger_cal, crit_cal, noteFailed_cal]

@[simp] theorem checkNoSpare_cal (before : State) (b : Nat) (s : State) : (checkNoSpare before b s).cal = s.cal := by
  unfold checkNoSpare
  split
  · rw [crit_cal]
  · rfl

@[simp] theorem skipUnit_cal (test unit : Nat) (s : State) : (skipUnit test unit s).cal = s.cal := by
  unfold skipUnit
  split <;> rfl

@[simp] theorem setStimuli_basins (f : Nat) (s : State) : (setStimuli f s).cal.basins = s.cal.basins := by
  simp only [setStimuli]

@[simp] theorem stopStimulus_basins (m : Nat) (s : State) : (stopStimulus m s).cal.basins = s.cal.basins := rfl

@[simp] theorem dropVisit_basins (b i : Nat) (s : State) : (dropVisit b i s).cal.basins = s.cal.basins := rfl

@[simp] theorem abandonTest_basins (m : Nat) (s : State) : (abandonTest m s).cal.basins = s.cal.basins := by
  unfold abandonTest
  split
  · rw [stopStimulus_basins, skipUnit_cal]
  · rfl

@[simp] theorem abandonCalibration_basins (b i : Nat) (s : State) :
    (abandonCalibration b i s).cal.basins = s.cal.basins := by
  unfold abandonCalibration
  dsimp only
  (repeat' split) <;> simp only [dropVisit_basins, abandonTest_basins]

theorem foldl_basins_of {α : Type} {g : State → α → State} (hg : ∀ t x, (g t x).cal.basins = t.cal.basins) (l : List α)
    (s : State) : (l.foldl g s).cal.basins = s.cal.basins :=
  List.foldlRecOn (motive := fun t => t.cal.basins = s.cal.basins) l g rfl (fun t ht x _ => (hg t x).trans ht)

/-! ## Substitutions and shadows -/

@[simp] theorem beginSubstitution_basins (c failed i t : Nat) (s : State) :
    (beginSubstitution c failed i t s).cal.basins = s.cal.basins := by
  unfold beginSubstitution
  dsimp only
  split <;> simp only [mark_cal, abandonCalibration_basins]

@[simp] theorem substitute_basins (c failed t : Nat) (s : State) : (substitute c failed t s).cal.basins = s.cal.basins := by
  unfold substitute
  split <;> simp only [beginSubstitution_basins, crit_cal, mark_cal, setMod_cal]

@[simp] theorem rechoose_basins (x : Substitution) (t : Nat) (s : State) : (rechoose x t s).cal.basins = s.cal.basins := by
  unfold rechoose
  dsimp only
  split <;> simp only [beginSubstitution_basins, crit_cal, mark_cal, closeMark_cal, setMod_cal]

theorem offerEach_basins (b n : Nat) (s : State) : (offerEach b n s).cal.basins = s.cal.basins := by
  induction n generalizing s with
  | zero => rfl
  | succ n ih =>
    unfold offerEach
    split
    · rw [ih, beginSubstitution_basins]
    · rfl

@[simp] theorem offerFree_basins (b : Nat) (s : State) : (offerFree b s).cal.basins = s.cal.basins := offerEach_basins b 8 s

@[simp] theorem returnShadows_basins (f : Nat) (s : State) : (returnShadows f s).cal.basins = s.cal.basins := by
  unfold returnShadows
  refine foldl_basins_of (fun t x => ?_) _ _
  split
  · rw [offerFree_basins, setMod_cal]
  · rfl

/-! ## Failures with no foreground calibration under way (03 R98 to R102) -/

/-- Out of a foreground calibration a modulator is retired at once. -/
theorem retire_basins {s : State} {b : Nat} (h : runningForeground s b = none) (i : Nat) :
    (retire b i s).cal.basins = s.cal.basins := by
  have hnoted : runningForeground (noteFailed b i s) b = none := h
  simp only [retire, enterState, hnoted, setMod_cal, noteFailed_cal]

theorem failNow_basins {s : State} {b : Nat} (h : runningForeground s b = none) (i reason t : Nat) :
    (failNow b i reason t s).cal.basins = s.cal.basins := by
  unfold failNow
  split
  · rfl
  · rfl
  · dsimp only
    (repeat' split) <;> simp only [mark_cal, substitute_basins, raiseModFail_cal]
  · dsimp only
    (repeat' split) <;>
      simp only [checkNoSpare_cal, rechoose_basins, raiseModFail_cal, abandonCalibration_basins, retire_basins h]

/-- A failure starts no foreground calibration. -/
theorem failNow_foreground_none {s : State} {b : Nat} (h : (calBasin s b).foreground = none) (i reason t : Nat) :
    (calBasin (failNow b i reason t s) b).foreground = none := by
  rw [calBasin_congr (failNow_basins (runningForeground_of_none h) i reason t), h]

end Sys2Proof.Machine
end

section
/-! SUPPORT and CLAIMS. The commands of class 0x05: what each accepted one does and returns (05, "Commands"). -/

namespace Sys2Proof.Machine
open Sys2Proof

/-- A foreground calibration is staged where no channel of the basin is being substituted, none is staged or runs, and the pair
path that PEER asks for works (05 R191, R195, R196). -/
theorem calForeground_of_free {p : Packet} {s : State} {f : Nat} (hf : applyBoundary ((p.w 0).bit 8) p (p.w64 1) s = .ok f)
    (hsubs : ∀ x ∈ s.cv.subs, x.chan.val / 8 ≠ (p.w 0).field 4 0)
    (hidle : (calBasin s ((p.w 0).field 4 0)).foreground = none)
    (hpath : (p.w 0).bit 8 = true → mirroring s = true ∧ mirrorWorks s = true) :
    rulesCalForeground.run p s = .done (stageForeground ((p.w 0).field 4 0) f s) [] f := by
  have hsubstituted : s.cv.subs.any (fun x => x.chan.val / 8 == (p.w 0).field 4 0) = false :=
    List.any_eq_false.mpr (fun x hx => ne_true_of_eq_false (beq_eq_false_iff_ne.mpr (hsubs x hx)))
  simp only [rulesCalForeground, hf, hsubstituted, hidle, Option.isSome_none, Bool.false_eq_true, if_false]
  refine if_neg ?_
  split
  next => exact Bool.false_ne_true
  next =>
    intro hlacks
    obtain ⟨hmirror, hbroken⟩ := Bool.and_eq_true_iff.mp hlacks
    obtain ⟨hmirrors, hworks⟩ := hpath hmirror
    rw [hmirrors, hworks] at hbroken
    exact Bool.false_ne_true hbroken

theorem calWriteTrim_of_boundary {p : Packet} {s : State} {f : Nat} (hf : applyBoundary false p (p.w64 1) s = .ok f) :
    rulesCalWriteTrim.run p s = .done (stage f (.trim (fin 288 (9 * (p.w 0).field 4 0 + (p.w 0).field 11 8))
      (fin 8 ((p.w 0).field 18 16)) (p.w 3)) s) [] f := by
  simp only [rulesCalWriteTrim, hf]

/-- Settles O22: each accepted command by the outcome of its own rules; those without a case of their own always complete. -/
theorem calibrationCommandsComplete : Obligations.CalibrationCommandsComplete := by
  intro p s f u
  exact ⟨fun h => congrArg Host.Outcome.next (takeCommand_done h rfl),
    fun h hsubs hidle hpath hf => congrArg Host.Outcome.next (takeCommand_done h (calForeground_of_free hf hsubs hidle hpath)),
    fun h => congrArg Host.Outcome.next (takeCommand_done h rfl),
    fun h => congrArg Host.Outcome.next (takeCommand_done h rfl),
    fun h hf => congrArg Host.Outcome.next (takeCommand_done h (calWriteTrim_of_boundary hf)),
    fun h => congrArg Host.Outcome.next (takeCommand_done h rfl)⟩

end Sys2Proof.Machine
end

section
/-! SUPPORT and CLAIMS. The rows of the calibration: a cycle's start, a decision, a foreground calibration's start and end (05,
"Background cycles", "Decision", "Foreground calibration"). -/

namespace Sys2Proof.Machine
open Sys2Proof

@[simp] theorem modCal_loads (b : Nat) (f : CalBasin → CalBasin) (s : State) : (modCal b f s).cal.loads = s.cal.loads := rfl

@[simp] theorem setRejRun_loads (m g n : Nat) (s : State) : (setRejRun m g n s).cal.loads = s.cal.loads := rfl

/-! ## The start of a cycle (05 R184, R185; 17 R680) -/

/-- A cycle of basin `b` is noted by every run of test 3 that has started. -/
def cycleNoted (b : Fin 32) (s : State) : State :=
  { s with ts := { s.ts with
      runs := s.ts.runs.map (fun r => if r.test = 3 ∧ r.started then { r with cycles := r.cycles ++ [b.val] } else r) } }

section
variable {b : Fin 32} {s : State} (hdue : cycleDue s b.val = true)
include hdue

/-- Without a spare the cycle does nothing more. -/
theorem calibrationCycleStart_of_no_spare (hspare : spareOf (cycleNoted b s) b.val = none) :
    exec (.calibrationCycleStart b) s = .next (setStimuli s.tb.frameTick (cycleNoted b s)) := by
  unfold cycleNoted at hspare
  change execCalibrationCycleStart b s = _
  simp only [execCalibrationCycleStart, hdue, if_true, hspare, cycleNoted]

variable {i : Nat} (hspare : spareOf (cycleNoted b s) b.val = some i)
include hspare

/-- A spare that is ready for the next channel begins to shadow it. -/
theorem calibrationCycleStart_of_ready {k : Nat} (hnext : nextChannel (cycleNoted b s) b.val = some k)
    (hfirst : (calBasin (cycleNoted b s) b.val).first = false) (hready : spareReady (cycleNoted b s) b.val i k = true) :
    exec (.calibrationCycleStart b) s = .next (setStimuli s.tb.frameTick (beginOverlap b.val k i s.tb.frameTick
      (modCal b.val (fun c => { c with lastVisited := some (fin 8 k) })
        (modCal b.val (fun c => { c with first := false }) (cycleNoted b s))))) := by
  unfold cycleNoted at hspare hnext hfirst hready
  change execCalibrationCycleStart b s = _
  simp only [execCalibrationCycleStart, hdue, if_true, hspare, hnext, hfirst, hready, Bool.not_false, Bool.and_self, cycleNoted]

/-- A spare that is not ready, or must be recalibrated first, is calibrated at the next channel's gain code. -/
theorem calibrationCycleStart_of_not_ready {k : Nat} (hnext : nextChannel (cycleNoted b s) b.val = some k)
    (hwaits : (calBasin (cycleNoted b s) b.val).first = true ∨ spareReady (cycleNoted b s) b.val i k = false) :
    exec (.calibrationCycleStart b) s = .next (setStimuli s.tb.frameTick (beginVisit b.val i (gainCode (cycleNoted b s) b.val k)
      s.tb.frameTick (modCal b.val (fun c => { c with first := false }) (cycleNoted b s)))) := by
  have hshadows : (!(calBasin (cycleNoted b s) b.val).first && spareReady (cycleNoted b s) b.val i k) = false := by
    rcases hwaits with hfirst | hready
    · rw [hfirst, Bool.not_true, Bool.false_and]
    · rw [hready, Bool.and_false]
  unfold cycleNoted at hspare hnext hshadows
  change execCalibrationCycleStart b s = _
  simp only [execCalibrationCycleStart, hdue, if_true, hspare, hnext, hshadows, Bool.false_eq_true, if_false, cycleNoted]

/-- With every channel parked the spare is calibrated again at the gain code of its last calibration. -/
theorem calibrationCycleStart_of_all_parked (hnext : nextChannel (cycleNoted b s) b.val = none) :
    exec (.calibrationCycleStart b) s = .next (setStimuli s.tb.frameTick (beginVisit b.val i
      (vgetD (cycleNoted b s).cal.lastGain (9 * b.val + i) 0).val s.tb.frameTick
      (modCal b.val (fun c => { c with first := false }) (cycleNoted b s)))) := by
  unfold cycleNoted at hspare hnext
  change execCalibrationCycleStart b s = _
  simp only [execCalibrationCycleStart, hdue, if_true, hspare, hnext, nextGain, cycleNoted]

end

/-! ## The decision (05 R174 to R182) -/

/-- What the two runs of the calibration in progress on modulator `m` decide, its chips beginning at `ta` and `tb`. -/
def decisionOf (s : State) (m g np nc ta tb : Nat) (x y : RunObs) : Verdict :=
  verdict (calBasin s (m / 9)) ((2 ^ g : Nat) : Rat) (trimWord s m g) s.cal.suspect
    (vgetD (calBasin s (m / 9)).history g []) (x.clamped + y.clamped)
    (estimate np nc (chipsFrom s (m / 9) ta nc) x) (estimate np nc (chipsFrom s (m / 9) tb nc) y)

section
variable {m : Fin 288} {x y : RunObs} {s : State} {g np nc ta tb f : Nat} {fg : Bool}
  (hcal : calibrationOf s m.val = some (g, np, nc, ta, tb, f, fg))
include hcal

theorem exec_calibrationDecision_of_reject {cause : Nat} {q : Word}
    (hv : decisionOf s m.val g np nc ta tb x y = .reject cause q) :
    exec (.calibrationDecision m x y) s = .next (rejectCalibration m.val g cause q s) := by
  unfold decisionOf at hv
  change execCalibrationDecision m x y s = _
  simp only [execCalibrationDecision, hcal, hv]

/-- Codes out of the trims' reach retire the modulator (05 R180). -/
theorem exec_calibrationDecision_of_beyond (hv : decisionOf s m.val g np nc ta tb x y = .beyond) :
    exec (.calibrationDecision m x y) s = .next (failModulator (m.val / 9) (m.val % 9) 2 (now s) s) := by
  unfold decisionOf at hv
  change execCalibrationDecision m x y s = _
  simp only [execCalibrationDecision, hcal, hv]

/-- The trims of an accepted calibration wait for their boundary; what is counted and reported leaves the waiting loads. -/
theorem calibrationDecision_of_accept {ot gt : Int} {q : Rat} (hv : decisionOf s m.val g np nc ta tb x y = .accept ot gt q) :
    Completes (.calibrationDecision m x y) s (fun t => t.cal.loads = s.cal.loads ++
      [{ m := m, gain := fin 8 g, at_ := f, word := makeTrim (dacClip (-2048) 2047 ot) (dacClip (-512) 511 gt) true
         digital := digitalFor (vgetD s.cal.digital m.val Digital.neutral) ((2 ^ g : Nat) : Rat) ot gt s.cal.suspect
         p := if s.cal.suspect then none else some q, foreground := fg }]) := by
  unfold decisionOf at hv
  refine ⟨_, rfl, ?_⟩
  simp only [hcal, hv]
  (repeat' split) <;> simp only [info_cal, crit_cal, modCal_loads, countFraction_cal, setRejRun_loads]

end

/-! ## Foreground calibration (05 R191 to R194, R775) -/

section
variable {b : Fin 32} {s : State} {g : Foreground}

/-- At its start a foreground calibration runs and is counted. -/
theorem foregroundStart_completes (hg : (calBasin s b.val).foreground = some g) (hidle : g.running = false)
    (hdue : dueSoon g.start s = true) :
    Completes (.foregroundStart b) s (fun t => (calBasin t b.val).fgCount = satInc (calBasin s b.val).fgCount ∧
      (calBasin t b.val).foreground.map (fun x => x.running) = some true) := by
  refine ⟨_, rfl, ?_⟩
  simp only [hg, hidle, hdue, Bool.not_true, Bool.false_eq_true, or_self, if_false]
  rw [calBasin, setStimuli_basins, countLedger_cal, info_cal, mark_cal, ← calBasin, calBasin_modCal_same]
  refine ⟨congrArg satInc (congrArg CalBasin.fgCount (calBasin_congr ?_ _)), rfl⟩
  refine (foldl_basins_of (fun t i => ?_) _ _).trans (returnShadows_basins _ _)
  split <;> rfl

theorem foregroundStart_early (hg : (calBasin s b.val).foreground = some g) : Early g.start (.foregroundStart b) s := by
  intro hdue
  change execForegroundStart b s = _
  simp only [execForegroundStart, hg, hdue, Bool.not_false, or_true, if_true]

/-- At its end a foreground calibration is gone, and the failures handled then start none. -/
theorem foregroundEnd_completes (hg : runningForeground s b.val = some g) (hdue : dueSoon (g.start + 8 * frameLen) s = true) :
    Completes (.foregroundEnd b) s (fun t => (calBasin t b.val).foreground = none) := by
  refine ⟨_, rfl, ?_⟩
  simp only [hg, hdue, Bool.not_true, Bool.false_eq_true, if_false]
  rw [calBasin, setStimuli_basins, keepPast_cal, ← calBasin]
  refine List.foldlRecOn (motive := fun t => (calBasin t b.val).foreground = none) _ _ ?_ (fun t ht i _ => ?_)
  · rw [calBasin, info_cal, mark_cal, ← calBasin, calBasin_modCal_same]
  · split
    next r _ => exact failNow_foreground_none ht i r _
    next => exact ht

theorem foregroundEnd_early (hg : (calBasin s b.val).foreground = some g) :
    Early (g.start + 8 * frameLen) (.foregroundEnd b) s := by
  intro hdue
  change execForegroundEnd b s = _
  rw [execForegroundEnd, runningForeground_of_foreground hg]
  cases g.running
  · rfl
  · simp only [if_true, hdue, Bool.not_false]

end

/-- Settles O43: each row by its own lemma above; the verdict decides a decision, the spare and its readiness a cycle. -/
theorem calibrationEventsComplete : Obligations.CalibrationEventsComplete := by
  intro b s
  refine ⟨fun hdue => ⟨fun hspare => calibrationCycleStart_of_no_spare hdue hspare, fun i hspare =>
      ⟨fun k hnext hfirst hready => calibrationCycleStart_of_ready hdue hspare hnext hfirst hready,
        fun k hnext hwaits => calibrationCycleStart_of_not_ready hdue hspare hnext hwaits,
        fun hnext => calibrationCycleStart_of_all_parked hdue hspare hnext⟩⟩,
    fun m x y g np nc ta tb f fg hcal => ⟨fun cause q hv => exec_calibrationDecision_of_reject hcal hv,
      fun hv => exec_calibrationDecision_of_beyond hcal hv, fun ot gt q hv => calibrationDecision_of_accept hcal hv⟩,
    fun g hg hidle hdue => foregroundStart_completes hg hidle hdue,
    fun g hg hdue => foregroundEnd_completes hg hdue,
    fun g hg => ⟨foregroundStart_early hg, foregroundEnd_early hg⟩⟩

end Sys2Proof.Machine
end

section
/-! SUPPORT. Time passing leaves the timebase but for its tick count: the patterns of a tick that is over are the capture sets'
alone (09 R365). -/

namespace Sys2Proof.Machine
open Sys2Proof

@[simp] theorem checkSpan_tb (i : Fin 16) (s : State) : (checkSpan i s).tb = s.tb := by
  unfold checkSpan
  dsimp only
  split <;> rfl

@[simp] theorem shareOut_tb (i : Fin 16) (bit : Nat) (s : State) : (shareOut i bit s).tb = s.tb := by
  unfold shareOut
  split
  · exact send_tb _ s
  · rfl

@[simp] theorem pulsePins_tb (i : Fin 16) (decided : Nat) (s : State) : (pulsePins i decided s).tb = s.tb := rfl

@[simp] theorem acceptTrigger_tb (i : Fin 16) (bit k tick decided : Nat) (s : State) :
    (acceptTrigger i bit k tick decided s).tb = s.tb := by
  simp only [acceptTrigger, checkSpan_tb, pulsePins_tb, shareOut_tb, raiseEvent_tb, modSet_tb]

@[simp] theorem decideTrigger_tb (i : Fin 16) (bit tick decided : Nat) (s : State) :
    (decideTrigger i bit tick decided s).tb = s.tb := by
  unfold decideTrigger
  dsimp only
  (repeat' split) <;> simp only [modSet_tb, acceptTrigger_tb, shareOut_tb]

@[simp] theorem evaluateSet_tb (t : Nat) (i : Fin 16) (s : State) : (evaluateSet t i s).tb = s.tb := by
  unfold evaluateSet
  dsimp only
  (repeat' split) <;> simp only [acceptTrigger_tb, decideTrigger_tb, modSet_tb]

theorem foldl_tb_of {α : Type} {g : State → α → State} (hg : ∀ t x, (g t x).tb = t.tb) (l : List α) (s : State) :
    (l.foldl g s).tb = s.tb :=
  List.foldlRecOn (motive := fun t => t.tb = s.tb) l g rfl (fun t ht x _ => (hg t x).trans ht)

@[simp] theorem evaluateSets_tb (t : Nat) (s : State) : (evaluateSets t s).tb = s.tb := by
  unfold evaluateSets
  exact foldl_tb_of (fun u i => evaluateSet_tb t i u) _ _

@[simp] theorem settlePatterns_tb (t : Nat) (s : State) : (settlePatterns t s).tb = s.tb := by
  unfold settlePatterns
  (repeat' split) <;> simp only [evaluateSets_tb]

/-- The tick count alone moves, and never back (06 R202). -/
@[simp] theorem advanceTo_tb (t : Nat) (s : State) :
    (advanceTo t s).tb = { s.tb with tick := max s.tb.tick t } := by
  simp only [advanceTo, settlePatterns_tb]

end Sys2Proof.Machine
end

section
/-! SUPPORT and CLAIMS. A step with nothing queued (06 R202; 13 R492). -/

namespace Sys2Proof.Machine
open Sys2Proof

theorem step_of_empty {s : State} (h : s.pending = []) : step s = .next (idle s) := by
  unfold step
  rw [h]

theorem idle_of_started {s : State} (h : (laneSlots s).tb.started = true) :
    idle s = advanceTo ((laneSlots s).tb.tick + 1) (laneSlots s) := by
  rw [idle]
  exact if_pos h

theorem idle_of_not_started {s : State} (h : (laneSlots s).tb.started = false) : idle s = laneSlots s := by
  rw [idle]
  exact if_neg (ne_true_of_eq_false h)

theorem idle_keeps (s : State) : (idle s).pending = s.pending ∧ (idle s).mem.bytes = s.mem.bytes := by
  cases h : (laneSlots s).tb.started
  · simp only [idle_of_not_started h, laneSlots_keeps, and_self]
  · simp only [idle_of_started h, advanceTo_keeps, laneSlots_keeps, and_self]

/-- A lane that is neither UP nor training sends nothing in its block slots. -/
theorem laneCycle_of_silent {l : Fin 16} {s : State} (hup : (getLane s l).lstate ≠ .up) (htrain : sendsTrain l s = false) :
    laneCycle l s = s := by
  unfold laneCycle
  split
  next => rfl
  next =>
    refine List.foldl_fixed' (fun _ => ?_) _
    exact (if_neg hup).trans (if_neg (ne_true_of_eq_false htrain))

theorem laneSlots_of_silent {s : State} (h : ∀ l : Fin 16, (getLane s l).lstate ≠ .up ∧ sendsTrain l s = false) :
    laneSlots s = s :=
  List.foldl_fixed' (fun l => laneCycle_of_silent (h l).1 (h l).2) _

/-- Settles O2: the step idles, and silent lanes leave the state to the tick count. -/
theorem emptyQueueLetsTimePass : Obligations.EmptyQueueLetsTimePass := by
  intro s hempty
  have hstep : step s = .next (idle s) := step_of_empty hempty
  obtain ⟨hpending, hbytes⟩ := idle_keeps s
  refine ⟨hstep, ⟨idle s, hstep, hpending.trans hempty, hbytes⟩, fun hsilent => ?_⟩
  have hslots : laneSlots s = s := laneSlots_of_silent hsilent
  constructor <;> intro hstarted <;> rw [hstep]
  · rw [idle_of_started (hslots.symm ▸ hstarted), hslots]
  · rw [idle_of_not_started (hslots.symm ▸ hstarted), hslots]

end Sys2Proof.Machine
end

section
/-! SUPPORT and CLAIMS. The commands of class 0x06: what each accepted one does and returns (06, "Commands"). -/

namespace Sys2Proof.Machine
open Sys2Proof

/-- A root that takes no time from an acquired beacon takes the host's, staged for its boundary (06 R244). -/
theorem tbSetTime_of_root {p : Packet} {s : State} {f : Nat} (hf : applyBoundary false p (p.w64 1) s = .ok f)
    (hroot : s.tb.role = .root) (hbeacon : (timeEn s && beaconAcquired s) = false) :
    rulesTbSetTime.run p s = .done (stage f (.timeStep
      { anchor := none, time := p.w64 3, gen := none, valid := true, src := .host
        leap := some ((p.w 0).bit 31, (p.w 0).bit 30, BitVec.ofNat 16 ((p.w 0).field 15 0)) }) s) [] f := by
  simp only [rulesTbSetTime, hf]
  exact if_neg (not_or.mpr ⟨not_not_intro hroot, ne_true_of_eq_false hbeacon⟩)

/-- Settles O23: each accepted command by the outcome of its own rules; only TB_SET_TIME has a case of its own. -/
theorem timebaseCommandsComplete : Obligations.TimebaseCommandsComplete := by
  intro p s f u
  exact ⟨fun h => congrArg Host.Outcome.next (takeCommand_done h rfl),
    fun h hf hroot hbeacon => congrArg Host.Outcome.next (takeCommand_done h (tbSetTime_of_root hf hroot hbeacon)),
    fun h => congrArg Host.Outcome.next (takeCommand_done h rfl),
    fun h => congrArg Host.Outcome.next (takeCommand_done h rfl),
    fun h => congrArg Host.Outcome.next (takeCommand_done h rfl),
    fun h => congrArg Host.Outcome.next (takeCommand_done h rfl),
    fun h => congrArg Host.Outcome.next (takeCommand_done h rfl),
    fun h => congrArg Host.Outcome.next (takeCommand_done h rfl)⟩

end Sys2Proof.Machine
end

section
/-! SUPPORT and CLAIMS. The rows of the timebase: frame boundaries, the start, the loss of REFCLK, a drift model's interval, a
leap second (06, "Frames", "Starting", "Reference clock", "Holdover", "Structured time"). -/

namespace Sys2Proof.Machine
open Sys2Proof

/-! ## Frames and the start (06 R203, R214; 07 R251) -/

theorem exec_frameBoundary_of_started (obs : FrameObs) {s : State} (h : s.tb.started = true) :
    let f := s.tb.frameTick + frameLen
    let v := advanceTo f s
    exec (.frameBoundary obs) s = .next (frameWork obs f { v with tb := { v.tb with frameTick := f } }) :=
  congrArg Host.Outcome.next (if_pos h)

section
variable {c : StartCase} {t0 : Nat} {r : Ref} {s : State} (hstarted : s.tb.started = false) (hheld : s.pwr.held = false)
include hstarted hheld

/-- The timebase can start: it does not run yet, and no reset is asserted. -/
theorem not_started_or_held : ¬ (s.tb.started = true ∨ s.pwr.held = true) :=
  not_or.mpr ⟨ne_true_of_eq_false hstarted, ne_true_of_eq_false hheld⟩

theorem exec_timebaseStart_of_joined (hlone : isLone s = false) (hcase : startOf c s = some (t0, r)) :
    exec (.timebaseStart c) s = .next (startWork t0 (startTimebase t0 r s)) := by
  change execTimebaseStart c s = _
  simp only [execTimebaseStart, not_started_or_held hstarted hheld, hlone, hcase, Bool.false_eq_true, if_false]

/-- A ring of one is its own master by the start, and leaves FORMING with it. -/
theorem exec_timebaseStart_of_lone (hlone : isLone s = true)
    (hcase : startOf c (takeMaster (ownAnnounce s) false s) = some (t0, r)) :
    exec (.timebaseStart c) s =
      .next (startWork t0 (leaveForming (startTimebase t0 r (takeMaster (ownAnnounce s) false s)))) := by
  change execTimebaseStart c s = _
  simp only [execTimebaseStart, not_started_or_held hstarted hheld, hlone, hcase, if_true, if_false]

end

/-! ## The reference clock and the drift model (06 Table 6.21, R223) -/

theorem exec_refclkLoss_of_qualified {s : State} (h : s.tb.refclkOk = true) :
    exec .refclkLoss s = .next (crit 0x0608 0 (split64 (now s))
      { s with tb := { s.tb with refclkInRun := 0, refclkOutRun := 0, refclkOk := false } }) :=
  congrArg Host.Outcome.next (if_pos h)

/-- The model's temperature is filtered and its first interval dated before the least-squares update (06 R223). -/
def filteredModel (tdie : Int) (s : State) : DriftModel :=
  { s.tb.model with
    tf := s.tb.model.tf + ((tdie : Rat) - s.tb.model.tf) / (s.tb.holdover0.field 15 0 : Nat)
    began := some (s.tb.model.began.getD (now s)) }

@[simp] theorem leastSquares_tf (m : DriftModel) (x : Vector Rat 4) (y : Rat) : (leastSquares m x y).tf = m.tf := rfl

@[simp] theorem leastSquares_began (m : DriftModel) (x : Vector Rat 4) (y : Rat) : (leastSquares m x y).began = m.began := rfl

/-- A hub that has been LOCKED for 60 s with LEARN_EN set learns one interval. -/
theorem driftModelLearn_completes (y t : Int) {s : State} (hen : s.tb.holdover0.bit 31 = true)
    (hlocked : s.tb.state = .locked) (hlong : s.tb.lockedSince + 60 * ticksPerSecond ≤ now s) :
    let m := filteredModel t s
    let x := regressor (modelU m) (modelAge m (now s))
    Completes (.driftModelLearn y t) s (fun u => u.tb.model.learned = s.tb.model.learned + 1 ∧ u.tb.model.tf = m.tf ∧
      u.tb.model.began = m.began ∧ u.tb.model.c = (leastSquares m x (y : Rat)).c ∧
      u.tb.model.cov = (leastSquares m x (y : Rat)).cov) := by
  intro m x
  have hlearns : (s.tb.holdover0.bit 31 && s.tb.state == .locked
      && decide (s.tb.lockedSince + 60 * ticksPerSecond ≤ now s)) = true := by
    rw [hen, hlocked, decide_eq_true hlong]
    decide
  exact ⟨_, congrArg Host.Outcome.next (if_pos hlearns), rfl, leastSquares_tf m x y, leastSquares_began m x y, rfl, rfl⟩

/-! ## Leap seconds (06 R211; 16 R628) -/

section
variable {s : State}

theorem exec_leapSecond_of_within_month (h : monthEnds s = false) : exec .leapSecond s = .next s :=
  congrArg Host.Outcome.next (if_pos (by rw [h]; rfl))

/-- At a month's end the pending leap second decides. -/
theorem exec_leapSecond_of_monthEnds (h : monthEnds s = true) : exec .leapSecond s = .next (
    if s.tb.leapIns then calendarLeap true { s with tb := { s.tb with leapIns := false, utcOffset := s.tb.utcOffset + 1 } }
    else if s.tb.leapDel then
      calendarLeap false { s with tb := { s.tb with leapDel := false, utcOffset := s.tb.utcOffset - 1 } }
    else s) :=
  congrArg Host.Outcome.next (if_neg (by rw [h]; decide))

theorem exec_leapSecond_insert (h : monthEnds s = true) (hins : s.tb.leapIns = true) :
    exec .leapSecond s = .next (calendarLeap true
      { s with tb := { s.tb with leapIns := false, utcOffset := s.tb.utcOffset + 1 } }) :=
  (exec_leapSecond_of_monthEnds h).trans (congrArg Host.Outcome.next (if_pos hins))

theorem exec_leapSecond_delete (h : monthEnds s = true) (hins : s.tb.leapIns = false) (hdel : s.tb.leapDel = true) :
    exec .leapSecond s = .next (calendarLeap false
      { s with tb := { s.tb with leapDel := false, utcOffset := s.tb.utcOffset - 1 } }) :=
  (exec_leapSecond_of_monthEnds h).trans
    (congrArg Host.Outcome.next ((if_neg (ne_true_of_eq_false hins)).trans (if_pos hdel)))

theorem exec_leapSecond_of_none_pending (hins : s.tb.leapIns = false) (hdel : s.tb.leapDel = false) :
    exec .leapSecond s = .next s := by
  cases h : monthEnds s
  case false => exact exec_leapSecond_of_within_month h
  case true =>
    exact (exec_leapSecond_of_monthEnds h).trans (congrArg Host.Outcome.next
      ((if_neg (ne_true_of_eq_false hins)).trans (if_neg (ne_true_of_eq_false hdel))))

end

/-- Settles O44: each row by its own lemma above. -/
theorem timebaseEventsComplete : Obligations.TimebaseEventsComplete := by
  intro s
  exact ⟨fun obs h => exec_frameBoundary_of_started obs h,
    fun _ _ _ hstarted hheld => ⟨exec_timebaseStart_of_joined hstarted hheld, exec_timebaseStart_of_lone hstarted hheld⟩,
    exec_refclkLoss_of_qualified, fun y t hen hlocked hlong => driftModelLearn_completes y t hen hlocked hlong,
    exec_leapSecond_of_within_month, exec_leapSecond_insert, exec_leapSecond_delete, exec_leapSecond_of_none_pending⟩

end Sys2Proof.Machine
end

section
/-! SUPPORT and CLAIMS. The rows of the beacon: a frame received whole, and the close of a slot (06, "Beacon reception"). -/

namespace Sys2Proof.Machine
open Sys2Proof

/-! ## Frames (06 R232, R234) -/

/-- What the front end found of its background is noted with every frame (06 Table 6.20). -/
def noteBackground (f : BeaconFrame) (s : State) : State :=
  modBeacon (fun b => { b with bgUa := f.bgUa, notch0 := f.notch0, notch1 := f.notch1 }) s

/-- A frame that no cause of R232 but its MAC can turn away, at the state `v` that has noted its background: applied by its
type. -/
def applyFrame (f : BeaconFrame) (v : State) : State :=
  if (f.type = 2 ∨ f.authed) ∧ !beaconMac f v then beaconAuthFail f.type f.counter v
  else if f.type = 2 then beaconCommand f v
  else if v.tb.bcnWord.bit 28 && !f.authed then v
  else beaconTime f v

section
variable {f : BeaconFrame} {s : State}

theorem beaconReceive_of_off (h : s.tb.beacon.state = .off) : beaconReceive f s = s := if_pos h

section
variable (hon : s.tb.beacon.state ≠ .off)
include hon

theorem beaconReceive_of_unchecked (hcheck : f.checked = false) :
    beaconReceive f s = modBeacon (fun b => { b with crcErr := satInc b.crcErr }) (noteBackground f s) := by
  simp only [beaconReceive, hon, hcheck, Bool.not_false, if_false, if_true, noteBackground]

variable (hcheck : f.checked = true)
include hcheck

theorem beaconReceive_of_violation (hmanch : f.manchester = true) :
    beaconReceive f s = modBeacon (fun b => { b with manchErr := satInc b.manchErr }) (noteBackground f s) := by
  simp only [beaconReceive, hon, hcheck, hmanch, Bool.not_true, Bool.false_eq_true, if_false, if_true, noteBackground]

variable (hmanch : f.manchester = false)
include hmanch

theorem beaconReceive_of_nonlinear (hlinear : f.linear = false) :
    beaconReceive f s = modBeacon (fun b => { b with satAbort := satInc b.satAbort }) (noteBackground f s) := by
  simp only [beaconReceive, hon, hcheck, hmanch, hlinear, Bool.not_true, Bool.not_false, Bool.false_eq_true, if_false, if_true,
    noteBackground]

variable (hlinear : f.linear = true)
include hlinear

theorem beaconReceive_of_unknown_type (h1 : f.type ≠ 1) (h2 : f.type ≠ 2) :
    beaconReceive f s = modBeacon (fun b => { b with unknown := satInc b.unknown }) (noteBackground f s) := by
  simp only [beaconReceive, hon, hcheck, hmanch, hlinear, h1, h2, Bool.not_true, Bool.false_eq_true, ne_eq, not_false_eq_true,
    and_self, if_false, if_true, noteBackground]

variable (htype : f.type = 1 ∨ f.type = 2)
include htype

/-- A TIME or COMMAND frame that came in whole is judged by its form, and then applied. -/
theorem beaconReceive_of_known_type :
    beaconReceive f s =
      if !f.suits then modBeacon (fun b => { b with lenErr := satInc b.lenErr }) (noteBackground f s)
      else if !f.reservedZero then modBeacon (fun b => { b with rsvErr := satInc b.rsvErr }) (noteBackground f s)
      else applyFrame f (noteBackground f s) := by
  have hknown : ¬ (f.type ≠ 1 ∧ f.type ≠ 2) := fun ⟨h1, h2⟩ => htype.elim h1 h2
  refine (if_neg hon).trans ((if_neg ?_).trans ((if_neg ?_).trans ((if_neg ?_).trans (if_neg hknown))))
  · simp [hcheck]
  · simp [hmanch]
  · simp [hlinear]

theorem beaconReceive_of_unsuited (hsuits : f.suits = false) :
    beaconReceive f s = modBeacon (fun b => { b with lenErr := satInc b.lenErr }) (noteBackground f s) := by
  rw [beaconReceive_of_known_type hon hcheck hmanch hlinear htype, hsuits]
  rfl

theorem beaconReceive_of_reserved_set (hsuits : f.suits = true) (hrsv : f.reservedZero = false) :
    beaconReceive f s = modBeacon (fun b => { b with rsvErr := satInc b.rsvErr }) (noteBackground f s) := by
  rw [beaconReceive_of_known_type hon hcheck hmanch hlinear htype, hsuits, hrsv]
  rfl

theorem beaconReceive_of_sound (hform : (f.suits && f.reservedZero) = true) :
    beaconReceive f s = applyFrame f (noteBackground f s) := by
  obtain ⟨hsuits, hrsv⟩ := Bool.and_eq_true_iff.mp hform
  rw [beaconReceive_of_known_type hon hcheck hmanch hlinear htype, hsuits, hrsv]
  rfl

end

/-! ## Authentication and the types (06 R233 to R235; 16 R631) -/

/-- A COMMAND, or a frame that says it is authenticated, fails with a wrong MAC. -/
theorem applyFrame_of_mac_wrong (hsigned : f.type = 2 ∨ f.type = 1 ∧ f.authed = true) (hmac : beaconMac f s = false) :
    applyFrame f s = beaconAuthFail f.type f.counter s :=
  if_pos ⟨hsigned.imp_right And.right, by rw [hmac]; rfl⟩

/-- A correct MAC turns no frame away. -/
theorem not_rejected_of_mac (hmac : beaconMac f s = true) : ¬ ((f.type = 2 ∨ f.authed = true) ∧ (!beaconMac f s) = true) := by
  simp [hmac]

theorem applyFrame_of_command (htype : f.type = 2) (hmac : beaconMac f s = true) : applyFrame f s = beaconCommand f s :=
  (if_neg (not_rejected_of_mac hmac)).trans (if_pos htype)

section
variable (htype : f.type = 1)
include htype

theorem type_ne_command : f.type ≠ 2 := by
  rw [htype]
  decide

theorem applyFrame_of_signed_time (hauthed : f.authed = true) (hmac : beaconMac f s = true) :
    applyFrame f s = beaconTime f s := by
  refine (if_neg (not_rejected_of_mac hmac)).trans ((if_neg (type_ne_command htype)).trans (if_neg ?_))
  simp [hauthed]

/-- An unauthenticated time frame is applied unless AUTH_TIME asks for authenticated ones. -/
theorem applyFrame_of_unsigned_time (hauthed : f.authed = false) :
    applyFrame f s = if s.tb.bcnWord.bit 28 then s else beaconTime f s := by
  simp only [applyFrame, type_ne_command htype, hauthed, Bool.not_false, Bool.and_true, Bool.false_eq_true, or_self, false_and,
    if_false]

end

end

/-! ## The close of a slot (06 R236, R237) -/

/-- The next slot begins where the one that closes in the frame in progress ends. -/
def nextSlotBegun (s : State) : State :=
  modBeacon (fun b => { b with slotEnd := b.slotEnd + slotPeriod s }) (advanceTo (ceilDiv s.tb.beacon.slotEnd 64) s)

@[simp] theorem nextSlotBegun_badSlots (s : State) : (nextSlotBegun s).tb.beacon.badSlots = s.tb.beacon.badSlots := by
  simp only [nextSlotBegun, modBeacon, advanceTo_tb]

section
variable {s : State}

theorem exec_beaconSlotClose_of_open (h : slotCloses s = false) : exec .beaconSlotClose s = .next s :=
  congrArg Host.Outcome.next (if_pos (by rw [h]; rfl))

variable (hcloses : slotCloses s = true)
include hcloses

theorem exec_beaconSlotClose_of_good (hgood : s.tb.beacon.slotGood = true) :
    exec .beaconSlotClose s =
      .next (modBeacon (fun b => { b with slotGood := false, badRun := 0 }) (nextSlotBegun s)) := by
  change execBeaconSlotClose s = _
  simp only [execBeaconSlotClose, hcloses, hgood, Bool.not_true, Bool.false_eq_true, if_false, if_true, nextSlotBegun]

variable (hbad : s.tb.beacon.slotGood = false)
include hbad

theorem exec_beaconSlotClose_of_bad (hrun : s.tb.beacon.badRun < 2) :
    exec .beaconSlotClose s = .next (modBeacon
      (fun b => { b with badSlots := satInc b.badSlots, badRun := s.tb.beacon.badRun + 1 }) (nextSlotBegun s)) := by
  have hkept : s.tb.beacon.badRun + 1 < 3 := Nat.succ_lt_succ hrun
  change execBeaconSlotClose s = _
  simp only [execBeaconSlotClose, hcloses, hbad, hkept, Bool.not_true, Bool.false_eq_true, if_false, if_true, nextSlotBegun]

/-- The third bad slot in a row loses the beacon. -/
theorem beaconSlotClose_loses (hrun : 2 ≤ s.tb.beacon.badRun) :
    Completes .beaconSlotClose s (fun t => t.tb.beacon.state = .search ∧ t.tb.beacon.run = [] ∧
      t.tb.beacon.badSlots = satInc s.tb.beacon.badSlots) := by
  have hlost : ¬ s.tb.beacon.badRun + 1 < 3 := Nat.not_lt.mpr (Nat.succ_le_succ hrun)
  refine ⟨_, rfl, ?_⟩
  simp only [hcloses, hbad, hlost, Bool.not_true, Bool.false_eq_true, if_false, crit_tb]
  exact ⟨rfl, rfl, congrArg satInc (nextSlotBegun_badSlots s)⟩

end

/-- Settles O45: both rows receive the frame; the first cause that holds decides, and a sound frame goes by its type. -/
theorem beaconEventsComplete : Obligations.BeaconEventsComplete := by
  intro f s v
  refine ⟨rfl, fun hoff => congrArg Host.Outcome.next (beaconReceive_of_off hoff), fun hon =>
    ⟨fun hc => congrArg Host.Outcome.next (beaconReceive_of_unchecked hon hc),
      fun hc hm => congrArg Host.Outcome.next (beaconReceive_of_violation hon hc hm),
      fun hc hm hl => congrArg Host.Outcome.next (beaconReceive_of_nonlinear hon hc hm hl),
      fun hc hm hl h1 h2 => congrArg Host.Outcome.next (beaconReceive_of_unknown_type hon hc hm hl h1 h2),
      fun hc hm hl ht => ⟨fun hs => congrArg Host.Outcome.next (beaconReceive_of_unsuited hon hc hm hl ht hs),
        fun hs hr => congrArg Host.Outcome.next (beaconReceive_of_reserved_set hon hc hm hl ht hs hr)⟩,
      fun hc hm hl hform => ?_⟩,
    fun hcloses => ⟨exec_beaconSlotClose_of_good hcloses, exec_beaconSlotClose_of_bad hcloses, beaconSlotClose_loses hcloses⟩,
    exec_beaconSlotClose_of_open⟩
  have happly : (f.type = 1 ∨ f.type = 2) → ∀ {t : State}, applyFrame f v = t → exec (.beaconTimeFrame f) s = .next t :=
    fun ht _ h => congrArg Host.Outcome.next ((beaconReceive_of_sound hon hc hm hl ht hform).trans h)
  exact ⟨fun ht ha hword => happly (.inl ht) ((applyFrame_of_unsigned_time ht ha).trans (if_neg (ne_true_of_eq_false hword))),
    fun ht ha hword => happly (.inl ht) ((applyFrame_of_unsigned_time ht ha).trans (if_pos hword)),
    fun ht ha hmac => happly (.inl ht) (applyFrame_of_signed_time ht ha hmac),
    fun ht hmac => happly (.inr ht) (applyFrame_of_command ht hmac),
    fun hsigned hmac => happly (hsigned.symm.imp_left And.left) (applyFrame_of_mac_wrong hsigned hmac)⟩

end Sys2Proof.Machine
end

section
/-! SUPPORT and CLAIMS. The commands of class 0x07: what each accepted one does and returns (07, "Commands and parameter
blocks"). -/

namespace Sys2Proof.Machine
open Sys2Proof

/-! ## RING_MC_STAGE (07 R283) -/

/-- The STAGE message that takes the words of a RING_MC_STAGE to the hubs that its packet names (07 Table 7.6). -/
def stageMessage (p q : Packet) : Message :=
  { kind := 0x0A, cls := 2, target := if q.bcast then none else some q.target, side := none
    payload := p.w 0 :: p.params.drop 1 }

section
variable {op : Op} {p q : Packet} {s : State} (hread : readStaged (p.params.drop 1) = .command op q)
include hread

/-- A packet for this hub is staged here, and sent on if it is for the others as well. -/
theorem ringMcStage_of_here {t : State} (hhere : forThisHub q s = true)
    (hstaged : stagePacket (p.w 0) { words := p.params.drop 1, op := op, packet := q } s = .ok t) :
    rulesRingMcStage.run p s = .done (if q.bcast then send (stageMessage p q) t else t) [] (now s) := by
  simp only [rulesRingMcStage, hread, hhere, hstaged, stageMessage]
  cases q.bcast <;> rfl

/-- A packet for one other member is sent to it. -/
theorem ringMcStage_of_away (haway : forThisHub q s = false) (hone : q.bcast = false) (hrole : s.ring.mrole ≠ .refused)
    (hmember : Nat.testBit (memberMask s) q.target.toNat = true) :
    rulesRingMcStage.run p s = .done (send (stageMessage p q) s) [] (now s) := by
  have hjoined : (s.ring.mrole == .refused) = false := beq_eq_false_iff_ne.mpr hrole
  simp only [rulesRingMcStage, hread, haway, hone, hjoined, hmember, stageMessage]
  rfl

end

/-! ## RING_MC_PREPARE (07 R284) -/

/-- The master of a started hub without a change under way prepares one for a commit tick far enough ahead. -/
theorem ringMcPrepare_of_free {p : Packet} {s : State} (hmaster : isMaster s = true) (hstarted : s.tb.started = true)
    (hnone : s.ring.mc.pending = none) (hstate : s.ring.mc.state ≠ .prepared)
    (hfar : now s + frameLen * max 16 (s.ring.policy0.field 7 0 + 4) ≤ (prepareOf p).c) :
    rulesRingMcPrepare.run p s = .done (announcePrepare (prepareOf p) s) [] (prepareOf p).c := by
  refine if_neg ?_
  simp [hmaster, hstarted, hnone, hstate, hfar]

/-- Settles O24: each accepted command by the outcome of its own rules; the two of a mode change have their cases above. -/
theorem ringCommandsComplete : Obligations.RingCommandsComplete := by
  intro p s u
  exact ⟨fun h => congrArg Host.Outcome.next (takeCommand_done h rfl),
    fun h => congrArg Host.Outcome.next (takeCommand_done h rfl),
    fun h => congrArg Host.Outcome.next (takeCommand_done h rfl),
    fun h => congrArg Host.Outcome.next (takeCommand_done h rfl),
    fun h => congrArg Host.Outcome.next (takeCommand_done h rfl),
    fun _ _ _ h hread =>
      ⟨fun hhere hstaged => congrArg Host.Outcome.next (takeCommand_done h (ringMcStage_of_here hread hhere hstaged)),
        fun haway hone hrole hmember =>
          congrArg Host.Outcome.next (takeCommand_done h (ringMcStage_of_away hread haway hone hrole hmember))⟩,
    fun h hmaster hstarted hnone hstate hfar =>
      congrArg Host.Outcome.next (takeCommand_done h (ringMcPrepare_of_free hmaster hstarted hnone hstate hfar)),
    fun h => congrArg Host.Outcome.next (takeCommand_done h rfl),
    fun h => congrArg Host.Outcome.next (takeCommand_done h rfl)⟩

end Sys2Proof.Machine
end

section
/-! SUPPORT and CLAIMS. The rows of time transfer over a side: the messages of an exchange, a state record's block, and the edge
reports of an asymmetry measurement (07, "Time transfer"). -/

namespace Sys2Proof.Machine
open Sys2Proof

/-! ## The exchange (07 R257, R258, R260) -/

section
variable {g : Fin 3} {q : BitVec 4} {s : State}

theorem exec_followReceive_of_current (t1 : Nat) (h : (transferOf s g).rxSeq = some q) :
    exec (.followReceive g q t1) s = .next (modTransfer g (fun x => { x with t1 := some (ts48 t1) }) s) :=
  congrArg Host.Outcome.next (if_pos h)

/-- A FOLLOW of another exchange than the one under way changes nothing. -/
theorem exec_followReceive_of_other (t1 : Nat) (h : (transferOf s g).rxSeq ≠ some q) :
    exec (.followReceive g q t1) s = .next s :=
  congrArg Host.Outcome.next (if_neg h)

theorem exec_dreqReceive_of_current (stamp : Nat) (h : (transferOf s g).txSeq = q) :
    exec (.dreqReceive g q stamp) s = .next (sendControl g (ttPayload 4 q.toNat stamp) s) :=
  congrArg Host.Outcome.next (if_pos h)

/-- A DREQ of another exchange than the last one begun is not answered. -/
theorem exec_dreqReceive_of_other (stamp : Nat) (h : (transferOf s g).txSeq ≠ q) :
    exec (.dreqReceive g q stamp) s = .next s :=
  congrArg Host.Outcome.next (if_neg h)

/-- The DRESP of the exchange under way completes it, once, after its FOLLOW. -/
theorem exec_drespReceive_of_current {t1 : Nat} (t4 : Nat) (ht1 : (transferOf s g).t1 = some t1)
    (hseq : (transferOf s g).rxSeq = some q) (hopen : (transferOf s g).rxDone = false) :
    exec (.drespReceive g q t4) s = .next (completeExchange g t1 (ts48 t4) s) := by
  change execDrespReceive g q t4 s = _
  simp only [execDrespReceive, ht1, hseq, hopen, and_self, if_true]

end

/-! ## Edge reports (07 R266) -/

section
variable {side : Side} {src : Word} {et e64 : Nat} {s : State}

/-- In a running measurement a frame that matches none of the hub's own waits for its match. -/
theorem exec_edgeReport_of_unmatched {m : AsymMeasure} (hm : asymOf s side = some m)
    (hown : m.own.find? (fun x => x.matches { srcId := src, edgeTime := et, edge64 := e64 }) = none) :
    exec (.edgeReport side src et e64) s = .next (setAsym side
      (some { m with neighbour := m.neighbour ++ [{ srcId := src, edgeTime := et, edge64 := e64 }] }) s) := by
  change execEdgeReport side src et e64 s = _
  simp only [execEdgeReport, hm, hown]

theorem exec_edgeReport_of_matched {m : AsymMeasure} {x : Flash} (hm : asymOf s side = some m)
    (hown : m.own.find? (fun y => y.matches { srcId := src, edgeTime := et, edge64 := e64 }) = some x) :
    exec (.edgeReport side src et e64) s = .next (pairFlash side x { srcId := src, edgeTime := et, edge64 := e64 }
      { m with own := m.own.erase x } s) := by
  change execEdgeReport side src et e64 s = _
  simp only [execEdgeReport, hm, hown]

/-- Without a measurement of the hub's own the neighbour is asking. -/
theorem exec_edgeReport_of_idle (hm : asymOf s side = none) :
    exec (.edgeReport side src et e64) s = .next (askEdge side { srcId := src, edgeTime := et, edge64 := e64 } s) := by
  change execEdgeReport side src et e64 s = _
  simp only [execEdgeReport, hm]

section
variable {f : Flash} (hopen : ((askedOf s side).map (fun a => a.answered && a.flash.matches f)).getD false = false)
include hopen

/-- A question about the flash of the hub's last frame is answered with that frame. -/
theorem askEdge_of_seen {x : Flash} (hx : (lastFlash s).filter (fun y => y.matches f) = some x) :
    askEdge side f s = sendEdge side x (setAsked side (some { flash := f, answered := true }) s) := by
  simp only [askEdge, hopen, hx, Bool.false_eq_true, if_false]

/-- A question about another flash is noted, for a frame that is still to come. -/
theorem askEdge_of_unseen (hx : (lastFlash s).filter (fun y => y.matches f) = none) :
    askEdge side f s = setAsked side (some { flash := f, answered := false }) s := by
  simp only [askEdge, hopen, hx, Bool.false_eq_true, if_false]

end

end

/-- Settles O46: SYNC and STATE always act; the other rows go by the exchange under way, or by the measurement and the question
that an edge report meets. -/
theorem timeTransferEventsComplete : Obligations.TimeTransferEventsComplete := by
  intro g q s
  exact ⟨fun _ _ => rfl, exec_followReceive_of_current, exec_followReceive_of_other, exec_dreqReceive_of_current,
    exec_dreqReceive_of_other, fun _ t4 ht1 hseq hopen => exec_drespReceive_of_current t4 ht1 hseq hopen, fun _ _ => rfl,
    fun _ _ _ _ _ hm => ⟨exec_edgeReport_of_unmatched hm, fun _ => exec_edgeReport_of_matched hm⟩,
    fun _ _ _ _ hm hopen =>
      ⟨fun _ hx => (exec_edgeReport_of_idle hm).trans (congrArg Host.Outcome.next (askEdge_of_seen hopen hx)),
        fun hx => (exec_edgeReport_of_idle hm).trans (congrArg Host.Outcome.next (askEdge_of_unseen hopen hx))⟩⟩

end Sys2Proof.Machine
end

section
/-! SUPPORT and CLAIMS. The rows of the ring's membership and mastership: announcements, the loss of the master, the end of
FORMING, a handover, a lasting mismatch (07, "Membership and mastership"). -/

namespace Sys2Proof.Machine
open Sys2Proof

section
variable {s : State}

/-! ## Announcements (07 R255, R270 to R276) -/

/-- The hub's own ANNOUNCE, back from around the ring, gives its transit time and length. -/
theorem exec_announce_of_own (side : Side) {a : Announce} (hid : a.id = s.ring.hubId) (huid : a.uid = Config.uid) :
    exec (.announce side a) s = .next (updateRingState
      { s with ring := { s.ring with latencyNs := a.transitNs, ownHops := some a.hops } }) :=
  congrArg Host.Outcome.next (if_pos ⟨hid, huid⟩)

theorem exec_announce_of_other (side : Side) {a : Announce} (hid : a.id ≠ s.ring.hubId) :
    exec (.announce side a) s = .next (compareGenerations (updateStable (updateRingState (offerHandover
      (personalityCheck a (heedMaster a (noteMember side a (refusalCheck a s)))))))) := by
  change execAnnounce side a s = _
  simp only [execAnnounce, hid, false_and, if_false]

/-! ## The loss of the master and the end of FORMING (07 R273, R275) -/

/-- The loss of another hub as master makes an election due: at the frame boundary of a started hub, at once otherwise. -/
theorem exec_masterLost_of_other {m : HubId} (hm : s.ring.master = some m) (hother : m ≠ s.ring.hubId) :
    exec .masterLost s = .next (if s.tb.started then { s with ring := { s.ring with electDue := true } }
      else electMaster { s with ring := { s.ring with electDue := true } }) := by
  change execMasterLost s = _
  simp only [execMasterLost, hm, hother, if_false]

theorem exec_formingTimeout_of_named {a : Announce} (hforming : s.ring.rstate = .forming) (hm : s.ring.master = none)
    (hrole : s.ring.mrole ≠ .refused) (ha : namedMaster s = some a) : exec .formingTimeout s = .next (formRing a s) := by
  change execFormingTimeout s = _
  simp only [execFormingTimeout, hforming, hm, hrole, ha, Option.isNone_none, ne_eq, not_false_eq_true, and_self, if_true]

/-! ## Handovers (07 R271, R272) -/

/-- A handover to a hub that is no longer a member lapses at its boundary. -/
theorem exec_ringHandoverBoundary_of_gone {id : HubId} {h : Nat} (hh : s.ring.handover = some (id, h))
    (hother : id ≠ s.ring.hubId) (hgone : s.ring.members.find? (fun m => m.announce.id == id) = none) :
    exec .ringHandoverBoundary s =
      .next (let v := advanceTo h s; { v with ring := { v.ring with handover := none } }) := by
  change execRingHandoverBoundary s = _
  simp only [execRingHandoverBoundary, hh, hother, hgone, Option.map_none, if_false]

/-- The hub named becomes the master at the boundary. -/
theorem exec_ringHandoverBoundary_of_own {h : Nat} (hh : s.ring.handover = some (s.ring.hubId, h)) :
    let v := changeMaster (ownAnnounce s) 1 (advanceTo h s)
    exec .ringHandoverBoundary s = .next { v with tb := { v.tb with role := roleOf v } } := by
  change execRingHandoverBoundary s = _
  simp only [execRingHandoverBoundary, hh, ne_eq, not_true_eq_false, and_false, if_true, if_false]

end

/-- Settles O47: ANNOUNCE_PERIOD and HANDOVER always act, MISMATCH_RESET goes by its guard alone (07 R277), and every other row
by its own lemma above. -/
theorem membershipEventsComplete : Obligations.MembershipEventsComplete := by
  intro s
  exact ⟨rfl, fun side _ => exec_announce_of_own side, fun side _ => exec_announce_of_other side,
    fun _ hm hother =>
      ⟨fun hstarted => (exec_masterLost_of_other hm hother).trans (congrArg Host.Outcome.next (if_pos hstarted)),
        fun hstarted => (exec_masterLost_of_other hm hother).trans
          (congrArg Host.Outcome.next (if_neg (ne_true_of_eq_false hstarted)))⟩,
    fun _ => exec_formingTimeout_of_named, fun _ _ => rfl,
    fun _ _ hh hother _ hgone => exec_ringHandoverBoundary_of_gone hh hother hgone,
    fun _ => exec_ringHandoverBoundary_of_own, fun hdue => congrArg Host.Outcome.next (if_pos hdue),
    fun hdue => congrArg Host.Outcome.next (if_neg (ne_true_of_eq_false hdue))⟩

end Sys2Proof.Machine
end

section
/-! SUPPORT and CLAIMS. The rows of a wrapped ring: a hub's report of a break, a side that has stayed up, and the end of the loop
(07, "Breaks, wraps and unwraps"). -/

namespace Sys2Proof.Machine
open Sys2Proof

section
variable {s : State}

/-! ## WRAP (07 R278) -/

/-- A hub's first report of its EAST side counts that hop as down. -/
theorem exec_wrap_east_of_new {hub : HubId} (hother : hub ≠ s.ring.hubId) (hnew : s.ring.downHops.contains hub = false) :
    exec (.wrap hub .east) s =
      .next (updateRingState { s with ring := { s.ring with downHops := s.ring.downHops ++ [hub] } }) := by
  refine congrArg (fun t => Host.Outcome.next (updateRingState t)) (if_neg ?_)
  simpa [hother] using hnew

theorem exec_wrap_west (hub : HubId) : exec (.wrap hub .west) s = .next (updateRingState s) :=
  congrArg (fun t => Host.Outcome.next (updateRingState t)) (if_pos (.inl rfl))

/-! ## The end of a wrap (07 R281; assumption 67) -/

/-- The EAST side, up without a lost exchange for a second, announces the boundary of its UNWRAP. -/
theorem exec_sideStable_east (hup : (sideOf s .east).up = true) (hwrapped : (sideOf s .east).unwrapped = false)
    (hnone : (sideOf s .east).unwrapAt = none) (hclean : (sideOf s .east).cleanSince + ticksPerSecond ≤ now s) :
    let u := frameLen * ceilDiv (now s + 16 * frameLen) frameLen
    exec (.sideStable .east) s = .next (send
      { kind := 0x04, cls := 0, target := none, side := none, payload := wd (hubNum s * 2 + sideNum .east) :: split64 u }
      (modSide .east (fun x => { x with unwrapAt := some u }) s)) :=
  congrArg Host.Outcome.next (if_pos ⟨rfl, hup, by rw [hwrapped]; rfl, by rw [hnone]; rfl, hclean⟩)

theorem exec_sideStable_west : exec (.sideStable .west) s = .next s :=
  congrArg Host.Outcome.next (if_neg (fun h => absurd h.1 (by decide)))

/-- The UNWRAP of a WEST side ends no loop of this hub. -/
theorem exec_unwrap_west (hub : HubId) (u : Nat) :
    exec (.unwrap hub .west u) s =
      .next (updateRingState { s with ring := { s.ring with downHops := s.ring.downHops.filter (fun h => h != hub) } }) := by
  change execUnwrap hub .west u s = _
  simp only [execUnwrap, reduceCtorEq, false_and, if_false]

/-- The neighbour whose EAST side meets this hub's looping WEST side dates the end of both loops. -/
theorem exec_unwrap_east_of_neighbour {hub : HubId} (u : Nat) (hup : s.ring.west.up = true)
    (hloop : s.ring.west.looping = true) (hhub : recSender s.ring.west.record = hub) :
    exec (.unwrap hub .east u) s =
      .next (updateRingState (let v := modSide .west (fun x => { x with unwrapAt := some u }) s
        { v with ring := { v.ring with downHops := v.ring.downHops.filter (fun h => h != hub) } })) := by
  change execUnwrap hub .east u s = _
  simp only [execUnwrap, hup, hloop, hhub, and_self, if_true]

theorem exec_unwrapBoundary_of_dated {side : Side} {u : Nat} (hu : (sideOf s side).unwrapAt = some u) :
    let v := modSide side (fun x => { x with looping := false, unwrapped := true, unwrapAt := none }) (advanceTo u s)
    exec (.unwrapBoundary side) s =
      .next (updateRingState (info 0x0704 (sideNum side) (wd (sideNum side) :: split64 u) v)) := by
  change execUnwrapBoundary side s = _
  simp only [execUnwrapBoundary, hu]

end

/-- Settles O48: each row by its own lemma above. -/
theorem wrapEventsComplete : Obligations.WrapEventsComplete := by
  intro s
  exact ⟨fun _ => exec_wrap_east_of_new, exec_wrap_west, exec_sideStable_east, exec_sideStable_west, exec_unwrap_west,
    fun _ u => exec_unwrap_east_of_neighbour u, fun _ _ => exec_unwrapBoundary_of_dated⟩

end Sys2Proof.Machine
end

section
/-! SUPPORT and CLAIMS. The rows of a hub-wide mode change: its messages, the master's deadline, and the commit tick (07,
"Configuration and mode changes"). -/

namespace Sys2Proof.Machine
open Sys2Proof

section
variable {s : State}

/-! ## STAGE (07 R283) -/

section
variable {g : Word} {ws : List Word} {op : Op} {q : Packet} (hread : readStaged ws = .command op q)
  (hhere : forThisHub q s = true)
include hread hhere

theorem exec_stageMsg_of_checked {t : State} (ht : stagePacket g { words := ws, op := op, packet := q } s = .ok t) :
    exec (.stageMsg g ws) s = .next t := by
  change execStageMsg g ws s = _
  simp only [execStageMsg, hread, hhere, ht, if_true]

/-- A packet for this hub that fails its check leaves no trace. -/
theorem exec_stageMsg_of_unchecked {e : Rejection}
    (he : stagePacket g { words := ws, op := op, packet := q } s = .error e) : exec (.stageMsg g ws) s = .next s := by
  change execStageMsg g ws s = _
  simp only [execStageMsg, hread, hhere, he, if_true]

end

/-! ## PREPARE and ACK (07 R285, R287, R288) -/

theorem exec_prepare_of_expected {p : Prepare} (h : expected p s = true) :
    exec (.prepare p) s = .next (send { kind := 0x06, cls := 1, target := (answerPrepare p s).1.ring.master, side := none
                                        payload := [p.g, wd ((answerPrepare p s).2.getD 0)] } (answerPrepare p s).1) :=
  congrArg Host.Outcome.next (if_neg (by rw [h]; decide))

theorem exec_prepare_of_unexpected {p : Prepare} (h : expected p s = false) :
    exec (.prepare p) s = .next (notExpected p s) :=
  congrArg Host.Outcome.next (if_pos (by rw [h]; rfl))

theorem notExpected_of_staging {p : Prepare} (hstate : s.ring.mc.state = .staging) (hg : s.ring.mc.g = p.g) :
    notExpected p s = { s with ring := { s.ring with mc := { s.ring.mc with c := p.c } } } :=
  if_pos ⟨hstate, hg⟩

theorem notExpected_of_other {p : Prepare} (h : s.ring.mc.state ≠ .staging ∨ s.ring.mc.g ≠ p.g) : notExpected p s = s :=
  if_neg (not_and_or.mpr h)

/-- An acknowledgement of the pending change counts while the master has not decided. -/
theorem noteAck_of_undecided (hub : HubId) (nak : Bool) {m : McPending} (hm : s.ring.mc.pending = some m)
    (hopen : m.decided = false) :
    noteAck hub m.g nak s = { s with ring := { s.ring with mc := { s.ring.mc with
      pending := some (if nak then { m with naked := setBit m.naked hub.toNat }
        else { m with acked := setBit m.acked hub.toNat }) } } } := by
  simp only [noteAck, hm, hopen, Bool.false_eq_true, not_false_eq_true, and_self, if_true]

/-! ## The deadline (07 R287) -/

/-- The state in which the master has decided its pending change: the deadline has passed, and `m` says what it decided. -/
def decidedAs (m : McPending) (s : State) : State :=
  let v := advanceTo m.deadline s
  { v with ring := { v.ring with mc := { v.ring.mc with pending := some m } } }

/-- The members that have answered PREPARE with neither ACK nor NAK. -/
def missingMembers (m : McPending) : Word := m.expect &&& ~~~(m.acked ||| m.naked)

/-- The members that have answered PREPARE with NAK. -/
def refusingMembers (m : McPending) : Word := m.expect &&& m.naked

section
variable {m : McPending} (hm : s.ring.mc.pending = some m) (hopen : m.decided = false)
include hm hopen

theorem exec_modeChangeDeadline_of_agreed (hmissing : missingMembers m = 0) (hrefusing : refusingMembers m = 0) :
    exec .modeChangeDeadline s = .next (send
      { kind := 0x07, cls := 1, target := none, side := none, payload := m.g :: split64 m.c }
      (decidedAs { m with decided := true } s)) := by
  change execModeChangeDeadline s = _
  rw [missingMembers] at hmissing
  rw [refusingMembers] at hrefusing
  simp only [execModeChangeDeadline, hm, hopen, hmissing, hrefusing, Bool.false_eq_true, and_self, if_true, if_false, decidedAs]

theorem exec_modeChangeDeadline_of_short (hshort : missingMembers m ≠ 0 ∨ refusingMembers m ≠ 0) :
    exec .modeChangeDeadline s = .next (crit 0x0707 0 [m.g, missingMembers m, refusingMembers m]
      (discardSet m.g (sendAbort m.g (decidedAs { m with decided := true, aborting := true } s)))) := by
  change execModeChangeDeadline s = _
  rw [missingMembers, refusingMembers] at hshort
  simp only [execModeChangeDeadline, hm, hopen, not_and_or.mpr hshort, Bool.false_eq_true, if_false, decidedAs,
    missingMembers, refusingMembers]

end

/-! ## ABORT and the commit tick (07 R286, R288) -/

theorem exec_abort_of_own (h : s.ring.mc.state ≠ .idle) :
    exec (.abort s.ring.mc.g) s = .next { s with ring := { s.ring with mc :=
      { s.ring.mc with state := .idle, g := 0, c := 0, staged := [], units := [] } } } :=
  congrArg Host.Outcome.next (if_pos ⟨h, rfl⟩)

theorem exec_abort_of_other {g : Word} (h : s.ring.mc.state = .idle ∨ g ≠ s.ring.mc.g) :
    exec (.abort g) s = .next s :=
  congrArg Host.Outcome.next (if_neg (fun ⟨hstate, hg⟩ => h.elim hstate (fun hne => hne hg.symm)))

theorem exec_commitTick_of_due (hstarted : s.tb.started = true) (hdue : commitDue (s.tb.frameTick + frameLen) s = true) :
    exec .commitTick s = .next (commitSet false s) :=
  congrArg Host.Outcome.next (if_pos (by rw [hstarted, hdue]; rfl))

theorem exec_commitTick_of_not_due (hdue : commitDue (s.tb.frameTick + frameLen) s = false) :
    exec .commitTick s = .next s :=
  congrArg Host.Outcome.next (if_neg (by rw [hdue, Bool.and_false]; decide))

/-- A prepared set that is handed over late is discarded and reported, the generation kept (01 R27; 07 R286). -/
theorem commitSet_late_of_prepared (h : s.ring.mc.state = .prepared) :
    commitSet true s = crit 0x0709 0 [s.ring.mc.g, s.ring.generation] { s with ring := { s.ring with
      mc := { s.ring.mc with state := .idle, g := 0, c := 0, staged := [], units := [] } } } := by
  simp only [commitSet, h, if_true]

end

/-- Settles O49: COMMIT changes nothing; every other row by its own lemmas above. -/
theorem modeChangeEventsComplete : Obligations.ModeChangeEventsComplete := by
  intro s
  exact ⟨fun _ _ _ _ hread hhere =>
      ⟨fun _ => exec_stageMsg_of_checked hread hhere, fun _ => exec_stageMsg_of_unchecked hread hhere⟩,
    fun _ => exec_prepare_of_expected,
    fun _ h => ⟨fun hstate hg => (exec_prepare_of_unexpected h).trans
        (congrArg Host.Outcome.next (notExpected_of_staging hstate hg)),
      fun hother => (exec_prepare_of_unexpected h).trans (congrArg Host.Outcome.next (notExpected_of_other hother))⟩,
    fun hub _ hm hopen => ⟨congrArg Host.Outcome.next (noteAck_of_undecided hub false hm hopen),
      fun _ => congrArg Host.Outcome.next (noteAck_of_undecided hub true hm hopen)⟩,
    fun _ hm hopen => ⟨exec_modeChangeDeadline_of_agreed hm hopen, exec_modeChangeDeadline_of_short hm hopen⟩,
    fun _ _ => rfl, exec_abort_of_own, fun _ => exec_abort_of_other, exec_commitTick_of_due,
    fun _ => exec_commitTick_of_not_due, commitSet_late_of_prepared⟩

end Sys2Proof.Machine
end

section
/-! SUPPORT and CLAIMS. The rows of the power supply: PORST_N, the rails, VBAT, the release of the internal reset, standby
(18). -/

namespace Sys2Proof.Machine
open Sys2Proof

/-! ## What the loss and the return of a rail leave unchanged (18 Tables 18.2, 18.4) -/

@[simp] theorem bankLost_pwr (k : Fin 12) (s : State) : (bankLost k s).pwr = s.pwr := by
  unfold bankLost
  split
  · rfl
  · split <;> rfl

@[simp] theorem bankLost_host (k : Fin 12) (s : State) : (bankLost k s).host = s.host := by
  unfold bankLost
  split
  · rfl
  · split <;> rfl

theorem foldl_driveBall_pwr (l : List (Fin 8)) (s : State) : (l.foldl (fun t n => driveBall n t) s).pwr = s.pwr := by
  induction l generalizing s with
  | nil => rfl
  | cons n l ih => exact ih (driveBall n s)

@[simp] theorem bankBack_pwr (k : Fin 12) (s : State) : (bankBack k s).pwr = s.pwr := by
  unfold bankBack
  split
  · exact foldl_driveBall_pwr _ s
  · rfl

/-! ## PORST_N (18 "Reset and straps", R727) -/

section
variable {s : State}

theorem exec_porstAssert_of_standby (hp : s.pwr.porstN = true) (h : s.pwr.standby = true) :
    exec .porstAssert s = .next { s with pwr := { s.pwr with porstN := false } } :=
  congrArg Host.Outcome.next ((if_neg (by rw [hp]; decide)).trans (if_pos h))

theorem exec_porstAssert_of_awake (hp : s.pwr.porstN = true) (h : s.pwr.standby = false) :
    exec .porstAssert s = .next (chipReset 0 false 1 [] (some 2) { s with pwr := { s.pwr with porstN := false } }) :=
  congrArg Host.Outcome.next ((if_neg (by rw [hp]; decide)).trans (if_neg (ne_true_of_eq_false h)))

theorem exec_porstRelease_of_no_scan (hp : s.pwr.porstN = false) (h : s.ts.scanUsed = false) :
    exec .porstRelease s = .next { s with pwr := { s.pwr with porstN := true } } :=
  congrArg Host.Outcome.next ((if_neg (ne_true_of_eq_false hp)).trans (if_neg (ne_true_of_eq_false h)))

/-! ## Rails (18 R707, R709, R710; assumption 111) -/

/-- The state once the loss of a rail has been seen and counted, before the hub's action on it. -/
def railDown (k : Fin 12) (s : State) : State :=
  countLedger 5 1 (bankLost k { s with pwr := { s.pwr with rails := vset s.pwr.rails k false } })

/-- The state once a rail has come back. -/
def railUp (k : Fin 12) (s : State) : State := bankBack k { s with pwr := { s.pwr with rails := vset s.pwr.rails k true } }

section
variable {k : Fin 12} (hvalid : vget s.pwr.rails k = true) (hvbat : k.val ≠ 11) (hawake : s.pwr.standby = false)
include hvalid hvbat hawake

/-- A rail's brown-out while the hub is awake is counted; a stopping one resets the hub, except while a cold reset stands. -/
theorem exec_railBrownout_of_awake : exec (.railBrownout k false) s = .next (
    if stoppingRail k then
      if s.pwr.held && s.host.lastReset == 0 then railDown k s else chipReset 0 false 2 [wd k.val] (some 2) (railDown k s)
    else if s.pwr.held then railDown k s
    else crit 0x0111 0 (wd k.val :: split64 (now (railDown k s))) (railAction k (railDown k s))) := by
  change execRailBrownout k false s = _
  simp only [execRailBrownout, noteBreach, hvalid, hvbat, hawake, bankLost_pwr, bankLost_host, countLedger_pwr, countLedger_host,
    Bool.not_false, Bool.not_true, Bool.false_eq_true, or_self, if_true, if_false, railDown]

theorem exec_railBrownout_of_stopping (hstop : stoppingRail k = true) (hcold : s.pwr.held = false ∨ s.host.lastReset ≠ 0) :
    exec (.railBrownout k false) s = .next (chipReset 0 false 2 [wd k.val] (some 2) (railDown k s)) := by
  have hwarm : (s.pwr.held && s.host.lastReset == 0) = false := by
    rcases hcold with h | h
    · rw [h, Bool.false_and]
    · rw [beq_eq_false_iff_ne.mpr h, Bool.and_false]
  rw [exec_railBrownout_of_awake hvalid hvbat hawake, if_pos hstop, hwarm]
  rfl

theorem exec_railBrownout_of_other (hstop : stoppingRail k = false) (hheld : s.pwr.held = false) :
    exec (.railBrownout k false) s =
      .next (crit 0x0111 0 (wd k.val :: split64 (now (railDown k s))) (railAction k (railDown k s))) := by
  rw [exec_railBrownout_of_awake hvalid hvbat hawake, hstop, hheld]
  rfl

end

/-- PWR_RAIL_RESTORED reports no stopping rail, no VBAT, and nothing while the internal reset stands. -/
theorem exec_railValid_of_invalid {k : Fin 12} (hinvalid : vget s.pwr.rails k = false) :
    exec (.railValid k false) s = .next (if k.val = 11 ∨ s.pwr.held = true ∨ stoppingRail k = true then railUp k s
      else info 0x0112 0 (wd k.val :: split64 (now (railUp k s))) (railUp k s)) := by
  change execRailValid k false s = _
  simp only [execRailValid, noteBreach, hinvalid, bankBack_pwr, Bool.not_false, Bool.false_eq_true, if_true, if_false, railUp]

/-! ## The release of the internal reset (18 R708, R712) -/

theorem exec_internalResetRelease_of_ready (st : Word) (h : mayRelease s = true) :
    let v := applyStraps st (restoreLedger { s with
      pwr := { s.pwr with held := false }, ao := { s.ao with incarnation := s.ao.incarnation + 1 } })
    exec (.internalResetRelease st) s = .next (checkStraps st (if v.ao.zeroPending then zeroise 3 v else v)) :=
  congrArg Host.Outcome.next (if_neg (by rw [h]; decide))

theorem exec_internalResetRelease_of_not_ready (st : Word) (h : mayRelease s = false) :
    exec (.internalResetRelease st) s = .next s :=
  congrArg Host.Outcome.next (if_pos (by rw [h]; rfl))

/-! ## Standby (18 R724 to R727) -/

theorem standbyEntry_completes (h : s.pwr.standby = false) :
    Completes .standbyEntry s (fun t => t.pwr.standby = true ∧ t.pwr.stbyN = false ∧ t.pwr.pwrEn = false ∧
      t.mem.mstate = .selfRefresh) :=
  ⟨_, congrArg Host.Outcome.next (if_neg (ne_true_of_eq_false h)), rfl, rfl, rfl, rfl⟩

theorem standbyWake_completes (h : s.pwr.standby = true) :
    Completes .standbyWake s (fun t => t.pwr.standby = false ∧ t.pwr.stbyN = true ∧ t.pwr.pwrEn = true ∧
      t.mem.mstate = .uninit) := by
  refine ⟨_, congrArg Host.Outcome.next (if_neg (by rw [h]; decide)), ?_⟩
  simp only [info_pwr, info_mem, and_self]

end

/-- Settles O60: VBAT_LOSS always acts; every other row by its own lemmas above. -/
theorem powerEventsComplete : Obligations.PowerEventsComplete := by
  intro s
  exact ⟨fun hp => ⟨exec_porstAssert_of_standby hp, exec_porstAssert_of_awake hp⟩, exec_porstRelease_of_no_scan,
    fun _ hvalid hvbat hawake =>
      ⟨exec_railBrownout_of_stopping hvalid hvbat hawake, exec_railBrownout_of_other hvalid hvbat hawake⟩,
    fun _ hinvalid => ⟨fun h => (exec_railValid_of_invalid hinvalid).trans (congrArg Host.Outcome.next (if_pos h)),
      fun hvbat hheld hstop => (exec_railValid_of_invalid hinvalid).trans (congrArg Host.Outcome.next
        (if_neg (not_or.mpr ⟨hvbat, not_or.mpr ⟨ne_true_of_eq_false hheld, ne_true_of_eq_false hstop⟩⟩)))⟩,
    rfl, exec_internalResetRelease_of_ready, exec_internalResetRelease_of_not_ready, standbyEntry_completes,
    standbyWake_completes⟩

end Sys2Proof.Machine
end

section
/-! SUPPORT and CLAIMS. The commands of class 0x08: what each accepted one does and returns on a pair unit (08, "Commands and
parameter blocks"). -/

namespace Sys2Proof.Machine
open Sys2Proof

/-! ## Commands of a pair unit (08 R296) -/

/-- Out of SOLO the unit is of a pair, and what the rules of the command make of it stands. -/
theorem pairOnly_of_paired {s : State} (hpaired : s.pair.pstate ≠ .solo) (r : Result) : pairOnly s r = r := if_neg hpaired

/-! ## PAIR_HANDOVER (08 R325) -/

/-- An ACTIVE unit hands over to a healthy standby that the pair lanes reach, four frames ahead or more. -/
theorem pairHandover_of_standby {p : Packet} {s : State} (hactive : s.pair.pstate = .active) (hlanes : s.pair.lanesUp = true)
    (hpeer : s.pair.peer.pstate = 2) (hhealthy : s.pair.peer.healthy = true) (hfar : now s + 4 * frameLen ≤ p.w64 0) :
    rulesPairHandover.run p s =
      .done (modPair (fun x => { x with handoverAt := some (p.w64 0) }) s) [] (p.w64 0) :=
  (pairOnly_of_paired (by rw [hactive]; decide) _).trans (if_pos ⟨hactive, hlanes, hpeer, hhealthy, hfar⟩)

/-! ## PAIR_MIRROR_APPLY (08 R337) -/

/-- A unit without authority takes the record that the host hands it. -/
theorem pairMirrorApply_of_follower {s : State} (h : holdsAuthority s = false) (p : Packet) :
    rulesPairMirrorApply.run p s = .done (takeRecord (recordOf p.params s) s) [] (now s) :=
  if_neg (ne_true_of_eq_false h)

/-- Settles O25: each accepted command by the outcome of its own rules, which out of SOLO is not rejected for its state. -/
theorem pairCommandsComplete : Obligations.PairCommandsComplete := by
  intro p s u
  exact ⟨fun h hpaired => congrArg Host.Outcome.next (takeCommand_done h (pairOnly_of_paired hpaired _)),
    fun h hpaired => congrArg Host.Outcome.next (takeCommand_done h (pairOnly_of_paired hpaired _)),
    fun h => congrArg Host.Outcome.next (takeCommand_done h rfl),
    fun h hactive hlanes hpeer hhealthy hfar => congrArg Host.Outcome.next
      (takeCommand_done h (pairHandover_of_standby hactive hlanes hpeer hhealthy hfar)),
    fun h hwaits => congrArg Host.Outcome.next (takeCommand_done h (if_pos hwaits)),
    fun h hpaired => congrArg Host.Outcome.next (takeCommand_done h (pairOnly_of_paired hpaired _)),
    fun h hfollower => congrArg Host.Outcome.next (takeCommand_done h (pairMirrorApply_of_follower hfollower p))⟩

end Sys2Proof.Machine
end

section
/-! SUPPORT and CLAIMS. The rows of the heartbeats: sending a beat, a beat received on each path, and the expiry of a path (08,
"Heartbeats"). -/

namespace Sys2Proof.Machine
open Sys2Proof

section
variable {s : State}

/-! ## Sending (08 R304 to R306) -/

theorem exec_heartbeatPeriod_of_paired (hen : s.pair.en = true) :
    exec .heartbeatPeriod s = .next (beatAt (nextBeat s) (advanceTo (nextBeat s) s)) :=
  congrArg Host.Outcome.next (if_pos hen)

theorem exec_heartbeatPeriod_of_unpaired (hen : s.pair.en = false) : exec .heartbeatPeriod s = .next s :=
  congrArg Host.Outcome.next (if_neg (ne_true_of_eq_false hen))

/-- The state after a beat begun at tick `t`, but for what the pair lanes carry of it. -/
def beatHbx (t : Nat) (s : State) : State :=
  let v := modPair (fun p => { p with beatSeq := p.beatSeq + 1, lastBeat := some t }) s
  { v with out := { v.out with hbx := if vget v.pwr.rails 9 then v.out.hbx ++ [hbxBeat v] else v.out.hbx } }

theorem beatAt_of_lanes_down (t : Nat) (h : s.pair.lanesUp = false) : beatAt t s = beatHbx t s :=
  if_neg (ne_true_of_eq_false h)

theorem beatAt_of_lanes_up (t : Nat) (h : s.pair.lanesUp = true) :
    beatAt t s = (upLanes (beatHbx t s) 2).foldl (fun u l => sendTiming l 0x4C
      (pairBeat (modPair (fun p => { p with beatSeq := p.beatSeq + 1, lastBeat := some t }) s)) u) (beatHbx t s) :=
  if_pos h

/-! ## Receiving (08 R297, R305 to R307) -/

theorem exec_hbxBeatReceive_of_unpaired (beat : BitVec 48) (manchester : Bool) (hen : s.pair.en = false) :
    exec (.hbxBeatReceive beat manchester) s = .next s := by
  change execHbxBeatReceive beat manchester s = _
  simp only [execHbxBeatReceive, hen, Bool.not_false, Bool.true_or, if_true]

theorem exec_hbxBeatReceive_of_violation (beat : BitVec 48) : exec (.hbxBeatReceive beat true) s = .next s := by
  change execHbxBeatReceive beat true s = _
  simp only [execHbxBeatReceive, Bool.or_true, Bool.true_or, if_true]

theorem exec_pairHeartbeatReceive_of_unchecked (beat : BitVec 56) : exec (.pairHeartbeatReceive beat false) s = .next s := by
  change execPairHeartbeatReceive beat false s = _
  simp only [execPairHeartbeatReceive, Bool.not_false, Bool.or_true, if_true]

/-- Bits `hi` to `lo` of a beat of value `n`. -/
def beatField (n hi lo : Nat) : Nat := n / 2 ^ lo % 2 ^ (hi + 1 - lo)

/-- The CRC over the four middle bytes of an HBX beat of value `n` (08 Table 8.1). -/
def beatCrc (n : Nat) : BitVec 8 :=
  crc8 ((List.range 4).map (fun i => BitVec.ofNat 8 (beatField n (39 - 8 * i) (32 - 8 * i))))

/-- What an HBX beat of value `n` says, from the unit `unitB` names (08 Table 8.1). -/
def hbxInfo (n : Nat) (unitB : Bool) : BeatInfo :=
  { seq := beatField n 39 36, pstate := BitVec.ofNat 3 (beatField n 35 33), unitB := unitB, auth := beatField n 31 31 == 1
    healthy := beatField n 30 30 == 1, srcOff := beatField n 28 28 == 1, mirrorSeq := BitVec.ofNat 8 (beatField n 27 20)
    epoch := beatField n 19 8, width := 12, rmaster := false, ready := false }

/-- What a pair-lane heartbeat of value `n` says, from the unit `unitB` names (08 Table 8.2). -/
def laneInfo (n : Nat) (unitB : Bool) : BeatInfo :=
  { seq := beatField n 55 52, pstate := BitVec.ofNat 3 (beatField n 51 49), unitB := unitB, auth := beatField n 47 47 == 1
    healthy := beatField n 46 46 == 1, srcOff := beatField n 44 44 == 1, mirrorSeq := BitVec.ofNat 8 (beatField n 39 32)
    epoch := beatField n 31 0, width := 32, rmaster := beatField n 43 43 == 1, ready := beatField n 42 42 == 1 }

section
variable {beat : BitVec 48} (hen : s.pair.en = true) (hrail : vget s.pwr.rails 9 = true)
  (hsync : beatField beat.toNat 47 40 = 0xD5) (hcrc : (beatCrc beat.toNat).toNat = beatField beat.toNat 7 0)
include hen hrail hsync hcrc

/-- A well-formed HBX beat names this unit's own UNIT, a conflict, or is its peer's. -/
theorem exec_hbxBeatReceive_of_sound :
    exec (.hbxBeatReceive beat false) s = .next (if (beatField beat.toNat 32 32 == 1) == s.pair.unitB then conflictBeat true s
      else validBeat true (now s - 48) (hbxInfo beat.toNat (beatField beat.toNat 32 32 == 1)) s) := by
  have hgood : (!s.pair.en || !vget s.pwr.rails 9 || false || beatField beat.toNat 47 40 != 0xD5
      || (beatCrc beat.toNat).toNat != beatField beat.toNat 7 0) = false := by
    simp [hen, hrail, hsync, hcrc]
  exact congrArg Host.Outcome.next (if_neg (α := State) (ne_true_of_eq_false hgood))

theorem exec_hbxBeatReceive_of_own (hown : (beatField beat.toNat 32 32 == 1) = s.pair.unitB) :
    exec (.hbxBeatReceive beat false) s = .next (conflictBeat true s) := by
  rw [exec_hbxBeatReceive_of_sound hen hrail hsync hcrc, if_pos (beq_iff_eq.mpr hown)]

theorem exec_hbxBeatReceive_of_peer (hpeer : (beatField beat.toNat 32 32 == 1) = !s.pair.unitB) :
    exec (.hbxBeatReceive beat false) s = .next (validBeat true (now s - 48) (hbxInfo beat.toNat (!s.pair.unitB)) s) := by
  rw [exec_hbxBeatReceive_of_sound hen hrail hsync hcrc, hpeer, if_neg (by simp)]

end

section
variable {beat : BitVec 56} (hen : s.pair.en = true)
include hen

/-- A checked heartbeat names this unit's own UNIT, a conflict, or is its peer's. -/
theorem exec_pairHeartbeatReceive_of_checked :
    exec (.pairHeartbeatReceive beat true) s = .next (if (beatField beat.toNat 48 48 == 1) == s.pair.unitB then
      conflictBeat false s
      else validBeat false (now s) (laneInfo beat.toNat (beatField beat.toNat 48 48 == 1)) s) :=
  congrArg Host.Outcome.next (if_neg (α := State) (by simp [hen]))

theorem exec_pairHeartbeatReceive_of_own (hown : (beatField beat.toNat 48 48 == 1) = s.pair.unitB) :
    exec (.pairHeartbeatReceive beat true) s = .next (conflictBeat false s) := by
  rw [exec_pairHeartbeatReceive_of_checked hen, if_pos (beq_iff_eq.mpr hown)]

theorem exec_pairHeartbeatReceive_of_peer (hpeer : (beatField beat.toNat 48 48 == 1) = !s.pair.unitB) :
    exec (.pairHeartbeatReceive beat true) s =
      .next (validBeat false (now s) (laneInfo beat.toNat (!s.pair.unitB)) s) := by
  rw [exec_pairHeartbeatReceive_of_checked hen, hpeer, if_neg (by simp)]

end

/-! ## The expiry of a path (08 R307, R309, R310) -/

section
variable {hbx : Bool}

theorem exec_pathAliveExpiry_of_silent (h : (pathOf hbx s).alive = false) : exec (.pathAliveExpiry hbx) s = .next s :=
  congrArg Host.Outcome.next (if_pos (by rw [h]; rfl))

/-- A path that expires is a loss while the other path lives, and the peer's failure otherwise. -/
theorem exec_pathAliveExpiry_of_alive (h : (pathOf hbx s).alive = true) :
    let v := advanceTo ((pathOf hbx s).last + 377) s
    exec (.pathAliveExpiry hbx) s = .next (if (pathOf (!hbx) v).alive then
      crit (if hbx then 0x0804 else 0x0802) 0 (split64 (now v))
        (modPath hbx (fun p => { p with alive := false, run := 0, lost := true }) v)
      else failPeer (now v) (pathsSilent (now v) v)) :=
  congrArg Host.Outcome.next (if_neg (α := State) (by rw [h]; decide))

end

end

/-- Settles O50: a beat received goes by the unit it names, and a path's expiry by the other path. -/
theorem heartbeatEventsComplete : Obligations.HeartbeatEventsComplete := by
  intro s
  exact ⟨fun hen =>
      ⟨fun hdown => (exec_heartbeatPeriod_of_paired hen).trans (congrArg Host.Outcome.next (beatAt_of_lanes_down _ hdown)),
        fun hup => (exec_heartbeatPeriod_of_paired hen).trans (congrArg Host.Outcome.next (beatAt_of_lanes_up _ hup))⟩,
    fun hen b m => ⟨exec_heartbeatPeriod_of_unpaired hen, exec_hbxBeatReceive_of_unpaired b m hen⟩,
    fun hen hrail beat hsync hcrc => ⟨exec_hbxBeatReceive_of_own hen hrail hsync hcrc,
      exec_hbxBeatReceive_of_peer hen hrail hsync hcrc, exec_hbxBeatReceive_of_violation beat⟩,
    fun hen beat => ⟨exec_pairHeartbeatReceive_of_own hen, exec_pairHeartbeatReceive_of_peer hen,
      exec_pairHeartbeatReceive_of_unchecked beat⟩,
    fun hbx halive =>
      ⟨fun hother => (exec_pathAliveExpiry_of_alive halive).trans (congrArg Host.Outcome.next (if_pos hother)),
        fun hother => (exec_pathAliveExpiry_of_alive halive).trans
          (congrArg Host.Outcome.next (if_neg (ne_true_of_eq_false hother)))⟩,
    fun hbx => exec_pathAliveExpiry_of_silent⟩

end Sys2Proof.Machine
end

section
/-! SUPPORT. What ramps and changes of state leave in the pair: a ramp's marks leave all but what disturbs the witnesses (08
R311), a ramp changes its own sources, and a unit is in the state that it enters. -/

namespace Sys2Proof.Machine
open Sys2Proof

@[simp] theorem mark_pair (k : MarkKind) (m : BitVec 256) (first last : Nat) (s : State) :
    (mark k m first last s).pair = s.pair := by
  unfold mark
  split <;> rfl

@[simp] theorem noteMoment_pair (s : State) : (noteMoment s).pair = s.pair := by
  simp only [noteMoment, apply_ite State.pair, ite_self]

@[simp] theorem modPair_pair (f : Pair → Pair) (s : State) : (modPair f s).pair = f s.pair := rfl

theorem vget_vsetD_same {α : Type} {n : Nat} (v : Vector α n) (i : Fin n) (x : α) : vget (vsetD v i.val x) i = x := by
  simp [vget, vsetD]

theorem vget_vset_same {α : Type} {n : Nat} (v : Vector α n) (i : Fin n) (x : α) : vget (vset v i x) i = x := by
  simp [vget, vset]

/-- A ramp's marks change the pair only in the frames that they disturb. -/
theorem markRamps_pair (is : List Nat) (d : Nat) (s : State) :
    (markRamps is d s).pair =
      { s.pair with disturbed := is.foldl (fun v i => vsetD v i (some s.tb.frameTick)) s.pair.disturbed } := by
  simp only [markRamps, disturb, mark_pair]

/-- The pair after a ramp: the sources at I_SET, and the references they had, beside the frames disturbed. -/
theorem rampSources_pair (is : List Nat) (d : Nat) (s : State) :
    (rampSources is d s).pair = { s.pair with
      disturbed := is.foldl (fun v i => vsetD v i (some s.tb.frameTick)) s.pair.disturbed
      split := is.foldl (fun v i => vsetD v i .full) s.pair.split
      preRamp := is.foldl (fun v i => vsetD v i (some ((vgetD s.pair.refs i none).getD 0))) s.pair.preRamp } := by
  simp only [rampSources, setHalves, modPair_pair, markRamps_pair]

/-- A unit that enters a state is in it (08 Table 8.5). -/
@[simp] theorem setPState_pstate (st : PState) (s : State) : (setPState st s).pair.pstate = st := by
  simp only [setPState, noteMoment_pair, apply_ite State.pair, mark_pair, ite_self, modPair_pair]

end Sys2Proof.Machine
end

section
/-! SUPPORT and CLAIMS. The rows of authority in a pair: the peer's failure, witnesses, joining, handover, resynchronisation,
split restore and mirror records (08, "Authority", "Witness", "Resynchronisation"). -/

namespace Sys2Proof.Machine
open Sys2Proof

section
variable {s : State}

/-! ## The peer's failure (08 R309, R314, R320, Table 8.5) -/

theorem exec_peerFailure_of_heard (hen : s.pair.en = true) (hheard : peerHeard s = true) :
    let d := max (now s) (max s.pair.link.last s.pair.hbx.last + 377)
    exec .peerFailure s = .next (failPeer d (pathsSilent d s)) :=
  congrArg Host.Outcome.next (if_pos (by rw [hen, hheard]; rfl))

theorem exec_peerFailure_of_unheard (h : s.pair.en = false ∨ peerHeard s = false) : exec .peerFailure s = .next s :=
  congrArg Host.Outcome.next (if_neg (ne_true_of_eq_false (Bool.and_eq_false_iff.mpr h)))

theorem failPeer_of_active (d : Nat) (h : s.pair.pstate = .active) :
    failPeer d s = peerFailed d (evidenceAt d s) (rampAll d (setPState .activeAlone s)) := by
  simp only [failPeer, h]

section
variable {d : Nat} (hstandby : s.pair.pstate = .standby)
include hstandby

/-- A STANDBY unit takes authority alone on evidence where its policy lets it fail over, and holds otherwise. -/
theorem failPeer_of_standby : failPeer d s =
    if evidenceAt d s ≠ 0 ∧ s.pair.policy0.bit 31 then
      peerFailed d (evidenceAt d s) (takeAlone d (modPair (fun p => { p with records := [] }) s))
    else peerFailed d (evidenceAt d s) (enterHold (if s.pair.policy0.bit 31 then 1 else 2) s) := by
  simp only [failPeer, hstandby]

theorem failPeer_of_evidence (hev : evidenceAt d s ≠ 0) (hauto : s.pair.policy0.bit 31 = true) :
    failPeer d s = peerFailed d (evidenceAt d s) (takeAlone d (modPair (fun p => { p with records := [] }) s)) := by
  rw [failPeer_of_standby hstandby, if_pos ⟨hev, hauto⟩]

/-- Without evidence the unit holds: cause 1 (08 Table 8.11; assumption 39). -/
theorem failPeer_of_no_evidence (hev : evidenceAt d s = 0) (hauto : s.pair.policy0.bit 31 = true) :
    failPeer d s = peerFailed d 0 (enterHold 1 s) := by
  rw [failPeer_of_standby hstandby, if_neg (fun h => h.1 hev), if_pos hauto, hev]

/-- Without AUTO_FAILOVER the unit holds: cause 2 (08 Table 8.11; assumption 39). -/
theorem failPeer_of_manual (hauto : s.pair.policy0.bit 31 = false) :
    failPeer d s = peerFailed d (evidenceAt d s) (enterHold 2 s) := by
  have hmanual := ne_true_of_eq_false hauto
  rw [failPeer_of_standby hstandby, if_neg (fun h => hmanual h.2), if_neg hmanual]

end

/-! ## Witnesses (08 R311 to R315) -/

/-- The state after the ramp of a source whose witness fires, before PAIR_WITNESS_RAMP is raised. -/
def firedRamp (i : Fin 128) (s : State) : State :=
  rampSources [i.val] (now s)
    (modPair (fun p => { p with lastWitness := some (now s), witnessRamps := satInc p.witnessRamps }) s)

/-- Out of HOLD a witness that fires ramps its source, and no more. -/
theorem exec_witnessFire_of_armed {i : Fin 128} (hen : s.pair.en = true) (hhalf : halfOf s i.val = .half)
    (harmed : witnessArmed i.val s = true) (hhold : s.pair.pstate ≠ .hold) :
    exec (.witnessFire i) s = .next (crit 0x080B i.val (wd i.val :: split64 (now s)) (firedRamp i s)) := by
  have hstays : (crit 0x080B i.val (wd i.val :: split64 (now s)) (firedRamp i s)).pair.pstate ≠ .hold := by
    rw [crit_pair, firedRamp, rampSources_pair]
    exact hhold
  have hguard : ¬ (!s.pair.en || halfOf s i.val != .half || !witnessArmed i.val s) = true := by simp [hen, hhalf, harmed]
  exact congrArg Host.Outcome.next ((if_neg hguard).trans (if_neg (fun h => hstays h.1)))

theorem witnessFire_completes {i : Fin 128} (hen : s.pair.en = true) (hhalf : halfOf s i.val = .half)
    (harmed : witnessArmed i.val s = true) (hhold : s.pair.pstate ≠ .hold) :
    Completes (.witnessFire i) s (fun t => t.pair.witnessRamps = satInc s.pair.witnessRamps ∧
      t.pair.lastWitness = some (now s) ∧ halfOf t i.val = .full ∧
      vget t.pair.preRamp i = some ((vgetD s.pair.refs i.val none).getD 0)) := by
  refine ⟨_, exec_witnessFire_of_armed hen hhalf harmed hhold, ?_⟩
  simp only [halfOf, crit_pair, firedRamp, rampSources_pair]
  exact ⟨rfl, rfl, vgetD_vsetD_same i.isLt _ _ _, vget_vsetD_same _ i _⟩

theorem exec_witnessFire_of_unarmed {i : Fin 128} (h : witnessArmed i.val s = false) :
    exec (.witnessFire i) s = .next s :=
  congrArg Host.Outcome.next (if_pos (by rw [h, Bool.not_false, Bool.or_true]))

/-- A ramped source whose peer still delivers steps back to its half. -/
theorem exec_witnessReturn_of_ramped {i : Fin 128} (hen : s.pair.en = true) (hfull : halfOf s i.val = .full)
    (href : ((vget s.pair.preRamp i).getD 0 == 0) = false) :
    let u := markRamps [i.val] (now s) (setHalves [i.val] .half (modPair (fun p =>
      { p with witnessReturns := satInc p.witnessReturns, preRamp := vset p.preRamp i none }) s))
    exec (.witnessReturn i) s = .next (crit 0x080C i.val (wd i.val :: split64 (now u)) u) :=
  congrArg Host.Outcome.next (if_neg (α := State) (by simp [hen, hfull, href]))

theorem witnessReturn_completes {i : Fin 128} (hen : s.pair.en = true) (hfull : halfOf s i.val = .full)
    (href : ((vget s.pair.preRamp i).getD 0 == 0) = false) :
    Completes (.witnessReturn i) s (fun t => t.pair.witnessReturns = satInc s.pair.witnessReturns ∧
      halfOf t i.val = .half ∧ vget t.pair.preRamp i = none) := by
  refine ⟨_, exec_witnessReturn_of_ramped hen hfull href, ?_⟩
  simp only [halfOf, crit_pair, markRamps_pair]
  exact ⟨rfl, vgetD_vsetD_same i.isLt _ _ _, vget_vset_same _ i _⟩

theorem exec_witnessReturn_of_no_ramp {i : Fin 128} (h : ((vget s.pair.preRamp i).getD 0 == 0) = true) :
    exec (.witnessReturn i) s = .next s :=
  congrArg Host.Outcome.next (if_pos (by rw [h, Bool.or_true]))

/-! ## Follower engagements (08 R319, R320; assumption 166) -/

/-- The state after the engagement of basin `b` is recorded, among those of the last 45 µs. -/
def engaged (b : Fin 32) (s : State) : State :=
  let recent := s.pair.engagements.filter (fun e => decide (now s ≤ e.1 + 552))
  modPair (fun p => { p with engagements := recent ++ [(now s, b, p.peer.auth)] }) s

section
variable {b : Fin 32} (hfollow : s.pair.followMode = true)
include hfollow

theorem exec_followerEngagement_of_unfailed (hnone : s.pair.failedAt = none) :
    exec (.followerEngagement b) s = .next (engaged b s) := by
  change execFollowerEngagement b s = _
  simp only [execFollowerEngagement, hfollow, hnone, modPair_pair, Bool.not_true, Bool.false_eq_true, if_false, engaged]

/-- After a declaration at tick `d` an engagement may be the evidence on which a unit in HOLD takes authority. -/
theorem exec_followerEngagement_of_failed {d : Nat} (hd : s.pair.failedAt = some d) :
    exec (.followerEngagement b) s = .next
      (if s.pair.pstate = .hold ∧ s.pair.policy0.bit 31 ∧ now s ≤ d + 61 ∧ evidenceAt d (engaged b s) ≠ 0 then
        takeAlone (now s) (engaged b s) else engaged b s) := by
  change execFollowerEngagement b s = _
  simp only [execFollowerEngagement, hfollow, hd, modPair_pair, Bool.not_true, Bool.false_eq_true, if_false, engaged]
  rfl

theorem exec_followerEngagement_of_evidence {d : Nat} (hd : s.pair.failedAt = some d) (hhold : s.pair.pstate = .hold)
    (hauto : s.pair.policy0.bit 31 = true) (hsoon : now s ≤ d + 61) (hev : evidenceAt d (engaged b s) ≠ 0) :
    exec (.followerEngagement b) s = .next (takeAlone (now s) (engaged b s)) := by
  rw [exec_followerEngagement_of_failed hfollow hd, if_pos ⟨hhold, hauto, hsoon, hev⟩]

theorem exec_followerEngagement_of_no_evidence {d : Nat} (hd : s.pair.failedAt = some d)
    (h : s.pair.pstate ≠ .hold ∨ s.pair.policy0.bit 31 = false ∨ d + 61 < now s ∨ evidenceAt d (engaged b s) = 0) :
    exec (.followerEngagement b) s = .next (engaged b s) := by
  rw [exec_followerEngagement_of_failed hfollow hd, if_neg]
  rintro ⟨hhold, hauto, hsoon, hev⟩
  exact h.elim (absurd hhold) (fun h => h.elim (absurd hauto ∘ ne_true_of_eq_false)
    (fun h => h.elim (absurd hsoon ∘ Nat.not_le_of_lt) hev))

end

/-! ## Joining and handover (08 R325, Table 8.5) -/

/-- JOIN_S seconds in JOINING without a valid beat make HOLD due at unit B, and ACTIVE_ALONE at unit A. -/
theorem exec_joinTimeout_of_unheard (hjoining : s.pair.pstate = .joining) (hconflict : s.pair.conflict = false)
    (hheard : heardInJoin s = false) :
    exec .joinTimeout s = .next (dueState (some (if s.pair.unitB then .hold else .activeAlone)) s) :=
  congrArg Host.Outcome.next (if_pos ⟨hjoining, by rw [hconflict]; rfl, by rw [hheard]; rfl⟩)

/-- The state at boundary `h` of a handover, before the unit's authority changes. -/
def atHandover (h : Nat) (s : State) : State :=
  modPair (fun p => { p with handoverAt := none, records := [] }) (advanceTo h s)

theorem exec_pairHandoverBoundary_of_standby (hstandby : s.pair.pstate = .standby) (hpeer : s.pair.peer.pstate = 3)
    (hlanes : s.pair.lanesUp = true) (hhealthy : reportsHealthy s = true) :
    let t := atHandover (frameLen * ceilDiv (now s) frameLen) s
    exec .pairHandoverBoundary s = .next (setPState .active (bumpEpoch (t.ao.epoch + 1) t)) := by
  change execPairHandoverBoundary s = _
  simp only [execPairHandoverBoundary, hstandby, hpeer, hlanes, hhealthy, and_self, if_true, handoverAt, atHandover]

theorem exec_pairHandoverBoundary_of_active {h : Nat} (hactive : s.pair.pstate = .active)
    (hh : s.pair.handoverAt = some h) (hsoon : h ≤ s.tb.frameTick + frameLen) :
    let t := atHandover h s
    exec .pairHandoverBoundary s = .next (setPState .standby { t with ao := { t.ao with epoch := t.ao.epoch + 1 } }) := by
  change execPairHandoverBoundary s = _
  simp only [execPairHandoverBoundary, hactive, hh, within1, hsoon, decide_true, if_true, handoverAt, atHandover]

theorem exec_pairHandoverBoundary_of_none (hactive : s.pair.pstate = .active) (hnone : s.pair.handoverAt = none) :
    exec .pairHandoverBoundary s = .next s := by
  change execPairHandoverBoundary s = _
  simp only [execPairHandoverBoundary, hactive, hnone]

/-! ## Resynchronisation (08 R317, R328, R329) -/

section
variable {ps : List (List Word)} (hresync : s.pair.pstate = .resync) (hlanes : s.pair.lanesUp = true)
include hresync hlanes

theorem exec_resyncImage_of_part (g : Word) (q : BitVec 16) :
    exec (.resyncImage ps false { generation := g, rseq := q }) s =
      .next (modPair (fun p => { p with image := p.image ++ ps, imageComplete := false }) s) :=
  congrArg Host.Outcome.next (if_pos ⟨hresync, hlanes⟩)

/-- With its last part come the image's generation and the records that it includes. -/
theorem exec_resyncImage_of_last (g : Word) (q : BitVec 16) :
    exec (.resyncImage ps true { generation := g, rseq := q }) s = .next (modPair (fun p => { p with
      image := p.image ++ ps, imageComplete := true, imageGeneration := g, rseqTaken := some q }) s) :=
  congrArg Host.Outcome.next (if_pos ⟨hresync, hlanes⟩)

/-- A unit that holds the whole image takes the boundary that answers its READY. -/
theorem exec_resyncImage_of_boundary (last : Bool) (g : Word) (q : BitVec 16) (r : Nat)
    (hcomplete : s.pair.imageComplete = true) :
    exec (.resyncImage ps last { generation := g, rseq := q, boundary := some r }) s =
      .next (modPair (fun p => { p with resyncAt := some r }) s) := by
  change execResyncImage ps last { generation := g, rseq := q, boundary := some r } s = _
  simp only [execResyncImage, hresync, hlanes, and_self, if_true, modPair, hcomplete]

end

/-- A boundary R that can be kept brings the unit to STANDBY, and to its split where both units are HEALTHY. -/
theorem exec_resyncBoundary_of_ready {r : Nat} (hresync : s.pair.pstate = .resync) (hr : s.pair.resyncAt = some r)
    (hsoon : r ≤ s.tb.frameTick + frameLen) (hmay : mayResync s = true) :
    let v := resynced r s
    let w := if r ≤ v.tb.frameTick then applyNow r v else v
    exec .resyncBoundary s = .next (if mayRestore s then splitRestore r w else w) := by
  change execResyncBoundary s = _
  simp only [execResyncBoundary, hr, hresync, within1, hsoon, decide_true, and_self, if_true, resyncAt, hmay]

theorem resynced_pstate (r : Nat) (s : State) : (resynced r s).pair.pstate = .standby := by
  simp only [resynced, info_pair, setPState_pstate]

theorem exec_resyncBoundary_of_none (hnone : s.pair.resyncAt = none) : exec .resyncBoundary s = .next s := by
  change execResyncBoundary s = _
  simp only [execResyncBoundary, hnone]

/-! ## Split restore (08 R317) -/

section
variable (hen : s.pair.en = true) (hmay : mayRestore s = true)
include hen hmay

/-- The authority holder restores at the boundary it announced. -/
theorem exec_splitRestore_of_announced {f : Nat} (hholder : holdsAuthority s = true) (hf : s.pair.splitRestoreAt = some f)
    (hsoon : f ≤ s.tb.frameTick + frameLen) : exec .splitRestore s = .next (splitRestore f (advanceTo f s)) := by
  change execSplitRestore s = _
  simp only [execSplitRestore, hen, hmay, hholder, hf, within1, hsoon, decide_true, Bool.and_self, if_true]

theorem exec_splitRestore_of_unannounced (hholder : holdsAuthority s = true) (hnone : s.pair.splitRestoreAt = none) :
    exec .splitRestore s = .next s := by
  change execSplitRestore s = _
  simp only [execSplitRestore, hen, hmay, hholder, hnone, Bool.and_self, if_true]

/-- Its peer restores at the next boundary. -/
theorem exec_splitRestore_of_follower (hholder : holdsAuthority s = false) :
    let f := frameLen * ceilDiv (now s) frameLen
    exec .splitRestore s = .next (splitRestore f (advanceTo f s)) := by
  change execSplitRestore s = _
  simp only [execSplitRestore, hen, hmay, hholder, Bool.and_self, Bool.false_eq_true, if_true, if_false]

end

/-! ## Mirror records (08 R336) -/

/-- A STANDBY unit takes no record twice. -/
theorem takeRecord_of_taken {r : MirrorRec} (hstandby : s.pair.pstate = .standby)
    (hold : s.pair.rseqTaken.any (fun x => !rseqAfter r.rseq x) = true) : takeRecord r s = s := by
  simp only [takeRecord, hstandby, hold, if_true]

end

/-- Settles O51: MIRROR_RECORD always acts, and every other row by its own lemmas above. -/
theorem pairEventsComplete : Obligations.PairEventsComplete := by
  intro s
  exact ⟨exec_peerFailure_of_heard, exec_peerFailure_of_unheard,
    fun d => ⟨failPeer_of_active d, failPeer_of_evidence, failPeer_of_no_evidence, failPeer_of_manual⟩,
    fun _ => witnessFire_completes, fun _ _ => exec_witnessFire_of_unarmed,
    fun _ => witnessReturn_completes, fun _ => exec_witnessReturn_of_no_ramp,
    fun _ hfollow => ⟨exec_followerEngagement_of_unfailed hfollow, fun _ hd =>
      ⟨exec_followerEngagement_of_evidence hfollow hd, exec_followerEngagement_of_no_evidence hfollow hd⟩⟩,
    exec_joinTimeout_of_unheard,
    ⟨exec_pairHandoverBoundary_of_standby, fun _ => exec_pairHandoverBoundary_of_active, exec_pairHandoverBoundary_of_none⟩,
    fun _ g q hresync hlanes => ⟨exec_resyncImage_of_part hresync hlanes g q, exec_resyncImage_of_last hresync hlanes g q,
      fun last r => exec_resyncImage_of_boundary hresync hlanes last g q r⟩,
    fun r hresync hr hsoon hmay => ⟨exec_resyncBoundary_of_ready hresync hr hsoon hmay, resynced_pstate r s⟩,
    exec_resyncBoundary_of_none,
    fun hen hmay => ⟨fun hholder => ⟨fun _ => exec_splitRestore_of_announced hen hmay hholder,
        exec_splitRestore_of_unannounced hen hmay hholder⟩, exec_splitRestore_of_follower hen hmay⟩,
    fun _ => rfl, fun _ => takeRecord_of_taken⟩

end Sys2Proof.Machine
end

section
/-! SUPPORT and CLAIMS. The commands of class 0x09: what each accepted one does and returns (09, "Commands and parameter
blocks"). -/

namespace Sys2Proof.Machine
open Sys2Proof

/-! ## CAP_SET_CONFIG (09 R351, R387, R388) -/

section
variable {p : Packet} {s : State}

/-- The configuration is given to a set that is FREE or IDLE, whose channels' branches are on and stay on, and whose region no
other set's meets. -/
theorem capSetConfig_of_free : let i := setNamed p 0
    let c := capCfg (blockOf 15 0 p)
    ((getSet s i).state = .free ∨ (getSet s i).state = .idle) →
    (∀ x ∈ c.chans, (branchCfg (getBranch s (2 * x + c.branch)).words).en = true ∧
      (branchCfg (getBranch s (2 * x + c.branch)).accepted).en = true) →
    (∀ j : Fin 16, j ≠ i → (getSet s j).state ≠ .free → c.overlaps (capCfg (getSet s j).config) = false) →
    rulesCapSetConfig.run p s = .done
      (modSet i (fun t => { CapSet.reset with
        state := .idle, owner := t.owner, config := blockOf 15 0 p, trigger := t.trigger, patternPrev := t.patternPrev
        pendingTick := t.pendingTick }) (claimSet i p s)) [] (now s) := by
  intro i c hstate hbranch hregion
  have hquiet : ¬ ((getSet s i).state ≠ .free ∧ (getSet s i).state ≠ .idle) := fun h => hstate.elim h.1 h.2
  have hon : c.chans.any (fun x => !(branchCfg (getBranch s (2 * x + c.branch)).words).en
      || !(branchCfg (getBranch s (2 * x + c.branch)).accepted).en) = false := by
    refine List.any_eq_false.mpr (fun x hx => ?_)
    obtain ⟨hwords, haccepted⟩ := hbranch x hx
    simp [hwords, haccepted]
  have hapart : ((List.finRange 16).filter (fun j => j != i && (getSet s j).state != .free)).any
      (fun j => c.overlaps (capCfg (getSet s j).config)) = false := by
    refine List.any_eq_false.mpr (fun j hj => ne_true_of_eq_false ?_)
    obtain ⟨hother, hused⟩ := Bool.and_eq_true_iff.mp (List.mem_filter.mp hj).2
    exact hregion j (bne_iff_ne.mp hother) (bne_iff_ne.mp hused)
  exact (if_neg hquiet).trans ((if_neg (ne_true_of_eq_false hon)).trans (if_neg (ne_true_of_eq_false hapart)))

/-! ## CAP_ARM and CAP_RELEASE (09 R355) -/

theorem capArm_of_boundary {f : Nat} (hf : applyBoundary false p (p.w64 1) s = .ok f) :
    rulesCapArm.run p s = .done (stage f (.capArm (setNamed p 0) ((p.w 0).bit 31)) s) [] f := by
  simp only [rulesCapArm, hf]

/-- No more records are released than are ready; a FULL set goes on at the next boundary. -/
theorem capRelease_of_ready (hready : (p.w 0).field 23 8 ≤ (getSet s (setNamed p 0)).ready.length) :
    let i := setNamed p 0
    let v := modSet i (fun t => { t with ready := t.ready.drop ((p.w 0).field 23 8) }) s
    rulesCapRelease.run p s =
      .done (if (getSet s i).state = .full then stage (nextFrame s) (.capRelease i) v else v) [] (now s) :=
  if_neg (Nat.not_lt_of_le hready)

end

/-- Settles O26: each accepted command by the outcome of its own rules; CAP_SET_CONFIG, CAP_ARM and CAP_RELEASE can be rejected
there. -/
theorem captureCommandsComplete : Obligations.CaptureCommandsComplete := by
  intro p s f u
  exact ⟨fun h hstate hbranch hregion => congrArg Host.Outcome.next
      (takeCommand_done h (capSetConfig_of_free hstate hbranch hregion)),
    fun h => congrArg Host.Outcome.next (takeCommand_done h rfl),
    fun h hf => congrArg Host.Outcome.next (takeCommand_done h (capArm_of_boundary hf)),
    fun h => congrArg Host.Outcome.next (takeCommand_done h rfl),
    fun h hready => congrArg Host.Outcome.next (takeCommand_done h (capRelease_of_ready hready)),
    fun h => congrArg Host.Outcome.next (takeCommand_done h rfl),
    fun h => congrArg Host.Outcome.next (takeCommand_done h rfl),
    fun h => congrArg Host.Outcome.next (takeCommand_done h rfl)⟩

end Sys2Proof.Machine
end

section
/-! SUPPORT and CLAIMS. The rows of capture: pin edges, held and shared triggers, a record's close, the end of an output pulse
(09, "Triggers", "Records"). -/

namespace Sys2Proof.Machine
open Sys2Proof

section
variable {s : State}

/-! ## Trigger pins (09 R366, R370; 18 Table 18.4) -/

section
variable {n : Fin 4} {rising : Bool} {persist : Nat} (tick : Nat)

/-- An edge that lasts, at a pin that is an input, triggers the sets that name it; a rising one needs VDDIO1. -/
theorem exec_triggerPinEdge_of_lasting (hinput : (vget s.cap.pins n).word.bit 31 = false)
    (hlasts : (vget s.cap.pins n).word.field 15 0 ≤ persist) (hrail : rising = true → vget s.pwr.rails 8 = true) :
    exec (.triggerPinEdge n rising tick persist) s = .next (triggerSets (fun t => (vget t.trigger 0).bit (27 + n.val) &&
      (vget t.trigger 0).bit (2 * n.val + (if rising then 0 else 1))) (1 + n.val) tick (advanceTo tick s)) := by
  refine congrArg Host.Outcome.next (if_neg ?_)
  rintro (houtput | hshort | ⟨hrising, hunpowered⟩)
  · exact ne_true_of_eq_false hinput houtput
  · exact Nat.not_lt_of_le hlasts hshort
  · rw [hrail hrising] at hunpowered
    exact Bool.false_ne_true hunpowered

theorem exec_triggerPinEdge_of_ignored (h : (vget s.cap.pins n).word.bit 31 = true ∨
      persist < (vget s.cap.pins n).word.field 15 0 ∨ rising = true ∧ vget s.pwr.rails 8 = false) :
    exec (.triggerPinEdge n rising tick persist) s = .next s :=
  congrArg Host.Outcome.next (if_pos (h.imp_right (Or.imp_right (And.imp_right (congrArg Bool.not)))))

end

/-! ## Held command triggers (09 R368; assumption 178) -/

section
variable {i : Fin 16}

/-- The state at the tick of the trigger held for set `i`, which holds it no more; earlier patterns are settled. -/
def heldTriggerTaken (i : Fin 16) (s : State) : State :=
  let u := { s with tb := { s.tb with tick := max s.tb.tick (getSet s i).pendingTick } }
  modSet i (fun t => { t with pendingTick := 0 }) (settlePatterns (now u) u)

section
variable (hheld : (getSet s i).pendingTick ≠ 0) (hsoon : dueSoon (getSet s i).pendingTick s = true)
include hheld hsoon

/-- A trigger held for a tick that is reached is decided there if the set takes command triggers. -/
theorem exec_commandTriggerDue_of_held :
    let v := heldTriggerTaken i s
    exec (.commandTriggerDue i) s = .next (if (vget (getSet s i).trigger 0).bit 25
      then decideTrigger i 6 (getSet s i).pendingTick (now v) v else v) := by
  have hdue : ¬ ((getSet s i).pendingTick = 0 ∨ (!dueSoon (getSet s i).pendingTick s) = true) := by simp [hheld, hsoon]
  exact congrArg Host.Outcome.next (if_neg hdue)

theorem exec_commandTriggerDue_of_enabled (hen : (vget (getSet s i).trigger 0).bit 25 = true) :
    let v := heldTriggerTaken i s
    exec (.commandTriggerDue i) s = .next (decideTrigger i 6 (getSet s i).pendingTick (now v) v) :=
  (exec_commandTriggerDue_of_held hheld hsoon).trans (congrArg Host.Outcome.next (if_pos hen))

theorem exec_commandTriggerDue_of_disabled (hen : (vget (getSet s i).trigger 0).bit 25 = false) :
    exec (.commandTriggerDue i) s = .next (heldTriggerTaken i s) :=
  (exec_commandTriggerDue_of_held hheld hsoon).trans (congrArg Host.Outcome.next (if_neg (ne_true_of_eq_false hen)))

end

theorem commandTriggerDue_early (i : Fin 16) (s : State) : Early (getSet s i).pendingTick (.commandTriggerDue i) s :=
  fun hearly => congrArg Host.Outcome.next (if_pos (Or.inr (congrArg Bool.not hearly)))

/-! ## Shared triggers and the close of a record (09 R361, R362, R369; 12 R474) -/

theorem exec_trigShare_of_other (g tick : Nat) {o : HubId} (hother : o ≠ s.ring.hubId) :
    exec (.trigShare g tick o) s = .next (triggerSets
      (fun t => (vget t.trigger 0).bit 24 && (vget t.trigger 0).field 22 19 == g) 7 tick s) :=
  congrArg Host.Outcome.next (if_neg hother)

theorem exec_trigShare_of_own (g tick : Nat) : exec (.trigShare g tick s.ring.hubId) s = .next s :=
  congrArg Host.Outcome.next (if_pos rfl)

/-- A record that no stream carries closes, and no more. -/
theorem exec_recordClose_of_unstreamed (hclose : mayClose i s = true) (hnone : recordStreams i s = []) :
    exec (.recordClose i) s = .next (closeRecord i s) := by
  change execRecordClose i s = _
  simp only [execRecordClose, hclose, hnone, if_true, List.foldl_nil]

theorem exec_recordClose_of_open (hopen : mayClose i s = false) : exec (.recordClose i) s = .next s :=
  congrArg Host.Outcome.next (if_neg (ne_true_of_eq_false hopen))

end

/-! ## The end of an output pulse (09 R370; assumption 178) -/

/-- While pin `n` drives a pulse, the row falls due at the pulse's end. -/
theorem exec_outputPulseEnd {n : Fin 4} {e : Nat} (hpulse : (vget s.cap.pins n).pulseEnd = some e) :
    exec (.outputPulseEnd n) s = .next (atDue e (fun u =>
      { u with cap := { u.cap with pins := vmod u.cap.pins n (fun p => { p with pulseEnd := none }) } }) s) := by
  change execOutputPulseEnd n s = _
  simp only [execOutputPulseEnd, hpulse]

end

/-- Settles O55: each row by its own lemmas above; the end of a pulse is a row due at a tick. -/
theorem captureEventsComplete : Obligations.CaptureEventsComplete := by
  intro s
  exact ⟨fun _ _ tick _ => exec_triggerPinEdge_of_lasting tick,
    fun _ _ tick _ => exec_triggerPinEdge_of_ignored tick,
    fun _ hheld hsoon => ⟨exec_commandTriggerDue_of_enabled hheld hsoon, exec_commandTriggerDue_of_disabled hheld hsoon⟩,
    fun g tick _ => exec_trigShare_of_other g tick,
    exec_trigShare_of_own,
    fun _ => exec_recordClose_of_unstreamed,
    fun _ => exec_recordClose_of_open,
    fun _ _ hpulse => ⟨exec_of_atDue (exec_outputPulseEnd hpulse), early_of_atDue (exec_outputPulseEnd hpulse)⟩,
    fun i => commandTriggerDue_early i s⟩

end Sys2Proof.Machine
end

section
/-! SUPPORT and CLAIMS. What a step leaves of the capture memory: a host's command and every row but those of `touchesMemory`
leave its bytes, and those rows keep its canonical form (10 R398, R403). -/

namespace Sys2Proof.Machine
open Sys2Proof

/-! ## Commands of the host (15 Table 15.3) -/

/-- Every command of the host is taken with the rules of its opcode. -/
theorem exec_instr (o : Op) (p : Packet) (s : State) : exec (o.instr p) s = .next (takeCommand (opRules o) p s) := by
  cases o <;> rfl

/-- What carries a packet is the command of that packet's opcode. -/
theorem eq_instr_of_packet {c : Instr} {o : Op} {p : Packet} (h : c.packet? = some (o, p)) : c = o.instr p := by
  unfold Instr.packet? at h
  split at h <;> cases h <;> rfl

theorem exec_keeps_of_packet {c : Instr} {o : Op} {p : Packet} (h : c.packet? = some (o, p)) (s : State) :
    ∀ t, exec c s = .next t → t.pending = s.pending ∧ t.mem.bytes = s.mem.bytes := by
  intro t ht
  rw [eq_instr_of_packet h, exec_instr] at ht
  cases ht
  exact takeCommand_keeps (opRules_keeps o) p s

/-! ## Registers, messages and events -/

/-- A row without a packet that neither stores, initialises, resets nor takes the supply away leaves every byte. -/
theorem exec_keeps_of_event {c : Instr} (hevent : c.packet? = none) (hc : touchesMemory c = false) (s : State) :
    ∀ t, exec c s = .next t → t.pending = s.pending ∧ t.mem.bytes = s.mem.bytes := by
  cases c with
  | commandHeaderError source words => exact execCommandHeaderError_keeps source words s
  | authLockoutEnd slot => exact execAuthLockoutEnd_keeps slot s
  | relayCmd words => exact execRelayCmd_keeps words s
  | relayReply words => exact execRelayReply_keeps words s
  | relayTimeout id => exact execRelayTimeout_keeps id s
  | replyWrite source => exact execReplyWrite_keeps source s
  | fwRestartDone => exact execFwRestartDone_keeps s
  | queueEnableWrite fn q value => exact execQueueEnableWrite_keeps fn q value s
  | doorbellWrite fn q value => exact execDoorbellWrite_keeps fn q value s
  | intCauseWrite fn reg value => exact execIntCauseWrite_keeps fn reg value s
  | intMaskWrite fn reg value => exact execIntMaskWrite_keeps fn reg value s
  | intVecWrite fn n value => exact execIntVecWrite_keeps fn n value s
  | queueItemWrite fn q transferError => exact execQueueItemWrite_keeps fn q transferError s
  | commandTake source words decideUs => exact execCommandTake_keeps source words decideUs s
  | interruptModerationEnd fn cause => exact execInterruptModerationEnd_keeps fn cause s
  | captureWindowAccess fn write offset len data => exact execCaptureWindowAccess_keeps fn write offset len data s
  | flr fn => exact execFlr_keeps fn s
  | linkReset linkDown => exact execLinkReset_keeps linkDown s
  | auxLinkReset linkDown => exact execAuxLinkReset_keeps linkDown s
  | linkTrained port rate width => exact execLinkTrained_keeps port rate width s
  | vfEnableCleared => exact execVfEnableCleared_keeps s
  | powerStateChange fn d3hot => exact execPowerStateChange_keeps fn d3hot s
  | busMasterEnableChange fn bus => exact execBusMasterEnableChange_keeps fn bus s
  | readReg offset count => exact execReadReg_keeps offset count s
  | readStatus => exact execReadStatus_keeps s
  | pushCmd words complete => exact execPushCmd_keeps words complete s
  | pullReply whole => exact execPullReply_keeps whole s
  | pullEvent whole => exact execPullEvent_keeps whole s
  | ovTrip port mask polarity => exact execOvTrip_keeps port mask polarity s
  | recloseHoldExpiry port => exact execRecloseHoldExpiry_keeps port s
  | diagnosticRunEnd overRange value => exact execDiagnosticRunEnd_keeps overRange value s
  | diagnosticRepeatDue slot => exact execDiagnosticRepeatDue_keeps slot s
  | clampFailureDetect m => exact execClampFailureDetect_keeps m s
  | timerTick t => exact execTimerTick_keeps t s
  | pwmEdge t => exact execPwmEdge_keeps t s
  | surveyStartEvent sv => exact execSurveyStartEvent_keeps sv s
  | surveySlotEnd sv readings outside => exact execSurveySlotEnd_keeps sv readings outside s
  | mainsTrackerLoss => exact execMainsTrackerLoss_keeps s
  | lcBoundaryMissed c branch => exact execLcBoundaryMissed_keeps c branch s
  | calibrationCycleStart b => exact execCalibrationCycleStart_keeps b s
  | calibrationDecision m a b => exact execCalibrationDecision_keeps m a b s
  | foregroundStart b => exact execForegroundStart_keeps b s
  | foregroundEnd b => exact execForegroundEnd_keeps b s
  | refclkLoss => exact execRefclkLoss_keeps s
  | driftModelLearn ybar tdie => exact execDriftModelLearn_keeps ybar tdie s
  | leapSecond => exact execLeapSecond_keeps s
  | beaconTimeFrame f => exact execBeaconTimeFrame_keeps f s
  | beaconCommandFrame f => exact execBeaconCommandFrame_keeps f s
  | beaconSlotClose => exact execBeaconSlotClose_keeps s
  | syncReceive side seq stamp departure => exact execSyncReceive_keeps side seq stamp departure s
  | followReceive side seq t1 => exact execFollowReceive_keeps side seq t1 s
  | dreqReceive side seq stamp => exact execDreqReceive_keeps side seq stamp s
  | drespReceive side seq t4 => exact execDrespReceive_keeps side seq t4 s
  | stateReceive side index data => exact execStateReceive_keeps side index data s
  | announcePeriod => exact execAnnouncePeriod_keeps s
  | announce side a => exact execAnnounce_keeps side a s
  | masterLost => exact execMasterLost_keeps s
  | formingTimeout => exact execFormingTimeout_keeps s
  | handover newMaster h => exact execHandover_keeps newMaster h s
  | ringHandoverBoundary => exact execRingHandoverBoundary_keeps s
  | wrap reporter side => exact execWrap_keeps reporter side s
  | sideStable side => exact execSideStable_keeps side s
  | unwrap reporter side u => exact execUnwrap_keeps reporter side u s
  | unwrapBoundary side => exact execUnwrapBoundary_keeps side s
  | stageMsg g words => exact execStageMsg_keeps g words s
  | prepare p => exact execPrepare_keeps p s
  | ack hub g nak => exact execAck_keeps hub g nak s
  | modeChangeDeadline => exact execModeChangeDeadline_keeps s
  | commit g c => exact execCommit_keeps g c s
  | abort g => exact execAbort_keeps g s
  | edgeReport side srcId edgeTime edge64 => exact execEdgeReport_keeps side srcId edgeTime edge64 s
  | trigShare group tick origin => exact execTrigShare_keeps group tick origin s
  | heartbeatPeriod => exact execHeartbeatPeriod_keeps s
  | hbxBeatReceive beat manchester => exact execHbxBeatReceive_keeps beat manchester s
  | pairHeartbeatReceive beat checked => exact execPairHeartbeatReceive_keeps beat checked s
  | pathAliveExpiry hbx => exact execPathAliveExpiry_keeps hbx s
  | peerFailure => exact execPeerFailure_keeps s
  | witnessFire source => exact execWitnessFire_keeps source s
  | witnessReturn source => exact execWitnessReturn_keeps source s
  | followerEngagement basin => exact execFollowerEngagement_keeps basin s
  | joinTimeout => exact execJoinTimeout_keeps s
  | pairHandoverBoundary => exact execPairHandoverBoundary_keeps s
  | resyncImage packets last note => exact execResyncImage_keeps packets last note s
  | splitRestore => exact execSplitRestore_keeps s
  | mirrorRecord words => exact execMirrorRecord_keeps words s
  | trainBlockReceive lane payload inverted => exact execTrainBlockReceive_keeps lane payload inverted s
  | bringupTimeout lane => exact execBringupTimeout_keeps lane s
  | electricalIdleEnd lane => exact execElectricalIdleEnd_keeps lane s
  | laneLossOfSignal lane => exact execLaneLossOfSignal_keeps lane s
  | laneLossOfLock lane => exact execLaneLossOfLock_keeps lane s
  | losClear lane => exact execLosClear_keeps lane s
  | messageReceive lane blocks => exact execMessageReceive_keeps lane blocks s
  | flow lane payload => exact execFlow_keeps lane payload s
  | missingLseqTimeout side cls => exact execMissingLseqTimeout_keeps side cls s
  | replayTimeout side cls => exact execReplayTimeout_keeps side cls s
  | silenceEnd lane => exact execSilenceEnd_keeps lane s
  | laneIdleTimeout lane => exact execLaneIdleTimeout_keeps lane s
  | idleEntry lane => exact execIdleEntry_keeps lane s
  | laneWake lane => exact execLaneWake_keeps lane s
  | partialEntryCommit home fn stream => exact execPartialEntryCommit_keeps home fn stream s
  | packetStallTimeout home fn stream => exact execPacketStallTimeout_keeps home fn stream s
  | segmentSetup home setup => exact execSegmentSetup_keeps home setup s
  | segmentReply origin fn stream status => exact execSegmentReply_keeps origin fn stream status s
  | segmentOriginLost origin cause => exact execSegmentOriginLost_keeps origin cause s
  | streamPacketDeliver fn stream => exact execStreamPacketDeliver_keeps fn stream s
  | triggerPinEdge n rising tick persist => exact execTriggerPinEdge_keeps n rising tick persist s
  | commandTriggerDue set => exact execCommandTriggerDue_keeps set s
  | memTrainFail step ch rank => exact execMemTrainFail_keeps step ch rank s
  | memReadReturn requester soft => exact execMemReadReturn_keeps requester soft s
  | refreshInterval ch rank perBank => exact execRefreshInterval_keeps ch rank perBank s
  | mr4Poll ch code => exact execMr4Poll_keeps ch code s
  | zqCalibration ch => exact execZqCalibration_keeps ch s
  | dqsOscillatorRead ch count => exact execDqsOscillatorRead_keeps ch count s
  | refreshWindowRestart => exact execRefreshWindowRestart_keeps s
  | captureGroupFlush group => exact execCaptureGroupFlush_keeps group s
  | scrubRead soft => exact execScrubRead_keeps soft s
  | faultNote entry => exact execFaultNote_keeps entry s
  | eventCoalesceInterval fn hub code func inst => exact execEventCoalesceInterval_keeps fn hub code func inst s
  | watchdogRestart => exact execWatchdogRestart_keeps s
  | thermalRestart => exact execThermalRestart_keeps s
  | shedLevelTimer => exact execShedLevelTimer_keeps s
  | peakBucketEnd => exact execPeakBucketEnd_keeps s
  | droopDetect => exact execDroopDetect_keeps s
  | hlDroopSustained => exact execHlDroopSustained_keeps s
  | corePllReturn => exact execCorePllReturn_keeps s
  | ledgerCommit remaps interrupted => exact execLedgerCommit_keeps remaps interrupted s
  | ledgerRefresh => exact execLedgerRefresh_keeps s
  | calendarSecond xtalError => exact execCalendarSecond_keeps xtalError s
  | sramBlockTest memory block code value => exact execSramBlockTest_keeps memory block code value s
  | modulatorTestEnd m first second => exact execModulatorTestEnd_keeps m first second s
  | sourceTestStep source step readingNa => exact execSourceTestStep_keeps source step readingNa s
  | referenceTestEnd mainUv checkUv => exact execReferenceTestEnd_keeps mainUv checkUv s
  | testBusTestEnd resistance leakagePa drivenUv => exact execTestBusTestEnd_keeps resistance leakagePa drivenUv s
  | isolationTestPort port above below => exact execIsolationTestPort_keeps port above below s
  | scheduledTestDue test => exact execScheduledTestDue_keeps test s
  | tapInstructionUpdate opcode => exact execTapInstructionUpdate_keeps opcode s
  | tapTestLogicReset => exact execTapTestLogicReset_keeps s
  | railValid rail breach => exact execRailValid_keeps rail breach s
  | vbatLoss => exact execVbatLoss_keeps s
  | internalResetRelease straps => exact execInternalResetRelease_keeps straps s
  | startupBistEnd code unit value => exact execStartupBistEnd_keeps code unit value s
  | bootStart nor => exact execBootStart_keeps nor s
  | bootScriptEnd => exact execBootScriptEnd_keeps s
  | standbyWake => exact execStandbyWake_keeps s
  | rateSelResume lane => exact execRateSelResume_keeps lane s
  | fastExitTimeout lane => exact execFastExitTimeout_keeps lane s
  | segmentHomeLost home cause => exact execSegmentHomeLost_keeps home cause s
  | perstRelease port => exact execPerstRelease_keeps port s
  | outputPulseEnd n => exact execOutputPulseEnd_keeps n s
  | droopClear runNs => exact execDroopClear_keeps runNs s
  | _ => nomatch hevent, hc

/-- A row that can change a byte of the memory keeps its canonical form. -/
theorem exec_wf_of_touchesMemory {c : Instr} (hc : touchesMemory c = true) {s : State} (hw : cellsFrom 0 s.mem.bytes = true) :
    ∀ t, exec c s = .next t → cellsFrom 0 t.mem.bytes = true := by
  cases c with
  | compatModeWrite value => exact execCompatModeWrite_wf value s hw
  | chipResetWrite value => exact execChipResetWrite_wf value s hw
  | registerWrite fn offset byteEnable value => exact execRegisterWrite_wf fn offset byteEnable value s hw
  | writeReg offset words => exact execWriteReg_wf offset words s hw
  | frameBoundary obs => exact execFrameBoundary_wf obs s hw
  | windowEnd c branch obs => exact execWindowEnd_wf c branch obs s hw
  | timebaseStart c => exact execTimebaseStart_wf c s hw
  | mismatchReset => exact execMismatchReset_wf s hw
  | commitTick => exact execCommitTick_wf s hw
  | resyncBoundary => exact execResyncBoundary_wf s hw
  | recordClose set => exact execRecordClose_wf set s hw
  | memInitComplete rank2 density => exact execMemInitComplete_wf rank2 density s hw
  | memWriteDrain requester soft => exact execMemWriteDrain_wf requester soft s hw
  | jobStart fn => exact execJobStart_wf fn s hw
  | tierEnd fn faults => exact execTierEnd_wf fn faults s hw
  | jobEnd fn => exact execJobEnd_wf fn s hw
  | watchdogExpiry => exact execWatchdogExpiry_wf s hw
  | thermalTrip sensor reading => exact execThermalTrip_wf sensor reading s hw
  | dramGroupTest code value soft => exact execDramGroupTest_wf code value soft s hw
  | porstAssert => exact execPorstAssert_wf s hw
  | porstRelease => exact execPorstRelease_wf s hw
  | railBrownout rail breach => exact execRailBrownout_wf rail breach s hw
  | standbyEntry => exact execStandbyEntry_wf s hw
  | _ => cases hc

/-! ## Every command, and every step -/

theorem exec_keeps {c : Instr} (hc : touchesMemory c = false) {s t : State} (h : exec c s = .next t) :
    t.pending = s.pending ∧ t.mem.bytes = s.mem.bytes := by
  cases hp : c.packet? with
  | none => exact exec_keeps_of_event hp hc s t h
  | some op => exact exec_keeps_of_packet hp s t h

theorem exec_wf {c : Instr} {s t : State} (hw : cellsFrom 0 s.mem.bytes = true) (h : exec c s = .next t) :
    cellsFrom 0 t.mem.bytes = true := by
  cases hc : touchesMemory c with
  | true => exact exec_wf_of_touchesMemory hc hw t h
  | false => rw [(exec_keeps hc h).2]; exact hw

theorem step_of_front {c : Instr} {rest : List Instr} {s : State} (h : s.pending = c :: rest) :
    step s = exec c { s with pending := rest } := by
  unfold step
  rw [h]

/-- Settles O5: the hub idles and leaves the bytes, or the front command keeps the form. -/
theorem stepKeepsMemoryCanonical : Obligations.StepKeepsMemoryCanonical := by
  intro s t hw hstep
  unfold Memory.wf at hw ⊢
  cases hq : s.pending with
  | nil =>
    have hidle : idle s = t := Host.Outcome.next.inj ((step_of_empty hq).symm.trans hstep)
    rw [← hidle, (idle_keeps s).2]
    exact hw
  | cons c rest => exact exec_wf (s := { s with pending := rest }) hw ((step_of_front hq).symm.trans hstep)

end Sys2Proof.Machine

namespace Sys2Proof
open Sys2Proof.Machine

/-- Settles O17: what a command that does not touch the memory leaves, read byte by byte. -/
theorem memoryFrame : Obligations.MemoryFrame :=
  fun _ _ _ hc h a => congrArg (getByte · a) (exec_keeps hc h).2

end Sys2Proof
end

section
/-! SUPPORT and CLAIMS. A drained write of the capture memory stores in its own 8-byte words and nowhere else (10 R403). -/

namespace Sys2Proof.Machine
open Sys2Proof

/-! ## A write of one whole word -/

theorem memWords_of_whole {a : Nat} (ha : a % 8 = 0) : memWords a 8 = [a / 8] := by
  have hone : (a + 8 - 1) / 8 - a / 8 + 1 = 1 := by omega
  rw [memWords, if_neg (by decide), hone]
  rfl

/-- A word covered whole is stored without being read. -/
theorem writeWordAt_of_whole (requester : Fin 6) (fn : BitVec 4) {a : Nat} {data : List Byte} (s : State) (ha : a % 8 = 0)
    (hlen : data.length = 8) :
    (writeWordAt requester fn a data (a / 8) s).1.mem.bytes = putBytes s.mem.bytes a data := by
  have hlo : max a (8 * (a / 8)) = a := by omega
  have hhi : min (a + data.length) (8 * (a / 8) + 8) = a + 8 := by omega
  have hsub : a + 8 - a = 8 := by omega
  simp only [writeWordAt, hlo, hhi, hsub, Nat.sub_self, List.drop_zero, if_true, setFlip_keeps]
  rw [List.take_of_length_le hlen.le]

theorem touchRows_keeps (requester : Fin 6) (fn : BitVec 4) (gs : List Nat) (s : State) :
    (gs.foldl (fun t g => touchRow requester fn g t) s).pending = s.pending ∧
      (gs.foldl (fun t g => touchRow requester fn g t) s).mem.bytes = s.mem.bytes :=
  foldl_keeps_of (fun t g => touchRow_keeps requester fn g t) ⟨rfl, rfl⟩

theorem performWrite_of_whole (requester : Fin 6) (fn : BitVec 4) {a : Nat} {data : List Byte} (s : State) (ha : a % 8 = 0)
    (hlen : data.length = 8) :
    (performWrite requester fn a data s).1.mem.bytes = putBytes s.mem.bytes a data := by
  simp only [performWrite, hlen, memWords_of_whole ha, List.foldl_cons, List.foldl_nil]
  rw [writeWordAt_of_whole requester fn _ ha hlen, (touchRows_keeps requester fn _ s).2]

/-! ## What a drained write stores, by the requester's use of it -/

section
variable {r : MemReq} (s : State)

/-- The word that an injection reads and writes back with codeword bits inverted (10 R422). -/
theorem drainWrite_bytes_of_inject {m : BitVec 72} (huse : r.use = .inject m) :
    (drainWrite r s).mem.bytes = (injectError r.addr m (dropRequest r s)).mem.bytes := by
  simp only [drainWrite, huse]

/-- Every other write stores what `performWrite` stores; its answer leaves the memory as it is. -/
theorem drainWrite_bytes_of_stored (huse : ∀ m, r.use ≠ .inject m) :
    (drainWrite r s).mem.bytes = (performWrite r.requester r.fn r.addr r.data (dropRequest r s)).1.mem.bytes := by
  unfold drainWrite
  dsimp only
  split
  next m h => exact absurd h (huse m)
  next => split <;> simp only [rowAbsent_keeps]
  next => split <;> simp only [hostMemError_keeps]
  next => rfl

theorem drainWrite_outside {x : Nat} (hw : cellsFrom 0 s.mem.bytes = true)
    (hx : x < 8 * (r.addr / 8) ∨ 8 * ((r.addr + max r.data.length 1 + 7) / 8) ≤ x) :
    getByte (drainWrite r s).mem.bytes x = getByte s.mem.bytes x := by
  have hdrop : (dropRequest r s).mem.bytes = s.mem.bytes := (dropRequest_keeps r s).2
  rw [← hdrop] at hw ⊢
  by_cases huse : ∃ m, r.use = .inject m
  · obtain ⟨m, hm⟩ := huse
    rw [drainWrite_bytes_of_inject s hm]
    exact injectError_outside _ m _ x hw (by omega)
  · rw [drainWrite_bytes_of_stored s (not_exists.mp huse)]
    exact performWrite_outside _ _ _ _ _ x hw (by omega)

/-- A write of a whole word by the host or the self-test stores its bytes. -/
theorem drainWrite_of_whole (huse : r.use = .host ∨ r.use = .test) (ha : r.addr % 8 = 0) (hlen : r.data.length = 8) :
    (drainWrite r s).mem.bytes = putBytes s.mem.bytes r.addr r.data := by
  have hstored : ∀ m, r.use ≠ .inject m := by rcases huse with h | h <;> simp [h]
  rw [drainWrite_bytes_of_stored s hstored, performWrite_of_whole _ _ _ ha hlen, (dropRequest_keeps r s).2]

end

/-- Settles O16: the two laws of `drainWrite`; soft errors leave the bytes as they are stored. -/
theorem drainedWriteStores : Obligations.DrainedWriteStores := by
  intro q soft r s hw hr hwrite
  unfold Memory.wf at hw
  rw [← (applySoft_keeps soft s).2] at hw ⊢
  exact ⟨_, exec_memWriteDrain hr hwrite, fun _ hx => drainWrite_outside _ hw hx,
    fun huse ha hlen => drainWrite_of_whole _ huse ha hlen⟩

end Sys2Proof.Machine
end

section
/-! SUPPORT and CLAIMS. The commands of class 0x0A: what each accepted one does and returns (10, "Commands and parameter
blocks"). -/

namespace Sys2Proof.Machine
open Sys2Proof

/-- Training begins out of UNINIT and FAILED alone (10 R396); that it clears the failed step is assumption 119. -/
theorem memInit_of_idle {p : Packet} {s : State} (h : s.mem.mstate = .uninit ∨ s.mem.mstate = .failed) :
    rulesMemInit.run p s = .done
      { s with mem := { s.mem with mstate := .training, initWord := p.w 0, initTick := now s, failStep := 0 } } [] (now s) :=
  if_pos h

/-- The write of the inverted codeword is requested of a device that is ready and holds the address (10 R422). -/
theorem memInjectError_of_ready {p : Packet} {s : State} (hready : s.mem.mstate = .ready)
    (haddr : (p.w 1).toNat < capBytes s) :
    rulesMemInjectError.run p s = .done (acceptRequest
      { requester := 3, fn := 0, write := true, addr := (p.w 1).toNat, len := 8, data := []
        use := .inject (injectMask (p.w 0)) } s) [] (now s) :=
  if_neg (not_or.mpr ⟨not_not_intro hready, Nat.not_le_of_lt haddr⟩)

/-- Settles O27: each accepted command by the outcome of its own rules; only MEM_INIT and MEM_INJECT_ERROR can be rejected there. -/
theorem memoryCommandsComplete : Obligations.MemoryCommandsComplete := by
  intro p s u
  exact ⟨fun h hstate => congrArg Host.Outcome.next (takeCommand_done h (memInit_of_idle hstate)),
    fun h => congrArg Host.Outcome.next (takeCommand_done h rfl),
    fun h => congrArg Host.Outcome.next (takeCommand_done h rfl),
    fun h => congrArg Host.Outcome.next (takeCommand_done h rfl),
    fun h hready haddr => congrArg Host.Outcome.next (takeCommand_done h (memInjectError_of_ready hready haddr))⟩

end Sys2Proof.Machine
end

section
/-! SUPPORT and CLAIMS. The commands of class 0x0B: what each accepted one does and returns (11, "Commands and parameter
blocks"). -/

namespace Sys2Proof.Machine
open Sys2Proof

section
variable {p : Packet} {s : State}

/-- A job none of whose regions clashes with an accepted job's, of a function with room for it, is queued last (11 R443). -/
theorem cmpSubmit_of_free (hready : s.mem.mstate = .ready)
    (hfree : ∀ j ∈ s.cmp.jobs, ∀ a ∈ jobRegions j.words, ∀ b ∈ jobRegions p.params, regionsClash a b = false)
    (hroom : (s.cmp.jobs.filter (fun j => j.fn == p.func)).length < 8) :
    rulesCmpSubmit.run p s = .done
      { s with cmp := { s.cmp with nextId := s.cmp.nextId + 1, jobs := s.cmp.jobs ++
        [{ id := s.cmp.nextId, fn := p.func, words := p.params, running := false, columns := [], states := [], ctxCrc := none,
           samples := 0, nsamp := 0, done := 0, tiers := 0, effort := 0, effortMin := 0, used := 0, payload := 0, crc := 0,
           listCrc := 0, rawBlocks := 0, verifyFail := 0, cancelled := false, result := none }] } }
      [wd s.cmp.nextId.toNat] (now s) := by
  have hclash : ¬ s.cmp.jobs.any (fun j =>
      (jobRegions j.words).any (fun a => (jobRegions p.params).any (regionsClash a))) = true := by
    simpa only [List.any_eq_true, not_exists, not_and, Bool.not_eq_true] using hfree
  exact (if_neg hclash).trans ((if_neg (Nat.not_le_of_lt hroom)).trans (if_neg (not_not_intro hready)))

variable {j : Job} (hj : s.cmp.jobs.find? (fun j => j.id == (p.w 0).extractLsb' 0 16) = some j)
include hj

/-- A job still queued or running has no result yet: its words give its state alone (11 Table 11.10). -/
theorem cmpReadJob_of_unended :
    rulesCmpReadJob.run p s = .done s (jobWords j (b01 j.running) 0 0 0 0) (now s) := by
  simp only [rulesCmpReadJob, hj]

/-- A running job is marked for its next tier boundary (11 R442); that a queued one ends at once is assumption 121. -/
theorem cmpCancel_of_unended : rulesCmpCancel.run p s = .done
    (if j.running then putJob { j with cancelled := true } s else endJob j 8 0 0 s) [] (now s) := by
  simp only [rulesCmpCancel, hj]

end

/-- Settles O28: each accepted command by the outcome of its own rules; only CMP_SUBMIT, CMP_READ_JOB and CMP_CANCEL can be
rejected there. -/
theorem compressionCommandsComplete : Obligations.CompressionCommandsComplete := by
  intro p s u
  exact ⟨fun h => congrArg Host.Outcome.next (takeCommand_done h rfl),
    fun h => congrArg Host.Outcome.next (takeCommand_done h rfl),
    fun h hready hfree hroom => congrArg Host.Outcome.next (takeCommand_done h (cmpSubmit_of_free hready hfree hroom)),
    fun _ h hj => congrArg Host.Outcome.next (takeCommand_done h (cmpReadJob_of_unended hj)),
    fun _ h hj => congrArg Host.Outcome.next (takeCommand_done h (cmpCancel_of_unended hj)),
    fun h => congrArg Host.Outcome.next (takeCommand_done h rfl)⟩

end Sys2Proof.Machine
end

section
/-! SUPPORT and CLAIMS. The rows of compression jobs: the start of a queued one, a tier's end, and the end of the job (11,
"Jobs"). -/

namespace Sys2Proof.Machine
open Sys2Proof

/-- A step that branches on a job's kind, said once for each kind. -/
theorem next_for_each_kind {inflates : Bool} {o : Out} {t u : State} (h : o = .next (if inflates then t else u)) :
    (inflates = true → o = .next t) ∧ (inflates = false → o = .next u) := by
  cases inflates
  case false => exact ⟨nofun, fun _ => h⟩
  case true => exact ⟨fun _ => h, nofun⟩

section
variable {f : Fin 9} {s : State} {j : Job}

/-- The oldest job of a function none of whose jobs runs starts, by its kind (11 R425, R442). -/
theorem exec_jobStart_of_queued (hidle : runningJob (BitVec.ofNat 4 f.val) s = none)
    (hj : s.cmp.jobs.find? (fun j => j.fn == BitVec.ofNat 4 f.val) = some j) :
    let r := { j with running := true, crc := 0xFFFFFFFF }
    exec (.jobStart f) s = .next (if j.inflates then startInflate r (putJob r s) else startDeflate r (putJob r s)) := by
  change execJobStart f s = _
  simp only [execJobStart, hidle, hj, Option.isSome_none, Bool.false_eq_true, if_false]

/-- A tier ends for the function whose turn it is, by the kind of its running job (11 R426, R442; assumption 170). -/
theorem exec_tierEnd_of_turn (faults : List Nat) (hdue : tierDue f.val s = some j)
    (hturn : s.cmp.turn.pick 9 (fun f => (tierDue f s).isSome) = some f.val) :
    let v := { s with cmp := { s.cmp with turn := s.cmp.turn.served f.val 1 } }
    exec (.tierEnd f faults) s = .next (if j.inflates then tierBoundary (BitVec.ofNat 4 f.val) (inflateTier j v)
      else tierBoundary (BitVec.ofNat 4 f.val) (deflateTier j faults v)) := by
  change execTierEnd f faults s = _
  simp only [execTierEnd, hdue, hturn, ne_eq, not_true_eq_false, if_false, apply_ite (tierBoundary _)]

variable (hj : runningJob (BitVec.ofNat 4 f.val) s = some j)
include hj

/-- A job that has failed ends with its result and commits nothing (11 R440). -/
theorem exec_jobEnd_of_failed {r resp : Nat} (hfailed : j.result = some (r, resp)) :
    exec (.jobEnd f) s = .next (endJob j r resp 0 s) := by
  change execJobEnd f s = _
  simp only [execJobEnd, hj, hfailed]

/-- A job that has given its last tier commits, by its kind (11 R435). -/
theorem exec_jobEnd_of_finished (hsound : j.result = none) (hlast : j.nsamp ≤ j.done) :
    exec (.jobEnd f) s = .next (if j.inflates then commitInflate j s else commitDeflate j s) := by
  change execJobEnd f s = _
  simp only [execJobEnd, hj, hsound, Nat.not_lt.mpr hlast, if_false]

end

/-- Settles O57: each row by what it does to its job, then by the job's kind. -/
theorem compressionEventsComplete : Obligations.CompressionEventsComplete := by
  intro f s fn
  exact ⟨fun _ hidle hj => next_for_each_kind (exec_jobStart_of_queued hidle hj),
    fun _ faults hdue hturn => next_for_each_kind (exec_tierEnd_of_turn faults hdue hturn),
    fun _ hj => ⟨fun _ _ => exec_jobEnd_of_failed hj,
      fun hsound hlast => (next_for_each_kind (exec_jobEnd_of_finished hj hsound hlast)).1,
      fun hsound hlast => (next_for_each_kind (exec_jobEnd_of_finished hj hsound hlast)).2⟩⟩

end Sys2Proof.Machine
end

section
/-! SUPPORT and CLAIMS. What a command does before its own meaning counts: the order of the queue, the completion of every row,
and the checks of 15 Table 15.3. -/

namespace Sys2Proof.Machine
open Sys2Proof

/-! ## Steps and the queue (15, "Sources and order") -/

/-- A row that can change a byte of the memory leaves the queue. -/
theorem exec_pending_of_touchesMemory {c : Instr} (hc : touchesMemory c = true) (s : State) :
    ∀ t, exec c s = .next t → t.pending = s.pending := by
  cases c with
  | compatModeWrite value => exact execCompatModeWrite_pending value s
  | chipResetWrite value => exact execChipResetWrite_pending value s
  | registerWrite fn offset byteEnable value => exact execRegisterWrite_pending fn offset byteEnable value s
  | writeReg offset words => exact execWriteReg_pending offset words s
  | frameBoundary obs => exact execFrameBoundary_pending obs s
  | windowEnd c branch obs => exact execWindowEnd_pending c branch obs s
  | timebaseStart c => exact execTimebaseStart_pending c s
  | mismatchReset => exact execMismatchReset_pending s
  | commitTick => exact execCommitTick_pending s
  | resyncBoundary => exact execResyncBoundary_pending s
  | recordClose set => exact execRecordClose_pending set s
  | memInitComplete rank2 density => exact execMemInitComplete_pending rank2 density s
  | memWriteDrain requester soft => exact execMemWriteDrain_pending requester soft s
  | jobStart fn => exact execJobStart_pending fn s
  | tierEnd fn faults => exact execTierEnd_pending fn faults s
  | jobEnd fn => exact execJobEnd_pending fn s
  | watchdogExpiry => exact execWatchdogExpiry_pending s
  | thermalTrip sensor reading => exact execThermalTrip_pending sensor reading s
  | dramGroupTest code value soft => exact execDramGroupTest_pending code value soft s
  | porstAssert => exact execPorstAssert_pending s
  | porstRelease => exact execPorstRelease_pending s
  | railBrownout rail breach => exact execRailBrownout_pending rail breach s
  | standbyEntry => exact execStandbyEntry_pending s
  | _ => cases hc

/-- Settles O6: the rows that touch the memory by their own lemmas, every other row with its memory. -/
theorem commandsLeaveQueue : Obligations.CommandsLeaveQueue := by
  intro c s t h
  cases hc : touchesMemory c with
  | true => exact exec_pending_of_touchesMemory hc s t h
  | false => exact (exec_keeps hc h).1

/-- Settles O1: the step takes the queue's head. -/
theorem stepRunsFrontCommand : Obligations.StepRunsFrontCommand :=
  fun _ _ _ => step_of_front rfl

/-- Settles O4: at reset the memory lists no byte, so that every byte reads 0. -/
theorem resetMemoryCanonical : Obligations.ResetMemoryCanonical :=
  ⟨rfl, rfl, fun _ => rfl⟩

/-- Settles O7: no row's meaning faults or is refused, by the rows. -/
theorem everyCommandAnswers : Obligations.EveryCommandAnswers := by
  intro c s
  cases c <;> exact ⟨_, rfl⟩

/-! ## Taking a packet (15 R583 to R595, Table 15.3) -/

/-- Settles O10: a packet that may not be taken joins those that wait. -/
theorem commandNotTakenWaits : Obligations.CommandNotTakenWaits := by
  intro o p s htake
  rw [exec_instr, takeCommand, if_neg (ne_true_of_eq_false htake), opRules_op]

/-- The host's sources are the command queues, the SPI port and the boot script. -/
theorem source_of_ofHost {src : Source} (h : src.ofHost = true) : (∃ f, src = .cq f) ∨ src = .spi ∨ src = .script := by
  cases src with
  | cq f => exact Or.inl ⟨f, rfl⟩
  | spi => exact Or.inr (Or.inl rfl)
  | script => exact Or.inr (Or.inr rfl)
  | relay h i a => cases h
  | mirror f => cases h
  | staged c => cases h

/-- What the checks of 15 Table 15.3 at the issuing hub make of a host's packet that has been taken. -/
def decideHost (r : Rules) (p : Packet) (s : State) : State :=
  if !headerOk r.op p then rejectPacket r.op.code p ⟨.headerError, []⟩ s
  else if !permitted r p s then rejectPacket r.op.code p ⟨.notPermitted, []⟩ s
  else match authCause r.op p s with
    | some c => rejectPacket r.op.code p ⟨.authFailed, [wd c]⟩ (authFailure r.op p c s)
    | none => match issuingCheck r p (authed p s) with
      | some x => rejectPacket r.op.code p x (authed p s)
      | none =>
        if isRemote p (authed p s) then
          if relayBusy p (authed p s) then
            { authed p s with fh := { (authed p s).fh with relayWaiting := (authed p s).fh.relayWaiting ++ [(r.op, p)] } }
          else relayOut r p (authed p s)
        else execute r p (authed p s)

section
variable {o : Op} {p : Packet} {s : State}

/-- A command of the host that may be taken goes through the issuing hub's checks. -/
theorem exec_instr_of_taken (htake : mayTake p s = true) (hhost : p.source.ofHost = true) :
    exec (o.instr p) s = .next (decideHost (opRules o) p s) := by
  rw [exec_instr, takeCommand, if_pos htake, decideTaken]
  obtain ⟨f, hsrc⟩ | hsrc | hsrc := source_of_ofHost hhost <;> rw [hsrc] <;> rfl

section
variable (hheader : headerOk o p = true)
include hheader

theorem decideHost_of_not_permitted (hperm : permitted (opRules o) p s = false) :
    decideHost (opRules o) p s = rejectPacket o.code p ⟨.notPermitted, []⟩ s := by
  simp only [decideHost, opRules_op, hheader, hperm, Bool.not_true, Bool.not_false, Bool.false_eq_true, if_false, if_true]

theorem decideHost_of_authCause {c : Nat} (hperm : permitted (opRules o) p s = true) (hcause : authCause o p s = some c) :
    decideHost (opRules o) p s = rejectPacket o.code p ⟨.authFailed, [wd c]⟩ (authFailure o p c s) := by
  simp only [decideHost, opRules_op, hheader, hperm, hcause, Bool.not_true, Bool.false_eq_true, if_false]

end

/-- A packet that is heard goes on to the relay or is executed here. -/
theorem exec_instr_of_heard (h : Heard o p s = true) :
    exec (o.instr p) s = .next (if isRemote p (authed p s) then
        if relayBusy p (authed p s) then
          { authed p s with fh := { (authed p s).fh with relayWaiting := (authed p s).fh.relayWaiting ++ [(o, p)] } }
        else relayOut (opRules o) p (authed p s)
      else execute (opRules o) p (authed p s)) := by
  simp only [Heard, Bool.and_eq_true, Option.isNone_iff_eq_none] at h
  obtain ⟨⟨⟨⟨⟨htake, hhost⟩, hheader⟩, hperm⟩, hauth⟩, hissue⟩ := h
  rw [exec_instr_of_taken htake hhost]
  simp only [decideHost, opRules_op, hheader, hperm, hauth, hissue, Bool.not_true, Bool.false_eq_true, if_false]

/-- A packet whose FUNC is not its source's, or whose issuer the command's rules exclude, is not permitted. -/
theorem exec_instr_of_not_permitted (htake : mayTake p s = true) (hhost : p.source.ofHost = true) (hheader : headerOk o p = true)
    (hperm : permitted (opRules o) p s = false) :
    exec (o.instr p) s = .next (rejectPacket o.code p ⟨.notPermitted, []⟩ s) := by
  rw [exec_instr_of_taken htake hhost, decideHost_of_not_permitted hheader hperm]

end

/-- Settles O13: each condition fails step 3. -/
theorem notPermittedRejected : Obligations.NotPermittedRejected := by
  intro o p s htake hhost hheader
  refine ⟨fun f hsrc hfunc => ?_, fun hsrc hfunc => ?_, fun hissuers => ?_⟩ <;>
    refine exec_instr_of_not_permitted htake hhost hheader ?_
  · simp [permitted, hsrc, hfunc]
  · have hforeign : (p.func == 0) = false := beq_eq_false_iff_ne.mpr hfunc
    simp only [permitted, hsrc, hforeign, Bool.false_and]
  · simp [permitted, hissuers]

/-- Settles O15: with no relay of its source under way to its target the packet goes out, and only there. -/
theorem remoteCommandRelayed : Obligations.RemoteCommandRelayed := by
  intro o p s u h hremote
  refine ⟨fun hbusy => ?_, fun hbusy hone => ?_⟩ <;>
    rw [exec_instr_of_heard h, if_pos hremote]
  · rw [if_pos hbusy]
  · rw [if_neg (ne_true_of_eq_false hbusy)]
    simp only [relayOut, hone, opRules_op, Bool.not_false, Bool.false_eq_true, if_true, if_false]
    rfl

/-! ## Rejection and acceptance (15 R580, R581, R591) -/

/-- A rejection other than under an OK status, of a packet from a queue or the SPI port, adds its reply and counts. -/
theorem rejectPacket_of_queue {op : Nat} {p : Packet} {r : Rejection} {s : State} (hhost : p.source.ofHost = true)
    (hscript : p.source ≠ .script) (hst : r.status ≠ .ok) :
    rejectPacket op p r s = { s with fh := { s.fh with
      replies := s.fh.replies ++ [(p.source, replyOf op p r.status r.detail (now s) s)], rejected := satInc s.fh.rejected } } := by
  obtain ⟨f, hsrc⟩ | hsrc | hsrc := source_of_ofHost hhost
  · simp [rejectPacket, answer, deliverReply, countDecision, queueReply, replyOf, hsrc, hst]
  · simp [rejectPacket, answer, deliverReply, countDecision, queueReply, replyOf, hsrc, hst]
  · exact absurd hsrc hscript

/-- Counting a decision and answering leave every unit. -/
theorem rejectPacket_answers (op : Nat) (p : Packet) (r : Rejection) (s : State) : Answers s (rejectPacket op p r s) := by
  refine Answers.trans ?_ (answer_answers _ _ _ _ _ _)
  unfold countDecision
  split
  · exact answers_of_fh _ s
  · exact answers_of_fh _ s

/-- Storing a SEQ changes the always-on domain alone. -/
theorem authed_eq (p : Packet) (s : State) : ∃ a : AlwaysOn, authed p s = { s with ao := a } := by
  unfold authed
  split
  · exact ⟨_, rfl⟩
  · exact ⟨s.ao, rfl⟩

theorem ofHost_of_heard {o : Op} {p : Packet} {s : State} (h : Heard o p s = true) : p.source.ofHost = true := by
  simp only [Heard, Bool.and_eq_true] at h
  obtain ⟨⟨⟨⟨⟨-, hhost⟩, -⟩, -⟩, -⟩, -⟩ := h
  exact hhost

/-- A packet heard here that the executing hub rejects. -/
theorem exec_instr_of_reject {o : Op} {p : Packet} {s : State} {st : Status} {d : List Word} (h : Heard o p s = true)
    (hhere : isRemote p (authed p s) = false) (hreject : executeResult (opRules o) p (authed p s) = .reject st d) :
    exec (o.instr p) s = .next (rejectPacket o.code p ⟨st, d⟩ (authed p s)) := by
  rw [exec_instr_of_heard h, if_neg (ne_true_of_eq_false hhere), execute, hreject, opRules_op]

/-- Settles O8: a rejection answers and counts, and no more. -/
theorem rejectedCommandChangesNoUnit : Obligations.RejectedCommandChangesNoUnit := by
  intro o p s st d h hhere hreject
  obtain ⟨a, ha⟩ := authed_eq p s
  have hexec := exec_instr_of_reject h hhere hreject
  rw [ha] at hexec
  have hk := rejectPacket_answers o.code p ⟨st, d⟩ { s with ao := a }
  refine ⟨_, hexec, hk.tb, hk.ring, hk.pair, hk.fe, hk.cv, hk.fl, hk.cal, hk.cap, hk.mem, hk.cmp, hk.st, hk.ts, hk.staged, ?_⟩
  intro hscript hst
  rw [rejectPacket_of_queue (ofHost_of_heard h) hscript hst]
  exact ⟨rfl, rfl, rfl, rfl, rfl, rfl⟩

/-- A success that is not silenced by QUIET adds its one reply to those of a queue or the SPI port. -/
theorem answer_replies_of_queue {op : Nat} {p : Packet} {data : List Word} (c : Nat) (s : State)
    (hhost : p.source.ofHost = true) (hscript : p.source ≠ .script) (hloud : p.quiet = false ∨ data ≠ []) :
    (answer op p .ok data c s).fh.replies = s.fh.replies ++ [(p.source, replyOf op p .ok data c s)] := by
  have hwritten : (p.quiet && data.isEmpty) = false := by
    rcases hloud with h | h <;> simp [h]
  obtain ⟨f, hsrc⟩ | hsrc | hsrc := source_of_ofHost hhost
  · simp [answer, deliverReply, queueReply, replyOf, hsrc, hwritten]
  · simp [answer, deliverReply, queueReply, replyOf, hsrc, hwritten]
  · exact absurd hsrc hscript

/-- Settles O9: the command is completed, and its answer adds its one reply. -/
theorem acceptedCommandReplies : Obligations.AcceptedCommandReplies := by
  intro o p s t data c h hrun hscript hloud
  exact ⟨_, (exec_instr o p s).trans (congrArg Host.Outcome.next (takeCommand_done h hrun)), rfl,
    answer_replies_of_queue c _ (ofHost_of_accepts h) hscript hloud⟩

/-! ## Authentication (15 R593 to R595) -/

section
variable {o : Op} {p : Packet} {s : State}

/-- A trailer is accepted of a slot that is not locked out, holds the key it was made with, and last accepted a lower SEQ. -/
theorem authCause_none_iff_of_auth (hauth : p.auth = true) : authCause o p s = none ↔
    hasBit s.fh.locked (slotOf p).val = false ∧
      (∃ key, (vget s.ao.keys (slotOf p)).key = some key ∧ p.trailer = trailerOf o.code p key) ∧
      (vget s.ao.keys (slotOf p)).lastSeq.toNat < p.seq.toNat := by
  simp only [authCause, hauth, if_true]
  cases hlocked : hasBit s.fh.locked (slotOf p).val with
  | true => simp
  | false =>
    cases hkey : (vget s.ao.keys (slotOf p)).key with
    | none => simp
    | some key =>
      by_cases htrailer : p.trailer = trailerOf o.code p key
      · by_cases hseq : p.seq.toNat ≤ (vget s.ao.keys (slotOf p)).lastSeq.toNat
        · simp [htrailer, hseq]
        · simp [htrailer, hseq, Nat.lt_of_not_le hseq]
      · simp [htrailer]

theorem authCause_of_unrequired (hauth : p.auth = false) (hop : o.authenticated = false)
    (hslot : hasBit s.fh.reqAuth (slotOf p).val = false) : authCause o p s = none := by
  simp [authCause, hauth, hop, hslot]

/-- The exceptions of 15 R622 and 17 R696 are the SPI port's. -/
theorem authCause_of_required (hauth : p.auth = false)
    (hreq : o.authenticated = true ∨ hasBit s.fh.reqAuth (slotOf p).val = true) (hspi : p.source ≠ .spi) :
    authCause o p s = some 1 := by
  have hsource : (p.source == .spi) = false := beq_eq_false_iff_ne.mpr hspi
  have hneeds : (o.authenticated || hasBit s.fh.reqAuth (slotOf p).val) = true := Bool.or_eq_true_iff.mpr hreq
  simp only [authCause, hauth, hneeds, hsource, Bool.and_false, Bool.false_and, Bool.false_eq_true, if_false, if_true]

end

/-- Settles O11: with a trailer by its conditions, without one by whether it is required. -/
theorem trailerCheck : Obligations.TrailerCheck :=
  fun _ _ _ => ⟨authCause_none_iff_of_auth, authCause_of_unrequired, authCause_of_required⟩

theorem hasBit_setBit_same {w : Nat} (m : BitVec w) {i : Nat} (hi : i < w) : hasBit (setBit m i) i = true := by
  simp only [hasBit, setBit, BitVec.getLsbD_or, BitVec.getLsbD_ofNat, Nat.testBit_two_pow_self, hi, decide_true,
    Bool.and_self, Bool.or_true]

/-- The failures of a slot within the last 10 s, before one now. -/
def recentFailures (p : Packet) (s : State) : List Nat :=
  (vget s.fh.failTicks (slotOf p)).filter (fun t => now s < t + 10 * ticksPerSecond)

/-- A failure of step 4 counted against its slot, with its event. -/
def failureNoted (o : Op) (p : Packet) (c : Nat) (s : State) : State :=
  raiseEvent .critical 0x0103 (fnCode (slotOf p)) (slotOf p).val [wd (slotOf p).val, wd c, wd o.code]
    { s with fh := { s.fh with
        authFails := satInc s.fh.authFails, failTicks := vset s.fh.failTicks (slotOf p) (recentFailures p s ++ [now s]) } }

/-- The slot locked out, with its event. -/
def slotLocked (p : Packet) (s : State) : State :=
  raiseEvent .critical 0x0104 (fnCode (slotOf p)) (slotOf p).val [wd (slotOf p).val]
    { s with fh := { s.fh with
        locked := setBit s.fh.locked (slotOf p).val, lockedAt := vset s.fh.lockedAt (slotOf p) (now s),
        failTicks := vset s.fh.failTicks (slotOf p) [] } }

section
variable (o : Op) (p : Packet) (c : Nat) (s : State)

theorem authFailure_eq : authFailure o p c s =
    if 16 ≤ (recentFailures p s ++ [now s]).length ∧ ¬ hasBit s.fh.locked (slotOf p).val = true then
      slotLocked p (failureNoted o p c s)
    else failureNoted o p c s := rfl

theorem failureNoted_fh : (failureNoted o p c s).fh = { s.fh with
    authFails := satInc s.fh.authFails, failTicks := vset s.fh.failTicks (slotOf p) (recentFailures p s ++ [now s]) } :=
  raiseEvent_fh ..

theorem slotLocked_fh : (slotLocked p s).fh = { s.fh with
    locked := setBit s.fh.locked (slotOf p).val, lockedAt := vset s.fh.lockedAt (slotOf p) (now s),
    failTicks := vset s.fh.failTicks (slotOf p) [] } :=
  raiseEvent_fh ..

theorem authFailure_authFails : (authFailure o p c s).fh.authFails = satInc s.fh.authFails := by
  rw [authFailure_eq]
  split
  · rw [slotLocked_fh, failureNoted_fh]
  · rw [failureNoted_fh]

/-- The sixteenth failure within 10 s locks the slot out. -/
theorem authFailure_locks (hmany : 15 ≤ (recentFailures p s).length) (hopen : hasBit s.fh.locked (slotOf p).val = false) :
    hasBit (authFailure o p c s).fh.locked (slotOf p).val = true := by
  have hlocks : 16 ≤ (recentFailures p s ++ [now s]).length ∧ ¬ hasBit s.fh.locked (slotOf p).val = true := by
    simp [hopen, hmany]
  rw [authFailure_eq, if_pos hlocks, slotLocked_fh]
  exact hasBit_setBit_same _ (slotOf p).isLt

theorem authFailure_locked_of_few (hfew : (recentFailures p s).length < 15) :
    (authFailure o p c s).fh.locked = s.fh.locked := by
  have hstays : ¬ (16 ≤ (recentFailures p s ++ [now s]).length ∧ ¬ hasBit s.fh.locked (slotOf p).val = true) := by
    rw [List.length_append, List.length_singleton]
    omega
  rw [authFailure_eq, if_neg hstays, failureNoted_fh]

end

/-- Settles O12: the packet is rejected, and its failure counts against its slot. -/
theorem authenticationFailure : Obligations.AuthenticationFailure := by
  intro o p s c htake hhost hheader hperm hcause f recent
  exact ⟨by rw [exec_instr_of_taken htake hhost, decideHost_of_authCause hheader hperm hcause],
    authFailure_authFails o p c s, authFailure_locks o p c s, authFailure_locked_of_few o p c s⟩

end Sys2Proof.Machine
end

section
/-! CLAIMS. The accepted commands of the device, the streams, the lanes, the functions, health and the self-tests (12 to 17,
"Commands"): what each returns once its checks pass. -/

namespace Sys2Proof.Machine
open Sys2Proof

/-- An accepted command that completes at once when `b` holds, and owes its reply otherwise. -/
theorem exec_instr_done_or_owe {o : Op} {p : Packet} {s t : State} {data : List Word} {c : Nat} {why : Owing} {b : Bool}
    (h : Accepts o p s = true)
    (hr : (opRules o).run p (authed p s) = if b then .done t data c else .owe t why) :
    exec (o.instr p) s = .next (if b then completed o p s t data c else owing o p s t why) := by
  rw [exec_instr]
  cases b with
  | true => exact congrArg Host.Outcome.next (takeCommand_done h hr)
  | false => exact congrArg Host.Outcome.next (takeCommand_owe h hr)

section
variable {p : Packet} {s : State}

/-! ## The device (15, "Class 0x01") -/

theorem devPatchCommit_of_no_cause (h : patchCause s = none) :
    rulesDevPatchCommit.run p s = .owe (commitPatch ((p.w 0).bit 31) s) .patchCommit := by
  simp only [rulesDevPatchCommit, h]

/-! ## The streams (12, "Commands") -/

theorem ite_isEmpty_of_refusal {α β : Type} {l : List α} {r : Option β} (h : l = [] ∨ r = none) :
    (if l.isEmpty then none else r) = none := by
  rcases h with rfl | rfl
  · rfl
  · exact ite_self _

theorem stSetStream_of_granted {f : Nat}
    (hclass : ((fnOfCode p.func).map (fun g => (vgetD (getFn s g).contract 0 0).field 9 8)).getD 2 ≤ (p.w 0).field 22 20)
    (hreach : ∀ h ∈ remoteHubs (wantedRanges p) s, Nat.testBit (memberMask s) h.toNat = true)
    (hf : streamBoundary (!(remoteHubs (wantedRanges p) s ++
      ((getStream s (streamIndex p.func ((p.w 0).field 1 0))).origins.filter
        (fun o => o.hub != s.ring.hubId)).map (fun o => o.hub)).isEmpty) p (p.w64 2) s = .ok f)
    (hroom : localChannels (wantedRanges p) s = [] ∨ segmentRefusal (p.w 0) (localChannels (wantedRanges p) s) s = none) :
    rulesStSetStream.run p s = if (remoteHubs (wantedRanges p) s).isEmpty then .done (setStream p f s) [] f
      else .owe (setStream p f s) (.streamSetup p.func ((p.w 0).field 1 0)) := by
  have hmember : ¬ ((remoteHubs (wantedRanges p) s).any (fun h => !Nat.testBit (memberMask s) h.toNat)) = true := by
    rw [List.any_eq_true]
    rintro ⟨h, hmem, hout⟩
    rw [hreach h hmem] at hout
    cases hout
  simp only [rulesStSetStream, if_neg (Nat.not_lt.mpr hclass), if_neg hmember, hf, ite_isEmpty_of_refusal hroom]

theorem stDelete_of_boundary {f : Nat} (hf : streamBoundary (!(deleteHubs p s).isEmpty) p (p.w64 1) s = .ok f) :
    rulesStDelete.run p s = if (deleteHubs p s).isEmpty then .done (deleteStream p f s) [] f
      else .owe (deleteStream p f s) (.streamDelete p.func ((p.w 0).field 1 0)) := by
  simp only [rulesStDelete, hf]

/-! ## The lanes (13, "Commands") -/

/-- A lane test other than mode 0 needs a lane whose loss leaves the ring, and that carries no PCIe (13 R527). -/
theorem lnTest_of_free (h : (p.w 0).field 27 25 = 0 ∨
      (onlyUp (fin 16 ((p.w 0).field 31 28)) s && !(p.w 0).bit 21) = false ∧ pcieLive (fin 16 ((p.w 0).field 31 28)) s = false) :
    rulesLnTest.run p s = .done (applyLaneTest (fin 16 ((p.w 0).field 31 28)) (p.w 0) s) [] (now s) := by
  refine if_neg ?_
  rintro ⟨hmode, hneeded⟩
  rcases h with h0 | ⟨honly, hpcie⟩
  · exact hmode h0
  · rw [honly, hpcie] at hneeded
    cases hneeded

/-! ## The functions (14, "Commands") -/

section
variable (hhere : namesAbsentVf p s = false)
include hhere

theorem fnSetView_of_allowed {f : Nat} (hf : applyBoundary false p (p.w64 1) s = .ok f)
    (hrange : rangeAllowed (fnNamed p) ((p.w 3).field 19 0) ((p.w 4).field 17 0) s = true) :
    rulesFnSetView.run p s = .done (stage f (.fnView (fnNamed p) (blockRanges p) ((p.w 3).field 19 0) ((p.w 4).field 17 0)) s)
      [] f := by
  simp only [rulesFnSetView, hhere, hf, hrange, Bool.not_true, Bool.false_eq_true, if_false]

theorem fnReadView_of_present :
    rulesFnReadView.run p s = .done s (viewWords (getFn s (fnNamed p)) (fnCode (fnNamed p))) (now s) :=
  if_neg (ne_true_of_eq_false hhere)

theorem fnSetQos_of_within (hparts : partsOver (fnNamed p) (Vector.ofFn (fun i : Fin 4 => p.w i.val)) s = []) :
    rulesFnSetQos.run p s = .done (stage (defaultBoundary false p s) (.fnQos (fnNamed p) (Vector.ofFn (fun i : Fin 4 => p.w i.val))) s)
      [] (defaultBoundary false p s) := by
  simp only [rulesFnSetQos, hhere, hparts, List.isEmpty_nil, Bool.not_true, Bool.false_eq_true, if_false]

theorem fnReadQos_of_present : rulesFnReadQos.run p s =
    .done s ((getFn s (fnNamed p)).contract.toList ++ [wd s.host.ringBudget.toNat]) (now s) :=
  if_neg (ne_true_of_eq_false hhere)

/-- Once the timebase runs, the reply of a function's reset waits for its completion (14 R572). -/
theorem fnReset_of_present (hexists : fnExists s (fnNamed p) = true) : rulesFnReset.run p s =
    if s.tb.started then .owe (functionReset (fnNamed p) resetKindFn s) (.fnReset (fnNamed p))
    else .done (functionReset (fnNamed p) resetKindFn s) [] (now s) :=
  if_neg (by rw [hhere, hexists]; decide)

end

theorem fnSetBudget_of_covered (h : minimums 1 0 (acceptedContract 0 s) s ≤ (p.w 0).field 15 0) :
    rulesFnSetBudget.run p s = .done { s with host := { s.host with ringBudget := (p.w 0).extractLsb' 0 16 } } [] (now s) :=
  if_neg (Nat.not_lt.mpr h)

/-! ## Health and self-tests (16, 17, "Commands") -/

theorem hlSetCalendar_of_free (h : ((p.w 0).bit 30 && s.ao.calendar.auto && s.tb.timeValid) = false) :
    rulesHlSetCalendar.run p s = .done (stage (defaultBoundary false p s)
      (.calendar ((p.w 0).bit 31) (if (p.w 0).bit 30 then some (p.w 1) else none)) s) [] (defaultBoundary false p s) :=
  if_neg (ne_true_of_eq_false h)

/-- A test runs when none of its kind does, and its own precondition holds (17 R669). -/
theorem tsRun_of_free (hfree : runOf s (testField p) = none) (hmem : testField p = 2 → s.mem.mstate = .ready)
    (hbus : testField p = 6 → testBusJoined s = false) (hpair : testField p = 8 → s.pair.pstate ≠ .active) :
    rulesTsRun.run p s = .done { s with ts := { s.ts with nextRun := s.ts.nextRun + 1, runs := s.ts.runs ++
      [{ test := testField p, runId := s.ts.nextRun, origin := 0, first := (p.w 0).field 6 0, count := (p.w 0).field 15 8
         arg1 := p.w 1, arg2 := p.w 2, startAt := nextFrame s, started := false, abort := false, left := [], next := 0
         cycles := [] }] } } [wd s.ts.nextRun.toNat] (now s) := by
  have hnone : ¬ (runOf s (testField p)).isSome = true := by rw [hfree]; exact Bool.false_ne_true
  have hready : ¬ (testField p = 2 ∧ s.mem.mstate ≠ .ready) := fun ⟨h2, hm⟩ => hm (hmem h2)
  have hopen : ¬ (testField p = 6 ∧ testBusJoined s = true) := fun ⟨h6, hj⟩ => ne_true_of_eq_false (hbus h6) hj
  have hpassive : ¬ (testField p = 8 ∧ s.pair.pstate = .active) := fun ⟨h8, ha⟩ => hpair h8 ha
  simp only [rulesTsRun, if_neg hnone, if_neg hready, if_neg hopen, if_neg hpassive]

end

/-- Settles O18: each command's meaning, completed; a patch owes its reply until the restart. -/
theorem deviceCommandsComplete : Obligations.DeviceCommandsComplete := by
  intro p s
  exact ⟨fun h => congrArg Host.Outcome.next (takeCommand_done h rfl),
    fun h => congrArg Host.Outcome.next (takeCommand_done h rfl),
    fun h => congrArg Host.Outcome.next (takeCommand_done h rfl),
    fun h => congrArg Host.Outcome.next (takeCommand_done h rfl),
    fun h => congrArg Host.Outcome.next (takeCommand_done h rfl),
    fun h => congrArg Host.Outcome.next (takeCommand_done h rfl),
    fun h hcause => congrArg Host.Outcome.next (takeCommand_owe h (devPatchCommit_of_no_cause hcause))⟩

/-- Settles O29: the reply is owed while another hub has a segment of the stream. -/
theorem streamCommandsComplete : Obligations.StreamCommandsComplete := by
  intro p s f
  exact ⟨fun h hclass hreach hf hroom => exec_instr_done_or_owe h (stSetStream_of_granted hclass hreach hf hroom),
    fun h => exec_instr_done_or_owe h rfl,
    fun h hf => exec_instr_done_or_owe h (stDelete_of_boundary hf),
    fun h => congrArg Host.Outcome.next (takeCommand_done h rfl)⟩

/-- Settles O30: each command's meaning, completed. -/
theorem laneCommandsComplete : Obligations.LaneCommandsComplete := by
  intro p s
  exact ⟨fun h => congrArg Host.Outcome.next (takeCommand_done h rfl),
    fun h => congrArg Host.Outcome.next (takeCommand_done h rfl),
    fun h => congrArg Host.Outcome.next (takeCommand_done h rfl),
    fun h hfree => congrArg Host.Outcome.next (takeCommand_done h (lnTest_of_free hfree)),
    fun h => congrArg Host.Outcome.next (takeCommand_done h rfl),
    fun h => congrArg Host.Outcome.next (takeCommand_done h rfl)⟩

/-- Settles O31: each command's meaning, completed; a reset owes its reply once the timebase runs. -/
theorem functionCommandsComplete : Obligations.FunctionCommandsComplete := by
  intro p s f
  exact ⟨fun h hhere hf hrange => congrArg Host.Outcome.next (takeCommand_done h (fnSetView_of_allowed hhere hf hrange)),
    fun h hhere => congrArg Host.Outcome.next (takeCommand_done h (fnReadView_of_present hhere)),
    fun h hhere hparts => congrArg Host.Outcome.next (takeCommand_done h (fnSetQos_of_within hhere hparts)),
    fun h hhere => congrArg Host.Outcome.next (takeCommand_done h (fnReadQos_of_present hhere)),
    fun h hcovered => congrArg Host.Outcome.next (takeCommand_done h (fnSetBudget_of_covered hcovered)),
    fun h hhere hexists =>
      ⟨fun hstarted => congrArg Host.Outcome.next
          (takeCommand_owe h ((fnReset_of_present hhere hexists).trans (if_pos hstarted))),
        fun hstopped => congrArg Host.Outcome.next
          (takeCommand_done h ((fnReset_of_present hhere hexists).trans (if_neg (ne_true_of_eq_false hstopped))))⟩,
    fun h => congrArg Host.Outcome.next (takeCommand_done h rfl)⟩

/-- Settles O32: each command's meaning, completed. -/
theorem healthCommandsComplete : Obligations.HealthCommandsComplete := by
  intro p s
  exact ⟨fun h => congrArg Host.Outcome.next (takeCommand_done h rfl),
    fun h => congrArg Host.Outcome.next (takeCommand_done h rfl),
    fun h => congrArg Host.Outcome.next (takeCommand_done h rfl),
    fun h => congrArg Host.Outcome.next (takeCommand_done h rfl),
    fun h => congrArg Host.Outcome.next (takeCommand_done h rfl),
    fun h => congrArg Host.Outcome.next (takeCommand_done h rfl),
    fun h => congrArg Host.Outcome.next (takeCommand_done h rfl),
    fun h => congrArg Host.Outcome.next (takeCommand_done h rfl),
    fun h hfree => congrArg Host.Outcome.next (takeCommand_done h (hlSetCalendar_of_free hfree)),
    fun h => congrArg Host.Outcome.next (takeCommand_done h rfl),
    fun h => congrArg Host.Outcome.next (takeCommand_done h rfl),
    fun h => congrArg Host.Outcome.next (takeCommand_done h rfl)⟩

/-- Settles O33: each command's meaning, completed. -/
theorem selfTestCommandsComplete : Obligations.SelfTestCommandsComplete := by
  intro p s
  exact ⟨fun h hfree hmem hbus hpair => congrArg Host.Outcome.next (takeCommand_done h (tsRun_of_free hfree hmem hbus hpair)),
    fun h => congrArg Host.Outcome.next (takeCommand_done h rfl),
    fun h => congrArg Host.Outcome.next (takeCommand_done h rfl),
    fun h => congrArg Host.Outcome.next (takeCommand_done h rfl),
    fun h => congrArg Host.Outcome.next (takeCommand_done h rfl)⟩

end Sys2Proof.Machine
end

section
/-! CLAIMS. The host's side of the hub (14): DEVCFG, the SPI port, the queues, and the functions' and ports' own events. -/

namespace Sys2Proof.Machine
open Sys2Proof

/-! ## DEVCFG (14 Table 14.5) -/

/-- DEVCFG's fields other than CHIP_RESET, written. -/
def devcfgStored (v : Word) (s : State) : State :=
  { s with host := { s.host with
    compat := s.host.compat || (v.bit 31 && !s.host.cfgLock && !s.host.vfEnable), spiIrqEn := v.bit 30, spiEvtEn := v.bit 29 } }

theorem spiEnableWrite_compatWrite (v : Word) (s : State) : spiEnableWrite v (compatWrite v s) = devcfgStored v s := by
  unfold compatWrite devcfgStored
  split
  next h => rw [h, Bool.or_true]; rfl
  next h => rw [eq_false_of_ne_true h, Bool.or_false]; rfl

/-- Settles O36: the stored fields, then the chip reset of the value A5C3. -/
theorem devcfgWrite : Obligations.DevcfgWrite := by
  intro v s
  refine ⟨fun hother => ?_, fun hreset => ?_⟩ <;>
    rw [writeDevcfg, spiEnableWrite_compatWrite]
  · exact if_neg hother
  · exact if_pos hreset

/-! ## The SPI port (14 R557, R558) -/

/-- Bank VDDIO1 is valid and the hub is not held: the port runs its transaction. -/
theorem overSpi_of_powered {s : State} (f : State → State) (hrail : vget s.pwr.rails 7 = true) (hheld : s.pwr.held = false) :
    overSpi f s = f s :=
  if_pos (by rw [hrail, hheld]; rfl)

theorem overSpi_of_unpowered {s : State} (f : State → State) (h : vget s.pwr.rails 7 = false ∨ s.pwr.held = true) :
    overSpi f s = s := by
  refine if_neg ?_
  rcases h with h | h <;> simp [h]

section
variable {s : State} (hrail : vget s.pwr.rails 7 = true) (hheld : s.pwr.held = false)
include hrail hheld

theorem exec_pushCmd_of_fits {words : List Word} (hfits : spiUsed s + 4 * words.length ≤ 2048) :
    exec (.pushCmd words true) s = .next { s with host := { s.host with
      spi := { s.host.spi with commands := s.host.spi.commands ++ [words] } } } :=
  congrArg Host.Outcome.next ((overSpi_of_powered _ hrail hheld).trans (if_pos (by rw [decide_eq_true hfits]; rfl)))

theorem exec_pushCmd_of_over {words : List Word} (hover : 2048 < spiUsed s + 4 * words.length) :
    exec (.pushCmd words true) s = .next { s with host := { s.host with spi := { s.host.spi with pushErr := true } } } :=
  congrArg Host.Outcome.next ((overSpi_of_powered _ hrail hheld).trans
    (if_neg (by rw [decide_eq_false (Nat.not_le.mpr hover)]; decide)))

theorem exec_pushCmd_of_partial (words : List Word) :
    exec (.pushCmd words false) s = .next { s with host := { s.host with spi := { s.host.spi with pushErr := true } } } :=
  congrArg Host.Outcome.next ((overSpi_of_powered _ hrail hheld).trans (if_neg Bool.false_ne_true))

theorem exec_pullReply_of_cons {r : List Word} {rest : List (List Word)} (hr : s.host.spi.replies = r :: rest) (whole : Bool) :
    exec (.pullReply whole) s = .next (if whole then
        let t := setSpiOutput r s
        { t with host := { t.host with spi := { t.host.spi with replies := rest } } }
      else setSpiOutput r s) :=
  congrArg Host.Outcome.next ((overSpi_of_powered _ hrail hheld).trans (by simp only [hr]))

theorem exec_pullReply_of_nil (hr : s.host.spi.replies = []) (whole : Bool) :
    exec (.pullReply whole) s = .next (setSpiOutput [] s) :=
  congrArg Host.Outcome.next ((overSpi_of_powered _ hrail hheld).trans (by simp only [hr]))

theorem exec_pullEvent_of_cons {e : List Word} {rest : List (List Word)} (he : s.host.spi.events = e :: rest) (whole : Bool) :
    exec (.pullEvent whole) s = .next (if whole then
        let t := setSpiOutput e s
        { t with host := { t.host with spi := { t.host.spi with events := rest } } }
      else setSpiOutput e s) :=
  congrArg Host.Outcome.next ((overSpi_of_powered _ hrail hheld).trans (by simp only [he]))

theorem exec_pullEvent_of_nil (he : s.host.spi.events = []) (whole : Bool) :
    exec (.pullEvent whole) s = .next (setSpiOutput [] s) :=
  congrArg Host.Outcome.next ((overSpi_of_powered _ hrail hheld).trans (by simp only [he]))

end

/-- Settles O37: each transaction while the port has power and the hub is not held; without them none acts. -/
theorem spiEventsComplete : Obligations.SpiEventsComplete := by
  intro s
  refine ⟨fun hrail hheld => ?_, fun hoff => ?_⟩
  · exact ⟨fun _ _ => congrArg Host.Outcome.next (overSpi_of_powered _ hrail hheld),
      fun _ _ => congrArg Host.Outcome.next (overSpi_of_powered _ hrail hheld),
      congrArg Host.Outcome.next (overSpi_of_powered _ hrail hheld),
      fun words => ⟨exec_pushCmd_of_fits hrail hheld, exec_pushCmd_of_over hrail hheld, exec_pushCmd_of_partial hrail hheld words⟩,
      fun _ _ hr => ⟨exec_pullReply_of_cons hrail hheld hr true, exec_pullReply_of_cons hrail hheld hr false⟩,
      fun _ _ he => ⟨exec_pullEvent_of_cons hrail hheld he true, exec_pullEvent_of_cons hrail hheld he false⟩,
      exec_pullReply_of_nil hrail hheld, exec_pullEvent_of_nil hrail hheld⟩
  · exact ⟨fun _ _ => congrArg Host.Outcome.next (overSpi_of_unpowered _ hoff),
      fun _ _ => congrArg Host.Outcome.next (overSpi_of_unpowered _ hoff),
      congrArg Host.Outcome.next (overSpi_of_unpowered _ hoff),
      fun _ _ => congrArg Host.Outcome.next (overSpi_of_unpowered _ hoff),
      fun _ => congrArg Host.Outcome.next (overSpi_of_unpowered _ hoff),
      fun _ => congrArg Host.Outcome.next (overSpi_of_unpowered _ hoff)⟩

/-! ## Doorbells and enables (14 R542, R546, R547) -/

section
variable {f : Fn} {q : Nat} {s : State}

theorem exec_doorbellWrite_of_present (v : Word) (hheld : s.pwr.held = false) (hfn : fnExists s f = true) :
    exec (.doorbellWrite f q v) s = .next (writeDoorbell f q v s) :=
  congrArg Host.Outcome.next (if_neg (not_held_or_absent hheld hfn))

theorem exec_queueEnableWrite_of_present (v : Word) (hheld : s.pwr.held = false) (hfn : fnExists s f = true) :
    exec (.queueEnableWrite f q v) s = .next (writeQueueEnable f q v s) :=
  congrArg Host.Outcome.next (if_neg (not_held_or_absent hheld hfn))

/-- How many slots of a queue a doorbell that names index `n` puts in use. -/
def doorbellAhead (f : Fn) (q n : Nat) (s : State) : Nat :=
  if q = 0 then slotsBetween (getQueue s f q) n (getQueue s f q).hubIndex.toNat
  else slotsBetween (getQueue s f q) (getQueue s f q).hubIndex.toNat n

/-- The index that a doorbell's word names, modulo twice the queue's slots (14 R542). -/
def doorbellIndex (f : Fn) (q : Nat) (v : Word) (s : State) : Nat := v.field 15 0 % 2 ^ ((getQueue s f q).log2Slots.toNat + 1)

theorem writeDoorbell_of_disabled (v : Word) (hen : (getQueue s f q).en = false) : writeDoorbell f q v s = s :=
  if_pos (Or.inr (by rw [hen]; rfl))

section
variable {v : Word} (hq : queueExists f q = true) (hen : (getQueue s f q).en = true)
include hq hen

theorem writeDoorbell_of_enabled : writeDoorbell f q v s =
    if 2 ^ (getQueue s f q).log2Slots.toNat < doorbellAhead f q (doorbellIndex f q v s) s then
      (if (getQueue s f q).error then s else queueError f q 2 s)
    else setQueue s f q { getQueue s f q with hostIndex := BitVec.ofNat 16 (doorbellIndex f q v s) } :=
  if_neg (by rw [hq, hen]; decide)

theorem writeDoorbell_of_room (hroom : doorbellAhead f q (doorbellIndex f q v s) s ≤ 2 ^ (getQueue s f q).log2Slots.toNat) :
    writeDoorbell f q v s = setQueue s f q { getQueue s f q with hostIndex := BitVec.ofNat 16 (doorbellIndex f q v s) } :=
  (writeDoorbell_of_enabled hq hen).trans (if_neg (Nat.not_lt.mpr hroom))

theorem writeDoorbell_of_over (hover : 2 ^ (getQueue s f q).log2Slots.toNat < doorbellAhead f q (doorbellIndex f q v s) s)
    (hsound : (getQueue s f q).error = false) : writeDoorbell f q v s = queueError f q 2 s := by
  rw [writeDoorbell_of_enabled hq hen, if_pos hover, hsound]
  rfl

theorem writeQueueEnable_disable (hoff : v.bit 31 = false) : writeQueueEnable f q v s = setQueue s f q
    { getQueue s f q with modUs := v.extractLsb' 0 16, en := false, active := false } := by
  simp only [writeQueueEnable, hq, hen, hoff, Bool.not_true, Bool.false_eq_true, if_false, if_true]

end

theorem writeQueueEnable_enable {v : Word} (hq : queueExists f q = true) (hen : (getQueue s f q).en = false)
    (hon : v.bit 31 = true) : writeQueueEnable f q v s = setQueue s f q
      { getQueue s f q with modUs := v.extractLsb' 0 16, log2Slots := v.extractLsb' 16 4, en := true, active := true
                            hubIndex := 0, hostIndex := 0, error := false, errCode := 0 } := by
  simp only [writeQueueEnable, hq, hen, hon, Bool.not_true, Bool.false_eq_true, if_false, if_true]

/-! ## Items and replies (14 R541, R548) -/

/-- A queue of the hub's can write its oldest item while it runs without error, its function's transfers run, and the item fits. -/
theorem writableItem_of_room {item : List Word} {rest : List (List Word)} (hq0 : q ≠ 0) (hq : queueExists f q = true)
    (hfn : fnExists s f = true) (hen : (getQueue s f q).en = true) (hsound : (getQueue s f q).error = false)
    (hrun : transfersRun s f = true) (hw : (getQueue s f q).waiting = item :: rest)
    (hroom : slotsBetween (getQueue s f q) (getQueue s f q).hubIndex.toNat (getQueue s f q).hostIndex.toNat
      + ceilDiv item.length 16 ≤ 2 ^ (getQueue s f q).log2Slots.toNat) :
    writableItem f q s = some item := by
  simp only [writableItem, hw, hq0, hq, hfn, hen, hsound, hrun, Nat.not_lt.mpr hroom, Bool.not_true, Bool.false_eq_true, or_self,
    if_false]

theorem exec_queueItemWrite_of_writable {item : List Word} {rest : List (List Word)} (hitem : writableItem f q s = some item)
    (hw : (getQueue s f q).waiting = item :: rest) (hnext : nextWrite f q s = true) :
    exec (.queueItemWrite f q false) s = .next (
      let s1 := chargeWrite f q item (setQueue s f q { getQueue s f q with waiting := rest })
      itemCauses f q item (advanceHub f q (ceilDiv item.length 16) { s1 with out := { s1.out with host := s1.out.host ++
        [.item f q ((getQueue s f q).hubIndex.toNat % 2 ^ (getQueue s f q).log2Slots.toNat) item] } })) := by
  change execQueueItemWrite f q false s = _
  simp only [execQueueItemWrite, hitem, hnext, hw, Bool.not_true, Bool.false_eq_true, if_false, List.drop_one, List.tail_cons]

theorem exec_queueItemWrite_of_transferError {item : List Word} (hitem : writableItem f q s = some item)
    (hnext : nextWrite f q s = true) :
    exec (.queueItemWrite f q true) s = .next (queueError f q 1 (chargeWrite f q item s)) := by
  change execQueueItemWrite f q true s = _
  simp only [execQueueItemWrite, hitem, hnext, Bool.not_true, Bool.false_eq_true, if_false, if_true]

theorem exec_replyWrite_of_room {r : Reply} (hr : s.fh.replies.find? (fun e => e.1 == .cq f) = some (.cq f, r))
    (hen : (getQueue s f 1).en = true) (hsound : (getQueue s f 1).error = false) (hroom : slotsOf r.words ≤ queueRoom s f 1) :
    exec (.replyWrite (.cq f)) s =
      .next (setQueue { s with fh := { s.fh with replies := s.fh.replies.erase (.cq f, r) } } f 1
        { getQueue s f 1 with waiting := (getQueue s f 1).waiting ++ [r.words] }) := by
  change execReplyWrite (.cq f) s = _
  simp only [execReplyWrite, hr, hen, hsound, hroom, decide_true, Bool.not_false, Bool.and_self, if_true]

/-! ## Commands taken from a queue (15 R583, R586) -/

theorem setServed_cq : setServed (.cq f) s = { s with fh := { s.fh with lastSource := f.val } } :=
  if_neg (by have := f.isLt; simp only [sourcePlace]; omega)

theorem exec_commandTake_of_not_inTurn {src : Source} (words : List Word) (us : Nat) (hturn : inTurn src s = false) :
    exec (.commandTake src words us) s = .next s :=
  congrArg Host.Outcome.next (if_pos (by rw [hturn]; rfl))

theorem takeWaiting_of_none {src : Source} (us : Nat) (h : s.fh.waiting.find? (fun w => sameSource w.2.source src) = none) :
    takeWaiting src us s = none := by
  simp only [takeWaiting, h]

theorem exec_commandTake_of_held {words : List Word} {us : Nat} {op : Op} {p : Packet} (hturn : inTurn (.cq f) s = true)
    (hnone : s.fh.waiting.find? (fun w => sameSource w.2.source (.cq f)) = none) (hheld : cqHolds f words s = true)
    (hread : readPacket (.cq f) words s = .command op p) (htake : mayTake p s = true) :
    exec (.commandTake (.cq f) words us) s =
      .next (decideRead (.cq f) words us (advanceHub f 0 (slotsOf words) (setServed (.cq f) s))) := by
  have hwaiting : takeWaiting (.cq f) us (setServed (.cq f) s) = none :=
    takeWaiting_of_none us (by rw [setServed_cq]; exact hnone)
  have hpacket : packetToTake (.cq f) words s = p := by simp only [packetToTake, hread]
  change execCommandTake (.cq f) words us s = _
  simp only [execCommandTake, hturn, hwaiting, hheld, hpacket, htake, hread, Bool.not_true, Bool.and_self, Bool.false_eq_true,
    if_false, if_true]

theorem exec_commandHeaderError_of_malformed {words : List Word} (hread : readPacket (.cq f) words s = .malformed)
    (htake : mayTake { source := .cq f, tag := 0 } s = true) (hturn : inTurn (.cq f) s = true) (hheld : cqHolds f words s = true) :
    exec (.commandHeaderError (.cq f) words) s = .next (malformedHeader (.cq f) (wordAt words 0) (setServed (.cq f) s)) := by
  change execCommandHeaderError (.cq f) words s = _
  simp only [execCommandHeaderError, hread, htake, hturn, hheld, ne_eq, not_true_eq_false, or_self, if_false, if_true]

theorem exec_commandHeaderError_of_not_inTurn {src : Source} (words : List Word) (hturn : inTurn src s = false) :
    exec (.commandHeaderError src words) s = .next s :=
  congrArg Host.Outcome.next (if_pos (Or.inr (Or.inr (ne_true_of_eq_false hturn))))

end

/-- Settles O34: each event of a queue by what it finds there. -/
theorem queueEventsComplete : Obligations.QueueEventsComplete := by
  intro f q v s
  refine ⟨fun hheld hfn hq => ?_, fun item rest hq0 hq hfn hen hsound hrun hw hroom hnext => ?_,
    fun r => exec_replyWrite_of_room, fun _ _ _ _ => exec_commandTake_of_held, exec_commandTake_of_not_inTurn,
    fun _ => exec_commandHeaderError_of_malformed, exec_commandHeaderError_of_not_inTurn⟩
  · rw [exec_doorbellWrite_of_present v hheld hfn, exec_queueEnableWrite_of_present v hheld hfn]
    exact ⟨fun hen => ⟨fun hroom => congrArg Host.Outcome.next (writeDoorbell_of_room hq hen hroom),
        fun hover hsound => congrArg Host.Outcome.next (writeDoorbell_of_over hq hen hover hsound)⟩,
      fun hen => congrArg Host.Outcome.next (writeDoorbell_of_disabled v hen),
      fun hen hon => congrArg Host.Outcome.next (writeQueueEnable_enable hq hen hon),
      fun hen hoff => congrArg Host.Outcome.next (writeQueueEnable_disable hq hen hoff)⟩
  · have hitem := writableItem_of_room hq0 hq hfn hen hsound hrun hw hroom
    exact ⟨exec_queueItemWrite_of_writable hitem hw hnext, exec_queueItemWrite_of_transferError hitem hnext⟩

/-! ## Functions and ports (14 R533, R552, R560 to R562; 18 R722) -/

section
variable {f : Fn} {s : State}

theorem exec_flr_of_function (hfn : fnExists s f = true) (h0 : f ≠ 0) :
    exec (.flr f) s = .next (functionReset f resetKindFn s) :=
  congrArg Host.Outcome.next ((if_pos hfn).trans (if_neg (fun h => h0 (Fin.ext h))))

/-- PF0 always exists. -/
theorem exec_flr_pf0 (s : State) : exec (.flr 0) s = .next (pf0Reset s) := rfl

theorem exec_powerStateChange_of_change {d : Bool} (hfn : fnExists s f = true) (hchange : (getFn s f).d3hot = !d) :
    exec (.powerStateChange f d) s = .next (
      if d then modFn s f (fun x => { x with d3hot := d }) else resumeInterrupts f (modFn s f (fun x => { x with d3hot := d }))) :=
  congrArg Host.Outcome.next (if_neg (by rw [hfn, hchange]; cases d <;> decide))

theorem exec_busMasterEnableChange_of_present (b m : Bool) (hfn : fnExists s f = true) :
    exec (.busMasterEnableChange f { bme := b, msixEn := m, numVfs := none }) s = .next (
      if mayInterrupt s f then modFn s f (fun x => { x with bme := b, msixEn := m })
      else resumeInterrupts f (modFn s f (fun x => { x with bme := b, msixEn := m }))) :=
  congrArg Host.Outcome.next (if_neg (by rw [hfn]; decide))

section
variable {rate width : Nat} (hlow : 1 ≤ rate) (hhigh : rate ≤ 4) (hheld : s.pwr.held = false)
include hlow hhigh hheld

theorem exec_linkTrained_host (hperst : s.host.hostPort.perst = false) (hwidth : width = 1 ∨ width = 2 ∨ width = 4) :
    exec (.linkTrained .host rate width) s = .next (checkOvercommit (info 0x0E07 0 [0, wd rate, wd width]
      { s with host := { s.host with hostPort := { s.host.hostPort with linkUp := true, rate := rate, width := width } } })) := by
  refine congrArg Host.Outcome.next (if_neg ?_)
  rcases hwidth with rfl | rfl | rfl <;> simp [within, hlow, hhigh, hheld, hperst]

theorem exec_linkTrained_aux (hperst : s.host.auxPort.perst = false) (hmode : s.ln.auxMode = 2) (hwidth : width = 1 ∨ width = 2) :
    exec (.linkTrained .aux rate width) s = .next (checkOvercommit (info 0x0E07 1 [1, wd rate, wd width]
      { s with host := { s.host with auxPort := { s.host.auxPort with linkUp := true, rate := rate, width := width } } })) := by
  refine congrArg Host.Outcome.next (if_neg ?_)
  rcases hwidth with rfl | rfl <;> simp [within, hlow, hhigh, hheld, hperst, hmode]

end

end

/-- Settles O38: each event of a function or a port under its guards. -/
theorem functionEventsComplete : Obligations.FunctionEventsComplete := by
  intro f s
  exact ⟨exec_flr_of_function, exec_flr_pf0 s, fun _ => rfl, fun _ hmode => congrArg Host.Outcome.next (if_pos hmode), rfl,
    exec_powerStateChange_of_change (d := true), exec_powerStateChange_of_change (d := false),
    fun b m hfn hcould => (exec_busMasterEnableChange_of_present b m hfn).trans (congrArg Host.Outcome.next (if_pos hcould)),
    fun b m hfn hcould => (exec_busMasterEnableChange_of_present b m hfn).trans
      (congrArg Host.Outcome.next (if_neg (ne_true_of_eq_false hcould))),
    fun _ hlow hhigh hperst hheld _ hwidth => exec_linkTrained_host hlow hhigh hheld hperst hwidth,
    fun _ hlow hhigh hperst hheld hmode _ hwidth => exec_linkTrained_aux hlow hhigh hheld hperst hmode hwidth, rfl, rfl⟩

end Sys2Proof.Machine
end

section
/-! CLAIMS. Fountainhead's own events (15, "Authentication", "Relaying and broadcast", "Firmware patches"; 18, "Boot sources"). -/

namespace Sys2Proof.Machine
open Sys2Proof

/-- A row that does `g` as of tick `e`, or nothing at all, changes nothing before the frame of tick `e`. -/
theorem early_of_atDue_or_stays {c : Instr} {e : Nat} {g : State → State} {s : State}
    (hc : exec c s = .next (atDue e g s) ∨ exec c s = .next s) : Early e c s := by
  rcases hc with hdue | hstays
  · exact early_of_atDue hdue
  · exact fun _ => hstays

section
variable {s : State}

/-! ## Lock-outs and the restart (15 R595, R620) -/

theorem exec_authLockoutEnd_of_locked {slot : Fn} (h : hasBit s.fh.locked slot.val = true) :
    exec (.authLockoutEnd slot) s = .next (atDue (vget s.fh.lockedAt slot + 10 * ticksPerSecond)
      (fun s => { s with fh := { s.fh with locked := clearBit s.fh.locked slot.val } }) s) :=
  congrArg Host.Outcome.next (if_pos h)

theorem exec_fwRestartDone_of_restarting (h : s.fh.restarting = true) :
    let v := becomeReady { s with fh := { s.fh with
      restarting := false, patch := if s.fh.patchNext.isSome then s.fh.patchNext else s.fh.patch, patchNext := none } }
    let w := info 0x0105 0 [wd (fwVersion s), wd (fwVersion v), wd v.ao.patchFloor.toNat] v
    exec .fwRestartDone s = .next (settle .patchCommit .ok [] (now w) w) :=
  congrArg Host.Outcome.next (if_neg (by rw [h]; decide))

/-! ## Relays (15 R597 to R600) -/

/-- A relayed packet that this hub neither executed within the last second nor still holds is taken. -/
theorem exec_relayCmd_of_new {words : List Word} {op : Op} {p : Packet} (hexecuted : s.fh.executed = []) (howed : s.fh.owed = [])
    (hwaiting : s.fh.waiting = [])
    (hread : readNative (.relay ((wordAt words 0).extractLsb' 11 5) ((wordAt words 0).extractLsb' 16 16) ((wordAt words 0).bit 6))
      .native (words.drop 1) = .command op p) :
    exec (.relayCmd words) s = .next (takeCommand (opRules op) p s) := by
  change execRelayCmd words s = _
  simp only [execRelayCmd, hexecuted, List.filter_nil, List.find?_nil, howed, hwaiting, List.any_nil, Bool.or_self,
    Bool.false_eq_true, if_false, hread]
  rw [← hexecuted, ← howed, ← hwaiting]

section
variable {words : List Word} {x : Relay}

theorem exec_relayReply_of_none (h : s.fh.relays.find? (fun y => y.id == (wordAt words 0).extractLsb' 16 16) = none) :
    exec (.relayReply words) s = .next (lateReply s) := by
  change execRelayReply words s = _
  simp only [execRelayReply, h]

variable (h : s.fh.relays.find? (fun y => y.id == (wordAt words 0).extractLsb' 16 16) = some x)
include h

theorem exec_relayReply_of_unicast (huni : x.packet.bcast = false) : exec (.relayReply words) s =
    .next (pumpRelays (closeRelay ((wordAt words 0).extractLsb' 16 16) (fun p => fitReply x.op p (replyIn words)) s)) := by
  change execRelayReply words s = _
  simp only [execRelayReply, h, huni, Bool.false_eq_true, if_false]

theorem exec_relayReply_of_member (hbcast : x.packet.bcast = true)
    (hfirst : ((x.succeeded ||| x.rejected) &&& wd (2 ^ (replyIn words).hub.toNat)) = 0)
    (hmember : (x.expected &&& wd (2 ^ (replyIn words).hub.toNat)) ≠ 0) : exec (.relayReply words) s =
    .next (pumpRelays (memberReply ((wordAt words 0).extractLsb' 16 16) (replyIn words).hub (replyIn words) s)) := by
  change execRelayReply words s = _
  simp only [execRelayReply, h, hbcast, hfirst, hmember, ne_eq, not_true_eq_false, or_self, if_true, if_false]

end

/-- What RELAY_MS without a reply makes of a relay: a unicast's NO_RESPONSE, or a broadcast's summary (15 R598, R599). -/
def relayTimedOut (id : BitVec 16) (x : Relay) (s : State) : State :=
  let n := if x.packet.bcast then popCount ((x.expected &&& ~~~(x.succeeded ||| x.rejected)).zeroExtend 72) else 1
  let s1 := { s with fh := { s.fh with noResponses := satAdd s.fh.noResponses n } }
  pumpRelays (if x.packet.bcast then closeBroadcast id true s1
    else closeRelay id (fun p => replyOf x.op.code p .noResponse [wd x.packet.target.toNat] (now s) s) s1)

section
variable {id : BitVec 16} {x : Relay}

theorem exec_relayTimeout_of_some (h : s.fh.relays.find? (fun y => y.id == id) = some x) :
    exec (.relayTimeout id) s =
      .next (atDue (x.sent + usTicks (1000 * s.fh.relayMs.toNat)) (relayTimedOut id x) s) := by
  change execRelayTimeout id s = _
  simp only [execRelayTimeout, h]
  rfl

theorem relayTimedOut_of_unicast (huni : x.packet.bcast = false) : relayTimedOut id x s = pumpRelays (closeRelay id
    (fun p => replyOf x.op.code p .noResponse [wd x.packet.target.toNat] (now s) s)
    { s with fh := { s.fh with noResponses := satAdd s.fh.noResponses 1 } }) := by
  simp only [relayTimedOut, huni, Bool.false_eq_true, if_false]

theorem relayTimedOut_of_broadcast (hbcast : x.packet.bcast = true) : relayTimedOut id x s = pumpRelays (closeBroadcast id true
    { s with fh := { s.fh with
      noResponses := satAdd s.fh.noResponses (popCount ((x.expected &&& ~~~(x.succeeded ||| x.rejected)).zeroExtend 72)) } }) := by
  simp only [relayTimedOut, hbcast, if_true]

end

/-! ## The boot (18 R716, R719, R720) -/

section
variable (nor : NorImage) (hheld : s.pwr.held = false) (hunready : s.fh.fwReady = false) (hboot : s.pwr.booting = true)
include hheld hunready hboot

/-- What the boot makes of its source, once the hub is released. -/
theorem exec_bootStart_of_booting : exec (.bootStart nor) s = .next (
    if bootSrc s = 0 then startScript [] s
    else if 5 ≤ bootSrc s then startScript [] (imageInvalid [1] s)
    else if !headerPasses nor.header then startScript [] (imageInvalid [2] s)
    else if !(bootPatch nor s).2 || bootSrc s % 2 == 1 then startScript [] (bootPatch nor s).1
    else match scriptOf nor with
      | none => startScript [] (imageInvalid [4] (bootPatch nor s).1)
      | some packets => startScript packets (bootPatch nor s).1) :=
  congrArg Host.Outcome.next (if_neg (by rw [hheld, hunready, hboot]; decide))

theorem exec_bootStart_of_no_source (h0 : bootSrc s = 0) : exec (.bootStart nor) s = .next (startScript [] s) := by
  rw [exec_bootStart_of_booting nor hheld hunready hboot, if_pos h0]

theorem exec_bootStart_of_reserved (h5 : 5 ≤ bootSrc s) :
    exec (.bootStart nor) s = .next (startScript [] (imageInvalid [1] s)) := by
  have h0 : bootSrc s ≠ 0 := by omega
  rw [exec_bootStart_of_booting nor hheld hunready hboot, if_neg h0, if_pos h5]

theorem exec_bootStart_of_bad_header (h0 : 0 < bootSrc s) (h5 : bootSrc s < 5) (hheader : headerPasses nor.header = false) :
    exec (.bootStart nor) s = .next (startScript [] (imageInvalid [2] s)) := by
  rw [exec_bootStart_of_booting nor hheld hunready hboot, if_neg (Nat.ne_of_gt h0), if_neg (Nat.not_le.mpr h5), hheader,
    Bool.not_false, if_pos rfl]

theorem exec_bootStart_of_script {packets : List (List Word)} (hsrc : bootSrc s = 2 ∨ bootSrc s = 4)
    (hheader : headerPasses nor.header = true) (hpatch : (bootPatch nor s).2 = true) (hscript : scriptOf nor = some packets) :
    exec (.bootStart nor) s = .next (startScript packets (bootPatch nor s).1) := by
  rw [exec_bootStart_of_booting nor hheld hunready hboot, hheader, hpatch, hscript]
  rcases hsrc with h | h <;> simp [h]

end

theorem exec_bootScriptEnd_of_done (hboot : s.pwr.booting = true) (hready : s.fh.fwReady = true) (hleft : s.pwr.scriptLeft = [])
    (howed : s.fh.owed.any (fun o => o.packet.source == .script) = false)
    (hwaiting : s.fh.waiting.any (fun w => w.2.source == .script) = false) : exec .bootScriptEnd s = .next (endBoot s) :=
  congrArg Host.Outcome.next (if_pos (by rw [hboot, hready, hleft, howed, hwaiting]; rfl))

end

/-- Settles O39: each event under its guard, the timed ones as of their ticks. -/
theorem fountainheadEventsComplete : Obligations.FountainheadEventsComplete := by
  intro s
  refine ⟨fun slot hlocked hdue => exec_of_atDue (exec_authLockoutEnd_of_locked hlocked) hdue,
    fun words op p => exec_relayCmd_of_new,
    fun words x h => ⟨exec_relayReply_of_unicast h, exec_relayReply_of_member h⟩,
    fun words => exec_relayReply_of_none,
    fun id x h huni hdue => ?_, fun id x h hbcast hdue => ?_,
    exec_fwRestartDone_of_restarting,
    fun nor hheld hunready hboot => ⟨exec_bootStart_of_no_source nor hheld hunready hboot,
      exec_bootStart_of_reserved nor hheld hunready hboot, exec_bootStart_of_bad_header nor hheld hunready hboot,
      fun _ => exec_bootStart_of_script nor hheld hunready hboot⟩,
    exec_bootScriptEnd_of_done,
    fun slot hlocked => early_of_atDue (exec_authLockoutEnd_of_locked hlocked),
    fun id x h => early_of_atDue (exec_relayTimeout_of_some h)⟩
  · rw [exec_of_atDue (exec_relayTimeout_of_some h) hdue, relayTimedOut_of_unicast huni]
  · rw [exec_of_atDue (exec_relayTimeout_of_some h) hdue, relayTimedOut_of_broadcast hbcast]

end Sys2Proof.Machine
end

section
/-! CLAIMS. Lane states, messages and flow control (13): each row by the state of its lane, its side and its class. -/

namespace Sys2Proof.Machine
open Sys2Proof

/-! ## Bring-up (13 R504 to R507) -/

section
variable {l : Fin 16} {s : State}

/-- A lane that listens for TRAIN blocks: powered, in bring-up, its transmitter not idle. -/
structure Listens (g : Fin 3) (l : Fin 16) (s : State) : Prop where
  group : laneGroup s l.val = some g
  power : lanePower s = true
  awake : (getLane s l).idle = false
  bringup : (getLane s l).lstate = .detect ∨ (getLane s l).lstate = .train

theorem Listens.not_deaf {g : Fin 3} (h : Listens g l s) :
    ((getLane s l).lstate == .disabled || (getLane s l).lstate == .refused || (getLane s l).lstate == .silent
      || (getLane s l).lstate == .test || (getLane s l).idle || !lanePower s) = false := by
  rw [h.power, h.awake]
  rcases h.bringup with hst | hst <;> rw [hst] <;> rfl

theorem Listens.not_up {g : Fin 3} (h : Listens g l s) : ((getLane s l).lstate == .up) = false := by
  rcases h.bringup with hst | hst <;> rw [hst] <;> rfl

theorem exec_trainBlockReceive_of_listens {g : Fin 3} (h : Listens g l s) (pl : BitVec 56) (inv : Bool) :
    exec (.trainBlockReceive l pl inv) s = .next (
      if inv then modLane l (fun y => { y with rxInv := !y.rxInv, agreed := 0 }) s
      else if pfield pl 30 0 ≠ 0 then
        settleErrors g s (modLane l (fun y => { y with shErr := satInc y.shErr, ready := 0 }) (moveErrors l 0 8 s))
      else if miswired g l pl s then
        laneEvent 0 l.val [wd l.val, wd (pfield pl 51 50), wd (pfield pl 49 47), wd (pfield pl 46 44)]
          (takeDown l .refused false s)
      else trainAdvance l pl (notePeer g l pl s)) := by
  change execTrainBlockReceive l pl inv s = _
  simp only [execTrainBlockReceive, h.group, h.not_deaf, h.not_up, Bool.false_eq_true, if_false]

theorem exec_trainBlockReceive_of_deaf (pl : BitVec 56) (inv : Bool) (h : (getLane s l).lstate = .disabled ∨
      (getLane s l).lstate = .refused ∨ (getLane s l).lstate = .silent ∨ (getLane s l).lstate = .test) :
    exec (.trainBlockReceive l pl inv) s = .next s := by
  change execTrainBlockReceive l pl inv s = _
  unfold execTrainBlockReceive
  cases laneGroup s l.val with
  | none => rfl
  | some g =>
    refine congrArg Host.Outcome.next (if_pos ?_)
    rcases h with h | h | h | h <;> rw [h] <;> rfl

theorem exec_bringupTimeout_of_train (h : (getLane s l).lstate = .train) : exec (.bringupTimeout l) s =
    .next (atDue ((getLane s l).trainAt + usTicks 20000) (modLane l (fun x => { x with
      lstate := .detect, rateIdle := false, agreed := 0, ready := 0, resumed := false, trainsSent := 0, rate := 0
      peerIndex := none })) s) :=
  congrArg Host.Outcome.next (if_pos h)

theorem exec_bringupTimeout_of_other (h : (getLane s l).lstate ≠ .train) : exec (.bringupTimeout l) s = .next s :=
  congrArg Host.Outcome.next (if_neg h)

theorem exec_rateSelResume_of_idle (h : (getLane s l).lstate = .train ∧ (getLane s l).rateIdle = true) :
    exec (.rateSelResume l) s = .next (atDue ((getLane s l).idleSince + usTicks 1)
      (modLane l (fun y => { y with rateIdle := false, resumed := true, ready := 0, trainsSent := 0, rate := y.rateSel })) s) :=
  congrArg Host.Outcome.next (if_pos h)

theorem exec_rateSelResume_of_other (h : ¬ ((getLane s l).lstate = .train ∧ (getLane s l).rateIdle = true)) :
    exec (.rateSelResume l) s = .next s :=
  congrArg Host.Outcome.next (if_neg h)

/-! ## Losses, silence and idle (13 R508, R513, R517 to R521) -/

theorem exec_electricalIdleEnd_of_idle
    (h : ¬ ((getLane s l).lstate = .silent ∨ (getLane s l).lstate = .sleep ∨ (getLane s l).idle = false)) :
    exec (.electricalIdleEnd l) s =
      .next (atDue ((getLane s l).idleSince + usTicks 10) (modLane l (fun x => { x with idle := false })) s) :=
  congrArg Host.Outcome.next (if_neg h)

theorem exec_electricalIdleEnd_of_other
    (h : (getLane s l).lstate = .silent ∨ (getLane s l).lstate = .sleep ∨ (getLane s l).idle = false) :
    exec (.electricalIdleEnd l) s = .next s :=
  congrArg Host.Outcome.next (if_pos h)

theorem exec_laneLossOfSignal_of_awake (h : (getLane s l).lstate ≠ .sleep) : exec (.laneLossOfSignal l) s = .next (
    let lost := recordCause l .lossOfSignal (modLane l (fun y => { y with los := true, losCount := satInc y.losCount }) s)
    if (getLane s l).lstate = .up then leaveUp l lost else lost) :=
  congrArg Host.Outcome.next (if_neg h)

theorem exec_laneLossOfLock_eq (l : Fin 16) (s : State) : exec (.laneLossOfLock l) s = .next (
    let lost := recordCause l .lossOfLock (modLane l (fun y => { y with lolCount := satInc y.lolCount }) s)
    if (getLane s l).lstate = .up then leaveUp l lost else lost) := rfl

theorem exec_silenceEnd_of_unlatched (h : (getLane s l).lstate = .silent ∧ (!(getLane s l).latched) = true) :
    exec (.silenceEnd l) s = .next (atDue ((getLane s l).idleSince + usTicks 10000)
      (modLane l (fun y => { y with lstate := .detect, idle := false, rate := 0, peerIndex := none })) s) :=
  congrArg Host.Outcome.next (if_pos h)

theorem exec_silenceEnd_of_other (h : ¬ ((getLane s l).lstate = .silent ∧ (!(getLane s l).latched) = true)) :
    exec (.silenceEnd l) s = .next s :=
  congrArg Host.Outcome.next (if_neg h)

section
variable {g : Fin 3}

/-- The idle row of a lane whose group is known: its time runs while the lane has nothing to send. -/
theorem exec_laneIdleTimeout_of_group (hg : laneGroup s l.val = some g) : exec (.laneIdleTimeout l) s = .next (
    if (getLane s l).lstate = .up ∧ g ≠ 2 ∧ timingLaneOf s g ≠ some l ∧ (vget (vget s.ln.groups g) 0).field 15 0 ≠ 0
        ∧ (getLane s l).placed = [] ∧ (getLane s l).opened = [] then
      atDue ((getLane s l).lastBlock + usTicks ((vget (vget s.ln.groups g) 0).field 15 0))
        (fun t => takeDown l .sleep true (sendIdleEntry g t)) s
    else s) := by
  change execLaneIdleTimeout l s = _
  simp only [execLaneIdleTimeout, hg]

theorem early_laneIdleTimeout (hg : laneGroup s l.val = some g) :
    Early ((getLane s l).lastBlock + usTicks ((vget (vget s.ln.groups g) 0).field 15 0)) (.laneIdleTimeout l) s := by
  intro hlate
  rw [exec_laneIdleTimeout_of_group hg, atDue_of_not_dueSoon _ hlate, ite_self]

end

theorem early_bringupTimeout : Early ((getLane s l).trainAt + usTicks 20000) (.bringupTimeout l) s :=
  early_of_atDue_or_stays ((em _).imp exec_bringupTimeout_of_train exec_bringupTimeout_of_other)

theorem early_electricalIdleEnd : Early ((getLane s l).idleSince + usTicks 10) (.electricalIdleEnd l) s :=
  early_of_atDue_or_stays ((em _).symm.imp exec_electricalIdleEnd_of_idle exec_electricalIdleEnd_of_other)

theorem early_rateSelResume : Early ((getLane s l).idleSince + usTicks 1) (.rateSelResume l) s :=
  early_of_atDue_or_stays ((em _).imp exec_rateSelResume_of_idle exec_rateSelResume_of_other)

theorem early_silenceEnd : Early ((getLane s l).idleSince + usTicks 10000) (.silenceEnd l) s :=
  early_of_atDue_or_stays ((em _).imp exec_silenceEnd_of_unlatched exec_silenceEnd_of_other)

theorem exec_fastExitTimeout_of_woken (h : (getLane s l).lstate = .sleep ∨ (getLane s l).lstate = .up) :
    exec (.fastExitTimeout l) s = .next (leaveUp l s) := by
  change execFastExitTimeout l s = _
  rcases h with h | h <;> simp only [execFastExitTimeout, h]

end

/-- Settles O52: each row by the state of its lane, the timed ones as of their ticks. -/
theorem laneEventsComplete : Obligations.LaneEventsComplete := by
  intro l s
  refine ⟨fun g pl hg hpower hawake hst => ?_, fun pl inv => exec_trainBlockReceive_of_deaf pl inv,
    fun hst hdue => exec_of_atDue (exec_bringupTimeout_of_train hst) hdue,
    fun hsilent hsleep hidle hdue => exec_of_atDue (exec_electricalIdleEnd_of_idle (by simp [hsilent, hsleep, hidle])) hdue,
    ⟨fun hup => ?_, fun hup hawake => ?_, fun hsleep => congrArg Host.Outcome.next (if_pos hsleep)⟩,
    ⟨fun hup => congrArg Host.Outcome.next (if_pos hup), fun hup => congrArg Host.Outcome.next (if_neg hup)⟩, rfl,
    fun hst hfree hdue => exec_of_atDue (exec_silenceEnd_of_unlatched ⟨hst, (Bool.not_eq_true' _).mpr hfree⟩) hdue,
    fun _ hlatched => exec_silenceEnd_of_other (by simp [hlatched]),
    fun hup => congrArg Host.Outcome.next (if_pos hup),
    fun g hg hup hring htiming hset hplaced hopened hdue => ?_,
    fun hsleep => congrArg Host.Outcome.next (if_pos hsleep),
    fun hst hidle hdue => exec_of_atDue (exec_rateSelResume_of_idle ⟨hst, hidle⟩) hdue,
    exec_fastExitTimeout_of_woken,
    ⟨early_bringupTimeout, early_electricalIdleEnd, early_silenceEnd, early_rateSelResume⟩,
    fun g => early_laneIdleTimeout⟩
  · have hlistens : Listens g l s := ⟨hg, hpower, hawake, hst⟩
    simp only [exec_trainBlockReceive_of_listens hlistens]
    exact ⟨rfl, fun hbad => congrArg Host.Outcome.next (if_pos hbad),
      fun hgood hmis => congrArg Host.Outcome.next ((if_neg (not_not.mpr hgood)).trans (if_pos hmis)),
      fun hgood hwired => congrArg Host.Outcome.next ((if_neg (not_not.mpr hgood)).trans
        (if_neg (ne_true_of_eq_false hwired)))⟩
  · have hawake : (getLane s l).lstate ≠ .sleep := by rw [hup]; decide
    exact (exec_laneLossOfSignal_of_awake hawake).trans (congrArg Host.Outcome.next (if_pos hup))
  · exact (exec_laneLossOfSignal_of_awake hawake).trans (congrArg Host.Outcome.next (if_neg hup))
  · rw [exec_laneIdleTimeout_of_group hg, if_pos ⟨hup, hring, htiming, hset, hplaced, hopened⟩, atDue_of_dueSoon _ hdue]

/-! ## Messages (13 R490 to R500) -/

section
variable {g : Fin 3} {l : Fin 16} {s : State}

/-- The first block of a row that an UP lane receives is taken, the rest follows. -/
theorem exec_messageReceive_cons (hg : laneGroup s l.val = some g) (hup : (getLane s l).lstate = .up) (b : WireBlock)
    (bs : List WireBlock) : exec (.messageReceive l (b :: bs)) s =
      exec (.messageReceive l bs) (receiveBlock g l b (modLane l (fun y => { y with lastBlock := now s }) s)) := by
  change execMessageReceive l (b :: bs) s = execMessageReceive l bs _
  simp only [execMessageReceive, List.foldl_cons, hg, hup, if_true]

theorem receiveBlock_som (m : BitVec 56) : receiveBlock g l (.som m) s =
    modLane l (fun y => { y with receiving := { som := m, words := [], bad := 0 } :: (getLane s l).receiving }) s := by
  simp only [receiveBlock]

section
variable {i : RxMessage} {rest : List RxMessage} (h : (getLane s l).receiving = i :: rest)
include h

theorem receiveBlock_data_of_open (v w : Word) (ok : Bool) : receiveBlock g l (.data v w ok) s = modLane l (fun y =>
    { y with receiving := { i with words := i.words ++ [v, w], bad := i.bad + b01 (!ok) } :: rest }) s := by
  simp only [receiveBlock, h]

theorem receiveBlock_eom_of_open (e : BitVec 56) : receiveBlock g l (.eom e) s = receiveMessage g l
    { som := i.som, words := i.words, eom := e, badHeaders := i.bad } (modLane l (fun y => { y with receiving := rest }) s) := by
  simp only [receiveBlock, h]

end

section
variable (h : (getLane s l).receiving = [])
include h

/-- A block that belongs to no open message is a receive error (assumption 169). -/
theorem receiveBlock_data_of_stray (v w : Word) (ok : Bool) : receiveBlock g l (.data v w ok) s =
    settleErrors g s (modLane l (fun y => { y with shErr := satInc y.shErr }) (moveErrors l 0 8 s)) := by
  simp only [receiveBlock, h]

theorem receiveBlock_eom_of_stray (e : BitVec 56) : receiveBlock g l (.eom e) s =
    settleErrors g s (modLane l (fun y => { y with shErr := satInc y.shErr }) (moveErrors l 0 8 s)) := by
  simp only [receiveBlock, h]

end

section
variable (hg : laneGroup s l.val = some g) (hup : (getLane s l).lstate = .up)
include hg hup

theorem exec_flow_of_bad {pl : BitVec 56} (hbad : pfield pl 39 24 ≠ 0) : exec (.flow l pl) s =
    .next (settleErrors g s (modLane l (fun y => { y with shErr := satInc y.shErr }) (moveErrors l 0 8 s))) := by
  change execFlow l pl s = _
  simp only [execFlow, hg, hup, hbad, ne_eq, not_true_eq_false, not_false_eq_true, if_true, if_false]

/-- What a FLOW block acknowledges and credits at a class (13 R499, R500). -/
def flowTaken (g : Fin 3) (pl : BitVec 56) (s : State) : State :=
  let c : Fin 4 := fin 4 (pfield pl 55 54)
  let k := getLink s g c
  let n := if pfield pl 40 40 = 1 then ackedCount k (BitVec.ofNat 12 (pfield pl 53 42)) else 0
  modLink g c (fun k => { k with replay := k.replay.drop n, creditCum := BitVec.ofNat 24 (pfield pl 23 0) })
    ((k.replay.take n).foldl (fun t x => acknowledge x t) s)

theorem exec_flow_of_good {pl : BitVec 56} (hgood : pfield pl 39 24 = 0) : exec (.flow l pl) s =
    .next (settleErrors g s (if pfield pl 41 41 = 1 then resend g (fin 4 (pfield pl 55 54)) (fun _ => true) (flowTaken g pl s)
      else flowTaken g pl s)) := by
  change execFlow l pl s = _
  simp only [execFlow, hg, hup, hgood, ne_eq, not_true_eq_false, if_false]
  rfl

end

/-! ## A message received whole (13 R493, R497, R498) -/

section
variable {m : WireMessage}

theorem receiveMessage_of_bad (h : receivedCorrectly m = false) : receiveMessage g l m s =
    settleErrors g s (sendFlow g (fin 4 (pfield m.som 55 54)) true (modLane l (fun x => { x with
      crcErr := satInc x.crcErr, shErr := satAdd x.shErr (failedBlocks m) })
      (moveErrors l 0 (8 * (1 + failedBlocks m : Nat)) s))) := by
  simp only [receiveMessage, h, Bool.not_false, if_true]

/-- The state in which a message received correctly is judged: REC has fallen by 1. -/
def receiptCounted (g : Fin 3) (l : Fin 16) (s : State) : State := settleErrors g s (moveErrors l 0 (-1) s)

theorem receiveMessage_of_good (h : receivedCorrectly m = true) : receiveMessage g l m s =
    let c : Fin 4 := fin 4 (pfield m.som 55 54)
    let v := receiptCounted g l s
    let q : BitVec 12 := BitVec.ofNat 12 (pfield m.som 35 24)
    if c = 0 ∧ 32 ≤ v.ao.heldMessages.length then v
    else if 2048 ≤ (q - (getLink v g c).expected).toNat ∨ (getLink v g c).ahead.any (fun a => a.1 == q) then sendFlow g c false v
    else sendFlow g c false (takeMessages g c 2048 (modLink g c (fun k =>
      { k with ahead := k.ahead ++ [(q, m)], aheadAt := if k.ahead.isEmpty then now s else k.aheadAt }) v)) := by
  simp only [receiveMessage, h, Bool.not_true, Bool.false_eq_true, if_false]
  rfl

end

/-! ## Missing and unacknowledged messages (13 R498, R499) -/

theorem exec_missingLseqTimeout_of_ahead {c : Fin 4} (h : (getLink s g c).ahead.isEmpty = false) :
    exec (.missingLseqTimeout g c) s = .next (atDue ((getLink s g c).aheadAt + usTicks 2)
      (fun t => sendFlow g c true (modLink g c (fun k => { k with aheadAt := now t }) t)) s) :=
  congrArg Host.Outcome.next (if_neg (ne_true_of_eq_false h))

theorem exec_missingLseqTimeout_of_none {c : Fin 4} (h : (getLink s g c).ahead.isEmpty = true) :
    exec (.missingLseqTimeout g c) s = .next s :=
  congrArg Host.Outcome.next (if_pos h)

theorem early_missingLseqTimeout (c : Fin 4) : Early ((getLink s g c).aheadAt + usTicks 2) (.missingLseqTimeout g c) s :=
  early_of_atDue_or_stays ((Bool.eq_false_or_eq_true _).symm.imp exec_missingLseqTimeout_of_ahead exec_missingLseqTimeout_of_none)

theorem exec_replayTimeout_of_cons {c : Fin 4} {x : Sent} {xs : List Sent} (h : (getLink s g c).replay = x :: xs) :
    exec (.replayTimeout g c) s = .next (atDue (xs.foldl (fun a y => min a y.sentAt) x.sentAt + replayTicks g s)
      (fun t => settleErrors g t (resend g c (fun _ => true) t)) s) := by
  change execReplayTimeout g c s = _
  simp only [execReplayTimeout, h]

end

/-- Settles O53: blocks one by one, then messages, FLOW blocks and the two timeouts of a class. -/
theorem messageEventsComplete : Obligations.MessageEventsComplete := by
  intro l g s
  refine ⟨rfl, fun hg hup => ?_, fun m => ⟨receiveMessage_of_bad, fun hgood hroom hnew hunseen => ?_,
      fun hgood hroom hold => ?_, fun hgood hzero hfull => ?_⟩,
    fun c hahead hdue => exec_of_atDue (exec_missingLseqTimeout_of_ahead hahead) hdue,
    fun c x xs h hdue => exec_of_atDue (exec_replayTimeout_of_cons h) hdue,
    early_missingLseqTimeout, fun c x xs h => early_of_atDue (exec_replayTimeout_of_cons h)⟩
  · exact ⟨exec_messageReceive_cons hg hup, receiveBlock_som,
      fun v w ok i rest h => receiveBlock_data_of_open h v w ok, fun e i rest h => receiveBlock_eom_of_open h e,
      fun h v w ok e => ⟨receiveBlock_data_of_stray h v w ok, receiveBlock_eom_of_stray h e⟩,
      fun pl => exec_flow_of_bad hg hup, fun pl => exec_flow_of_good hg hup⟩
  · have hfree : ¬ (fin 4 (pfield m.som 55 54) = 0 ∧ 32 ≤ (receiptCounted g l s).ao.heldMessages.length) :=
      fun ⟨hzero, hfull⟩ => hroom.elim (fun h => h hzero) (Nat.not_lt.mpr hfull)
    refine (receiveMessage_of_good hgood).trans ((if_neg hfree).trans (if_neg ?_))
    exact fun h => h.elim (Nat.not_le.mpr hnew) (ne_true_of_eq_false hunseen)
  · have hfree : ¬ (fin 4 (pfield m.som 55 54) = 0 ∧ 32 ≤ (receiptCounted g l s).ao.heldMessages.length) :=
      fun ⟨hzero, hfull⟩ => hroom.elim (fun h => h hzero) (Nat.not_lt.mpr hfull)
    exact (receiveMessage_of_good hgood).trans ((if_neg hfree).trans (if_pos hold))
  · exact (receiveMessage_of_good hgood).trans (if_pos ⟨hzero, hfull⟩)

end Sys2Proof.Machine
end

section
/-! CLAIMS. Stream entries, packets, segments and their losses, and the delivery to a queue (12). -/

namespace Sys2Proof.Machine
open Sys2Proof

/-! ## Stalled packets and segments (12 R450, R455, R461, R463) -/

section
variable {h : HubId} {fn : BitVec 4} {k : BitVec 2} {s : State}

theorem exec_packetStallTimeout_of_one {g : Segment}
    (hone : s.st.segments.filter (fun g => g.of h fn k && !g.open_.isEmpty) = [g]) :
    exec (.packetStallTimeout h fn k) s = .next (
      if h = s.ring.hubId then modStream (streamIndex fn k.toNat)
        (fun x => { x with stallCloses := satInc x.stallCloses }) (closePacket g (reach g.stallsAt s))
      else closePacket g (reach g.stallsAt s)) := by
  change execPacketStallTimeout h fn k s = _
  simp only [execPacketStallTimeout, hone, List.foldl_cons, List.foldl_nil]

section
variable {x : SegmentSetup}

theorem exec_segmentSetup_refused {st : Status} (hx : x.action = .setup)
    (hrefused : segmentRefusal x.word0 (localChannels x.ranges s) s = some st) :
    exec (.segmentSetup h x) s = .next (sendSegmentReply h x.fn x.stream st.code s) := by
  change execSegmentSetup h x s = _
  simp only [execSegmentSetup, hx, hrefused]

theorem exec_segmentSetup_placed (hx : x.action = .setup) (hroom : segmentRefusal x.word0 (localChannels x.ranges s) s = none) :
    exec (.segmentSetup h x) s =
      .next (sendSegmentReply h x.fn x.stream (b01 (placeSegment h x s).2 * 256) (placeSegment h x s).1) := by
  change execSegmentSetup h x s = _
  simp only [execSegmentSetup, hx, hroom]

theorem exec_segmentSetup_withdraw (hx : x.action = .withdraw) : exec (.segmentSetup h x) s =
    .next (sendSegmentReply h x.fn x.stream 0 (withdrawSegment h x.fn x.stream x.cfgSeq x.f s)) := by
  change execSegmentSetup h x s = _
  simp only [execSegmentSetup, hx]

theorem exec_segmentSetup_flush (hx : x.action = .flush) : exec (.segmentSetup h x) s =
    .next (sendSegmentReply h x.fn x.stream 0
      ((s.st.segments.filter (fun g => g.of h x.fn x.stream)).foldl (fun t g => flushSegment g t) s)) := by
  change execSegmentSetup h x s = _
  simp only [execSegmentSetup, hx]

theorem exec_segmentSetup_contract (hx : x.action = .contract) : exec (.segmentSetup h x) s =
    .next { s with st := { s.st with segments := s.st.segments.map (fun g =>
      if g.of h x.fn x.stream then { g with newContract := some (x.share, x.weight, x.cls) } else g) } } := by
  change execSegmentSetup h x s = _
  simp only [execSegmentSetup, hx]

end

/-! ## Replies and losses (12 R454, R464) -/

section
variable (hawaited : (getStream s (streamIndex fn k.toNat)).awaits.contains h = true)
include hawaited

/-- An awaited reply is taken by its status byte. -/
theorem exec_segmentReply_of_awaited (st : Nat) : exec (.segmentReply h fn k st) s = .next (
    if st % 256 = 0 then settleStream (streamIndex fn k.toNat) (modStream (streamIndex fn k.toNat) (fun x => { x with
      awaits := x.awaits.filter (fun y => y != h), lateSegments := satAdd x.lateSegments (st / 256 % 2)
      origins := x.origins.map (fun o => if o.hub == h && !o.ending then { o with accepted := true } else o) }) s)
    else settle (.streamSetup fn k.toNat) (Status.ofCode (st % 256)) [wd h.toNat] (now s)
      (cancelSetup (streamIndex fn k.toNat) (some h) (raiseEvent .critical 0x0C03 fn h.toNat [wd h.toNat, wd (st % 256)] s))) := by
  change execSegmentReply h fn k st s = _
  simp only [execSegmentReply, hawaited, Bool.not_true, Bool.false_eq_true, if_false]

theorem exec_segmentReply_of_accepted {late : Nat} (hlate : late < 2) : exec (.segmentReply h fn k (late * 256)) s =
    .next (settleStream (streamIndex fn k.toNat) (modStream (streamIndex fn k.toNat) (fun x => { x with
      awaits := x.awaits.filter (fun y => y != h), lateSegments := satAdd x.lateSegments late
      origins := x.origins.map (fun o => if o.hub == h && !o.ending then { o with accepted := true } else o) }) s)) := by
  have hok : late * 256 % 256 = 0 := Nat.mul_mod_left late 256
  have hflag : late * 256 / 256 % 2 = late := by omega
  rw [exec_segmentReply_of_awaited hawaited, if_pos hok, hflag]

end

end

/-! ## Delivery (12 R464, 14 R545) -/

section
variable {s : State}

theorem getStream_modStream_same {i : Nat} (hi : i < 36) (f : Stream → Stream) (s : State) :
    getStream (modStream i f s) i = f (getStream s i) :=
  vgetD_vsetD_same (hi := hi) ..

theorem getStream_setQueue (s : State) (f : Fn) (q : Nat) (x : Queue) (i : Nat) :
    getStream (setQueue s f q x) i = getStream s i := by
  rw [getStream, setQueue_st, getStream]

/-- What a stream's record notes of a packet `w` that its queue has taken. -/
def noteDelivered (w : List Word) (last : Nat) (rest : List (List Word × Nat)) (t : Stream) : Stream :=
  { t with delivery := rest, packets := satInc t.packets
           weirMarks := if ptypeOf w == 4 then satInc t.weirMarks else t.weirMarks
           rowsDropped := if ptypeOf w == 4 then satAdd t.rowsDropped (wordAt w 11).toNat else t.rowsDropped
           lastSeq := if nrowOf w = 0 then t.lastSeq else last
           origins := (t.origins.map (fun o => if o.matches w && nrowOf w != 0 then { o with lastSeq := last } else o)).filter
             (fun o => !(o.ending && o.matches w && ptypeOf w == 7 && (wordAt w 8).field 31 24 == 2)) }

/-- The oldest packet of a stream goes to the queue of its function, which has room for it. -/
theorem exec_streamPacketDeliver_of_room {f : Fin 9} {n : Fin 4} {w : List Word} {last : Nat} {rest : List (List Word × Nat)}
    (hfront : (getStream s (4 * f.val + n.val)).delivery = (w, last) :: rest)
    (hhost : (getStream s (4 * f.val + n.val)).word0.bit 19 = false) (hnative : s.host.compat = false)
    (hen : (getQueue s (fin 10 f.val) (3 + n.val)).en = true) (hsound : (getQueue s (fin 10 f.val) (3 + n.val)).error = false)
    (hroom : ceilDiv w.length 16 ≤ queueRoom s (fin 10 f.val) (3 + n.val)) :
    exec (.streamPacketDeliver f n) s = .next (modStream (4 * f.val + n.val) (noteDelivered w last rest)
      (setQueue s (fin 10 f.val) (3 + n.val) { getQueue s (fin 10 f.val) (3 + n.val) with
        waiting := (getQueue s (fin 10 f.val) (3 + n.val)).waiting ++ [w] })) := by
  change execStreamPacketDeliver f n s = _
  simp only [execStreamPacketDeliver, hfront, hhost, hnative, hen, hsound, Nat.not_lt.mpr hroom, decide_false, Bool.not_true,
    Bool.or_self, Bool.false_eq_true, if_false]
  rfl

end

/-- Settles O54: each row by the segments and the stream it finds. -/
theorem streamEventsComplete : Obligations.StreamEventsComplete := by
  intro h fn k s
  refine ⟨rfl, fun haway g hone => (exec_packetStallTimeout_of_one hone).trans (congrArg Host.Outcome.next (if_neg haway)),
    fun g hone => (exec_packetStallTimeout_of_one hone).trans (congrArg Host.Outcome.next (if_pos rfl)),
    fun x hx => ⟨fun st => exec_segmentSetup_refused hx, exec_segmentSetup_placed hx⟩,
    fun x => exec_segmentSetup_withdraw, fun x => exec_segmentSetup_flush, fun x => exec_segmentSetup_contract,
    fun late hawaited => exec_segmentReply_of_accepted hawaited,
    fun st hawaited hrefused => (exec_segmentReply_of_awaited hawaited st).trans (congrArg Host.Outcome.next (if_neg hrefused)),
    fun cause haway => ⟨congrArg Host.Outcome.next (if_neg haway), congrArg Host.Outcome.next (if_neg haway)⟩,
    fun f n w last rest hfront hhost hnative hen hsound hroom =>
      ⟨_, exec_streamPacketDeliver_of_room hfront hhost hnative hen hsound hroom, ?_⟩⟩
  have hi : 4 * f.val + n.val < 36 := by omega
  beta_reduce
  rw [getStream_modStream_same hi, getStream_setQueue]
  exact ⟨rfl, rfl⟩

end Sys2Proof.Machine
end

section
/-! CLAIMS. Health's events (16): held entries, the watchdog, temperature, the peak budget, droop, the ledger, the calendar. -/

namespace Sys2Proof.Machine
open Sys2Proof

section
variable {s : State}

/-! ## Events (16, "Events") -/

theorem exec_faultNote_of_foreign {ws : List Word} (hlen : ws.length = 16) (hforeign : (entryOf ws).hub ≠ s.ring.hubId) :
    exec (.faultNote ws) s = .next (offerEq 9 { entryOf ws with remote := true }
      (offerEq 0 { entryOf ws with remote := true } (logEvent { entryOf ws with remote := true } s))) :=
  congrArg Host.Outcome.next (if_neg (fun h => h.elim (fun hbad => hbad hlen) hforeign))

/-- A held entry is one of a function's for a given event. -/
def holdsFor (f : Fn) (hub : HubId) (code : BitVec 16) (func : BitVec 4) (inst : BitVec 12) (h : EqHold) : Bool :=
  h.fn == f && h.entry.hub == hub && h.entry.code == code && h.entry.func == func && h.entry.inst == inst

/-- What the end of a coalescing interval makes of the held entries that `mine` selects, of which `h` is the first. -/
def endCoalescing (f : Fn) (mine : EqHold → Bool) (h : EqHold) (s : State) : State :=
  if h.held = 0 then { s with hl := { s.hl with holds := s.hl.holds.filter (fun x => !mine x) } }
  else
    let s1 := pushEq f h.entry { s with hl := { s.hl with holds := s.hl.holds.map (fun x =>
      if mine x then { x with entry := { x.entry with repeated := 0 }, held := 0, since := now s } else x) } }
    if f.val = 0 then pushSpiEvent h.entry s1 else s1

theorem exec_eventCoalesceInterval_of_held {f : Fn} {hub : HubId} {code : BitVec 16} {func : BitVec 4} {inst : BitVec 12}
    {h : EqHold} (hfind : s.hl.holds.find? (holdsFor f hub code func inst) = some h) :
    exec (.eventCoalesceInterval f hub code func inst) s =
      .next (atDue (h.since + usTicks 1000) (endCoalescing f (holdsFor f hub code func inst) h) s) := by
  change execEventCoalesceInterval f hub code func inst s = _
  unfold holdsFor at hfind
  simp only [execEventCoalesceInterval, hfind]
  rfl

theorem endCoalescing_of_none {f : Fn} {mine : EqHold → Bool} {h : EqHold} (hheld : h.held = 0) :
    endCoalescing f mine h s = { s with hl := { s.hl with holds := s.hl.holds.filter (fun x => !mine x) } } :=
  if_pos hheld

section
variable {f : Fn} {mine : EqHold → Bool} {h : EqHold} (hheld : h.held ≠ 0)
include hheld

theorem endCoalescing_of_other (hf : f.val ≠ 0) : endCoalescing f mine h s =
    pushEq f h.entry { s with hl := { s.hl with holds := s.hl.holds.map (fun x =>
      if mine x then { x with entry := { x.entry with repeated := 0 }, held := 0, since := now s } else x) } } :=
  (if_neg hheld).trans (if_neg hf)

theorem endCoalescing_of_pf0 (hf : f.val = 0) : endCoalescing f mine h s =
    pushSpiEvent h.entry (pushEq f h.entry { s with hl := { s.hl with holds := s.hl.holds.map (fun x =>
      if mine x then { x with entry := { x.entry with repeated := 0 }, held := 0, since := now s } else x) } }) :=
  (if_neg hheld).trans (if_pos hf)

end

/-! ## The watchdog and temperature (16 R651 to R655, R663) -/

theorem exec_watchdogExpiry_of_released (hheld : s.pwr.held = false) : exec .watchdogExpiry s =
    .next (atDue (s.hl.watchdogTick + usTicks (1000 * s.hl.wdMs.toNat)) (fun s =>
      chipReset 1 true 4 [] (some 3) (graceBeats (raiseEvent .fatal 0x0F07 0xF 0 [wd s.hl.wdMs.toNat] s))) s) :=
  congrArg Host.Outcome.next (if_neg (ne_true_of_eq_false hheld))

theorem exec_watchdogExpiry_of_held (hheld : s.pwr.held = true) : exec .watchdogExpiry s = .next s :=
  congrArg Host.Outcome.next (if_pos hheld)

theorem early_watchdogExpiry : Early (s.hl.watchdogTick + usTicks (1000 * s.hl.wdMs.toNat)) .watchdogExpiry s :=
  early_of_atDue_or_stays ((Bool.eq_false_or_eq_true _).symm.imp exec_watchdogExpiry_of_released exec_watchdogExpiry_of_held)

/-- The thermal part of the shedding level is `n` from now on. -/
def setThermalLevel (n : Nat) (s : State) : State := { s with hl := { s.hl with lThermal := n, levelSince := now s } }

theorem exec_shedLevelTimer_of_hot (hhot : s.hl.hot = true) : exec .shedLevelTimer s =
    .next (atDue (s.hl.levelSince + 2 * ticksPerSecond) (setThermalLevel (min 5 (s.hl.lThermal + 1))) s) :=
  congrArg Host.Outcome.next (if_pos hhot)

theorem exec_shedLevelTimer_of_cool (hhot : s.hl.hot = false) (hcool : s.hl.cool = true) : exec .shedLevelTimer s =
    .next (atDue (s.hl.levelSince + 30 * ticksPerSecond) (setThermalLevel (s.hl.lThermal - 1)) s) :=
  congrArg Host.Outcome.next ((if_neg (ne_true_of_eq_false hhot)).trans (if_pos hcool))

theorem exec_shedLevelTimer_of_neither (hhot : s.hl.hot = false) (hcool : s.hl.cool = false) :
    exec .shedLevelTimer s = .next s :=
  congrArg Host.Outcome.next ((if_neg (ne_true_of_eq_false hhot)).trans (if_neg (ne_true_of_eq_false hcool)))

theorem early_shedLevelTimer :
    Early (s.hl.levelSince + (if s.hl.hot then 2 else 30) * ticksPerSecond) .shedLevelTimer s := by
  cases hhot : s.hl.hot with
  | true => exact early_of_atDue (exec_shedLevelTimer_of_hot hhot)
  | false =>
    cases hcool : s.hl.cool with
    | true => exact early_of_atDue (exec_shedLevelTimer_of_cool hhot hcool)
    | false => exact fun _ => exec_shedLevelTimer_of_neither hhot hcool

/-! ## The ledger and the calendar (16 R626 to R629, R634, R639, R640) -/

/-- The hourly commit without a remapped word or an interruption. -/
theorem exec_ledgerCommit_whole (s : State) : exec (.ledgerCommit [] none) s = .next (
    let v := if vget s.pwr.rails 0 then countLedger 0 1 s else s
    commitAll (List.finRange 30) { v with ao := { v.ao with ledger := { v.ao.ledger with hourly := vall 30 0 } } }) := by
  change execLedgerCommit [] none s = _
  simp only [execLedgerCommit, List.foldl_nil]

/-- A calendar that does not follow the timebase counts its own seconds. -/
theorem exec_calendarSecond_of_free (hfree : calendarFollows s = false) (x : Int) : Completes (.calendarSecond x) s (fun t =>
    t.ao.calendar = { s.ao.calendar with sec := s.ao.calendar.sec + 1, sub := 0, repeated := false }) :=
  ⟨_, congrArg Host.Outcome.next (if_neg (ne_true_of_eq_false hfree)), rfl⟩

end

/-- Settles O58: each event under its guard, the timed ones as of their ticks. -/
theorem healthEventsComplete : Obligations.HealthEventsComplete := by
  intro s
  refine ⟨fun ws hlen hforeign => exec_faultNote_of_foreign hlen hforeign,
    fun f hub code func inst h hfind hdue => ⟨fun hheld => ?_, fun hheld => ⟨fun hf => ?_, fun hf => ?_⟩⟩,
    fun f hub code func inst h hfind => early_of_atDue (exec_eventCoalesceInterval_of_held hfind),
    rfl, fun hheld hdue => exec_of_atDue (exec_watchdogExpiry_of_released hheld) hdue,
    fun k r hheld => congrArg Host.Outcome.next (if_neg (ne_true_of_eq_false hheld)), rfl,
    fun hhot hdue => exec_of_atDue (exec_shedLevelTimer_of_hot hhot) hdue,
    fun hhot hcool hdue => exec_of_atDue (exec_shedLevelTimer_of_cool hhot hcool) hdue,
    exec_shedLevelTimer_of_neither, rfl,
    fun hpll => congrArg Host.Outcome.next (if_neg (ne_true_of_eq_false hpll)),
    fun hdroop ns => congrArg Host.Outcome.next (if_pos hdroop), fun hdroop => congrArg Host.Outcome.next (if_pos hdroop), rfl, exec_ledgerCommit_whole s,
    fun hhours => congrArg Host.Outcome.next (if_pos hhours), exec_calendarSecond_of_free, early_watchdogExpiry,
    early_shedLevelTimer, fun hhours => congrArg Host.Outcome.next (if_neg (Nat.not_le.mpr hhours))⟩
  · exact (exec_of_atDue (exec_eventCoalesceInterval_of_held hfind) hdue).trans
      (congrArg Host.Outcome.next (endCoalescing_of_none hheld))
  · exact (exec_of_atDue (exec_eventCoalesceInterval_of_held hfind) hdue).trans
      (congrArg Host.Outcome.next (endCoalescing_of_other hheld hf))
  · exact (exec_of_atDue (exec_eventCoalesceInterval_of_held hfind) hdue).trans
      (congrArg Host.Outcome.next (endCoalescing_of_pf0 hheld hf))

end Sys2Proof.Machine
end

section
/-! CLAIMS. The self-tests' units, schedules and the test access port (17). -/

namespace Sys2Proof.Machine
open Sys2Proof

section
variable {s : State}

/-! ## Test 1: blocks of the memories (17 R672, R673) -/

section
variable {m : Fin 7} {b : Nat} {r : TestRun}

/-- Block `b` of memory `m` is left to test 1, and no patch commit holds its memory up. -/
structure BlockLeft (m : Fin 7) (b : Nat) (r : TestRun) (s : State) : Prop where
  run : startedRun s 1 = some r
  left : r.left.contains (blockUnit m.val b) = true
  free : m.val ≠ 1 ∨ s.fh.restarting = false

theorem BlockLeft.not_held_up (h : BlockLeft m b r s) : ¬ (m.val = 1 ∧ s.fh.restarting = true) :=
  fun ⟨h1, hr⟩ => h.free.elim (fun hm => hm h1) (fun hf => ne_true_of_eq_false hf hr)

/-- What the result of a block makes of test 1: a hold buffer that fails ends the run. -/
def judgeBlock (m : Fin 7) (b : Nat) (c : Fin 3) (v : Word) (s : State) : State :=
  if c.val = 2 ∧ m.val < 2 then closeRun 1 3 (judgeUnit 1 (blockUnit m.val b) 2 v s)
  else
    let s1 := judgeUnit 1 (blockUnit m.val b) (if c.val ≠ 0 then 1 else 0) v s
    finishIfDone 1 (if c.val ≠ 0 ∧ m.val = 2 then { s1 with ts := { s1.ts with withdrawn := s1.ts.withdrawn ++ [b] } } else s1)

theorem exec_sramBlockTest_of_unreached (h : BlockLeft m b r s) (c : Fin 3) (v : Word)
    (hreach : blockReached s m.val b = false) :
    exec (.sramBlockTest m b c v) s = .next (finishIfDone 1 (skipUnit 1 (blockUnit m.val b) s)) := by
  change execSramBlockTest m b c v s = _
  simp only [execSramBlockTest, h.run, h.left, h.not_held_up, hreach, Bool.not_true, Bool.not_false, Bool.false_eq_true, if_false,
    if_true]

theorem exec_sramBlockTest_of_reached (h : BlockLeft m b r s) (c : Fin 3) (v : Word) (hreach : blockReached s m.val b = true) :
    exec (.sramBlockTest m b c v) s = .next (atDue (blockDue s)
      (fun t => judgeBlock m b c v { t with ts := { t.ts with blockAt := some (now t) } }) s) := by
  change execSramBlockTest m b c v s = _
  simp only [execSramBlockTest, h.run, h.left, h.not_held_up, hreach, Bool.not_true, Bool.false_eq_true, if_false]
  rfl

theorem judgeBlock_of_hold_failed {c : Fin 3} (v : Word) (hc : c.val = 2) (hm : m.val < 2) :
    judgeBlock m b c v s = closeRun 1 3 (judgeUnit 1 (blockUnit m.val b) 2 v s) :=
  if_pos ⟨hc, hm⟩

theorem judgeBlock_of_pass {c : Fin 3} (v : Word) (hc : c.val = 0) :
    judgeBlock m b c v s = finishIfDone 1 (judgeUnit 1 (blockUnit m.val b) 0 v s) := by
  simp [judgeBlock, hc]

end

/-! ## Tests 2 and 3: groups of the capture memory, modulators (17 R674 to R678) -/

theorem exec_dramGroupTest_of_ready {r : TestRun} (c : Fin 3) (v : Word) (hrun : startedRun s 2 = some r)
    (hready : s.mem.mstate = .ready) : exec (.dramGroupTest c v []) s = .next (
      let x := readMemory 5 0xF (256 * r.next) 256 s
      finishIfDone 2 (settleGroups (modRun 2 (fun x => { x with next := r.next + 1, left := r.left })
        (if x.2.1 ≠ 0 then judgeUnit 2 r.next 3 v x.1
          else judgeUnit 2 r.next c.val v (writeMemory 5 0xF (256 * r.next) x.2.2 x.1).1)))) := by
  have hsoft : applySoft [] s = s := rfl
  change execDramGroupTest c v [] s = _
  simp only [execDramGroupTest, hsoft, hrun, hready, ne_eq, not_true_eq_false, if_false]

theorem exec_modulatorTestEnd_of_running {m : Fin 288} {x : ModTest} (first second : ModReading)
    (hx : s.ts.modTests.find? (fun x => x.m == m && x.back.isNone) = some x) : exec (.modulatorTestEnd m first second) s =
    .next (atDue (x.began + 9 * frameLen) (endModTest m #v[first, second]) s) := by
  change execModulatorTestEnd m first second s = _
  simp only [execModulatorTestEnd, hx]

/-! ## Tests 4 and 7: sources and ports (17 R681, R682, R685, R686) -/

section
variable {r : TestRun}

section
variable {i : Fin 128} (hrun : startedRun s 4 = some r) (hleft : r.left.contains i.val = true)
include hrun hleft

theorem exec_sourceTestStep_of_joined (st : Fin 3) (na : Int) (hidle : sourceIdle s i.val = false) :
    exec (.sourceTestStep i st na) s = .next (finishIfDone 4 (skipUnit 4 i.val s)) := by
  change execSourceTestStep i st na s = _
  simp only [execSourceTestStep, hrun, hleft, hidle, Bool.not_true, Bool.not_false, Bool.false_eq_true, if_false, if_true]

/-- The first step of an idle source: an accurate reading leads to the next, any other fails the source. -/
theorem exec_sourceTestStep_first (na : Int) (hidle : sourceIdle s i.val = true) (hstep : (sourceStep s i.val).1 = 0) :
    exec (.sourceTestStep i 0 na) s = .next (finishIfDone 4 (
      if !accurate 0 na then judgeUnit 4 i.val 1 (BitVec.ofInt 32 na) s else setSourceStep i 1 0 s)) := by
  have hmem : i.val ∈ r.left := List.contains_iff_mem.mp hleft
  change execSourceTestStep i 0 na s = _
  simp [execSourceTestStep, hrun, hmem, hidle, hstep]

end

section
variable {port : Fin 128} (above below : Vector TripReading 4) (hrun : startedRun s 7 = some r)
  (hleft : r.left.contains port.val = true)
include hrun hleft

theorem exec_isolationTestPort_of_idle (hidle : portIdle s port.val = true) : exec (.isolationTestPort port above below) s =
    .next (finishIfDone 7 (judgeUnit 7 port.val (tripVerdict above below).1 (tripVerdict above below).2 s)) := by
  change execIsolationTestPort port above below s = _
  simp only [execIsolationTestPort, hrun, hleft, hidle, Bool.not_true, Bool.false_eq_true, if_false]

theorem exec_isolationTestPort_of_busy (hidle : portIdle s port.val = false) : exec (.isolationTestPort port above below) s =
    .next (finishIfDone 7 (skipUnit 7 port.val s)) := by
  change execIsolationTestPort port above below s = _
  simp only [execIsolationTestPort, hrun, hleft, hidle, Bool.not_true, Bool.not_false, Bool.false_eq_true, if_false, if_true]

end

end

/-! ## Tests 5 and 6: the reference and the test buses (17 R683, R684) -/

section
variable {r : DiagRun} {a b : Int}

theorem exec_referenceTestEnd_of_main_off (hr : measuring 5 s = some r) (hmain : 2500 < (a - 1250000).natAbs) :
    exec (.referenceTestEnd a b) s = .next (endMeasurement r (judgeUnit 5 0 1 (BitVec.ofInt 32 a)) s) := by
  change execReferenceTestEnd a b s = _
  simp only [execReferenceTestEnd, hr, if_pos hmain, if_true]

theorem exec_referenceTestEnd_of_sound (hr : measuring 5 s = some r) (hmain : (a - 1250000).natAbs ≤ 2500)
    (hcheck : (b - 1250000).natAbs ≤ 2500) (hagree : (a - b).natAbs ≤ 250) :
    exec (.referenceTestEnd a b) s = .next (endMeasurement r (judgeUnit 5 0 0 (BitVec.ofInt 32 (a - b))) s) := by
  change execReferenceTestEnd a b s = _
  simp only [execReferenceTestEnd, hr, if_neg (Nat.not_lt.mpr hmain), if_neg (Nat.not_lt.mpr hcheck), if_neg (Nat.not_lt.mpr hagree)]
  rfl

theorem exec_testBusTestEnd_of_sound {res leak drv : Vector Int 2} (hr : measuring 6 s = some r)
    (hsound : ∀ k, (vget drv k).natAbs ≤ 50000 ∧ vget res k ≤ 250 ∧ (vget leak k).natAbs ≤ 5000) :
    exec (.testBusTestEnd res leak drv) s = .next (endMeasurement r (fun t =>
      judgeUnit 6 1 0 (BitVec.ofInt 32 (vget leak 1)) (judgeUnit 6 0 0 (BitVec.ofInt 32 (vget leak 0)) t)) s) := by
  have hdrv k : ¬ 50000 < (vget drv k).natAbs := Nat.not_lt.mpr (hsound k).1
  have hres k : ¬ 250 < vget res k := Int.not_lt.mpr (hsound k).2.1
  have hleak k : ¬ 5000 < (vget leak k).natAbs := Nat.not_lt.mpr (hsound k).2.2
  change execTestBusTestEnd res leak drv s = _
  simp only [execTestBusTestEnd, hr, hdrv, hres, hleak, if_false]
  rfl

theorem exec_referenceTestEnd_of_none (hr : measuring 5 s = none) (a b : Int) : exec (.referenceTestEnd a b) s = .next s := by
  change execReferenceTestEnd a b s = _
  simp only [execReferenceTestEnd, hr]

theorem exec_testBusTestEnd_of_none (hr : measuring 6 s = none) (res leak drv : Vector Int 2) :
    exec (.testBusTestEnd res leak drv) s = .next s := by
  change execTestBusTestEnd res leak drv s = _
  simp only [execTestBusTestEnd, hr]

end

/-! ## The schedule (17 R699) -/

section
variable {k : Fin 8}

/-- The test's next period begins now. -/
def periodBegun (k : Fin 8) (s : State) : State :=
  { s with ts := { s.ts with schedFrom := vset s.ts.schedFrom k (now s) } }

/-- A scheduled test that falls due: skipped while one runs, otherwise it waits, once. -/
def testDue (k : Fin 8) (s : State) : State :=
  let s1 := periodBegun k s
  if (runOf s1 k.val).isSome then modRecord k.val (fun x => { x with schedSkips := satInc x.schedSkips }) s1
  else if s1.ts.schedDue.contains k.val then s1
  else { s1 with ts := { s1.ts with schedDue := s1.ts.schedDue ++ [k.val] } }

theorem exec_scheduledTestDue_of_scheduled (h : ¬ (k.val = 0 ∨ ¬ hasBit s.ts.sched (k.val - 1) = true)) :
    exec (.scheduledTestDue k) s =
      .next (atDue (vget s.ts.schedFrom k + 3600 * s.ts.periodH.toNat * ticksPerSecond) (testDue k) s) :=
  congrArg Host.Outcome.next (if_neg h)

theorem exec_scheduledTestDue_of_unscheduled (h : k.val = 0 ∨ ¬ hasBit s.ts.sched (k.val - 1) = true) :
    exec (.scheduledTestDue k) s = .next s :=
  congrArg Host.Outcome.next (if_pos h)

theorem early_scheduledTestDue (k : Fin 8) :
    Early (vget s.ts.schedFrom k + 3600 * s.ts.periodH.toNat * ticksPerSecond) (.scheduledTestDue k) s :=
  early_of_atDue_or_stays ((em _).symm.imp exec_scheduledTestDue_of_scheduled exec_scheduledTestDue_of_unscheduled)

theorem testDue_of_running (h : (runOf (periodBegun k s) k.val).isSome = true) :
    testDue k s = modRecord k.val (fun x => { x with schedSkips := satInc x.schedSkips }) (periodBegun k s) :=
  if_pos h

theorem testDue_of_free (h : (runOf (periodBegun k s) k.val).isSome = false)
    (hnew : (periodBegun k s).ts.schedDue.contains k.val = false) : testDue k s =
      { periodBegun k s with ts := { (periodBegun k s).ts with schedDue := (periodBegun k s).ts.schedDue ++ [k.val] } } :=
  (if_neg (ne_true_of_eq_false h)).trans (if_neg (ne_true_of_eq_false hnew))

end

/-! ## The start-up self-test (17 R689) -/

theorem exec_startupBistEnd_of_due {c : Fin 3} {u v : Word} (hheld : s.pwr.held = false) (hready : s.fh.fwReady = false)
    (hdue : startupDue s = true) (hother : (startupRecord c.val u v s).ao.result8.rstate ≠ 1) :
    exec (.startupBistEnd c u v) s = .next (startupRecord c.val u v s) := by
  change execStartupBistEnd c u v s = _
  simp only [execStartupBistEnd, hheld, hready, hdue, hother, Bool.or_self, Bool.false_eq_true, if_false, if_true]

end

/-- Settles O59: each unit's row by the run it finds, the timed ones as of their ticks. -/
theorem selfTestEventsComplete : Obligations.SelfTestEventsComplete := by
  intro s
  refine ⟨fun m b c v r hrun hleft hfree => ?_, fun c v r hrun hready _ => exec_dramGroupTest_of_ready c v hrun hready,
    fun m first second x hx hdue => ?_, fun i na r hrun hleft => ?_,
    fun r a b hr => ⟨exec_referenceTestEnd_of_main_off hr, exec_referenceTestEnd_of_sound hr⟩,
    fun r res leak drv hr => exec_testBusTestEnd_of_sound hr,
    fun port above below r hrun hleft => ⟨exec_isolationTestPort_of_idle above below hrun hleft,
      exec_isolationTestPort_of_busy above below hrun hleft⟩,
    fun k hk hsched hdue => ?_,
    fun op => ⟨fun hrail => congrArg Host.Outcome.next (if_neg (ne_true_of_eq_false hrail)),
      fun hrail => congrArg Host.Outcome.next (if_pos hrail)⟩, rfl,
    fun c u v => exec_startupBistEnd_of_due,
    fun m first second x hx => early_of_atDue (exec_modulatorTestEnd_of_running first second hx),
    exec_referenceTestEnd_of_none, exec_testBusTestEnd_of_none, early_scheduledTestDue⟩
  · have h : BlockLeft m b r s := ⟨hrun, hleft, hfree⟩
    refine ⟨exec_sramBlockTest_of_unreached h c v, fun hreach => early_of_atDue (exec_sramBlockTest_of_reached h c v hreach),
      fun hreach hdue => ⟨fun hc hm => ?_, fun hc => ?_⟩⟩ <;>
      refine (exec_of_atDue (exec_sramBlockTest_of_reached h c v hreach) hdue).trans (congrArg Host.Outcome.next ?_)
    · exact judgeBlock_of_hold_failed v hc hm
    · exact judgeBlock_of_pass v hc
  · refine ⟨fun hpass => ?_, fun hfail => ?_⟩ <;>
      refine (exec_of_atDue (exec_modulatorTestEnd_of_running first second hx) hdue).trans (congrArg Host.Outcome.next ?_)
    · exact congrArg (finishIfDone 3) (if_pos hpass)
    · exact congrArg (finishIfDone 3) (if_neg hfail)
  · refine ⟨fun st => exec_sourceTestStep_of_joined hrun hleft st na, fun hidle hstep hacc => ?_, fun hidle hstep hacc => ?_⟩ <;>
      rw [exec_sourceTestStep_first hrun hleft na hidle hstep, hacc]
    · rfl
    · rfl
  · have hk0 : ¬ (k.val = 0 ∨ ¬ hasBit s.ts.sched (k.val - 1) = true) := by
      rintro (h0 | hoff)
      · exact hk (Fin.ext h0)
      · exact hoff hsched
    rw [exec_of_atDue (exec_scheduledTestDue_of_scheduled hk0) hdue]
    exact ⟨fun hrunning => congrArg Host.Outcome.next (testDue_of_running hrunning),
      fun hfree hnew => congrArg Host.Outcome.next (testDue_of_free hfree hnew)⟩

end Sys2Proof.Machine
end
